-- ==== Sys2Proof/Word.lean ====
section
/-! DEFINITION. The word types of the module (R10, R7), byte strings, and the sparse map that holds every large
sparse piece of state: registers, slice bytes, Spindles, arrays, sessions. -/

namespace Sys2Proof

/-- A 32-bit register or index-register word (R10, R245). -/
abbrev Word := BitVec 32
/-- A 64-bit word: instruction words, Hank queue words, time stamps. -/
abbrev DWord := BitVec 64
/-- One byte of a data slice, a stack, a frame or a message. -/
abbrev Byte := BitVec 8
/-- A byte string, byte 0 first. -/
abbrev Bytes := List Byte

/-- A sparse map from `Nat` keys: a list of (key, value) pairs. `SMap.Wf` is its one canonical form. -/
abbrev SMap (α : Type) := List (Nat × α)

/-- The value first listed at key `k`, or the default `d` of an unlisted key. -/
def SMap.get {α : Type} (d : α) : SMap α → Nat → α
  | [], _ => d
  | (k', v) :: m, k => if k = k' then v else SMap.get d m k

/-- Put a listed value at key `k`, keeping the keys rising. -/
def SMap.insert {α : Type} : SMap α → Nat → α → SMap α
  | [], k, v => [(k, v)]
  | (k', v') :: m, k, v =>
    if k = k' then (k, v) :: m
    else if k < k' then (k, v) :: (k', v') :: m
    else (k', v') :: SMap.insert m k v

/-- Remove key `k`, wherever it is listed. -/
def SMap.erase {α : Type} : SMap α → Nat → SMap α
  | [], _ => []
  | (k', v') :: m, k => if k = k' then SMap.erase m k else (k', v') :: SMap.erase m k

/-- Write key `k`: writing the default removes the entry, so equal maps are equal lists. -/
def SMap.set {α : Type} [DecidableEq α] (d : α) (m : SMap α) (k : Nat) (v : α) : SMap α :=
  if v = d then m.erase k else m.insert k v

/-- Every key of the map lies at or above `b`, and the keys rise strictly. -/
def SMap.RisingFrom {α : Type} (b : Nat) : SMap α → Bool
  | [] => true
  | (k, _) :: m => decide (b ≤ k) && SMap.RisingFrom (k + 1) m

/-- The canonical form: keys strictly rising, no entry equal to the default. -/
def SMap.wf {α : Type} [DecidableEq α] (d : α) (m : SMap α) : Bool :=
  SMap.RisingFrom 0 m && m.all (fun e => decide (e.2 ≠ d))

/-- Replace the first element that satisfies `p`. -/
def listUpdate {α : Type} (p : α → Bool) (f : α → α) : List α → List α
  | [] => []
  | a :: l => if p a then f a :: l else a :: listUpdate p f l

end Sys2Proof
end

