-- ==== Sys2Proof/Syntax.lean ====
section
/-! DEFINITION. The commands: one constructor of `Instr` per row of spec/opcode_table.json, with the operands the
row's rules give it. A command is one whole and indivisible step of the module (95_what_each_step_holds.md). -/

namespace Sys2Proof

/-- Line operand LOP (R251): effective line = `line` + X[`xi`] modulo 2^32. -/
structure Lop where
  xi : BitVec 4
  line : BitVec 12
  deriving DecidableEq, Repr, Inhabited

/-- Entry operand ENT (R251): effective batch entry = `base` + X[`xi`] modulo 2^32. -/
structure Ent where
  xi : BitVec 4
  base : BitVec 8
  deriving DecidableEq, Repr, Inhabited

/-- Fields of WARP.PASS and WARP.PASSA (R254). -/
structure WarpF where
  arr : BitVec 4
  src : Lop
  sfmt : Bool
  d : BitVec 3
  cap : BitVec 2
  vd : BitVec 5
  ltag : BitVec 8
  deriving DecidableEq, Repr, Inhabited

/-- Fields of WEFT.PASS and WEFT.PASSA (R257): `train` is MODE, `up` is FORM. -/
structure WeftF where
  train : Bool
  up : Bool
  src : Lop
  vd : BitVec 5
  ent : Ent
  deriving DecidableEq, Repr, Inhabited

/-- Fields of every VEC opcode (R260); `cnt` stores CNT - 1. -/
structure VecF where
  vd : BitVec 5
  va : BitVec 5
  vb : BitVec 5
  vc : BitVec 5
  cnt : BitVec 3
  ty : BitVec 2
  lop : Lop
  imm : BitVec 7
  deriving DecidableEq, Repr, Inhabited

/-- Fields of every CVT opcode (R264); `cnt` stores CNT - 1. -/
structure CvtF where
  vreg : BitVec 5
  cnt : BitVec 3
  fmt : BitVec 3
  sr : Bool
  lop : Lop
  rank : BitVec 7
  up : Bool
  deriving DecidableEq, Repr, Inhabited

/-- Fields of MOV and TOK (R267); `n` stores N - 1 and `cnt` stores CNT - 1. -/
structure MovF where
  ch : BitVec 5
  tag : BitVec 8
  fmt : BitVec 3
  n : BitVec 6
  lop : Lop
  vreg : BitVec 5
  cnt : BitVec 5
  deriving DecidableEq, Repr, Inhabited

/-- Fields of CTX.PUT (R273). -/
structure PutF where
  ent : Ent
  layer : BitVec 8
  head : BitVec 6
  dim : Bool
  pos : BitVec 3
  lop : Lop
  deriving DecidableEq, Repr, Inhabited

/-- Fields of CTX.GET (R273); `nb` stores NB - 1. -/
structure GetF where
  ent : Ent
  layer : BitVec 8
  head : BitVec 6
  dim : Bool
  nb : BitVec 6
  xf : BitVec 4
  lop : Lop
  deriving DecidableEq, Repr, Inhabited

/-- Fields of CTX.ATTN (R273); `nb` stores NB - 1. -/
structure AttnF where
  ent : Ent
  vd : BitVec 5
  va : BitVec 5
  acc : Bool
  dim : Bool
  nb : BitVec 6
  xf : BitVec 4
  pos : BitVec 3
  lop : Lop
  deriving DecidableEq, Repr, Inhabited

/-- Fields of CTX.XGET and CTX.XPUT (R273); `n` stores N - 1. -/
structure XferF where
  region : BitVec 4
  xo : BitVec 4
  off : BitVec 24
  n : BitVec 6
  lop : Lop
  deriving DecidableEq, Repr, Inhabited

/-- Fields of SYNC.EMIT (R281). -/
structure EmitF where
  ent : Ent
  lop : Lop
  rkind : BitVec 4
  deriving DecidableEq, Repr, Inhabited

/-- Fields of CTL.SKIP (R282). -/
structure SkipF where
  xa : BitVec 4
  cond : BitVec 3
  n : BitVec 8
  imm : BitVec 16
  deriving DecidableEq, Repr, Inhabited

/-- A flit (R211): the 64-bit header, CRC in bits [63:48], and the 64-byte payload slot. -/
structure Flit where
  hdr : DWord
  payload : Bytes
  deriving DecidableEq, Repr, Inhabited

/-- The analogue side of one Warp pass (R91, R95, R96), an input from outside the digital model. `data`, by 512 * plane + column,
`fine`, by 8 * plane + group for the even fine converters, and `ref`, the same for the odd ones, say which of the two codes that R104
allows a converter gives: 1 or more is the higher one. `upset` adds what a transient fault does to single readings, which R104 does not
bound: (index, deviation), with index 512 * plane + column, or 4096 + or 4160 + 8 * plane + group for the even and odd fine ones. -/
structure WarpAnalog where
  data : List Int
  fine : List Int
  ref : List Int
  upset : List (Nat × Int)
  deriving DecidableEq, Repr, Inhabited

/-- The time-to-digital side of one Weft pass (R136, R143-R145), an input. `chk`, `ref0` and `ref1` are the deviations of the checksum
line's and the reference lines' fine readings, per segment, in 1/64 unit; `data`, by 64 * segment + column, those of the data readings in
whole units, which arise only below the threshold (R143); `upset` adds what a transient fault does to data readings: (index, deviation). -/
structure WeftAnalog where
  data : List Int
  chk : List Int
  ref0 : List Int
  ref1 : List Int
  upset : List (Nat × Int)
  deriving DecidableEq, Repr, Inhabited

/-- One column pair's new age correction as the CAL engine fits it (R556, R555): offset shifts in 1/16 LSB and gain
ratios in 2^-17 steps from 1, in normal and narrow-range gain. -/
structure AgeFit where
  col : Nat
  offN : Int
  offW : Int
  gainN : Int
  gainW : Int
  deriving DecidableEq, Repr, Inhabited

/-- What verifying a written or read array found (R107-R110, R115, R118, R394, R556): an input from the cells. -/
structure ArrayCheck where
  /-- every cell reached its window, after the one retry of R110 -/
  writeOk : Bool
  /-- the check passes met the cross-replay tolerance (R118) -/
  passesOk : Bool
  /-- least margin found, 1/32 of the level step (R115) -/
  minMargin : Nat
  /-- cells below THRESH (R115), where the least margin is below it -/
  lowCells : Nat
  /-- the calibration measurement: the fit residual of each output column, array rms, Tc in 0.25 degrees, mean gain and offset shift
  (R556-R559) -/
  resids : List Nat
  rms : Nat
  tc : Nat
  gainShift : Int
  offShift : Int
  /-- the new age corrections of step 6 (R556) -/
  fit : List AgeFit
  /-- a second calibration after the rewrite of R558 was accepted -/
  secondOk : Bool
  /-- the verify read's image equals the stored cells (R394) -/
  verifyOk : Bool
  deriving DecidableEq, Repr, Inhabited

/-- What copying one Warp image into a spare tile found (R431, R436): the verify read of the source agrees with the cells, and every
cell written reached its window, after the one retry of R110. -/
structure CopyCheck where
  verifyOk : Bool
  writeOk : Bool
  deriving DecidableEq, Repr, Inhabited

/-- The copies of Warp images that make a tile the stand-in of a partition's step (R431). -/
structure StandInCopy where
  part : BitVec 4
  cs : List CopyCheck
  deriving DecidableEq, Repr, Inhabited

/-- The copies of Warp images that move a row's mirror on (R436). -/
structure MirrorCopy where
  row : BitVec 6
  cs : List CopyCheck
  deriving DecidableEq, Repr, Inhabited

/-- The start of a replay in a tile, and whether the parity read of the 512 rows before a Weft replay found an error (R145). -/
structure ReplayBegin where
  t : BitVec 12
  parityBad : Bool
  deriving DecidableEq, Repr, Inhabited

/-- A context's GO of a job, and what the READ of its shard list brings: none when the list cannot be read (R372, R374). -/
structure ListRead where
  ctx : BitVec 3
  list : Option Bytes
  deriving DecidableEq, Repr, Inhabited

/-- A shard as it arrives, and its list entry as read again before it is asked for once more, empty when that READ fails (R372). -/
structure ShardRead where
  shard : Bytes
  again : Bytes
  deriving DecidableEq, Repr, Inhabited

/-- Codewords of a received lea that its FEC corrected, and those that it could not (R477). -/
structure FecCount where
  corrected : Nat
  uncorrectable : Nat
  deriving DecidableEq, Repr, Inhabited

/-- A detection that reaches the integrity engine (R418, R419). -/
inductive Detection where
  /-- Warp checksum (R98) of a pass's hold record -/
  | warpChecksum (arr : BitVec 4) (group : BitVec 3) (plane : BitVec 3)
  /-- Warp tail residue -/
  | warpResidue (arr : BitVec 4)
  /-- Weft checksum, reference or margin (R144, R145) -/
  | weft
  /-- vector residue, in VEC, CVT or CTX.ATTN -/
  | vecResidue
  /-- end-to-end flit CRC (R219) -/
  | flitCrc (src : BitVec 12) (chan : BitVec 5)
  /-- slice parity on a line -/
  | parity (line : BitVec 12)
  deriving DecidableEq, Repr, Inhabited

/-- A unit without a spare (R448): spine, Causeway lane group or stack PHY. -/
inductive BareUnit where
  | spine (half : Bool) (k : BitVec 4)
  | group (k : BitVec 4)
  | phy (stack : BitVec 2)
  deriving DecidableEq, Repr, Inhabited

/-- What the start sequence meets outside the digital model (R510, R511, R515, R576): an input. -/
structure StartIn where
  /-- the flash answers the boot ROM's reads (step 2) -/
  flashOk : Bool
  /-- manufacturing equipment is attached (LIFECYCLE in BLANK) -/
  mfgEquip : Bool
  railsOk : Bool
  linksOk : Bool
  physOk : Bool
  /-- the memory test's failure beyond repair, if any: class code, unit KIND and PHYS of R446 -/
  memtestFail : Option (Nat × Nat × Nat)
  coresOk : Bool
  /-- a sensor reached the shutdown level during the start -/
  thermal : Bool
  /-- sensors that lie more than 3 degrees from the die diode (R576) -/
  startExcl : List Nat
  /-- readings of the first scan, one per sensor, in 0.25 degrees -/
  readings : List Int
  /-- arrays whose sampled verify read fails its ADIG (R394): packed physical tile and index -/
  sampleBad : List Nat
  /-- milliseconds from power-good to READY -/
  ms : Nat
  /-- the first of steps 3 to 7 in which the flash does not answer or a read fails, 0 for none -/
  flashFail : Nat := 0
  deriving DecidableEq, Repr, Inhabited

/-- The commands of spec/opcode_table.json, in the table's order. `ctx` is an access context (R16), `t` a packed
logical tile (R7), `p` a partition. -/
inductive Instr where
  | registerWrite (ctx : BitVec 3) (addr : Word) (v : Word)
  | selectRegisterWrite (ctx : BitVec 3) (blk : BitVec 4) (v : Word)
  | lowWordRead (ctx : BitVec 3) (addr : Word)
  | rdmaRegisterAccess (slot : BitVec 9) (key : Word) (write : Bool) (addr : DWord) (len : Nat) (data : Bytes)
  | districtWindowBoundary (d : Nat)
  | partitionStopEnter (p : BitVec 4)
  | partitionStopped (p : BitVec 4)
  | watchdogExpiry (p : BitVec 4)
  | flitDeliver (f : Flit)
  | creditReturn (f : Flit)
  | hopCrcMismatch (unit : Word)
  | causewayNak (group : BitVec 4) (seq : BitVec 10)
  | ixcForeignDrop (f : Flit)
  | ixcRetryLimit (u : BareUnit)
  | marginRaiseObserved (u : BareUnit) (exceeded : Bool)
  | ppsEdge (cycles : Nat)
  | holdoverEnter
  | todArm (ctx : BitVec 3)
  | todCancel (ctx : BitVec 3)
  | todLoadAtSecond
  | todLoadTimeout
  | warpPass (t : BitVec 12) (f : WarpF) (a : WarpAnalog)
  | warpPassa (t : BitVec 12) (f : WarpF) (a : WarpAnalog)
  | warpPassEnd (t : BitVec 12) (arr : BitVec 4)
  | partitionFaultClear (p : BitVec 4)
  | arrayWriteDone (phys : BitVec 12) (arr : BitVec 4) (c : ArrayCheck)
  | svcCalibrate (ctx : BitVec 3)
  | svcRewrite (ctx : BitVec 3)
  | svcMarginScan (ctx : BitVec 3)
  | svcCancel (ctx : BitVec 3)
  | spareLoadStart (t : BitVec 12)
  | spareLoadDone (t : BitVec 12) (c : ArrayCheck)
  | spareShardTimeout (t : BitVec 12)
  | serviceComplete (t : BitVec 12) (c : ArrayCheck)
  | marginScanRound
  | weftPass (t : BitVec 12) (f : WeftF) (a : WeftAnalog)
  | weftPassa (t : BitVec 12) (f : WeftF) (a : WeftAnalog)
  | weftFlip (t : BitVec 12)
  | weftRecalDone (t : BitVec 12) (margin : Nat)
  | weftRecalPeriodic (d : Nat)
  | weftSlotWriteDone (t : BitVec 12) (slot : Bool)
  | weftScrubRead (t : BitVec 12) (bad0 : Bool) (bad1 : Bool)
  | weftRestoreDone (t : BitVec 12) (slot : Bool)
  | adapterRestoreTimeout (e : BitVec 10)
  | adapterAllocRetry (job : BitVec 4)
  | adapterWaitTimeout (job : BitVec 4)
  | adapterLoadVerified (e : BitVec 10) (ok : Bool)
  | adapterUnload (ctx : BitVec 3) (e : BitVec 10)
  | adapterFreeze (ctx : BitVec 3) (e : BitVec 10)
  | vecFma (t : BitVec 12) (f : VecF)
  | vecAdd (t : BitVec 12) (f : VecF)
  | vecMul (t : BitVec 12) (f : VecF)
  | vecMax (t : BitVec 12) (f : VecF)
  | vecMin (t : BitVec 12) (f : VecF)
  | vecExp (t : BitVec 12) (f : VecF)
  | vecRsqrt (t : BitVec 12) (f : VecF)
  | vecRcp (t : BitVec 12) (f : VecF)
  | vecRsum (t : BitVec 12) (f : VecF)
  | vecRmax (t : BitVec 12) (f : VecF)
  | vecImac (t : BitVec 12) (f : VecF)
  | vecLd (t : BitVec 12) (f : VecF)
  | vecSt (t : BitVec 12) (f : VecF)
  | vecBcast (t : BitVec 12) (f : VecF)
  | vecRot (t : BitVec 12) (f : VecF)
  | vecSel (t : BitVec 12) (f : VecF)
  | cvtPack (t : BitVec 12) (f : CvtF)
  | cvtUnpk (t : BitVec 12) (f : CvtF)
  | cvtGrad (t : BitVec 12) (f : CvtF)
  | cvtNarw (t : BitVec 12) (f : CvtF)
  | cvtWide (t : BitVec 12) (f : CvtF)
  | cvtQw (t : BitVec 12) (f : CvtF)
  | movSend (t : BitVec 12) (f : MovF)
  | movSendv (t : BitVec 12) (f : MovF)
  | movRecv (t : BitVec 12) (f : MovF)
  | movRecvv (t : BitVec 12) (f : MovF)
  | movRecva (t : BitVec 12) (f : MovF)
  | tokPost (t : BitVec 12) (f : MovF)
  | tokWait (t : BitVec 12) (f : MovF)
  | tokCred (t : BitVec 12) (f : MovF)
  | ctxPut (t : BitVec 12) (f : PutF)
  | ctxGet (t : BitVec 12) (f : GetF)
  | ctxAttn (t : BitVec 12) (f : AttnF)
  | ctxXget (t : BitVec 12) (f : XferF)
  | ctxXput (t : BitVec 12) (f : XferF)
  | ctxLanding (t : BitVec 12)
  | syncStep (t : BitVec 12)
  | syncMile (t : BitVec 12)
  | syncEmit (t : BitVec 12) (f : EmitF)
  | ctlNop (t : BitVec 12) (n : BitVec 12)
  | ctlLoop (t : BitVec 12) (count : BitVec 16) (body : BitVec 12)
  | ctlSkip (t : BitVec 12) (f : SkipF)
  | ctlXset (t : BitVec 12) (xd : BitVec 4) (imm : Word)
  | ctlXadd (t : BitVec 12) (xd : BitVec 4) (xa : BitVec 4) (imm : Word)
  | ctlXld (t : BitVec 12) (xd : BitVec 4) (lop : Lop) (word : BitVec 4)
  | ctlXent (t : BitVec 12) (xd : BitVec 4) (ent : Ent) (field : BitVec 4)
  | pwrDecl (t : BitVec 12) (tokens : BitVec 12)
  | pwrWaitwin (t : BitVec 12)
  | load
  | loadImageArrived (image : Bytes)
  | loadFetchTimeout
  | patch
  | unload
  | mailboxBadMessage (ctx : BitVec 3)
  | openReq (slot : BitVec 9) (msg : Bytes)
  | appendReq (slot : BitVec 9) (msg : Bytes)
  | draftReq (slot : BitVec 9) (msg : Bytes)
  | closeReq (slot : BitVec 9) (msg : Bytes)
  | ringCredit (slot : BitVec 9) (msg : Bytes)
  | openLookupDone (session : Word)
  | pendingAdmit (session : Word)
  | pendingTimeout (session : Word)
  | holdIdleTimeout (session : Word)
  | suspendTimeout (p : BitVec 4)
  | engineTick (p : BitVec 4)
  | stepBoundary (p : BitVec 4)
  | milestone (p : BitVec 4)
  | openPageCopyDone (session : Word) (block : Nat)
  | frameWrite (p : BitVec 4)
  | noticeClose (p : BitVec 4)
  | frameRingFull (p : BitVec 4)
  | hankPop (ctx : BitVec 3)
  | hankStage (ctx : BitVec 3) (v : Word)
  | hankPush (ctx : BitVec 3) (v : Word)
  | xferOffer (msg : Bytes)
  | xferAccept (msg : Bytes)
  | xferRefuse (msg : Bytes)
  | xferData (msg : Bytes)
  | xferEnd (msg : Bytes)
  | xferNack (msg : Bytes)
  | xferDone (msg : Bytes)
  | xferWaitExpiry (session : Word)
  | offerTimeout (session : Word)
  | jobLoad (go : ListRead)
  | jobReplace (go : ListRead)
  | jobRestore (go : ListRead)
  | jobAdapter (go : ListRead)
  | jobUnloadModel (ctx : BitVec 3)
  | shardArrived (job : BitVec 4) (index : Nat) (d : ShardRead)
  | shardFetchTimeout (job : BitVec 4) (index : Nat)
  | loadLayerWrite (job : BitVec 4) (layer : BitVec 12)
  | barrierRaise (job : BitVec 4)
  | barrierDrained (job : BitVec 4)
  | replaceCommit (job : BitVec 4)
  | barrierRelease (job : BitVec 4)
  | shardRequestTimeout (req : BitVec 16)
  | goldenCompare (phys : BitVec 12) (arr : BitVec 4) (verifyOk : Bool)
  | integrityDetection (t : BitVec 12) (d : Detection)
  | replayStart (r : ReplayBegin)
  | replayDecide (t : BitVec 12) (clean : Bool) (a : WarpAnalog) (w : WeftAnalog)
  | rerunDrained (p : BitVec 4)
  | standinReady (c : StandInCopy)
  | shadowPass (t : BitVec 12) (a : WarpAnalog)
  | shadowDispute (t : BitVec 12) (clean : Bool) (a : WarpAnalog)
  | mirrorAdvance (half : Bool) (c : MirrorCopy)
  | cmReq (port : BitVec 2) (service : DWord) (src : List Word) (mtu : Nat) (rqpn : BitVec 24)
  | qpTeardown (slot : BitVec 9)
  | cePacket (slot : BitVec 9)
  | cnpReceive (slot : BitVec 9)
  | rateRaise (slot : BitVec 9)
  | pfcPauseReceive (port : BitVec 2) (prio : BitVec 3) (pause : Bool)
  | pfcBufferThreshold (port : BitVec 2) (above75 : Bool)
  | arpRequest (port : BitVec 2) (target : Word)
  | neighborSolicitation (port : BitVec 2) (target : List Word)
  | icmpEcho (port : BitVec 2) (v6 : Bool) (target : List Word) (payload : Bytes)
  | ethPortUp (port : BitVec 2) (pmd : BitVec 2) (watts : Nat)
  | ethPortDown (port : BitVec 2)
  | peerConnect (ctx : BitVec 3) (v : Word)
  | messageIngress (link : Nat) (msg : Bytes)
  | returnReceive (link : Nat) (msg : Bytes)
  | returnSend (link : Nat)
  | echo (link : Nat) (msg : Bytes)
  | echoReply (link : Nat) (msg : Bytes)
  | leaReceive (link : BitVec 3) (lea : Bytes) (fec : FecCount)
  | leaNak (link : BitVec 3) (ack : BitVec 12)
  | leaAckTimeout (link : BitVec 3)
  | laneSwap (link : BitVec 3) (lane : BitVec 3)
  | sknRetryLimit (link : BitVec 3)
  | sknSignalDetect (link : BitVec 3)
  | trainingRecord (link : BitVec 3) (record : Bytes)
  | sknLossOfSignal (link : BitVec 3)
  | eyeMeasure (link : BitVec 3) (lane : BitVec 3) (width : BitVec 16) (height : BitVec 16)
  | laneRecalPeriodic (link : BitVec 3)
  | laneRecalDone (link : BitVec 3) (width : BitVec 16) (height : BitVec 16)
  | pathSetup (ctx : BitVec 3) (link : BitVec 3) (job : BitVec 16)
  | pathRelease (ctx : BitVec 3) (link : BitVec 3) (job : BitVec 16)
  | sknRetrain (ctx : BitVec 3)
  | sknDisable (ctx : BitVec 3)
  | sknEnable (ctx : BitVec 3)
  | sknLaneRecal (ctx : BitVec 3)
  | rdescValidWrite (ctx : BitVec 3) (p : BitVec 4) (c : BitVec 5) (v : Word)
  | powerGood (i : StartIn)
  | startTimeout
  | fwStartTimeout
  | startRetryReset (i : StartIn)
  | delayedRestart (i : StartIn)
  | ready60s
  | stageConfig (ctx : BitVec 3)
  | stageFirmware (ctx : BitVec 3)
  | stageBoot (ctx : BitVec 3)
  | pushFetched (push : Bytes) (flashOk : Bool)
  | lcToken (ctx : BitVec 3) (token : Option Bytes)
  | attest (ctx : BitVec 3)
  | discardStaged (ctx : BitVec 3)
  | retry (ctx : BitVec 3)
  | revert (ctx : BitVec 3)
  | fallbackStatus (req : Bytes)
  | fallbackLog (req : Bytes)
  | calRoundPeriodic (half : Bool) (d : Nat)
  | calRetemp (phys : BitVec 12) (arr : BitVec 4)
  | gaugeRefCheck (bandgap bufIn bufOut ground half : Int)
  | gaugeRefReady
  | gaugeStart (ctx : BitVec 3)
  | gaugeStop (ctx : BitVec 3)
  | gaugeConversionDone (code : Int)
  | gaugeInjectedTrigger (source : BitVec 2)
  | gaugePassGap
  | thermalScan (readings : List Int)
  | counterSample (ctx : BitVec 3)
  | counterBind (ctx : BitVec 3) (v : Word)
  | sampleNext (ctx : BitVec 3) (half : Bool)
  | logBudgetRefill
  | shutdownTest
  | shutdownTestDone (classes : List (List Nat)) (fails : List (List Nat)) (us : Nat)
  | runSet (ctx : BitVec 3) (set : BitVec 4)
  | setDone (classes : List (List Nat)) (fails : List (List Nat)) (us : Nat)
  | rawGo (ctx : BitVec 3)
  | inputUndervolt (mv10 : BitVec 16)
  | undervoltClear
  | powerLoss
  | overvoltageTrip
  | inputOvercurrentTrip
  | inputPowerSample (volt cur : BitVec 24)
  | railOvercurrent (d : Nat) (ma10 : BitVec 16)
  | railTrip (d : Nat)
  | standby (ctx : BitVec 3)
  | wake (ctx : BitVec 3) (i : StartIn)
  | shutdown (ctx : BitVec 3)
  | shdnReq
  | shutdownDrainExpiry
  | enableRelease
  | localAckTimeout (slot : BitVec 9)
  | invalidRequest (slot : BitVec 9)
  | cmRep (slot : BitVec 9) (accepted : Bool) (rqpn : BitVec 24)
  | stackPhyParityError (stack : BitVec 2)
  deriving DecidableEq, Repr

end Sys2Proof
end

