-- ==== Sys2Proof/Machine/Formats.lean ====
section
/-! DEFINITION. Number formats, scales and rounding (05_number_formats.md): exact values, the float formats of R168,
round to nearest even and stochastic rounding (R179, R190), block scaling (R172-R178), the operand of an array pass
(R185) and the Twist generator (R191). -/

namespace Sys2Proof

/-- An exact value: NaN, an infinity, or (-1)^neg * m * 2^e (a zero keeps its sign, R169). -/
inductive Num where
  | nan
  | inf (neg : Bool)
  | fin (neg : Bool) (m : Nat) (e : Int)
  deriving DecidableEq, Repr, Inhabited

/-- A float format of R168: mantissa bits, bias, sign position, largest finite code, infinity if it has one, and
the NaN the module produces (R170). -/
structure FFmt where
  mb : Nat
  bias : Nat
  sign : Nat
  maxCode : Nat
  inf : Option Nat
  nan : Nat
  deriving DecidableEq, Repr

def fE4M3 : FFmt := ⟨3, 7, 7, 0x7E, none, 0x7F⟩
def fE5M2 : FFmt := ⟨2, 15, 7, 0x7B, some 0x7C, 0x7F⟩
def fBF16 : FFmt := ⟨7, 127, 15, 0x7F7F, some 0x7F80, 0x7FC0⟩
def fFP32 : FFmt := ⟨23, 127, 31, 0x7F7FFFFF, some 0x7F800000, 0x7FC00000⟩

/-- The value of a float code (R168). -/
def FFmt.decode (f : FFmt) (code : Nat) : Num :=
  let neg := code.testBit f.sign
  let mag := code % 2 ^ f.sign
  if mag ≤ f.maxCode then
    let ex := mag / 2 ^ f.mb
    let mant := mag % 2 ^ f.mb
    if ex = 0 then .fin neg mant (1 - (f.bias : Int) - f.mb)
    else .fin neg (2 ^ f.mb + mant) ((ex : Int) - f.bias - f.mb)
  else if f.inf = some mag then .inf neg
  else .nan

/-- How a conversion rounds: to nearest, ties to even, or stochastically with a 32-bit draw (R190). -/
inductive Rnd where
  | rne
  | sr (draw : Word)
  deriving DecidableEq, Repr

/-- Round the positive value num / 2^sh to an integer. `sticky` says that a further non-zero part was cut off below. -/
def roundShift (rnd : Rnd) (num sh : Nat) (sticky : Bool) : Nat :=
  let q := num / 2 ^ sh
  let rem := num % 2 ^ sh
  match rnd with
  | .rne =>
    if 2 * rem > 2 ^ sh ∨ (2 * rem = 2 ^ sh ∧ (sticky ∨ q % 2 = 1)) then q + 1 else q
  | .sr draw =>
    let F := (rem * 2 ^ 24) / 2 ^ sh
    if draw.toNat / 256 < F then q + 1 else q

/-- The magnitude code of m * 2^e in format `f`, before overflow handling: one rounding, subnormals included (R169). -/
def FFmt.magCode (f : FFmt) (rnd : Rnd) (m : Nat) (e : Int) (sticky : Bool := false) : Nat :=
  if m = 0 then 0 else
  let p := e + (m.log2 : Int)
  let emin : Int := 1 - (f.bias : Int)
  let p' := if p < emin then emin else p
  let g := p' - f.mb
  let q := if g ≤ e then m * 2 ^ (e - g).toNat else roundShift rnd m (g - e).toNat sticky
  (p' + f.bias - 1).toNat * 2 ^ f.mb + q

/-- Sign bit of a float code. -/
def FFmt.signBit (f : FFmt) (neg : Bool) : Nat := if neg then 2 ^ f.sign else 0

/-- Encode a value; a finite overflow gives infinity (`sat` false) or the largest finite value (`sat` true).
The flag tells whether a saturation was made (R178, R179). -/
def FFmt.encodeSat (f : FFmt) (sat : Bool) (rnd : Rnd) (v : Num) (sticky : Bool := false) : Nat × Bool :=
  match v with
  | .nan => (f.nan, false)
  | .inf neg =>
    match f.inf with
    | some c => (f.signBit neg + c, false)
    | none => (f.signBit neg + f.maxCode, true)
  | .fin neg m e =>
    let c := f.magCode rnd m e sticky
    if c ≤ f.maxCode then (f.signBit neg + c, false)
    else match f.inf with
      | some i => if sat then (f.signBit neg + f.maxCode, true) else (f.signBit neg + i, false)
      | none => (f.signBit neg + f.maxCode, true)

/-- Encode to nearest, overflowing to infinity (FP32 and BF16 arithmetic, R181). -/
def FFmt.encode (f : FFmt) (v : Num) : Nat := (f.encodeSat false .rne v).1

/-- An FP32 word of a value. -/
def toFP32 (v : Num) : Word := BitVec.ofNat 32 (fFP32.encode v)
/-- The value of an FP32 word. -/
def ofFP32 (w : Word) : Num := fFP32.decode w.toNat
/-- A BF16 lane: the value in bits [31:16] (R245). -/
def toBF16Lane (v : Num) : Word := BitVec.ofNat 32 (fBF16.encode v * 65536)
/-- The value of a BF16 lane. -/
def ofBF16Lane (w : Word) : Num := fBF16.decode (w.toNat / 65536)

/-! Exact arithmetic on values. -/

/-- A signed integer scaled by 2^e as a value; an exact zero is +0. -/
def Num.ofInt (i : Int) (e : Int) : Num := .fin (decide (i < 0)) i.natAbs e

/-- Negation. -/
def Num.neg : Num → Num
  | .nan => .nan
  | .inf n => .inf (!n)
  | .fin n m e => .fin (!n) m e

/-- Exact product with IEEE 754 special values. -/
def Num.mul : Num → Num → Num
  | .nan, _ => .nan
  | _, .nan => .nan
  | .inf a, .inf b => .inf (xor a b)
  | .inf a, .fin b m _ => if m = 0 then .nan else .inf (xor a b)
  | .fin b m _, .inf a => if m = 0 then .nan else .inf (xor a b)
  | .fin a m e, .fin b n g => .fin (xor a b) (m * n) (e + g)

/-- Exact sum with IEEE 754 special values, round-to-nearest sign of an exact zero. -/
def Num.add : Num → Num → Num
  | .nan, _ => .nan
  | _, .nan => .nan
  | .inf a, .inf b => if a = b then .inf a else .nan
  | .inf a, .fin _ _ _ => .inf a
  | .fin _ _ _, .inf a => .inf a
  | .fin a m e, .fin b n g =>
    if m = 0 ∧ n = 0 then .fin (a && b) 0 (min e g)
    else
      let k := min e g
      let x : Int := (if a then -1 else 1) * (m * 2 ^ (e - k).toNat : Nat)
      let y : Int := (if b then -1 else 1) * (n * 2 ^ (g - k).toNat : Nat)
      if x + y = 0 then .fin false 0 k else .fin (decide (x + y < 0)) (x + y).natAbs k

/-- Whether one finite or infinite value lies strictly below another; false when either is NaN. -/
def Num.lt : Num → Num → Bool
  | .nan, _ => false
  | _, .nan => false
  | .inf a, .inf b => a && !b
  | .inf a, .fin _ _ _ => a
  | .fin _ _ _, .inf b => !b
  | .fin a m e, .fin b n g =>
    let k := min e g
    let x : Int := (if a then -1 else 1) * (m * 2 ^ (e - k).toNat : Nat)
    let y : Int := (if b then -1 else 1) * (n * 2 ^ (g - k).toNat : Nat)
    decide (x < y)

/-- Sign of a value. -/
def Num.sign : Num → Bool
  | .nan => false
  | .inf a => a
  | .fin a _ _ => a

/-- MAX of R261: NaN if either is NaN, MAX(+0, -0) = +0. -/
def Num.max (a b : Num) : Num :=
  if a = .nan ∨ b = .nan then .nan
  else if a.lt b then b else if b.lt a then a else if a.sign then b else a

/-- MIN of R261: NaN if either is NaN, MIN(+0, -0) = -0. -/
def Num.min (a b : Num) : Num :=
  if a = .nan ∨ b = .nan then .nan
  else if a.lt b then a else if b.lt a then b else if a.sign then a else b

/-- Multiply a value by 2^k, exactly. -/
def Num.scale (k : Int) : Num → Num
  | .fin a m e => .fin a m (e + k)
  | v => v

/-! FP32 operations: each computes exactly and rounds once to nearest, ties to even (R181). -/

def fpAdd (a b : Word) : Word := toFP32 ((ofFP32 a).add (ofFP32 b))
def fpMul (a b : Word) : Word := toFP32 ((ofFP32 a).mul (ofFP32 b))
def fpMax (a b : Word) : Word := toFP32 ((ofFP32 a).max (ofFP32 b))
def fpSub (a b : Word) : Word := toFP32 ((ofFP32 a).add (ofFP32 b).neg)

/-! The helpers of R262, correctly rounded. Each computes a floor of the exact value with far more bits than FP32
and a sticky bit. -/

/-- Integer square root by bits, `k` result bits at most: the largest r with r * r ≤ n. -/
def isqrtBits : Nat → Nat → Nat → Nat
  | 0, _, r => r
  | k + 1, n, r =>
    let r' := r + 2 ^ k
    isqrtBits k n (if r' * r' ≤ n then r' else r)

/-- Round the positive value (q + part)·2^e, `part` in (0,1) when sticky, to FP32. -/
def toFP32Sticky (neg : Bool) (q : Nat) (e : Int) (sticky : Bool) : Word :=
  BitVec.ofNat 32 ((fFP32.encodeSat false .rne (.fin neg (2 * q + (if sticky then 1 else 0)) (e - 1))).1)

/-- 1/a (R262). -/
def fpRcp (v : Num) : Word :=
  match v with
  | .nan => toFP32 .nan
  | .inf a => toFP32 (.fin a 0 0)
  | .fin a m e =>
    if m = 0 then toFP32 (.inf a)
    else
      let k := m.log2 + 80
      toFP32Sticky a (2 ^ k / m) (-e - k) (2 ^ k % m ≠ 0)

/-- 1/√a (R262). -/
def fpRsqrt (v : Num) : Word :=
  match v with
  | .nan => toFP32 .nan
  | .inf a => if a then toFP32 .nan else toFP32 (.fin false 0 0)
  | .fin a m e =>
    if m = 0 then toFP32 (.inf a)
    else if a then toFP32 .nan
    else
      -- a = m' * 2^(2 j) with j an integer
      let odd := e % 2
      let m' := if odd = 0 then m else 2 * m
      let j := (if odd = 0 then e else e - 1) / 2
      let k := m'.log2 / 2 + 80
      let q := isqrtBits (k + 2) (2 ^ (2 * k) / m') 0
      toFP32Sticky false q (-j - k) (q * q * m' ≠ 2 ^ (2 * k))

/-- Fraction bits of the exponential's fixed-point work. -/
def expBits : Nat := 320

/-- Taylor sum of e^y in fixed point with `expBits` fraction bits, `n` terms left, term index `i`. -/
def expTaylor : Nat → Nat → Nat → Nat → Nat → Nat
  | 0, _, _, _, acc => acc
  | n + 1, i, y, term, acc =>
    let term' := term * y / 2 ^ expBits / (i + 1)
    expTaylor n (i + 1) y term' (acc + term')

/-- Square a fixed-point number `k` times. -/
def squareTimes : Nat → Nat → Nat
  | 0, x => x
  | k + 1, x => squareTimes k (x * x / 2 ^ expBits)

/-- e^a (R262): e^|a| by e^(|a|/256) to the 256th power, then the reciprocal for a negative input. The work carries over
150 bits more than FP32 needs; the value of e^a at a non-zero binary fraction is never a tie. -/
def fpExp (v : Num) : Word :=
  match v with
  | .nan => toFP32 .nan
  | .inf a => if a then toFP32 (.fin false 0 0) else toFP32 (.inf false)
  | .fin a m e =>
    if m = 0 then toFP32 (.fin false 1 0)
    else if (m.log2 : Int) + e ≥ 8 then (if a then toFP32 (.fin false 0 0) else toFP32 (.inf false))
    else
      let y := if 0 ≤ (expBits : Int) - 8 + e then m * 2 ^ ((expBits : Int) - 8 + e).toNat
               else m / 2 ^ (-((expBits : Int) - 8 + e)).toNat
      let one := 2 ^ expBits
      let big := squareTimes 8 (expTaylor 90 0 y one one)
      if a then toFP32Sticky false (2 ^ (expBits + 448) / big) (-448) true
      else toFP32Sticky false big (-(expBits : Int)) true

/-! Block scales (R172-R178). -/

/-- Signed value of an n-bit two's complement field. -/
def signedOf (bits v : Nat) : Int := if v % 2 ^ bits < 2 ^ (bits - 1) then (v % 2 ^ bits : Nat) else (v % 2 ^ bits : Nat) - (2 ^ bits : Nat)

/-- Two's complement field of an integer. -/
def fieldOf (bits : Nat) (i : Int) : Nat := (i % (2 ^ bits : Nat)).toNat

/-- The scaled value of an element code under an E8M0 code (R166, R172, R174). Tags: 1 A4, 2 I8, 3 E4M3. -/
def scaledValue (tag scale code : Nat) : Num :=
  if scale = 0xFF then .nan else
  let k : Int := (scale : Int) - 127
  match tag with
  | 1 => (Num.ofInt (signedOf 4 code) 0).scale k
  | 2 => (Num.ofInt (signedOf 8 code) 0).scale k
  | _ => (fE4M3.decode code).scale k

/-- Round a value to an integer under a rounding mode: to nearest even, or floor plus the draw's decision (R190). -/
def roundInt (rnd : Rnd) (neg : Bool) (m : Nat) (e : Int) : Int :=
  let s : Int := if neg then -1 else 1
  if 0 ≤ e then s * (m * 2 ^ e.toNat : Nat) else
  let sh := (-e).toNat
  match rnd with
  | .rne => s * (roundShift .rne m sh false : Nat)
  | .sr draw =>
    let x : Int := s * (m : Nat)
    let q := x.fdiv (2 ^ sh : Nat)
    let rem := (x.fmod (2 ^ sh : Nat)).toNat
    if draw.toNat / 256 < rem * 2 ^ 24 / 2 ^ sh then q + 1 else q

/-- floor(log2) of a positive finite value (R177). -/
def floorLog2 (m : Nat) (e : Int) : Int := (m.log2 : Int) + e

/-- Magnitude comparison of two finite non-negative values given as (m, e). -/
def magLt (m : Nat) (e : Int) (n : Nat) (g : Int) : Bool :=
  let k := min e g
  decide (m * 2 ^ (e - k).toNat < n * 2 ^ (g - k).toNat)

/-- The largest magnitude among finite elements (R177): (m, e), m = 0 when there is none. -/
def blockMax : List Num → Nat × Int
  | [] => (0, 0)
  | v :: vs =>
    let r := blockMax vs
    match v with
    | .fin _ m e => if m = 0 then r else if r.1 = 0 then (m, e) else if magLt r.1 r.2 m e then (m, e) else r
    | _ => r

/-- Whether a value is NaN or infinite. -/
def Num.special : Num → Bool
  | .fin _ _ _ => false
  | _ => true

/-- Convert one scaled element to the target's code (convert_t of R177, R178); the flag counts a clamp or saturation. -/
def convertElem (tag : Nat) (rnd : Rnd) (v : Num) : Nat × Bool :=
  let clampInt (lo hi : Int) (bits : Nat) : Nat × Bool :=
    match v with
    | .fin n m e =>
      let i := roundInt rnd n m e
      if i < lo then (fieldOf bits lo, true) else if hi < i then (fieldOf bits hi, true) else (fieldOf bits i, false)
    | _ => (0, false)
  match tag with
  | 1 => clampInt (-8) 7 4
  | 2 => clampInt (-128) 127 8
  | _ => fE4M3.encodeSat true rnd v

/-- e_t of R177. -/
def targetExp (tag : Nat) : Int := match tag with | 1 => 2 | 2 => 6 | _ => 8

/-- Quantise one block of values (R177): the scale code, the element codes, and how many clamped or saturated. `rnd i` is the
rounding of element `i` of the block. -/
def quantBlock (tag : Nat) (rnd : Nat → Rnd) (vs : List Num) : Nat × List Nat × Nat :=
  let a := blockMax vs
  if tag ≠ 3 ∧ vs.any Num.special then (0xFF, vs.map (fun _ => 0), 0)
  else
    let scale : Nat := if a.1 = 0 then 0 else
      let s := floorLog2 a.1 a.2 - targetExp tag + 127
      if s < 0 then 0 else if 254 < s then 254 else s.toNat
    let qs := vs.mapIdx fun i v =>
      if a.1 = 0 ∧ v.special = false then
        (match tag, v with
         | 3, .fin true _ _ => (0x80, false)
         | _, _ => (0, false))
      else convertElem tag (rnd i) (v.scale (127 - (scale : Int)))
    (scale, qs.map Prod.fst, (qs.filter Prod.snd).length)

/-- Bits of one element of a format tag (R166). -/
def tagBits (tag : Nat) : Nat :=
  match tag with | 0 => 4 | 1 => 4 | 2 => 8 | 3 => 8 | 4 => 8 | 5 => 16 | 6 => 32 | _ => 8

/-- Whether a format carries block scales (R173). -/
def tagScaled (tag : Nat) : Bool := tag = 1 || tag = 2 || tag = 3

/-- Bytes of a vector of `n` elements in a format, in the scale-led layout where it is scaled (R175, R176). -/
def vectorBytes (tag n : Nat) : Nat :=
  if tagScaled tag then
    n / 256 * (8 + 256 * tagBits tag / 8) + (if n % 256 = 0 then 0 else 8 + n % 256 * tagBits tag / 8)
  else n * tagBits tag / 8

/-- Byte offset of the unit that holds element `i` (R175). -/
def unitBase (tag i : Nat) : Nat := i / 256 * (8 + 256 * tagBits tag / 8)

/-- The byte of a byte list at an index, 0 past its end. -/
def byteAt (bs : Bytes) (i : Nat) : Nat := (bs.getD i 0).toNat

/-- Little-endian integer of `n` bytes from offset `i` (R171). -/
def leNat (bs : Bytes) (i : Nat) : Nat → Nat
  | 0 => 0
  | n + 1 => byteAt bs i + 256 * leNat bs (i + 1) n

/-- `n` little-endian bytes of an integer. -/
def natLe (v : Nat) : Nat → Bytes
  | 0 => []
  | n + 1 => BitVec.ofNat 8 v :: natLe (v / 256) n

/-- The block scale of element `i` of a scale-led vector (R175). -/
def vecScale (tag : Nat) (bs : Bytes) (i : Nat) : Nat := byteAt bs (unitBase tag i + i % 256 / 32)

/-- The element code of element `i` of a vector laid out in `bs` (R167, R171, R175). -/
def vecCode (tag : Nat) (bs : Bytes) (i : Nat) : Nat :=
  match tag with
  | 1 => (byteAt bs (unitBase 1 i + 8 + i % 256 / 2) / (if i % 2 = 0 then 1 else 16)) % 16
  | 2 => byteAt bs (unitBase 2 i + 8 + i % 256)
  | 3 => byteAt bs (unitBase 3 i + 8 + i % 256)
  | 4 => byteAt bs i
  | 5 => leNat bs (2 * i) 2
  | _ => leNat bs (4 * i) 4

/-- The exact value of element `i` (R179, R180). -/
def vecValue (tag : Nat) (bs : Bytes) (i : Nat) : Num :=
  match tag with
  | 1 | 2 | 3 => scaledValue tag (vecScale tag bs i) (vecCode tag bs i)
  | 4 => fE5M2.decode (vecCode 4 bs i)
  | 5 => fBF16.decode (vecCode 5 bs i)
  | _ => fFP32.decode (vecCode 6 bs i)

/-- Pack element codes two to a byte, element 0 in the low half (R167). -/
def packNibbles : List Nat → Bytes
  | [] => []
  | [a] => [BitVec.ofNat 8 (a % 16)]
  | a :: b :: l => BitVec.ofNat 8 (a % 16 + 16 * (b % 16)) :: packNibbles l

/-- Split a list into pieces of `n` (n > 0), by fuel. -/
def chunks {α : Type} (n : Nat) : Nat → List α → List (List α)
  | 0, _ => []
  | fuel + 1, l => if l.isEmpty then [] else l.take n :: chunks n fuel (l.drop n)

/-- Lay one unit of at most 8 blocks out: 8 scale bytes, then the elements (R175, R176). -/
def layUnit (tag : Nat) (blocks : List (Nat × List Nat)) : Bytes :=
  let scales := (List.range 8).map fun j => BitVec.ofNat 8 ((blocks.map Prod.fst).getD j 0)
  let codes := (blocks.map Prod.snd).flatten
  scales ++ (if tag = 1 then packNibbles codes else codes.map (BitVec.ofNat 8))

/-- Quantise a vector into the scale-led layout (R175-R178), element `i` rounding as `rnd i` says: its bytes and the
number of clamps and saturations. -/
def packVector (tag : Nat) (rnd : Nat → Rnd) (vs : List Num) : Bytes × Nat :=
  let blocks := (chunks 32 (vs.length / 32 + 1) vs).mapIdx fun b blk => quantBlock tag (fun i => rnd (32 * b + i)) blk
  let units := chunks 8 (blocks.length / 8 + 1) (blocks.map fun q => (q.1, q.2.1))
  ((units.map (layUnit tag)).flatten, (blocks.map fun q => q.2.2).sum)

/-- Convert a vector to E5M2 with stochastic rounding (R189, R179): bytes and saturations. -/
def gradVector (rnd : Nat → Rnd) (vs : List Num) : Bytes × Nat :=
  let qs := vs.mapIdx fun i v => fE5M2.encodeSat true (rnd i) v
  (qs.map (fun q => BitVec.ofNat 8 q.1), (qs.filter Prod.snd).length)

/-! Forming the operand of an array pass (R185). -/

/-- Round half to even of x / 2^k. -/
def rneShift (x : Int) (k : Nat) : Int :=
  (if x < 0 then -1 else 1) * (roundShift .rne x.natAbs k false : Nat)

/-- The operand of a pass from `n` elements in `bs`: the group scale G and the formed values (R185, R188). -/
def formOperand (tag n d : Nat) (bs : Bytes) : Nat × List Int :=
  let scales := (List.range (n / 32)).map fun b => vecScale tag bs (32 * b)
  if scales.any (· == 0xFF) then (0xFF, List.replicate n 0)
  else
    let g := scales.foldl max 0 - d
    (g, (List.range n).map fun i =>
      let t : Int := (scales.getD (i / 32) 0 : Int) - g
      let x := signedOf (tagBits tag) (vecCode tag bs i)
      if 0 ≤ t then x * (2 ^ t.toNat : Nat) else rneShift x (-t).toNat)

/-- Outlier rows of a formed operand (R86, R185). -/
def outlierRows (xs : List Int) : Nat := (xs.filter fun x => decide (x < -8 ∨ 7 < x)).length

/-! The Twist generator (R191). -/

def twRotA : List Nat := [11, 23, 7, 29, 13, 19, 5, 17]
def twRotB : List Nat := [26, 9, 21, 3, 15, 27, 10, 24]

/-- The four words of the Twist state. -/
structure Tw where
  x0 : Word
  x1 : Word
  x2 : Word
  x3 : Word
  deriving DecidableEq, Repr

/-- One round `i` of Twist under the key schedule (ks0, ks1, ks2). -/
def twRound (ks : List Word) (s : Tw) (i : Nat) : Tw :=
  let x0 := s.x0 + s.x1
  let x1 := s.x1.rotateLeft (twRotA.getD (i % 8) 0) ^^^ x0
  let x2 := s.x2 + s.x3
  let x3 := s.x3.rotateLeft (twRotB.getD (i % 8) 0) ^^^ x2
  if i % 4 = 3 then
    let j := i / 4 + 1
    ⟨x0 + ks.getD (j % 3) 0, x3 + ks.getD ((j + 1) % 3) 0, x2 + ks.getD ((j + 2) % 3) 0,
     x1 + ks.getD (j % 3) 0 + BitVec.ofNat 32 j⟩
  else ⟨x0, x3, x2, x1⟩

/-- The Twist function: key of two words, counter of four, output of four (R191). -/
def twist (k0 k1 c0 c1 c2 c3 : Word) : List Word :=
  let ks := [k0, k1, k0 ^^^ k1 ^^^ 0x9B3F52D1#32]
  let s := (List.range 12).foldl (twRound ks) ⟨c0 + k0, c1 + k1, c2 + ks.getD 2 0, c3 + k0⟩
  [s.x0, s.x1, s.x2, s.x3]

/-- The draw of lane λ for a step, tile, instruction address and occurrence under a partition seed (R192, R193). -/
def draw (seed : DWord) (step : Nat) (tile : Nat) (addr : Nat) (occ : Nat) (lane : Nat) : Word :=
  (twist (seed.setWidth 32) ((seed >>> 32).setWidth 32)
    (BitVec.ofNat 32 step) (BitVec.ofNat 32 (step / 2 ^ 32 % 65536 + tile % 4096 * 65536))
    (BitVec.ofNat 32 (addr % 4096 + lane / 4 % 16384 * 4096)) (BitVec.ofNat 32 occ)).getD (lane % 4) 0

end Sys2Proof
end

