-- ==== Sys2Proof/Machine/Isa.lean ====
section
/-! DEFINITION. The instruction words of the Spindles (07_tile_instructions.md R250-R286): the word that each instruction command
stands for, the legality of a word (R249), the parity of the program store, and token costs (R252). -/

namespace Sys2Proof.Machine

/-- Assemble a word from (value, lowest bit) fields. -/
def asm (fs : List (Nat × Nat)) : DWord := fs.foldl (fun w f => w ||| (BitVec.ofNat 64 f.1 <<< f.2)) 0
/-- LOP as a 16-bit field value (R251). -/
def lopV (l : Lop) : Nat := l.xi.toNat * 4096 + l.line.toNat
/-- ENT as a 12-bit field value (R251). -/
def entV (e : Ent) : Nat := e.xi.toNat * 256 + e.base.toNat
/-- A Boolean field. -/
def bV (b : Bool) : Nat := if b then 1 else 0

/-- WARP layout (R254). -/
def encWarp (op : Nat) (f : WarpF) : DWord :=
  asm [(0, 60), (op, 56), (f.arr.toNat, 52), (lopV f.src, 36), (bV f.sfmt, 35), (f.d.toNat, 32), (f.cap.toNat, 30),
    (f.vd.toNat, 25), (f.ltag.toNat, 17)]
/-- WEFT layout (R257). -/
def encWeft (op : Nat) (f : WeftF) : DWord :=
  asm [(1, 60), (op, 56), (bV f.train, 55), (bV f.up, 54), (lopV f.src, 38), (f.vd.toNat, 33), (entV f.ent, 21)]
/-- WEFT.FLIP. -/
def encFlip : DWord := asm [(1, 60), (2, 56)]
/-- VEC layout (R260). -/
def encVec (op : Nat) (f : VecF) : DWord :=
  asm [(2, 60), (op, 56), (f.vd.toNat, 51), (f.va.toNat, 46), (f.vb.toNat, 41), (f.vc.toNat, 36), (f.cnt.toNat, 33),
    (f.ty.toNat, 31), (lopV f.lop, 14), (f.imm.toNat, 7)]
/-- CVT layout (R264). -/
def encCvt (op : Nat) (f : CvtF) : DWord :=
  asm [(3, 60), (op, 56), (f.vreg.toNat, 51), (f.cnt.toNat, 48), (f.fmt.toNat, 45), (bV f.sr, 44), (lopV f.lop, 28),
    (f.rank.toNat, 21), (bV f.up, 20)]
/-- MOV (class 4) and TOK (class 5) layout (R267). -/
def encMov (cls op : Nat) (f : MovF) : DWord :=
  asm [(cls, 60), (op, 56), (f.ch.toNat, 51), (f.tag.toNat, 43), (f.fmt.toNat, 40), (f.n.toNat, 34), (lopV f.lop, 18),
    (f.vreg.toNat, 13), (f.cnt.toNat, 8)]
/-- CTX.PUT (R273). -/
def encPut (f : PutF) : DWord :=
  asm [(6, 60), (0, 56), (entV f.ent, 44), (f.layer.toNat, 36), (f.head.toNat, 30), (bV f.dim, 29), (f.pos.toNat, 26),
    (lopV f.lop, 10)]
/-- CTX.GET (R273). -/
def encGet (f : GetF) : DWord :=
  asm [(6, 60), (1, 56), (entV f.ent, 44), (f.layer.toNat, 36), (f.head.toNat, 30), (bV f.dim, 29), (f.nb.toNat, 23),
    (f.xf.toNat, 19), (lopV f.lop, 3)]
/-- CTX.ATTN (R273). -/
def encAttn (f : AttnF) : DWord :=
  asm [(6, 60), (2, 56), (entV f.ent, 44), (f.vd.toNat, 39), (f.va.toNat, 34), (bV f.acc, 33), (bV f.dim, 32),
    (f.nb.toNat, 26), (f.xf.toNat, 22), (f.pos.toNat, 19), (lopV f.lop, 3)]
/-- CTX.XGET (3) and CTX.XPUT (4) (R273). -/
def encXfer (op : Nat) (f : XferF) : DWord :=
  asm [(6, 60), (op, 56), (f.region.toNat, 52), (f.xo.toNat, 48), (f.off.toNat, 24), (f.n.toNat, 18), (lopV f.lop, 2)]
/-- SYNC.STEP (0) and SYNC.MILE (1). -/
def encSync (op : Nat) : DWord := asm [(7, 60), (op, 56)]
/-- SYNC.EMIT (R281). -/
def encEmit (f : EmitF) : DWord := asm [(7, 60), (2, 56), (entV f.ent, 44), (lopV f.lop, 28), (f.rkind.toNat, 24)]
/-- CTL.NOP (R282); `n` stores N - 1. -/
def encNop (n : BitVec 12) : DWord := asm [(8, 60), (0, 56), (n.toNat, 44)]
/-- CTL.LOOP; `count` stores COUNT - 1. -/
def encLoop (count : BitVec 16) (body : BitVec 12) : DWord := asm [(8, 60), (1, 56), (count.toNat, 40), (body.toNat, 28)]
/-- CTL.SKIP. -/
def encSkip (f : SkipF) : DWord :=
  asm [(8, 60), (2, 56), (f.xa.toNat, 52), (f.cond.toNat, 49), (f.n.toNat, 41), (f.imm.toNat, 25)]
/-- CTL.XSET. -/
def encXset (xd : BitVec 4) (imm : Word) : DWord := asm [(8, 60), (3, 56), (xd.toNat, 52), (imm.toNat, 0)]
/-- CTL.XADD. -/
def encXadd (xd xa : BitVec 4) (imm : Word) : DWord := asm [(8, 60), (4, 56), (xd.toNat, 52), (xa.toNat, 48), (imm.toNat, 0)]
/-- CTL.XLD. -/
def encXld (xd : BitVec 4) (lop : Lop) (word : BitVec 4) : DWord :=
  asm [(8, 60), (5, 56), (xd.toNat, 52), (lopV lop, 36), (word.toNat, 32)]
/-- CTL.XENT. -/
def encXent (xd : BitVec 4) (ent : Ent) (field : BitVec 4) : DWord :=
  asm [(8, 60), (6, 56), (xd.toNat, 52), (entV ent, 40), (field.toNat, 36)]
/-- PWR.DECL (0). -/
def encDecl (tokens : BitVec 12) : DWord := asm [(9, 60), (0, 56), (tokens.toNat, 44)]
/-- PWR.WAITWIN (1). -/
def encWaitwin : DWord := asm [(9, 60), (1, 56)]

/-! ## Fields of a word -/

/-- Bits [hi:lo] of an instruction word. -/
def wf (w : DWord) (hi lo : Nat) : Nat := (w.toNat >>> lo) % 2 ^ (hi + 1 - lo)
/-- Class of a word (R250). -/
def wCls (w : DWord) : Nat := wf w 63 60
/-- Opcode of a word (R250). -/
def wOp (w : DWord) : Nat := wf w 59 56

/-- The position of the LINE field of the word's LOP, if its opcode has one (R251, R296). -/
def lineAt (w : DWord) : Option Nat :=
  match wCls w, wOp w with
  | 0, _ => some 36
  | 1, 0 => some 38
  | 1, 1 => some 38
  | 2, 11 => some 14
  | 2, 12 => some 14
  | 3, 3 => none
  | 3, 4 => none
  | 3, _ => some 28
  | 4, 0 => some 18
  | 4, 2 => some 18
  | 6, 0 => some 10
  | 6, 1 => some 3
  | 6, 2 => some 3
  | 6, _ => some 2
  | 7, 2 => some 28
  | 8, 5 => some 36
  | _, _ => none

/-- Whether a word's class and opcode stand in the table of R252. -/
def wDefined (w : DWord) : Bool :=
  match wCls w with
  | 0 => decide (wOp w ≤ 1)
  | 1 => decide (wOp w ≤ 2)
  | 2 => true
  | 3 => decide (wOp w ≤ 5)
  | 4 => decide (wOp w ≤ 4)
  | 5 => decide (wOp w ≤ 2)
  | 6 => decide (wOp w ≤ 4)
  | 7 => decide (wOp w ≤ 2)
  | 8 => decide (wOp w ≤ 6)
  | 9 => decide (wOp w ≤ 1)
  | _ => false

/-- The word has no non-zero reserved field and no reserved value of a field (R249, R254, R257, R260-R264, R267, R273, R282). -/
def wFieldsOk (w : DWord) : Bool :=
  let z (hi lo : Nat) : Bool := wf w hi lo == 0
  match wCls w, wOp w with
  | 0, _ => z 16 0 && decide (wf w 34 32 ≤ 4)
  | 1, 2 => z 55 0
  | 1, _ => z 20 0
  | 2, op =>
    let ty := wf w 32 31
    z 30 30 && z 6 0 && ty != 3 &&
      !((op == 5 || op == 6 || op == 7 || op == 8 || op == 9) && ty == 2) && !(op == 10 && ty != 2)
  | 3, 5 => z 19 0
  | 3, _ => z 27 0
  | 4, _ => z 7 0
  | 5, _ => z 7 0
  | 6, 0 => z 9 0
  | 6, 1 => z 2 0
  | 6, 2 => z 2 0
  | 6, _ => z 1 0
  | 7, 2 => true
  | 7, _ => z 55 0
  | 8, 0 => z 43 0
  | 8, 1 => z 27 0
  | 8, 2 => z 24 0 && decide (wf w 51 49 ≤ 3)
  | 8, 3 => z 51 32
  | 8, 4 => z 47 32
  | 8, 5 => z 31 0
  | 8, 6 => z 35 0 && decide (wf w 39 36 ≤ 4)
  | 9, 0 => z 43 0
  | 9, _ => z 55 0
  | _, _ => false

/-- SYNC.EMIT's reserved bits: [23:0] (R281). -/
def wEmitOk (w : DWord) : Bool := !(wCls w == 7 && wOp w == 2) || wf w 23 0 == 0

/-- A word the loader accepts and the issue executes (R249). -/
def wordLegal (w : DWord) : Bool := wDefined w && wFieldsOk w && wEmitOk w

/-- The 8 parity bits of a word: bit j gives even parity over bits j, j + 8, …, j + 56 (R249). -/
def wordParity (w : DWord) : Byte :=
  BitVec.ofNat 8 ((List.range 8).foldl (fun a j =>
    if (List.range 8).foldl (fun x k => x ^^ w.getLsbD (j + 8 * k)) false then a + 2 ^ j else a) 0)

/-! ## Costs (R252) -/

/-- ⌈a / b⌉. -/
def ceilDiv (a b : Nat) : Nat := (a + b - 1) / b

/-- Vector-unit occupancy of a word, where its tokens follow from it. -/
def vecOcc (w : DWord) : Nat :=
  let cnt := wf w 35 33 + 1
  match wOp w with
  | 5 | 6 | 7 => 4 * cnt
  | 8 | 9 => 2 * cnt + 7
  | 11 | 12 | 13 | 14 => 0
  | _ => if wf w 32 31 = 1 then 2 * cnt else cnt

/-- Token cost of a word (R252, R253). -/
def tokenCost (w : DWord) : Nat :=
  match wCls w, wOp w with
  | 0, _ => if wf w 31 30 = 0 then 4 else 6
  | 1, 2 => 0
  | 1, _ => 2
  | 2, _ => ceilDiv (vecOcc w) 8
  | 3, 5 => 8
  | 6, 2 => ceilDiv (4 + (if wf w 32 32 = 1 then 66 else 33) * (wf w 31 26 + 1)) 8
  | _, _ => 0

end Sys2Proof.Machine
end

