-- ==== Sys2Proof/Machine/Digest.lean ====
section
/-! DEFINITION. Check codes over byte strings: CRC-16 of flits (R213), CRC-24 of leas (R475), CRC-32C (R349), SHA-512
(FIPS 180-4, R291, R376, R391, R522), and the extended Hamming code of the Hank queues (R357). -/

namespace Sys2Proof

/-- One byte of an MSB-first CRC of `n` bits with polynomial `poly`. -/
def crcByte (n poly : Nat) (crc b : Nat) : Nat :=
  (List.range 8).foldl (fun c _ => if c.testBit (n - 1) then ((c * 2) % 2 ^ n) ^^^ poly else (c * 2) % 2 ^ n)
    (crc ^^^ (b <<< (n - 8)))

/-- CRC-16 of R213: polynomial 0x8BB7, initial value 0. -/
def crc16 (bs : Bytes) : Nat := bs.foldl (fun c b => crcByte 16 0x8BB7 c b.toNat) 0

/-- CRC-24 of R475: polynomial 0x864CFB, initial value 0xFFFFFF. -/
def crc24 (bs : Bytes) : Nat := bs.foldl (fun c b => crcByte 24 0x864CFB c b.toNat) 0xFFFFFF

/-- One byte of the reflected CRC-32C (R349). -/
def crc32cByte (crc b : Nat) : Nat :=
  (List.range 8).foldl (fun c _ => if c % 2 = 1 then (c / 2) ^^^ 0x82F63B78 else c / 2) (crc ^^^ b)

/-- CRC-32C of R349: initial value and final XOR 0xFFFFFFFF. -/
def crc32c (bs : Bytes) : Nat := (bs.foldl (fun c b => crc32cByte c b.toNat) 0xFFFFFFFF) ^^^ 0xFFFFFFFF

/-! SHA-512, on numbers below 2^64. The two halves of the working state are kept as histories, newest value first. -/

/-- The digits of the `k`-th root of `n`, from bit `b` - 1 down, on top of `r`. -/
def rootFrom (k n : Nat) : Nat → Nat → Nat
  | 0, r => r
  | b + 1, r => rootFrom k n b (if (r + 2 ^ b) ^ k ≤ n then r + 2 ^ b else r)
/-- The first 64 binary digits of the fraction of a `k`-th root; the integer part is below 8. -/
def rootFraction (k p : Nat) : Nat := rootFrom k (p * 2 ^ (64 * k)) 67 0 % 2 ^ 64
/-- The primes below `n`, for `n` at most 441. -/
def primesBelow (n : Nat) : List Nat :=
  (List.range n).filter fun m => decide (2 ≤ m) && (List.range' 2 19).all fun d => m % d != 0 || m == d
/-- The round constants come from the cube roots of the first 80 primes, the initial value from the square roots of the first 8. -/
def shaConstants : List Nat := (primesBelow 410).map (rootFraction 3)
def shaStart : List Nat := (primesBelow 20).map (rootFraction 2)

/-- A 64-bit value turned right by `n` bits. -/
def turned (n x : Nat) : Nat := x / 2 ^ n + x % 2 ^ n * 2 ^ (64 - n)
/-- The exclusive or of a value turned by each of some amounts. -/
def turnedBy (l : List Nat) (x : Nat) : Nat := l.foldl (fun a n => a ^^^ turned n x) 0
/-- The message schedule, newest word first, with `n` words more. -/
def shaSchedule : Nat → List Nat → List Nat
  | 0, w => w
  | n + 1, w =>
    let near := w.getD 1 0
    let far := w.getD 14 0
    let next := (turnedBy [19, 61] near ^^^ near / 64) + w.getD 6 0 + (turnedBy [1, 8] far ^^^ far / 128) + w.getD 15 0
    shaSchedule n (next % 2 ^ 64 :: w)
/-- One round with the sum of its constant and its schedule word. -/
def shaRound (v : List Nat × List Nat) (kw : Nat) : List Nat × List Nat :=
  let x (i : Nat) : Nat := v.1.getD i 0
  let y (i : Nat) : Nat := v.2.getD i 0
  let t := y 3 + turnedBy [14, 18, 41] (y 0) + (y 2 ^^^ (y 0 &&& (y 1 ^^^ y 2))) + kw
  let major := (x 0 &&& (x 1 ||| x 2)) ||| (x 1 &&& x 2)
  ((t + turnedBy [28, 34, 39] (x 0) + major) % 2 ^ 64 :: v.1.take 3, (x 3 + t) % 2 ^ 64 :: v.2.take 3)
/-- A block's 128 bytes taken into the hash value. -/
def shaBlock (h : List Nat) (blk : Bytes) : List Nat :=
  let words := (chunks 8 17 blk).map fun bs => bs.foldl (fun n b => n * 256 + b.toNat) 0
  let sums := List.zipWith (· + ·) shaConstants (shaSchedule 64 words.reverse).reverse
  let v := sums.foldl shaRound (h.take 4, h.drop 4)
  List.zipWith (fun a b => (a + b) % 2 ^ 64) h (v.1 ++ v.2)

/-- Big-endian bytes. -/
def natBe (v n : Nat) : Bytes := (natLe v n).reverse

/-- SHA-512 of a byte string: 64 bytes. -/
def sha512 (bs : Bytes) : Bytes :=
  let m := bs ++ [0x80#8] ++ List.replicate ((239 - bs.length % 128) % 128) 0 ++ natBe (8 * bs.length) 16
  ((chunks 128 (m.length / 128 + 1) m).foldl shaBlock shaStart).flatMap fun w => natBe w 8

/-! The extended Hamming (72,64) code (R357). -/

/-- Codeword positions of the 64 data bits: from 3 upward, powers of two left out. -/
def hamPos : List Nat := (List.range 72).filter fun p => decide (3 ≤ p) && !(p == 4 || p == 8 || p == 16 || p == 32 || p == 64)

/-- Parity of the data bits whose position has bit `c` set. -/
def hamBit (w : DWord) (c : Nat) : Bool :=
  hamPos.zipIdx.foldl (fun a q => if q.1.testBit c then a ^^ w.getLsbD q.2 else a) false

/-- Parity of a natural number's low `n` bits. -/
def parityOf (v n : Nat) : Bool := (List.range n).foldl (fun a i => a ^^ v.testBit i) false

/-- The 8 check bits of a word. -/
def hamCheck (w : DWord) : Byte :=
  let low := (List.range 7).foldl (fun a c => if hamBit w c then a + 2 ^ c else a) 0
  BitVec.ofNat 8 (low + (if parityOf w.toNat 64 ^^ parityOf low 7 then 128 else 0))

/-- What a read of a stored word finds. -/
inductive HamRead where
  | ok (w : DWord)
  | corrected (w : DWord)
  | bad
  deriving DecidableEq, Repr

/-- Read a stored word with its check bits (R357): syndrome zero is a good word (an error in check bit 7 alone is a corrected
one), syndrome non-zero with overall parity in error a single error, corrected, whatever position it names, and otherwise
uncorrectable. -/
def hamRead (w : DWord) (chk : Byte) : HamRead :=
  let low := chk.toNat % 128
  let syn := (List.range 7).foldl (fun a c => if hamBit w c ^^ low.testBit c then a + 2 ^ c else a) 0
  let odd := parityOf w.toNat 64 ^^ parityOf chk.toNat 8
  if syn = 0 then (if odd then .corrected w else .ok w)
  else if odd then
    match hamPos.findIdx? (· == syn) with
    | some k => .corrected (w ^^^ BitVec.ofNat 64 (2 ^ k))
    | none => .corrected w
  else .bad

end Sys2Proof
end

