-- ==== Sys2Proof/Machine/RegTable.lean ====
section
/-! DEFINITION. The register tables of the manual (one per block, in the order of the chapters): each register's
offset, its repetition (stride and count), and its fields with class, reset value and range rule (R14, R653). A field whose reset
the manual gives as a device, fuse, flash or image value stands here with 0 (log entry 4). -/

namespace Sys2Proof

/-- Register classes (R14). -/
inductive Cls where | boot | held | live | ro | w1c
  deriving DecidableEq, Repr

/-- Range rules (R653): any value; a range; a range whose 0 is treated as 1; low bits that must be 0. -/
inductive Rng where
  | any
  | within (lo hi : Nat)
  | map01 (hi : Nat)
  | zeroLow (n : Nat)
  deriving DecidableEq, Repr

/-- One field of a register. -/
structure RegField where
  hi : Nat
  lo : Nat
  cls : Cls
  reset : Nat
  rng : Rng
  deriving DecidableEq, Repr

/-- One register, or one repeated register: `dims` lists (stride in bytes, count), the outer repetition first. -/
structure RegDesc where
  off : Nat
  dims : List (Nat × Nat)
  fields : List RegField
  deriving DecidableEq, Repr

/-! Absolute addresses (R9); of a repeated register, of its first instance. -/
/-- TRN_STATUS (R75). -/
abbrev Reg.trnStatus : Nat := 0x100004
/-- TRN_PPS_CFG (R75). -/
abbrev Reg.trnPpsCfg : Nat := 0x100008
/-- TRN_TIME_LO (R75). -/
abbrev Reg.trnTimeLo : Nat := 0x100010
/-- TRN_TIME_HI (R75). -/
abbrev Reg.trnTimeHi : Nat := 0x100014
/-- TRN_RATE (R75). -/
abbrev Reg.trnRate : Nat := 0x100018
/-- TRN_PPS_ERR (R75). -/
abbrev Reg.trnPpsErr : Nat := 0x10001c
/-- TRN_PPS_CNT (R75). -/
abbrev Reg.trnPpsCnt : Nat := 0x100020
/-- TRN_PPS_REJ_CNT (R75). -/
abbrev Reg.trnPpsRejCnt : Nat := 0x100024
/-- TRN_TOD_SEC_LO (R75). -/
abbrev Reg.trnTodSecLo : Nat := 0x100028
/-- TRN_TOD_SEC_HI (R75). -/
abbrev Reg.trnTodSecHi : Nat := 0x10002c
/-- TRN_TOD_CTL (R75). -/
abbrev Reg.trnTodCtl : Nat := 0x100030
/-- TRN_HALF_SKEW (R75). -/
abbrev Reg.trnHalfSkew : Nat := 0x100034
/-- TRN_LEAD (R76). -/
abbrev Reg.trnLead : Nat := 0x180000
/-- TRN_PTURN_LO (R76). -/
abbrev Reg.trnPturnLo : Nat := 0x180004
/-- TRN_PTURN_HI (R76). -/
abbrev Reg.trnPturnHi : Nat := 0x180008
/-- TRN_PSTATE (R76). -/
abbrev Reg.trnPstate : Nat := 0x18000c
/-- TRN_WDG (R76). -/
abbrev Reg.trnWdg : Nat := 0x180010
/-- TRN_FULLSTALL_CNT (R76). -/
abbrev Reg.trnFullstallCnt : Nat := 0x180014
/-- TRN_STEP_STAMP_LO (R76). -/
abbrev Reg.trnStepStampLo : Nat := 0x180018
/-- TRN_STEP_STAMP_HI (R76). -/
abbrev Reg.trnStepStampHi : Nat := 0x18001c
/-- WRP_CSUM_TOL (R125). -/
abbrev Reg.wrpCsumTol : Nat := 0x200004
/-- WRP_SCAN_CFG (R125). -/
abbrev Reg.wrpScanCfg : Nat := 0x200008
/-- WRP_SCAN_STAT (R125). -/
abbrev Reg.wrpScanStat : Nat := 0x20000c
/-- WRP_SVC_ACTIVE (R125). -/
abbrev Reg.wrpSvcActive : Nat := 0x200010
/-- WRP_STATUS (R125). -/
abbrev Reg.wrpStatus : Nat := 0x200014
/-- WRP_SVC_TIMEOUT (R125). -/
abbrev Reg.wrpSvcTimeout : Nat := 0x200018
/-- WRP_SPILL_CNT (R125). -/
abbrev Reg.wrpSpillCnt : Nat := 0x210000
/-- WRP_SPILL_MAX (R125). -/
abbrev Reg.wrpSpillMax : Nat := 0x220000
/-- WRP_STATE (R127). -/
abbrev Reg.wrpState : Nat := 0x280000
/-- WRP_SVC_CMD (R127). -/
abbrev Reg.wrpSvcCmd : Nat := 0x280004
/-- WRP_SVC_RESULT (R127). -/
abbrev Reg.wrpSvcResult : Nat := 0x280008
/-- WRP_CAL_EPOCH (R127). -/
abbrev Reg.wrpCalEpoch : Nat := 0x28000c
/-- WRP_WEIGHT_EPOCH (R127). -/
abbrev Reg.wrpWeightEpoch : Nat := 0x280010
/-- WRP_WRITE_CNT (R127). -/
abbrev Reg.wrpWriteCnt : Nat := 0x280014
/-- WRP_MARGIN (R127). -/
abbrev Reg.wrpMargin : Nat := 0x280018
/-- WRP_QUAL (R127). -/
abbrev Reg.wrpQual : Nat := 0x28001c
/-- WRP_RANGE (R127). -/
abbrev Reg.wrpRange : Nat := 0x280020
/-- WRP_PASS_CNT (R127). -/
abbrev Reg.wrpPassCnt : Nat := 0x280024
/-- WRP_SAT_CNT (R127). -/
abbrev Reg.wrpSatCnt : Nat := 0x280028
/-- WRP_CSUM_ERR_CNT (R127). -/
abbrev Reg.wrpCsumErrCnt : Nat := 0x28002c
/-- WRP_REF_DEV (R127). -/
abbrev Reg.wrpRefDev : Nat := 0x280030
/-- WRP_DENSE_CNT (R127). -/
abbrev Reg.wrpDenseCnt : Nat := 0x280034
/-- WFT_STATUS (R162). -/
abbrev Reg.wftStatus : Nat := 0x300004
/-- WFT_QUAL_CFG (R162). -/
abbrev Reg.wftQualCfg : Nat := 0x300008
/-- WFT_ADPT_WAIT (R162). -/
abbrev Reg.wftAdptWait : Nat := 0x30000c
/-- WFT_RECAL_ACTIVE (R162). -/
abbrev Reg.wftRecalActive : Nat := 0x300010
/-- WFT_ADPT_CMD (R162). -/
abbrev Reg.wftAdptCmd : Nat := 0x300014
/-- WFT_ADPT_RESULT (R162). -/
abbrev Reg.wftAdptResult : Nat := 0x300018
/-- WFT_ENT_ID (R162). -/
abbrev Reg.wftEntId : Nat := 0x310000
/-- WFT_ENT_REF (R162). -/
abbrev Reg.wftEntRef : Nat := 0x310004
/-- WFT_ENT_INFO (R162). -/
abbrev Reg.wftEntInfo : Nat := 0x310008
/-- WFT_ENT_FLIPS (R162). -/
abbrev Reg.wftEntFlips : Nat := 0x31000c
/-- WFT_STATE (R164). -/
abbrev Reg.wftState : Nat := 0x380000
/-- WFT_SLOT0_ENT (R164). -/
abbrev Reg.wftSlot0Ent : Nat := 0x380004
/-- WFT_SLOT1_ENT (R164). -/
abbrev Reg.wftSlot1Ent : Nat := 0x380008
/-- WFT_QUAL (R164). -/
abbrev Reg.wftQual : Nat := 0x38000c
/-- WFT_PASS_CNT (R164). -/
abbrev Reg.wftPassCnt : Nat := 0x380010
/-- WFT_CSUM_ERR_CNT (R164). -/
abbrev Reg.wftCsumErrCnt : Nat := 0x380014
/-- WFT_RECAL_CNT (R164). -/
abbrev Reg.wftRecalCnt : Nat := 0x380018
/-- WFT_NOSLOT_CNT (R164). -/
abbrev Reg.wftNoslotCnt : Nat := 0x38001c
/-- WFT_FORM_MISS_CNT (R164). -/
abbrev Reg.wftFormMissCnt : Nat := 0x380020
/-- WFT_CLAMP_CNT (R164). -/
abbrev Reg.wftClampCnt : Nat := 0x380024
/-- WFT_SCRUB_ERR_CNT (R164). -/
abbrev Reg.wftScrubErrCnt : Nat := 0x380028
/-- WFT_WRITE_CNT (R164). -/
abbrev Reg.wftWriteCnt : Nat := 0x38002c
/-- IXC_STATUS (R241). -/
abbrev Reg.ixcStatus : Nat := 0xf00004
/-- IXC_RETRY_LIMIT (R241). -/
abbrev Reg.ixcRetryLimit : Nat := 0xf00008
/-- IXC_CW_UP (R241). -/
abbrev Reg.ixcCwUp : Nat := 0xf0000c
/-- IXC_SHARE (R241). -/
abbrev Reg.ixcShare : Nat := 0xf10000
/-- IXC_WAYMARK (R241). -/
abbrev Reg.ixcWaymark : Nat := 0xf20000
/-- IXC_TX_CNT (R242). -/
abbrev Reg.ixcTxCnt : Nat := 0xf80000
/-- IXC_RX_CNT (R242). -/
abbrev Reg.ixcRxCnt : Nat := 0xf80004
/-- IXC_CRC_CNT (R242). -/
abbrev Reg.ixcCrcCnt : Nat := 0xf80008
/-- IXC_RETRY_CNT (R242). -/
abbrev Reg.ixcRetryCnt : Nat := 0xf8000c
/-- IXC_SHARE_WAIT_CNT (R242). -/
abbrev Reg.ixcShareWaitCnt : Nat := 0xf80010
/-- IXC_STATE (R242). -/
abbrev Reg.ixcState : Nat := 0xf80014
/-- IXC_FOREIGN_CNT (R242). -/
abbrev Reg.ixcForeignCnt : Nat := 0xf80018
/-- IXC_CW_DEPTH_MAX (R242). -/
abbrev Reg.ixcCwDepthMax : Nat := 0xf8001c
/-- SRV_STATUS (R365). -/
abbrev Reg.srvStatus : Nat := 0x500004
/-- SRV_ADMIT_CFG (R365). -/
abbrev Reg.srvAdmitCfg : Nat := 0x500008
/-- SRV_FAULT_HOLD (R365). -/
abbrev Reg.srvFaultHold : Nat := 0x50000c
/-- SRV_XFER_CFG (R365). -/
abbrev Reg.srvXferCfg : Nat := 0x500010
/-- SRV_SESSIONS (R365). -/
abbrev Reg.srvSessions : Nat := 0x500014
/-- SRV_INPUT_FREE (R365). -/
abbrev Reg.srvInputFree : Nat := 0x500018
/-- SRV_EVQ_BIND (R365). -/
abbrev Reg.srvEvqBind : Nat := 0x50001c
/-- SRV_REFUSE_CNT (R365). -/
abbrev Reg.srvRefuseCnt : Nat := 0x500020
/-- SRV_HANK_CORR_CNT (R365). -/
abbrev Reg.srvHankCorrCnt : Nat := 0x500024
/-- SRV_HANK_UNCORR_CNT (R365). -/
abbrev Reg.srvHankUncorrCnt : Nat := 0x500028
/-- SRV_PCFG (R366). -/
abbrev Reg.srvPcfg : Nat := 0x580000
/-- SRV_CTX_CFG (R366). -/
abbrev Reg.srvCtxCfg : Nat := 0x580004
/-- SRV_CTX_SLICE (R366). -/
abbrev Reg.srvCtxSlice : Nat := 0x580008
/-- SRV_CTX_STACK (R366). -/
abbrev Reg.srvCtxStack : Nat := 0x58000c
/-- SRV_CTX_STACK_BASE (R366). -/
abbrev Reg.srvCtxStackBase : Nat := 0x580010
/-- SRV_CTX_LIMIT (R366). -/
abbrev Reg.srvCtxLimit : Nat := 0x580014
/-- SRV_SLICE_CTX (R366). -/
abbrev Reg.srvSliceCtx : Nat := 0x580018
/-- SRV_BRAID_BASE (R366). -/
abbrev Reg.srvBraidBase : Nat := 0x58001c
/-- SRV_BRAID_LINES (R366). -/
abbrev Reg.srvBraidLines : Nat := 0x580020
/-- SRV_RING_ADDR_LO (R366). -/
abbrev Reg.srvRingAddrLo : Nat := 0x580024
/-- SRV_RING_ADDR_HI (R366). -/
abbrev Reg.srvRingAddrHi : Nat := 0x580028
/-- SRV_RING_CFG (R366). -/
abbrev Reg.srvRingCfg : Nat := 0x58002c
/-- SRV_RING_FREE (R366). -/
abbrev Reg.srvRingFree : Nat := 0x580030
/-- SRV_PSTAT (R366). -/
abbrev Reg.srvPstat : Nat := 0x580034
/-- SRV_PAGES_FREE (R366). -/
abbrev Reg.srvPagesFree : Nat := 0x580038
/-- SRV_BRAID_NODES (R366). -/
abbrev Reg.srvBraidNodes : Nat := 0x58003c
/-- SRV_BRAID_HIT_CNT (R366). -/
abbrev Reg.srvBraidHitCnt : Nat := 0x580040
/-- SRV_BRAID_EVICT_CNT (R366). -/
abbrev Reg.srvBraidEvictCnt : Nat := 0x580044
/-- SRV_BRAID_COLLIDE_CNT (R366). -/
abbrev Reg.srvBraidCollideCnt : Nat := 0x580048
/-- SRV_DRAFT_CNT (R366). -/
abbrev Reg.srvDraftCnt : Nat := 0x58004c
/-- SRV_ACCEPT_CNT (R366). -/
abbrev Reg.srvAcceptCnt : Nat := 0x580050
/-- SRV_BADREC_CNT (R366). -/
abbrev Reg.srvBadrecCnt : Nat := 0x580054
/-- SRV_BRAID_SKIP_CNT (R366). -/
abbrev Reg.srvBraidSkipCnt : Nat := 0x580058
/-- SRV_CTX_HOME (R366). -/
abbrev Reg.srvCtxHome : Nat := 0x520000
/-- SRV_HANK_STAT (R367). -/
abbrev Reg.srvHankStat : Nat := 0x580100
/-- SRV_HANK_DATA_LO (R367). -/
abbrev Reg.srvHankDataLo : Nat := 0x580104
/-- SRV_HANK_DATA_HI (R367). -/
abbrev Reg.srvHankDataHi : Nat := 0x580108
/-- SRV_HANK_CORR (R367). -/
abbrev Reg.srvHankCorr : Nat := 0x58010c
/-- WGT_STATUS (R414). -/
abbrev Reg.wgtStatus : Nat := 0x600004
/-- WGT_LOAD_CFG (R414). -/
abbrev Reg.wgtLoadCfg : Nat := 0x600008
/-- WGT_SHARD_TIMEOUT (R414). -/
abbrev Reg.wgtShardTimeout : Nat := 0x60000c
/-- WGT_RECHECK_CFG (R414). -/
abbrev Reg.wgtRecheckCfg : Nat := 0x600010
/-- WGT_GOLD_SLOTS (R414). -/
abbrev Reg.wgtGoldSlots : Nat := 0x600014
/-- WGT_GOLD_FREE (R414). -/
abbrev Reg.wgtGoldFree : Nat := 0x600018
/-- WGT_ADPT_IMAGES (R414). -/
abbrev Reg.wgtAdptImages : Nat := 0x60001c
/-- WGT_BARRIER (R414). -/
abbrev Reg.wgtBarrier : Nat := 0x600020
/-- WGT_REQ_PENDING (R414). -/
abbrev Reg.wgtReqPending : Nat := 0x600024
/-- WGT_RECHECK_CNT (R414). -/
abbrev Reg.wgtRecheckCnt : Nat := 0x600028
/-- WGT_RECHECK_FAIL_CNT (R414). -/
abbrev Reg.wgtRecheckFailCnt : Nat := 0x60002c
/-- WGT_SHARD_RETRY_CNT (R414). -/
abbrev Reg.wgtShardRetryCnt : Nat := 0x600030
/-- WGT_XPORT_PUB (R414). -/
abbrev Reg.wgtXportPub : Nat := 0x600040
/-- WGT_XPORT_SIG (R414). -/
abbrev Reg.wgtXportSig : Nat := 0x600060
/-- WGT_JOB_CTL (R415). -/
abbrev Reg.wgtJobCtl : Nat := 0x680000
/-- WGT_JOB_MODEL (R415). -/
abbrev Reg.wgtJobModel : Nat := 0x680004
/-- WGT_JOB_EPOCH (R415). -/
abbrev Reg.wgtJobEpoch : Nat := 0x680008
/-- WGT_JOB_LIST_LO (R415). -/
abbrev Reg.wgtJobListLo : Nat := 0x68000c
/-- WGT_JOB_LIST_HI (R415). -/
abbrev Reg.wgtJobListHi : Nat := 0x680010
/-- WGT_JOB_LIST_KEY (R415). -/
abbrev Reg.wgtJobListKey : Nat := 0x680014
/-- WGT_JOB_LIST_CNT (R415). -/
abbrev Reg.wgtJobListCnt : Nat := 0x680018
/-- WGT_JOB_QPS (R415). -/
abbrev Reg.wgtJobQps : Nat := 0x68001c
/-- WGT_JOB_ADPT (R415). -/
abbrev Reg.wgtJobAdpt : Nat := 0x680020
/-- WGT_JOB_PART (R415). -/
abbrev Reg.wgtJobPart : Nat := 0x680024
/-- WGT_JOB_STAT (R415). -/
abbrev Reg.wgtJobStat : Nat := 0x680028
/-- WGT_JOB_PROGRESS (R415). -/
abbrev Reg.wgtJobProgress : Nat := 0x68002c
/-- WGT_MODEL_ID (R416). -/
abbrev Reg.wgtModelId : Nat := 0x680100
/-- WGT_MODEL_STAT (R416). -/
abbrev Reg.wgtModelStat : Nat := 0x680104
/-- WGT_MODEL_SIZE (R416). -/
abbrev Reg.wgtModelSize : Nat := 0x680108
/-- WGT_MODEL_MIN (R416). -/
abbrev Reg.wgtModelMin : Nat := 0x68010c
/-- WGT_MODEL_SWITCH_CNT (R416). -/
abbrev Reg.wgtModelSwitchCnt : Nat := 0x680110
/-- INT_STATUS (R451). -/
abbrev Reg.intStatus : Nat := 0x400004
/-- INT_TOL (R451). -/
abbrev Reg.intTol : Nat := 0x400008
/-- INT_SHADOW_CFG (R451). -/
abbrev Reg.intShadowCfg : Nat := 0x40000c
/-- INT_PHY_LIMIT (R451). -/
abbrev Reg.intPhyLimit : Nat := 0x400010
/-- INT_DRAIN (R451). -/
abbrev Reg.intDrain : Nat := 0x400014
/-- INT_MIRRORS (R451). -/
abbrev Reg.intMirrors : Nat := 0x400018
/-- INT_EGRESS (R451). -/
abbrev Reg.intEgress : Nat := 0x410000
/-- INT_SUSPECT (R451). -/
abbrev Reg.intSuspect : Nat := 0x420000
/-- INT_REPLAY_CNT (R452). -/
abbrev Reg.intReplayCnt : Nat := 0x480000
/-- INT_REPLAY_AGREE_CNT (R452). -/
abbrev Reg.intReplayAgreeCnt : Nat := 0x480004
/-- INT_REPLAY_DISAGREE_CNT (R452). -/
abbrev Reg.intReplayDisagreeCnt : Nat := 0x480008
/-- INT_RERUN_CNT (R452). -/
abbrev Reg.intRerunCnt : Nat := 0x48000c
/-- INT_STANDIN_CNT (R452). -/
abbrev Reg.intStandinCnt : Nat := 0x480010
/-- INT_ABANDON_CNT (R452). -/
abbrev Reg.intAbandonCnt : Nat := 0x480014
/-- INT_SHADOW_CNT (R452). -/
abbrev Reg.intShadowCnt : Nat := 0x480018
/-- INT_DISPUTE_CNT (R452). -/
abbrev Reg.intDisputeCnt : Nat := 0x48001c
/-- INT_RESIDUE_CNT (R452). -/
abbrev Reg.intResidueCnt : Nat := 0x480020
/-- INT_PARITY_CNT (R452). -/
abbrev Reg.intParityCnt : Nat := 0x480024
/-- INT_NOHOLD_CNT (R452). -/
abbrev Reg.intNoholdCnt : Nat := 0x480028
/-- INT_EGRESS_MAX (R452). -/
abbrev Reg.intEgressMax : Nat := 0x48002c
/-- INT_LAST_MILE_LO (R452). -/
abbrev Reg.intLastMileLo : Nat := 0x480030
/-- INT_LAST_MILE_HI (R452). -/
abbrev Reg.intLastMileHi : Nat := 0x480034
/-- INT_CMP_DROP_CNT (R452). -/
abbrev Reg.intCmpDropCnt : Nat := 0x480038
/-- SKN_STATUS (R498). -/
abbrev Reg.sknStatus : Nat := 0x700004
/-- SKN_MODE (R498). -/
abbrev Reg.sknMode : Nat := 0x700008
/-- SKN_GROUPS (R498). -/
abbrev Reg.sknGroups : Nat := 0x70000c
/-- SKN_ROUTE (R498). -/
abbrev Reg.sknRoute : Nat := 0x700010
/-- SKN_WIRE (R498). -/
abbrev Reg.sknWire : Nat := 0x700014
/-- SKN_RETRY_CFG (R498). -/
abbrev Reg.sknRetryCfg : Nat := 0x700018
/-- SKN_CTX_LINKS (R498). -/
abbrev Reg.sknCtxLinks : Nat := 0x70001c
/-- SKN_PATH_CMD (R498). -/
abbrev Reg.sknPathCmd : Nat := 0x700020
/-- SKN_PATH_PEER (R498). -/
abbrev Reg.sknPathPeer : Nat := 0x700024
/-- SKN_PATH_RESULT (R498). -/
abbrev Reg.sknPathResult : Nat := 0x700028
/-- SKN_FP_DROP_CNT (R498). -/
abbrev Reg.sknFpDropCnt : Nat := 0x70002c
/-- SKN_MISROUTE_CNT (R498). -/
abbrev Reg.sknMisrouteCnt : Nat := 0x700030
/-- SKN_E2E_CRC_CNT (R498). -/
abbrev Reg.sknE2eCrcCnt : Nat := 0x700034
/-- SKN_NOCHAN_CNT (R498). -/
abbrev Reg.sknNochanCnt : Nat := 0x700038
/-- SKN_INGRESS (R498). -/
abbrev Reg.sknIngress : Nat := 0x710000
/-- SKN_STATE (R499). -/
abbrev Reg.sknState : Nat := 0x780000
/-- SKN_CMD (R499). -/
abbrev Reg.sknCmd : Nat := 0x780004
/-- SKN_PEER (R499). -/
abbrev Reg.sknPeer : Nat := 0x780008
/-- SKN_PEER_GROUP (R499). -/
abbrev Reg.sknPeerGroup : Nat := 0x78000c
/-- SKN_PEER_FP_LO (R499). -/
abbrev Reg.sknPeerFpLo : Nat := 0x780010
/-- SKN_PEER_FP_HI (R499). -/
abbrev Reg.sknPeerFpHi : Nat := 0x780014
/-- SKN_PEER_WIRE (R499). -/
abbrev Reg.sknPeerWire : Nat := 0x780018
/-- SKN_EXPECT (R499). -/
abbrev Reg.sknExpect : Nat := 0x78001c
/-- SKN_PATH (R499). -/
abbrev Reg.sknPath : Nat := 0x780020
/-- SKN_PATH_PORT (R499). -/
abbrev Reg.sknPathPort : Nat := 0x780024
/-- SKN_TX_LEA_CNT (R499). -/
abbrev Reg.sknTxLeaCnt : Nat := 0x780028
/-- SKN_RX_LEA_CNT (R499). -/
abbrev Reg.sknRxLeaCnt : Nat := 0x78002c
/-- SKN_RETRY_CNT (R499). -/
abbrev Reg.sknRetryCnt : Nat := 0x780030
/-- SKN_FEC_CORR_CNT (R499). -/
abbrev Reg.sknFecCorrCnt : Nat := 0x780034
/-- SKN_FEC_UNCORR_CNT (R499). -/
abbrev Reg.sknFecUncorrCnt : Nat := 0x780038
/-- SKN_DROP_CNT (R499). -/
abbrev Reg.sknDropCnt : Nat := 0x78003c
/-- SKN_RECAL_CNT (R499). -/
abbrev Reg.sknRecalCnt : Nat := 0x780040
/-- SKN_LANE_STAT (R499). -/
abbrev Reg.sknLaneStat : Nat := 0x780080
/-- SKN_EYE_Q (R499). -/
abbrev Reg.sknEyeQ : Nat := 0x780084
/-- SKN_LANE_CMD (R499). -/
abbrev Reg.sknLaneCmd : Nat := 0x780088
/-- SKN_RDESC_DST (R499). -/
abbrev Reg.sknRdescDst : Nat := 0x781000
/-- SKN_RDESC_GRP (R499). -/
abbrev Reg.sknRdescGrp : Nat := 0x781004
/-- SKN_RDESC_JOB (R499). -/
abbrev Reg.sknRdescJob : Nat := 0x781008
/-- SKN_RDESC_CRED (R499). -/
abbrev Reg.sknRdescCred : Nat := 0x78100c
/-- ETH_STATUS (R501). -/
abbrev Reg.ethStatus : Nat := 0x800004
/-- ETH_RC_CFG (R501). -/
abbrev Reg.ethRcCfg : Nat := 0x800008
/-- ETH_CC_CFG (R501). -/
abbrev Reg.ethCcCfg : Nat := 0x80000c
/-- ETH_QOS (R501). -/
abbrev Reg.ethQos : Nat := 0x800010
/-- ETH_QP_LIMIT (R501). -/
abbrev Reg.ethQpLimit : Nat := 0x800014
/-- ETH_REFUSE_CNT (R501). -/
abbrev Reg.ethRefuseCnt : Nat := 0x800018
/-- ETH_PEER_CMD (R501). -/
abbrev Reg.ethPeerCmd : Nat := 0x800020
/-- ETH_PEER_IP (R501). -/
abbrev Reg.ethPeerIp : Nat := 0x800024
/-- ETH_RDESC_DST (R501). -/
abbrev Reg.ethRdescDst : Nat := 0x810000
/-- ETH_RDESC_QP (R501). -/
abbrev Reg.ethRdescQp : Nat := 0x810004
/-- ETH_PORT_STATE (R502). -/
abbrev Reg.ethPortState : Nat := 0x880000
/-- ETH_MAC_LO (R502). -/
abbrev Reg.ethMacLo : Nat := 0x880004
/-- ETH_MAC_HI (R502). -/
abbrev Reg.ethMacHi : Nat := 0x880008
/-- ETH_IPV4 (R502). -/
abbrev Reg.ethIpv4 : Nat := 0x88000c
/-- ETH_IPV6 (R502). -/
abbrev Reg.ethIpv6 : Nat := 0x880010
/-- ETH_VLAN (R502). -/
abbrev Reg.ethVlan : Nat := 0x880020
/-- ETH_RX_FRAMES (R502). -/
abbrev Reg.ethRxFrames : Nat := 0x880024
/-- ETH_TX_FRAMES (R502). -/
abbrev Reg.ethTxFrames : Nat := 0x880028
/-- ETH_RX_DROP (R502). -/
abbrev Reg.ethRxDrop : Nat := 0x88002c
/-- ETH_CE_RX (R502). -/
abbrev Reg.ethCeRx : Nat := 0x880030
/-- ETH_CNP_TX (R502). -/
abbrev Reg.ethCnpTx : Nat := 0x880034
/-- ETH_CNP_RX (R502). -/
abbrev Reg.ethCnpRx : Nat := 0x880038
/-- ETH_PAUSE_RX (R502). -/
abbrev Reg.ethPauseRx : Nat := 0x88003c
/-- ETH_PAUSE_TX (R502). -/
abbrev Reg.ethPauseTx : Nat := 0x880040
/-- ETH_FEC_CORR (R502). -/
abbrev Reg.ethFecCorr : Nat := 0x880044
/-- ETH_FEC_UNCORR (R502). -/
abbrev Reg.ethFecUncorr : Nat := 0x880048
/-- ETH_QP_STATE (R502). -/
abbrev Reg.ethQpState : Nat := 0x880100
/-- ETH_QP_LQPN (R502). -/
abbrev Reg.ethQpLqpn : Nat := 0x880104
/-- ETH_QP_RQPN (R502). -/
abbrev Reg.ethQpRqpn : Nat := 0x880108
/-- ETH_QP_RATE (R502). -/
abbrev Reg.ethQpRate : Nat := 0x88010c
/-- ETH_QP_RETRY_CNT (R502). -/
abbrev Reg.ethQpRetryCnt : Nat := 0x880110
/-- ETH_QP_RNR_CNT (R502). -/
abbrev Reg.ethQpRnrCnt : Nat := 0x880114
/-- CFG_STATUS (R550). -/
abbrev Reg.cfgStatus : Nat := 0x000004
/-- CFG_WSTAT (R550). -/
abbrev Reg.cfgWstat : Nat := 0x000008
/-- CFG_WADDR (R550). -/
abbrev Reg.cfgWaddr : Nat := 0x00000c
/-- CFG_WREJ_CNT (R550). -/
abbrev Reg.cfgWrejCnt : Nat := 0x000010
/-- CFG_LC (R550). -/
abbrev Reg.cfgLc : Nat := 0x000014
/-- CFG_REASON (R550). -/
abbrev Reg.cfgReason : Nat := 0x000018
/-- CFG_DEVICE (R550). -/
abbrev Reg.cfgDevice : Nat := 0x00001c
/-- CFG_SERIAL_LO (R550). -/
abbrev Reg.cfgSerialLo : Nat := 0x000020
/-- CFG_SERIAL_HI (R550). -/
abbrev Reg.cfgSerialHi : Nat := 0x000024
/-- CFG_STEPPING (R550). -/
abbrev Reg.cfgStepping : Nat := 0x000028
/-- CFG_SEQ (R550). -/
abbrev Reg.cfgSeq : Nat := 0x00002c
/-- CFG_FPRINT_LO (R550). -/
abbrev Reg.cfgFprintLo : Nat := 0x000030
/-- CFG_FPRINT_HI (R550). -/
abbrev Reg.cfgFprintHi : Nat := 0x000034
/-- CFG_STAGED_FP_LO (R550). -/
abbrev Reg.cfgStagedFpLo : Nat := 0x000038
/-- CFG_STAGED_FP_HI (R550). -/
abbrev Reg.cfgStagedFpHi : Nat := 0x00003c
/-- CFG_STAGED_SEQ (R550). -/
abbrev Reg.cfgStagedSeq : Nat := 0x000040
/-- CFG_SVN (R550). -/
abbrev Reg.cfgSvn : Nat := 0x000044
/-- CFG_CMD (R550). -/
abbrev Reg.cfgCmd : Nat := 0x000048
/-- CFG_CMD_ADDR_LO (R550). -/
abbrev Reg.cfgCmdAddrLo : Nat := 0x00004c
/-- CFG_CMD_ADDR_HI (R550). -/
abbrev Reg.cfgCmdAddrHi : Nat := 0x000050
/-- CFG_CMD_KEY (R550). -/
abbrev Reg.cfgCmdKey : Nat := 0x000054
/-- CFG_CMD_LEN (R550). -/
abbrev Reg.cfgCmdLen : Nat := 0x000058
/-- CFG_CMD_RESULT (R550). -/
abbrev Reg.cfgCmdResult : Nat := 0x00005c
/-- CFG_START_MS (R550). -/
abbrev Reg.cfgStartMs : Nat := 0x000060
/-- CFG_BOOT_DIG (R550). -/
abbrev Reg.cfgBootDig : Nat := 0x000080
/-- CFG_FW_DIG (R550). -/
abbrev Reg.cfgFwDig : Nat := 0x0000c0
/-- CFG_CFG_DIG (R550). -/
abbrev Reg.cfgCfgDig : Nat := 0x000100
/-- CFG_ATT_NONCE (R550). -/
abbrev Reg.cfgAttNonce : Nat := 0x000140
/-- CFG_LC_NONCE (R550). -/
abbrev Reg.cfgLcNonce : Nat := 0x000160
/-- CFG_ATT_REPORT (R550). -/
abbrev Reg.cfgAttReport : Nat := 0x000200
/-- CFG_ID_PUB (R550). -/
abbrev Reg.cfgIdPub : Nat := 0x000380
/-- CFG_ID_CERT (R550). -/
abbrev Reg.cfgIdCert : Nat := 0x0003c0
/-- CFG_TILE_OWNER (R550). -/
abbrev Reg.cfgTileOwner : Nat := 0x010000
/-- CFG_HOST (R550). -/
abbrev Reg.cfgHost : Nat := 0x020000
/-- CFG_PART_DEF (R551). -/
abbrev Reg.cfgPartDef : Nat := 0x080000
/-- CFG_PART_SLICE (R551). -/
abbrev Reg.cfgPartSlice : Nat := 0x080004
/-- CFG_PART_STACK_BASE (R551). -/
abbrev Reg.cfgPartStackBase : Nat := 0x080008
/-- CFG_PART_STACK_LINES (R551). -/
abbrev Reg.cfgPartStackLines : Nat := 0x08000c
/-- CFG_RDMA_BASE_LO (R551). -/
abbrev Reg.cfgRdmaBaseLo : Nat := 0x080100
/-- CFG_RDMA_BASE_HI (R551). -/
abbrev Reg.cfgRdmaBaseHi : Nat := 0x080104
/-- CFG_RDMA_LINES (R551). -/
abbrev Reg.cfgRdmaLines : Nat := 0x080108
/-- CFG_RDMA_HOST (R551). -/
abbrev Reg.cfgRdmaHost : Nat := 0x08010c
/-- CFG_RDMA_KEY (R551). -/
abbrev Reg.cfgRdmaKey : Nat := 0x080200
/-- CFG_RDMA_SLOT (R551). -/
abbrev Reg.cfgRdmaSlot : Nat := 0x080204
/-- GAU_STATUS (R584). -/
abbrev Reg.gauStatus : Nat := 0x900004
/-- GAU_REF_EN (R584). -/
abbrev Reg.gauRefEn : Nat := 0x900008
/-- GAU_REG_CFG (R584). -/
abbrev Reg.gauRegCfg : Nat := 0x90000c
/-- GAU_REG_CTL (R584). -/
abbrev Reg.gauRegCtl : Nat := 0x900010
/-- GAU_INJ_CFG (R584). -/
abbrev Reg.gauInjCfg : Nat := 0x900014
/-- GAU_INJ_MERGE_CNT (R584). -/
abbrev Reg.gauInjMergeCnt : Nat := 0x900018
/-- GAU_REG_PASS_CNT (R584). -/
abbrev Reg.gauRegPassCnt : Nat := 0x90001c
/-- GAU_REG_ENTRY (R584). -/
abbrev Reg.gauRegEntry : Nat := 0x910000
/-- GAU_INJ_ENTRY (R584). -/
abbrev Reg.gauInjEntry : Nat := 0x910040
/-- GAU_CH_RES (R585). -/
abbrev Reg.gauChRes : Nat := 0x980000
/-- GAU_CH_STAMP_LO (R585). -/
abbrev Reg.gauChStampLo : Nat := 0x980004
/-- GAU_CH_STAMP_HI (R585). -/
abbrev Reg.gauChStampHi : Nat := 0x980008
/-- GAU_CH_CNT (R585). -/
abbrev Reg.gauChCnt : Nat := 0x98000c
/-- CAL_STATUS (R587). -/
abbrev Reg.calStatus : Nat := 0xb00004
/-- CAL_WARP_CFG (R587). -/
abbrev Reg.calWarpCfg : Nat := 0xb00008
/-- CAL_SKN_CFG (R587). -/
abbrev Reg.calSknCfg : Nat := 0xb0000c
/-- CAL_ROUND (R587). -/
abbrev Reg.calRound : Nat := 0xb00010
/-- CAL_BG (R587). -/
abbrev Reg.calBg : Nat := 0xb00014
/-- CAL_FAIL_CNT (R587). -/
abbrev Reg.calFailCnt : Nat := 0xb00018
/-- CAL_LANE_CNT (R587). -/
abbrev Reg.calLaneCnt : Nat := 0xb0001c
/-- CAL_TC (R588). -/
abbrev Reg.calTc : Nat := 0xb80000
/-- CAL_STAMP_LO (R588). -/
abbrev Reg.calStampLo : Nat := 0xb80004
/-- CAL_STAMP_HI (R588). -/
abbrev Reg.calStampHi : Nat := 0xb80008
/-- CAL_RMS (R588). -/
abbrev Reg.calRms : Nat := 0xb8000c
/-- CAL_AGE (R588). -/
abbrev Reg.calAge : Nat := 0xb80010
/-- CAL_RESULT (R588). -/
abbrev Reg.calResult : Nat := 0xb80014
/-- CAL_CNT (R588). -/
abbrev Reg.calCnt : Nat := 0xb80018
/-- THM_STATUS (R590). -/
abbrev Reg.thmStatus : Nat := 0xa00004
/-- THM_WARN (R590). -/
abbrev Reg.thmWarn : Nat := 0xa00008
/-- THM_MODULE_MAX (R590). -/
abbrev Reg.thmModuleMax : Nat := 0xa0000c
/-- THM_HALF_MAX (R590). -/
abbrev Reg.thmHalfMax : Nat := 0xa00010
/-- THM_EXCLUDED (R590). -/
abbrev Reg.thmExcluded : Nat := 0xa00014
/-- THM_SCAN_CNT (R590). -/
abbrev Reg.thmScanCnt : Nat := 0xa00018
/-- THM_THROTTLE_CNT (R590). -/
abbrev Reg.thmThrottleCnt : Nat := 0xa0001c
/-- THM_LATCH_TEMP (R590). -/
abbrev Reg.thmLatchTemp : Nat := 0xa00020
/-- THM_DIST (R590). -/
abbrev Reg.thmDist : Nat := 0xa10000
/-- THM_IOD_MAX (R590). -/
abbrev Reg.thmIodMax : Nat := 0xa10200
/-- THM_SENS (R591). -/
abbrev Reg.thmSens : Nat := 0xa80000
/-- THM_SENS_DEV (R591). -/
abbrev Reg.thmSensDev : Nat := 0xa80004
/-- THM_SENS_TRIM (R591). -/
abbrev Reg.thmSensTrim : Nat := 0xa80008
/-- BST_STATUS (R619). -/
abbrev Reg.bstStatus : Nat := 0xc00004
/-- BST_CMD (R619). -/
abbrev Reg.bstCmd : Nat := 0xc00008
/-- BST_RESULT (R619). -/
abbrev Reg.bstResult : Nat := 0xc0000c
/-- BST_CFG (R619). -/
abbrev Reg.bstCfg : Nat := 0xc00010
/-- BST_RAW_UNIT (R619). -/
abbrev Reg.bstRawUnit : Nat := 0xc40000
/-- BST_RAW_CMD (R619). -/
abbrev Reg.bstRawCmd : Nat := 0xc40004
/-- BST_REC_INFO (R620). -/
abbrev Reg.bstRecInfo : Nat := 0xc80000
/-- BST_REC_START (R620). -/
abbrev Reg.bstRecStart : Nat := 0xc80004
/-- BST_REC_DUR (R620). -/
abbrev Reg.bstRecDur : Nat := 0xc80008
/-- BST_REC_FAILS (R620). -/
abbrev Reg.bstRecFails : Nat := 0xc8000c
/-- BST_CLS_ID (R620). -/
abbrev Reg.bstClsId : Nat := 0xc80010
/-- BST_CLS_UNITS (R620). -/
abbrev Reg.bstClsUnits : Nat := 0xc80014
/-- BST_CLS_DUR (R620). -/
abbrev Reg.bstClsDur : Nat := 0xc80018
/-- BST_FAIL (R620). -/
abbrev Reg.bstFail : Nat := 0xc81000
/-- CNT_STATUS (R622). -/
abbrev Reg.cntStatus : Nat := 0xd00004
/-- CNT_CTX_BIND (R622). -/
abbrev Reg.cntCtxBind : Nat := 0xd00008
/-- CNT_EVQ_DROP_CNT (R622). -/
abbrev Reg.cntEvqDropCnt : Nat := 0xd0000c
/-- CNT_LOG_DROP_CNT (R622). -/
abbrev Reg.cntLogDropCnt : Nat := 0xd00010
/-- CNT_EVENT_SEQ (R622). -/
abbrev Reg.cntEventSeq : Nat := 0xd00014
/-- CNT_LIFE_STARTS (R622). -/
abbrev Reg.cntLifeStarts : Nat := 0xd00020
/-- CNT_LIFE_HOURS (R622). -/
abbrev Reg.cntLifeHours : Nat := 0xd00024
/-- CNT_LIFE_SHUTDOWNS (R622). -/
abbrev Reg.cntLifeShutdowns : Nat := 0xd00028
/-- CNT_LIFE_LATCHES (R622). -/
abbrev Reg.cntLifeLatches : Nat := 0xd0002c
/-- CNT_SAMP_CFG (R622). -/
abbrev Reg.cntSampCfg : Nat := 0xd00100
/-- CNT_SAMP_STAT (R622). -/
abbrev Reg.cntSampStat : Nat := 0xd00104
/-- CNT_SAMP_LOST (R622). -/
abbrev Reg.cntSampLost : Nat := 0xd00108
/-- CNT_SAMP_NEXT (R622). -/
abbrev Reg.cntSampNext : Nat := 0xd0010c
/-- CNT_SAMP_REC (R622). -/
abbrev Reg.cntSampRec : Nat := 0xd00200
/-- CNT_MODE (R623). -/
abbrev Reg.cntMode : Nat := 0xd80000
/-- CNT_VAL_LO (R623). -/
abbrev Reg.cntValLo : Nat := 0xd80004
/-- CNT_VAL_HI (R623). -/
abbrev Reg.cntValHi : Nat := 0xd80008
/-- CNT_SMP_TURN_LO (R623). -/
abbrev Reg.cntSmpTurnLo : Nat := 0xd8000c
/-- CNT_SMP_TURN_HI (R623). -/
abbrev Reg.cntSmpTurnHi : Nat := 0xd80010
/-- CNT_SMP_SLOT_LO (R623). -/
abbrev Reg.cntSmpSlotLo : Nat := 0xd80014
/-- CNT_SMP_SLOT_HI (R623). -/
abbrev Reg.cntSmpSlotHi : Nat := 0xd80018
/-- CNT_SMP_TIME_LO (R623). -/
abbrev Reg.cntSmpTimeLo : Nat := 0xd8001c
/-- CNT_SMP_TIME_HI (R623). -/
abbrev Reg.cntSmpTimeHi : Nat := 0xd80020
/-- CNT_SMP_INFO (R623). -/
abbrev Reg.cntSmpInfo : Nat := 0xd80024
/-- PWR_STATUS (R647). -/
abbrev Reg.pwrStatus : Nat := 0xe00004
/-- PWR_STATE (R647). -/
abbrev Reg.pwrState : Nat := 0xe00008
/-- PWR_CMD (R647). -/
abbrev Reg.pwrCmd : Nat := 0xe0000c
/-- PWR_CMD_RESULT (R647). -/
abbrev Reg.pwrCmdResult : Nat := 0xe00010
/-- PWR_OP_LIMIT (R647). -/
abbrev Reg.pwrOpLimit : Nat := 0xe00014
/-- PWR_SHDN_CFG (R647). -/
abbrev Reg.pwrShdnCfg : Nat := 0xe00018
/-- PWR_IN_V (R647). -/
abbrev Reg.pwrInV : Nat := 0xe0001c
/-- PWR_IN_I (R647). -/
abbrev Reg.pwrInI : Nat := 0xe00020
/-- PWR_IN_P (R647). -/
abbrev Reg.pwrInP : Nat := 0xe00024
/-- PWR_HEADROOM (R647). -/
abbrev Reg.pwrHeadroom : Nat := 0xe00028
/-- PWR_TRIP_CNT (R647). -/
abbrev Reg.pwrTripCnt : Nat := 0xe0002c
/-- PWR_DIST_ALLOC (R648). -/
abbrev Reg.pwrDistAlloc : Nat := 0xe80000
/-- PWR_DIST_CAP (R648). -/
abbrev Reg.pwrDistCap : Nat := 0xe80004
/-- PWR_DIST_OC (R648). -/
abbrev Reg.pwrDistOc : Nat := 0xe80008
/-- PWR_DIST_V (R648). -/
abbrev Reg.pwrDistV : Nat := 0xe8000c
/-- PWR_DIST_I (R648). -/
abbrev Reg.pwrDistI : Nat := 0xe80010
/-- PWR_DIST_OC_CNT (R648). -/
abbrev Reg.pwrDistOcCnt : Nat := 0xe80014
/-- PWR_DIST_HOLD (R648). -/
abbrev Reg.pwrDistHold : Nat := 0xe80018

/-- Registers of the TRN block, part 1. -/
def regsTrn1 : List RegDesc := [
  ⟨0x00004, [], [⟨0, 0, .ro, 0, .any⟩, ⟨1, 1, .ro, 0, .any⟩, ⟨2, 2, .ro, 0, .any⟩, ⟨8, 8, .w1c, 0, .any⟩, ⟨9, 9, .w1c, 0, .any⟩, ⟨10, 10, .w1c, 0, .any⟩, ⟨11, 11, .w1c, 0, .any⟩]⟩,
  ⟨0x00008, [], [⟨0, 0, .boot, 0, .any⟩, ⟨15, 8, .boot, 100, .map01 255⟩]⟩,
  ⟨0x00010, [], [⟨31, 0, .ro, 0, .any⟩]⟩,
  ⟨0x00014, [], [⟨31, 0, .ro, 0, .any⟩]⟩,
  ⟨0x00018, [], [⟨31, 0, .ro, 0, .any⟩]⟩,
  ⟨0x0001c, [], [⟨31, 0, .ro, 0, .any⟩]⟩,
  ⟨0x00020, [], [⟨31, 0, .ro, 0, .any⟩]⟩,
  ⟨0x00024, [], [⟨31, 0, .ro, 0, .any⟩]⟩,
  ⟨0x00028, [], [⟨31, 0, .held, 0, .any⟩]⟩,
  ⟨0x0002c, [], [⟨31, 0, .held, 0, .any⟩]⟩,
  ⟨0x00030, [], [⟨0, 0, .held, 0, .any⟩, ⟨1, 1, .live, 0, .any⟩]⟩,
  ⟨0x00034, [], [⟨31, 0, .ro, 0, .any⟩]⟩,
  ⟨0x80000, [], [⟨10, 0, .held, 128, .within 16 1024⟩]⟩,
  ⟨0x80004, [], [⟨31, 0, .ro, 0, .any⟩]⟩,
  ⟨0x80008, [], [⟨31, 0, .ro, 0, .any⟩]⟩,
  ⟨0x8000c, [], [⟨1, 0, .ro, 0, .any⟩]⟩]
/-- Registers of the TRN block, part 2. -/
def regsTrn2 : List RegDesc := [
  ⟨0x80010, [], [⟨20, 0, .ro, 0, .any⟩]⟩,
  ⟨0x80014, [], [⟨31, 0, .ro, 0, .any⟩]⟩,
  ⟨0x80018, [], [⟨31, 0, .ro, 0, .any⟩]⟩,
  ⟨0x8001c, [], [⟨31, 0, .ro, 0, .any⟩]⟩]
/-- The register table of the TRN block. -/
def regsTrn : List RegDesc := regsTrn1 ++ regsTrn2
/-- Registers of the WRP block, part 1. -/
def regsWrp1 : List RegDesc := [
  ⟨0x00004, [], [⟨7, 0, .live, 12, .map01 255⟩]⟩,
  ⟨0x00008, [], [⟨0, 0, .held, 1, .any⟩, ⟨1, 1, .held, 1, .any⟩, ⟨15, 8, .held, 8, .within 1 15⟩, ⟨25, 16, .held, 24, .within 1 720⟩]⟩,
  ⟨0x0000c, [], [⟨0, 0, .ro, 0, .any⟩, ⟨31, 16, .ro, 0, .any⟩]⟩,
  ⟨0x00010, [], [⟨11, 0, .ro, 0, .any⟩]⟩,
  ⟨0x00014, [], [⟨0, 0, .w1c, 0, .any⟩, ⟨1, 1, .w1c, 0, .any⟩, ⟨2, 2, .w1c, 0, .any⟩]⟩,
  ⟨0x00018, [], [⟨15, 0, .boot, 2000, .any⟩]⟩,
  ⟨0x10000, [(1024, 16), (4, 256)], [⟨31, 0, .ro, 0, .any⟩]⟩,
  ⟨0x20000, [(1024, 16), (4, 256)], [⟨9, 0, .ro, 0, .any⟩]⟩,
  ⟨0x80000, [], [⟨3, 0, .ro, 0, .any⟩, ⟨7, 4, .ro, 0, .any⟩, ⟨11, 8, .ro, 0, .any⟩]⟩,
  ⟨0x80004, [], [⟨2, 0, .live, 0, .any⟩]⟩,
  ⟨0x80008, [], [⟨3, 0, .ro, 0, .any⟩, ⟨15, 8, .ro, 0, .any⟩]⟩,
  ⟨0x8000c, [], [⟨15, 0, .ro, 0, .any⟩]⟩,
  ⟨0x80010, [], [⟨15, 0, .ro, 0, .any⟩, ⟨16, 16, .ro, 0, .any⟩]⟩,
  ⟨0x80014, [], [⟨19, 0, .ro, 0, .any⟩]⟩,
  ⟨0x80018, [], [⟨4, 0, .ro, 0, .any⟩, ⟨27, 8, .ro, 0, .any⟩]⟩,
  ⟨0x8001c, [], [⟨15, 0, .ro, 0, .any⟩, ⟨24, 16, .ro, 0, .any⟩]⟩]
/-- Registers of the WRP block, part 2. -/
def regsWrp2 : List RegDesc := [
  ⟨0x80020, [], [⟨2, 0, .ro, 0, .any⟩, ⟨6, 4, .ro, 0, .any⟩]⟩,
  ⟨0x80024, [], [⟨31, 0, .ro, 0, .any⟩]⟩,
  ⟨0x80028, [], [⟨31, 0, .ro, 0, .any⟩]⟩,
  ⟨0x8002c, [], [⟨31, 0, .ro, 0, .any⟩]⟩,
  ⟨0x80030, [], [⟨9, 0, .ro, 0, .any⟩]⟩,
  ⟨0x80034, [], [⟨31, 0, .ro, 0, .any⟩]⟩]
/-- The register table of the WRP block. -/
def regsWrp : List RegDesc := regsWrp1 ++ regsWrp2
/-- Registers of the WFT block, part 1. -/
def regsWft1 : List RegDesc := [
  ⟨0x00004, [], [⟨0, 0, .w1c, 0, .any⟩, ⟨1, 1, .w1c, 0, .any⟩, ⟨2, 2, .w1c, 0, .any⟩, ⟨3, 3, .w1c, 0, .any⟩]⟩,
  ⟨0x00008, [], [⟨5, 0, .boot, 12, .within 4 24⟩, ⟨13, 8, .boot, 4, .within 0 8⟩, ⟨25, 16, .boot, 24, .within 0 720⟩]⟩,
  ⟨0x0000c, [], [⟨15, 0, .boot, 100, .within 1 65535⟩]⟩,
  ⟨0x00010, [], [⟨11, 0, .ro, 0, .any⟩]⟩,
  ⟨0x00014, [], [⟨9, 0, .live, 0, .any⟩, ⟨14, 12, .live, 0, .any⟩]⟩,
  ⟨0x00018, [], [⟨2, 0, .ro, 0, .any⟩, ⟨17, 8, .ro, 0, .any⟩]⟩,
  ⟨0x10000, [(16, 1024)], [⟨15, 0, .ro, 0, .any⟩, ⟨23, 16, .ro, 0, .any⟩, ⟨27, 24, .ro, 0, .any⟩, ⟨30, 28, .ro, 0, .any⟩]⟩,
  ⟨0x10004, [(16, 1024)], [⟨15, 0, .ro, 0, .any⟩, ⟨27, 16, .ro, 0, .any⟩]⟩,
  ⟨0x10008, [(16, 1024)], [⟨6, 0, .ro, 0, .any⟩, ⟨8, 8, .ro, 0, .any⟩]⟩,
  ⟨0x1000c, [(16, 1024)], [⟨31, 0, .ro, 0, .any⟩]⟩,
  ⟨0x80000, [], [⟨1, 0, .ro, 0, .any⟩, ⟨6, 4, .ro, 0, .any⟩, ⟨10, 8, .ro, 0, .any⟩, ⟨12, 12, .ro, 0, .any⟩, ⟨13, 13, .ro, 0, .any⟩]⟩,
  ⟨0x80004, [], [⟨9, 0, .ro, 0, .any⟩, ⟨15, 15, .ro, 0, .any⟩, ⟨22, 16, .ro, 0, .any⟩]⟩,
  ⟨0x80008, [], [⟨9, 0, .ro, 0, .any⟩, ⟨15, 15, .ro, 0, .any⟩, ⟨22, 16, .ro, 0, .any⟩]⟩,
  ⟨0x8000c, [], [⟨5, 0, .ro, 32, .any⟩, ⟨15, 8, .ro, 0, .any⟩]⟩,
  ⟨0x80010, [], [⟨31, 0, .ro, 0, .any⟩]⟩,
  ⟨0x80014, [], [⟨31, 0, .ro, 0, .any⟩]⟩]
/-- Registers of the WFT block, part 2. -/
def regsWft2 : List RegDesc := [
  ⟨0x80018, [], [⟨31, 0, .ro, 0, .any⟩]⟩,
  ⟨0x8001c, [], [⟨31, 0, .ro, 0, .any⟩]⟩,
  ⟨0x80020, [], [⟨31, 0, .ro, 0, .any⟩]⟩,
  ⟨0x80024, [], [⟨31, 0, .ro, 0, .any⟩]⟩,
  ⟨0x80028, [], [⟨31, 0, .ro, 0, .any⟩]⟩,
  ⟨0x8002c, [], [⟨31, 0, .ro, 0, .any⟩]⟩]
/-- The register table of the WFT block. -/
def regsWft : List RegDesc := regsWft1 ++ regsWft2
/-- Registers of the IXC block, part 1. -/
def regsIxc1 : List RegDesc := [
  ⟨0x00004, [], [⟨0, 0, .w1c, 0, .any⟩, ⟨1, 1, .w1c, 0, .any⟩, ⟨2, 2, .w1c, 0, .any⟩]⟩,
  ⟨0x00008, [], [⟨7, 0, .boot, 16, .map01 255⟩, ⟨15, 8, .boot, 16, .map01 255⟩]⟩,
  ⟨0x0000c, [], [⟨15, 0, .ro, 0, .any⟩]⟩,
  ⟨0x10000, [(32, 16), (4, 5)], [⟨8, 0, .boot, 0, .within 0 256⟩, ⟨16, 16, .boot, 0, .any⟩]⟩,
  ⟨0x20000, [(4, 13)], [⟨15, 0, .ro, 0, .any⟩, ⟨31, 16, .ro, 0, .any⟩]⟩,
  ⟨0x80000, [], [⟨31, 0, .ro, 0, .any⟩]⟩,
  ⟨0x80004, [], [⟨31, 0, .ro, 0, .any⟩]⟩,
  ⟨0x80008, [], [⟨31, 0, .ro, 0, .any⟩]⟩,
  ⟨0x8000c, [], [⟨31, 0, .ro, 0, .any⟩]⟩,
  ⟨0x80010, [], [⟨31, 0, .ro, 0, .any⟩]⟩,
  ⟨0x80014, [], [⟨1, 0, .ro, 0, .any⟩, ⟨5, 4, .ro, 0, .any⟩]⟩,
  ⟨0x80018, [], [⟨31, 0, .ro, 0, .any⟩]⟩,
  ⟨0x8001c, [], [⟨8, 0, .ro, 0, .any⟩]⟩]
/-- The register table of the IXC block. -/
def regsIxc : List RegDesc := regsIxc1
/-- Registers of the SRV block, part 1. -/
def regsSrv1 : List RegDesc := [
  ⟨0x00004, [], [⟨0, 0, .w1c, 0, .any⟩, ⟨1, 1, .w1c, 0, .any⟩, ⟨2, 2, .w1c, 0, .any⟩, ⟨3, 3, .w1c, 0, .any⟩]⟩,
  ⟨0x00008, [], [⟨15, 0, .live, 100, .map01 65535⟩, ⟨31, 16, .live, 600, .any⟩]⟩,
  ⟨0x0000c, [], [⟨15, 0, .live, 5000, .any⟩]⟩,
  ⟨0x00010, [], [⟨15, 0, .live, 50, .within 1 65535⟩]⟩,
  ⟨0x00014, [], [⟨14, 0, .ro, 0, .any⟩]⟩,
  ⟨0x00018, [], [⟨20, 0, .ro, 0, .any⟩]⟩,
  ⟨0x0001c, [], [⟨2, 0, .boot, 6, .any⟩]⟩,
  ⟨0x00020, [], [⟨31, 0, .ro, 0, .any⟩]⟩,
  ⟨0x00024, [], [⟨31, 0, .ro, 0, .any⟩]⟩,
  ⟨0x00028, [], [⟨31, 0, .ro, 0, .any⟩]⟩,
  ⟨0x80000, [], [⟨1, 0, .held, 0, .within 0 2⟩, ⟨9, 2, .held, 0, .any⟩, ⟨12, 10, .held, 0, .any⟩, ⟨18, 13, .held, 0, .any⟩, ⟨23, 19, .held, 0, .within 0 16⟩]⟩,
  ⟨0x80004, [], [⟨7, 0, .held, 0, .any⟩, ⟨13, 8, .held, 0, .any⟩, ⟨16, 16, .held, 0, .any⟩]⟩,
  ⟨0x80008, [], [⟨11, 0, .held, 0, .any⟩, ⟨27, 16, .held, 0, .any⟩]⟩,
  ⟨0x8000c, [], [⟨23, 0, .held, 0, .any⟩]⟩,
  ⟨0x80010, [], [⟨31, 0, .held, 0, .any⟩]⟩,
  ⟨0x80014, [], [⟨23, 0, .held, 0, .any⟩]⟩]
/-- Registers of the SRV block, part 2. -/
def regsSrv2 : List RegDesc := [
  ⟨0x80018, [], [⟨23, 0, .held, 0, .any⟩]⟩,
  ⟨0x8001c, [], [⟨31, 0, .held, 0, .any⟩]⟩,
  ⟨0x80020, [], [⟨31, 0, .held, 0, .any⟩]⟩,
  ⟨0x80024, [], [⟨31, 0, .held, 0, .zeroLow 3⟩]⟩,
  ⟨0x80028, [], [⟨31, 0, .held, 0, .any⟩]⟩,
  ⟨0x8002c, [], [⟨4, 0, .held, 12, .within 12 30⟩, ⟨11, 8, .held, 0, .any⟩]⟩,
  ⟨0x80030, [], [⟨31, 0, .ro, 0, .any⟩]⟩,
  ⟨0x80034, [], [⟨15, 0, .ro, 0, .any⟩, ⟨31, 16, .ro, 0, .any⟩]⟩,
  ⟨0x80038, [], [⟨23, 0, .ro, 0, .any⟩]⟩,
  ⟨0x8003c, [], [⟨23, 0, .ro, 0, .any⟩]⟩,
  ⟨0x80040, [], [⟨31, 0, .ro, 0, .any⟩]⟩,
  ⟨0x80044, [], [⟨31, 0, .ro, 0, .any⟩]⟩,
  ⟨0x80048, [], [⟨31, 0, .ro, 0, .any⟩]⟩,
  ⟨0x8004c, [], [⟨31, 0, .ro, 0, .any⟩]⟩,
  ⟨0x80050, [], [⟨31, 0, .ro, 0, .any⟩]⟩,
  ⟨0x80054, [], [⟨31, 0, .ro, 0, .any⟩]⟩]
/-- Registers of the SRV block, part 3. -/
def regsSrv3 : List RegDesc := [
  ⟨0x80058, [], [⟨31, 0, .ro, 0, .any⟩]⟩,
  ⟨0x20000, [(1024, 16), (4, 256)], [⟨11, 0, .held, 0, .any⟩]⟩,
  ⟨0x80100, [], [⟨13, 0, .ro, 0, .any⟩, ⟨16, 16, .ro, 1, .any⟩, ⟨17, 17, .ro, 0, .any⟩, ⟨24, 24, .w1c, 0, .any⟩, ⟨25, 25, .w1c, 0, .any⟩]⟩,
  ⟨0x80104, [], [⟨31, 0, .live, 0, .any⟩]⟩,
  ⟨0x80108, [], [⟨31, 0, .live, 0, .any⟩]⟩,
  ⟨0x8010c, [], [⟨31, 0, .ro, 0, .any⟩]⟩]
/-- The register table of the SRV block. -/
def regsSrv : List RegDesc := regsSrv1 ++ regsSrv2 ++ regsSrv3
/-- Registers of the WGT block, part 1. -/
def regsWgt1 : List RegDesc := [
  ⟨0x00004, [], [⟨0, 0, .w1c, 0, .any⟩, ⟨1, 1, .w1c, 0, .any⟩, ⟨2, 2, .w1c, 0, .any⟩, ⟨3, 3, .w1c, 0, .any⟩]⟩,
  ⟨0x00008, [], [⟨0, 0, .boot, 1, .any⟩, ⟨1, 1, .boot, 0, .any⟩]⟩,
  ⟨0x0000c, [], [⟨15, 0, .boot, 5000, .map01 65535⟩, ⟨31, 16, .boot, 60, .map01 65535⟩]⟩,
  ⟨0x00010, [], [⟨0, 0, .held, 1, .any⟩, ⟨31, 16, .boot, 256, .any⟩]⟩,
  ⟨0x00014, [], [⟨23, 0, .boot, 49152, .any⟩]⟩,
  ⟨0x00018, [], [⟨23, 0, .ro, 0, .any⟩]⟩,
  ⟨0x0001c, [], [⟨15, 0, .boot, 16384, .any⟩]⟩,
  ⟨0x00020, [], [⟨0, 0, .ro, 0, .any⟩, ⟨6, 4, .ro, 0, .any⟩, ⟨31, 16, .ro, 0, .any⟩]⟩,
  ⟨0x00024, [], [⟨6, 0, .ro, 0, .any⟩]⟩,
  ⟨0x00028, [], [⟨31, 0, .ro, 0, .any⟩]⟩,
  ⟨0x0002c, [], [⟨31, 0, .ro, 0, .any⟩]⟩,
  ⟨0x00030, [], [⟨31, 0, .ro, 0, .any⟩]⟩,
  ⟨0x00040, [(4, 8)], [⟨31, 0, .ro, 0, .any⟩]⟩,
  ⟨0x00060, [(4, 16)], [⟨31, 0, .ro, 0, .any⟩]⟩,
  ⟨0x80000, [], [⟨2, 0, .held, 0, .any⟩, ⟨8, 8, .held, 0, .any⟩]⟩,
  ⟨0x80004, [], [⟨31, 0, .held, 0, .any⟩]⟩]
/-- Registers of the WGT block, part 2. -/
def regsWgt2 : List RegDesc := [
  ⟨0x80008, [], [⟨15, 0, .held, 0, .any⟩, ⟨28, 16, .held, 0, .within 1 4096⟩]⟩,
  ⟨0x8000c, [], [⟨31, 0, .held, 0, .zeroLow 4⟩]⟩,
  ⟨0x80010, [], [⟨31, 0, .held, 0, .any⟩]⟩,
  ⟨0x80014, [], [⟨31, 0, .held, 0, .any⟩]⟩,
  ⟨0x80018, [], [⟨12, 0, .held, 0, .within 1 4096⟩]⟩,
  ⟨0x8001c, [], [⟨5, 0, .held, 0, .any⟩]⟩,
  ⟨0x80020, [], [⟨15, 0, .held, 0, .any⟩, ⟨23, 16, .held, 0, .any⟩, ⟨30, 24, .held, 0, .within 1 64⟩, ⟨31, 31, .held, 0, .any⟩]⟩,
  ⟨0x80024, [], [⟨3, 0, .held, 0, .any⟩]⟩,
  ⟨0x80028, [], [⟨2, 0, .ro, 0, .any⟩, ⟨11, 8, .ro, 0, .any⟩, ⟨27, 16, .ro, 0, .any⟩]⟩,
  ⟨0x8002c, [], [⟨15, 0, .ro, 0, .any⟩, ⟨31, 16, .ro, 0, .any⟩]⟩,
  ⟨0x80100, [], [⟨31, 0, .ro, 0, .any⟩]⟩,
  ⟨0x80104, [], [⟨1, 0, .ro, 0, .any⟩, ⟨11, 8, .ro, 0, .any⟩, ⟨31, 16, .ro, 0, .any⟩]⟩,
  ⟨0x80108, [], [⟨12, 0, .ro, 0, .any⟩, ⟨31, 16, .ro, 0, .any⟩]⟩,
  ⟨0x8010c, [], [⟨15, 0, .ro, 0, .any⟩]⟩,
  ⟨0x80110, [], [⟨31, 0, .ro, 0, .any⟩]⟩]
/-- The register table of the WGT block. -/
def regsWgt : List RegDesc := regsWgt1 ++ regsWgt2
/-- Registers of the INT block, part 1. -/
def regsInt1 : List RegDesc := [
  ⟨0x00004, [], [⟨0, 0, .ro, 0, .any⟩, ⟨1, 1, .w1c, 0, .any⟩, ⟨2, 2, .w1c, 0, .any⟩, ⟨3, 3, .w1c, 0, .any⟩, ⟨4, 4, .w1c, 0, .any⟩, ⟨5, 5, .w1c, 0, .any⟩]⟩,
  ⟨0x00008, [], [⟨3, 0, .live, 1, .within 1 4⟩, ⟨15, 8, .live, 40, .within 8 255⟩]⟩,
  ⟨0x0000c, [], [⟨4, 0, .live, 12, .within 0 20⟩, ⟨31, 16, .boot, 60, .map01 65535⟩]⟩,
  ⟨0x00010, [], [⟨7, 0, .boot, 16, .map01 255⟩]⟩,
  ⟨0x00014, [], [⟨3, 0, .ro, 0, .any⟩, ⟨15, 8, .ro, 0, .any⟩]⟩,
  ⟨0x00018, [], [⟨7, 0, .ro, 0, .any⟩]⟩,
  ⟨0x10000, [(8, 16), (4, 2)], [⟨16, 0, .boot, 0, .within 0 65536⟩]⟩,
  ⟨0x20000, [(32, 64), (4, 8)], [⟨31, 0, .ro, 0, .any⟩]⟩,
  ⟨0x80000, [], [⟨31, 0, .ro, 0, .any⟩]⟩,
  ⟨0x80004, [], [⟨31, 0, .ro, 0, .any⟩]⟩,
  ⟨0x80008, [], [⟨31, 0, .ro, 0, .any⟩]⟩,
  ⟨0x8000c, [], [⟨31, 0, .ro, 0, .any⟩]⟩,
  ⟨0x80010, [], [⟨31, 0, .ro, 0, .any⟩]⟩,
  ⟨0x80014, [], [⟨31, 0, .ro, 0, .any⟩]⟩,
  ⟨0x80018, [], [⟨31, 0, .ro, 0, .any⟩]⟩,
  ⟨0x8001c, [], [⟨31, 0, .ro, 0, .any⟩]⟩]
/-- Registers of the INT block, part 2. -/
def regsInt2 : List RegDesc := [
  ⟨0x80020, [], [⟨31, 0, .ro, 0, .any⟩]⟩,
  ⟨0x80024, [], [⟨31, 0, .ro, 0, .any⟩]⟩,
  ⟨0x80028, [], [⟨31, 0, .ro, 0, .any⟩]⟩,
  ⟨0x8002c, [], [⟨16, 0, .ro, 0, .any⟩]⟩,
  ⟨0x80030, [], [⟨31, 0, .ro, 0, .any⟩]⟩,
  ⟨0x80034, [], [⟨15, 0, .ro, 0, .any⟩]⟩,
  ⟨0x80038, [], [⟨31, 0, .ro, 0, .any⟩]⟩]
/-- The register table of the INT block. -/
def regsInt : List RegDesc := regsInt1 ++ regsInt2
/-- Registers of the SKN block, part 1. -/
def regsSkn1 : List RegDesc := [
  ⟨0x00004, [], [⟨0, 0, .w1c, 0, .any⟩, ⟨1, 1, .w1c, 0, .any⟩, ⟨2, 2, .w1c, 0, .any⟩, ⟨3, 3, .w1c, 0, .any⟩, ⟨4, 4, .w1c, 0, .any⟩, ⟨5, 5, .w1c, 0, .any⟩, ⟨6, 6, .w1c, 0, .any⟩]⟩,
  ⟨0x00008, [], [⟨0, 0, .boot, 0, .any⟩, ⟨1, 1, .boot, 0, .any⟩, ⟨14, 8, .boot, 0, .within 0 95⟩, ⟨24, 16, .boot, 0, .within 0 511⟩]⟩,
  ⟨0x0000c, [], [⟨9, 0, .boot, 1, .within 1 512⟩]⟩,
  ⟨0x00010, [], [⟨0, 0, .boot, 0, .any⟩, ⟨1, 1, .boot, 0, .any⟩]⟩,
  ⟨0x00014, [], [⟨7, 0, .ro, 2, .any⟩, ⟨15, 8, .ro, 1, .any⟩]⟩,
  ⟨0x00018, [], [⟨11, 0, .boot, 64, .any⟩, ⟨23, 16, .boot, 8, .map01 255⟩]⟩,
  ⟨0x0001c, [], [⟨7, 0, .boot, 255, .any⟩]⟩,
  ⟨0x00020, [], [⟨1, 0, .held, 0, .any⟩, ⟨6, 4, .held, 0, .any⟩, ⟨31, 16, .held, 0, .any⟩]⟩,
  ⟨0x00024, [], [⟨15, 0, .held, 0, .any⟩, ⟨18, 16, .held, 0, .any⟩]⟩,
  ⟨0x00028, [], [⟨2, 0, .ro, 0, .any⟩, ⟨7, 7, .ro, 0, .any⟩]⟩,
  ⟨0x0002c, [], [⟨31, 0, .ro, 0, .any⟩]⟩,
  ⟨0x00030, [], [⟨31, 0, .ro, 0, .any⟩]⟩,
  ⟨0x00034, [], [⟨31, 0, .ro, 0, .any⟩]⟩,
  ⟨0x00038, [], [⟨31, 0, .ro, 0, .any⟩]⟩,
  ⟨0x10000, [(8, 16), (4, 2)], [⟨16, 0, .boot, 0, .any⟩]⟩,
  ⟨0x80000, [], [⟨2, 0, .ro, 0, .any⟩, ⟨6, 4, .ro, 0, .any⟩, ⟨12, 8, .ro, 0, .any⟩, ⟨18, 16, .ro, 4, .any⟩, ⟨20, 20, .ro, 0, .any⟩]⟩]
/-- Registers of the SKN block, part 2. -/
def regsSkn2 : List RegDesc := [
  ⟨0x80004, [], [⟨1, 0, .held, 0, .any⟩]⟩,
  ⟨0x80008, [], [⟨15, 0, .ro, 0, .any⟩, ⟨25, 16, .ro, 0, .any⟩, ⟨28, 28, .ro, 0, .any⟩]⟩,
  ⟨0x8000c, [], [⟨15, 0, .ro, 0, .any⟩]⟩,
  ⟨0x80010, [], [⟨31, 0, .ro, 0, .any⟩]⟩,
  ⟨0x80014, [], [⟨31, 0, .ro, 0, .any⟩]⟩,
  ⟨0x80018, [], [⟨7, 0, .ro, 0, .any⟩, ⟨15, 8, .ro, 0, .any⟩, ⟨23, 16, .ro, 0, .any⟩]⟩,
  ⟨0x8001c, [], [⟨15, 0, .boot, 0, .any⟩, ⟨25, 16, .boot, 0, .any⟩, ⟨28, 28, .boot, 0, .any⟩, ⟨29, 29, .boot, 1, .any⟩]⟩,
  ⟨0x80020, [], [⟨15, 0, .ro, 0, .any⟩, ⟨31, 16, .ro, 0, .any⟩]⟩,
  ⟨0x80024, [], [⟨2, 0, .ro, 0, .any⟩]⟩,
  ⟨0x80028, [], [⟨31, 0, .ro, 0, .any⟩]⟩,
  ⟨0x8002c, [], [⟨31, 0, .ro, 0, .any⟩]⟩,
  ⟨0x80030, [], [⟨31, 0, .ro, 0, .any⟩]⟩,
  ⟨0x80034, [], [⟨31, 0, .ro, 0, .any⟩]⟩,
  ⟨0x80038, [], [⟨31, 0, .ro, 0, .any⟩]⟩,
  ⟨0x8003c, [], [⟨31, 0, .ro, 0, .any⟩]⟩,
  ⟨0x80040, [], [⟨31, 0, .ro, 0, .any⟩]⟩]
/-- Registers of the SKN block, part 3. -/
def regsSkn3 : List RegDesc := [
  ⟨0x80080, [], [⟨2, 0, .ro, 0, .any⟩]⟩,
  ⟨0x80084, [], [⟨15, 0, .ro, 0, .any⟩, ⟨31, 16, .ro, 0, .any⟩]⟩,
  ⟨0x80088, [], [⟨0, 0, .held, 0, .any⟩]⟩,
  ⟨0x81000, [(16, 512)], [⟨15, 0, .held, 0, .any⟩, ⟨19, 16, .held, 0, .any⟩, ⟨24, 20, .held, 0, .any⟩, ⟨31, 31, .held, 0, .any⟩]⟩,
  ⟨0x81004, [(16, 512)], [⟨8, 0, .held, 0, .any⟩, ⟨22, 16, .held, 0, .any⟩]⟩,
  ⟨0x81008, [(16, 512)], [⟨15, 0, .held, 0, .any⟩, ⟨26, 16, .held, 0, .any⟩]⟩,
  ⟨0x8100c, [(16, 512)], [⟨11, 0, .ro, 0, .any⟩]⟩]
/-- The register table of the SKN block. -/
def regsSkn : List RegDesc := regsSkn1 ++ regsSkn2 ++ regsSkn3
/-- Registers of the ETH block, part 1. -/
def regsEth1 : List RegDesc := [
  ⟨0x00004, [], [⟨0, 0, .w1c, 0, .any⟩, ⟨1, 1, .w1c, 0, .any⟩, ⟨2, 2, .w1c, 0, .any⟩, ⟨3, 3, .w1c, 0, .any⟩]⟩,
  ⟨0x00008, [], [⟨4, 0, .boot, 14, .any⟩, ⟨7, 5, .boot, 7, .any⟩, ⟨12, 8, .boot, 1, .any⟩, ⟨15, 13, .boot, 7, .any⟩]⟩,
  ⟨0x0000c, [], [⟨2, 0, .boot, 1, .within 1 4⟩, ⟨15, 8, .boot, 5, .any⟩, ⟨23, 16, .boot, 50, .any⟩, ⟨31, 24, .boot, 55, .any⟩]⟩,
  ⟨0x00010, [], [⟨5, 0, .boot, 26, .any⟩, ⟨13, 8, .boot, 48, .any⟩, ⟨16, 16, .boot, 0, .any⟩, ⟨22, 20, .boot, 3, .any⟩]⟩,
  ⟨0x00014, [], [⟨8, 0, .boot, 256, .within 0 256⟩, ⟨22, 16, .boot, 64, .within 0 64⟩]⟩,
  ⟨0x00018, [], [⟨31, 0, .ro, 0, .any⟩]⟩,
  ⟨0x00020, [], [⟨8, 0, .held, 0, .within 262 325⟩, ⟨13, 12, .held, 0, .any⟩, ⟨31, 16, .held, 0, .any⟩]⟩,
  ⟨0x00024, [(4, 4)], [⟨31, 0, .held, 0, .any⟩]⟩,
  ⟨0x10000, [(256, 16), (8, 32)], [⟨15, 0, .held, 0, .any⟩, ⟨19, 16, .held, 0, .any⟩, ⟨24, 20, .held, 0, .any⟩, ⟨31, 31, .held, 0, .any⟩]⟩,
  ⟨0x10004, [(256, 16), (8, 32)], [⟨8, 0, .held, 0, .any⟩, ⟨26, 16, .held, 0, .within 1 2047⟩]⟩,
  ⟨0x80000, [], [⟨0, 0, .ro, 0, .any⟩, ⟨1, 1, .ro, 0, .any⟩, ⟨2, 2, .ro, 0, .any⟩, ⟨5, 4, .ro, 0, .any⟩]⟩,
  ⟨0x80004, [], [⟨31, 0, .ro, 0, .any⟩]⟩,
  ⟨0x80008, [], [⟨15, 0, .ro, 0, .any⟩]⟩,
  ⟨0x8000c, [], [⟨31, 0, .boot, 0, .any⟩]⟩,
  ⟨0x80010, [(4, 4)], [⟨31, 0, .boot, 0, .any⟩]⟩,
  ⟨0x80020, [], [⟨11, 0, .boot, 0, .any⟩, ⟨14, 12, .boot, 0, .any⟩, ⟨16, 16, .boot, 0, .any⟩]⟩]
/-- Registers of the ETH block, part 2. -/
def regsEth2 : List RegDesc := [
  ⟨0x80024, [], [⟨31, 0, .ro, 0, .any⟩]⟩,
  ⟨0x80028, [], [⟨31, 0, .ro, 0, .any⟩]⟩,
  ⟨0x8002c, [], [⟨31, 0, .ro, 0, .any⟩]⟩,
  ⟨0x80030, [], [⟨31, 0, .ro, 0, .any⟩]⟩,
  ⟨0x80034, [], [⟨31, 0, .ro, 0, .any⟩]⟩,
  ⟨0x80038, [], [⟨31, 0, .ro, 0, .any⟩]⟩,
  ⟨0x8003c, [], [⟨31, 0, .ro, 0, .any⟩]⟩,
  ⟨0x80040, [], [⟨31, 0, .ro, 0, .any⟩]⟩,
  ⟨0x80044, [], [⟨31, 0, .ro, 0, .any⟩]⟩,
  ⟨0x80048, [], [⟨31, 0, .ro, 0, .any⟩]⟩,
  ⟨0x80100, [], [⟨1, 0, .ro, 0, .any⟩, ⟨5, 4, .ro, 0, .any⟩, ⟨9, 8, .ro, 0, .any⟩, ⟨14, 12, .ro, 0, .any⟩, ⟨31, 16, .ro, 0, .any⟩]⟩,
  ⟨0x80104, [], [⟨23, 0, .ro, 0, .any⟩]⟩,
  ⟨0x80108, [], [⟨23, 0, .ro, 0, .any⟩]⟩,
  ⟨0x8010c, [], [⟨17, 0, .ro, 200000, .any⟩]⟩,
  ⟨0x80110, [], [⟨31, 0, .ro, 0, .any⟩]⟩,
  ⟨0x80114, [], [⟨31, 0, .ro, 0, .any⟩]⟩]
/-- The register table of the ETH block. -/
def regsEth : List RegDesc := regsEth1 ++ regsEth2
/-- Registers of the CFG block, part 1. -/
def regsCfg1 : List RegDesc := [
  ⟨0x00004, [], [⟨3, 0, .ro, 1, .any⟩, ⟨4, 4, .ro, 0, .any⟩, ⟨5, 5, .ro, 0, .any⟩, ⟨6, 6, .ro, 0, .any⟩, ⟨7, 7, .ro, 0, .any⟩, ⟨15, 8, .ro, 0, .any⟩, ⟨16, 16, .ro, 0, .any⟩]⟩,
  ⟨0x00008, [], [⟨2, 0, .ro, 0, .any⟩]⟩,
  ⟨0x0000c, [], [⟨23, 0, .ro, 0, .any⟩]⟩,
  ⟨0x00010, [], [⟨31, 0, .ro, 0, .any⟩]⟩,
  ⟨0x00014, [], [⟨2, 0, .ro, 0, .any⟩, ⟨15, 8, .ro, 0, .any⟩, ⟨19, 16, .ro, 0, .any⟩, ⟨23, 20, .ro, 0, .any⟩]⟩,
  ⟨0x00018, [], [⟨7, 0, .ro, 0, .any⟩, ⟨11, 8, .ro, 0, .any⟩, ⟨23, 16, .ro, 0, .any⟩]⟩,
  ⟨0x0001c, [], [⟨15, 0, .boot, 0, .any⟩]⟩,
  ⟨0x00020, [], [⟨31, 0, .ro, 0, .any⟩]⟩,
  ⟨0x00024, [], [⟨31, 0, .ro, 0, .any⟩]⟩,
  ⟨0x00028, [], [⟨15, 0, .ro, 161, .any⟩, ⟨23, 16, .ro, 0, .any⟩]⟩,
  ⟨0x0002c, [], [⟨31, 0, .boot, 0, .any⟩]⟩,
  ⟨0x00030, [], [⟨31, 0, .boot, 0, .any⟩]⟩,
  ⟨0x00034, [], [⟨31, 0, .boot, 0, .any⟩]⟩,
  ⟨0x00038, [], [⟨31, 0, .ro, 0, .any⟩]⟩,
  ⟨0x0003c, [], [⟨31, 0, .ro, 0, .any⟩]⟩,
  ⟨0x00040, [], [⟨31, 0, .ro, 0, .any⟩]⟩]
/-- Registers of the CFG block, part 2. -/
def regsCfg2 : List RegDesc := [
  ⟨0x00044, [], [⟨7, 0, .ro, 0, .any⟩, ⟨15, 8, .ro, 0, .any⟩, ⟨23, 16, .ro, 0, .any⟩, ⟨31, 24, .ro, 0, .any⟩]⟩,
  ⟨0x00048, [], [⟨3, 0, .held, 0, .any⟩]⟩,
  ⟨0x0004c, [], [⟨31, 0, .held, 0, .any⟩]⟩,
  ⟨0x00050, [], [⟨31, 0, .held, 0, .any⟩]⟩,
  ⟨0x00054, [], [⟨31, 0, .held, 0, .any⟩]⟩,
  ⟨0x00058, [], [⟨31, 0, .held, 0, .any⟩]⟩,
  ⟨0x0005c, [], [⟨3, 0, .ro, 0, .any⟩, ⟨7, 7, .ro, 0, .any⟩, ⟨11, 8, .ro, 0, .any⟩]⟩,
  ⟨0x00060, [], [⟨15, 0, .ro, 0, .any⟩]⟩,
  ⟨0x00080, [(4, 16)], [⟨31, 0, .ro, 0, .any⟩]⟩,
  ⟨0x000c0, [(4, 16)], [⟨31, 0, .ro, 0, .any⟩]⟩,
  ⟨0x00100, [(4, 16)], [⟨31, 0, .ro, 0, .any⟩]⟩,
  ⟨0x00140, [(4, 8)], [⟨31, 0, .held, 0, .any⟩]⟩,
  ⟨0x00160, [(4, 8)], [⟨31, 0, .ro, 0, .any⟩]⟩,
  ⟨0x00200, [(4, 84)], [⟨31, 0, .ro, 0, .any⟩]⟩,
  ⟨0x00380, [(4, 8)], [⟨31, 0, .ro, 0, .any⟩]⟩,
  ⟨0x003c0, [(4, 32)], [⟨31, 0, .ro, 0, .any⟩]⟩]
/-- Registers of the CFG block, part 3. -/
def regsCfg3 : List RegDesc := [
  ⟨0x10000, [(4, 4096)], [⟨3, 0, .boot, 0, .any⟩, ⟨4, 4, .boot, 0, .any⟩]⟩,
  ⟨0x20000, [(16, 64), (4, 4)], [⟨31, 0, .boot, 0, .any⟩]⟩,
  ⟨0x80000, [], [⟨0, 0, .boot, 0, .any⟩, ⟨1, 1, .boot, 0, .any⟩, ⟨2, 2, .boot, 0, .any⟩, ⟨8, 3, .boot, 0, .any⟩]⟩,
  ⟨0x80004, [], [⟨11, 0, .boot, 0, .any⟩, ⟨28, 16, .boot, 0, .within 0 4096⟩]⟩,
  ⟨0x80008, [], [⟨31, 0, .boot, 0, .any⟩]⟩,
  ⟨0x8000c, [], [⟨31, 0, .boot, 0, .any⟩]⟩,
  ⟨0x80100, [(16, 16)], [⟨31, 0, .boot, 0, .zeroLow 6⟩]⟩,
  ⟨0x80104, [(16, 16)], [⟨31, 0, .boot, 0, .any⟩]⟩,
  ⟨0x80108, [(16, 16)], [⟨31, 0, .boot, 0, .any⟩]⟩,
  ⟨0x8010c, [(16, 16)], [⟨5, 0, .boot, 0, .any⟩, ⟨31, 31, .boot, 0, .any⟩]⟩,
  ⟨0x80200, [(8, 16)], [⟨31, 0, .held, 0, .any⟩]⟩,
  ⟨0x80204, [(8, 16)], [⟨8, 0, .held, 0, .within 6 261⟩]⟩]
/-- The register table of the CFG block. -/
def regsCfg : List RegDesc := regsCfg1 ++ regsCfg2 ++ regsCfg3
/-- Registers of the GAU block, part 1. -/
def regsGau1 : List RegDesc := [
  ⟨0x00004, [], [⟨0, 0, .ro, 0, .any⟩, ⟨1, 1, .ro, 0, .any⟩, ⟨2, 2, .ro, 0, .any⟩, ⟨3, 3, .ro, 0, .any⟩, ⟨8, 8, .w1c, 0, .any⟩, ⟨9, 9, .w1c, 0, .any⟩]⟩,
  ⟨0x00008, [], [⟨0, 0, .held, 0, .any⟩]⟩,
  ⟨0x0000c, [], [⟨3, 0, .held, 0, .any⟩, ⟨8, 8, .held, 0, .any⟩, ⟨31, 16, .held, 0, .any⟩]⟩,
  ⟨0x00010, [], [⟨0, 0, .live, 0, .any⟩, ⟨1, 1, .live, 0, .any⟩]⟩,
  ⟨0x00014, [], [⟨1, 0, .held, 0, .any⟩, ⟨4, 4, .held, 0, .any⟩, ⟨5, 5, .held, 0, .any⟩, ⟨6, 6, .held, 0, .any⟩]⟩,
  ⟨0x00018, [], [⟨31, 0, .ro, 0, .any⟩]⟩,
  ⟨0x0001c, [], [⟨31, 0, .ro, 0, .any⟩]⟩,
  ⟨0x10000, [(4, 16)], [⟨6, 0, .held, 0, .any⟩, ⟨14, 8, .held, 0, .any⟩, ⟨18, 16, .held, 0, .any⟩]⟩,
  ⟨0x10040, [(4, 4)], [⟨6, 0, .held, 0, .any⟩, ⟨14, 8, .held, 0, .any⟩, ⟨18, 16, .held, 0, .any⟩]⟩,
  ⟨0x80000, [], [⟨23, 0, .ro, 0, .any⟩, ⟨24, 24, .ro, 0, .any⟩, ⟨25, 25, .ro, 0, .any⟩, ⟨31, 31, .w1c, 0, .any⟩]⟩,
  ⟨0x80004, [], [⟨31, 0, .ro, 0, .any⟩]⟩,
  ⟨0x80008, [], [⟨31, 0, .ro, 0, .any⟩]⟩,
  ⟨0x8000c, [], [⟨31, 0, .ro, 0, .any⟩]⟩]
/-- The register table of the GAU block. -/
def regsGau : List RegDesc := regsGau1
/-- Registers of the CAL block, part 1. -/
def regsCal1 : List RegDesc := [
  ⟨0x00004, [], [⟨0, 0, .ro, 0, .any⟩, ⟨8, 8, .w1c, 0, .any⟩, ⟨9, 9, .w1c, 0, .any⟩]⟩,
  ⟨0x00008, [], [⟨9, 0, .held, 168, .within 0 720⟩, ⟨23, 16, .held, 8, .within 1 64⟩, ⟨30, 24, .held, 0, .within 0 40⟩]⟩,
  ⟨0x0000c, [], [⟨15, 0, .boot, 600, .any⟩, ⟨25, 16, .boot, 150, .any⟩, ⟨31, 26, .boot, 12, .any⟩]⟩,
  ⟨0x00010, [], [⟨4, 0, .ro, 0, .any⟩, ⟨5, 5, .ro, 0, .any⟩, ⟨31, 16, .ro, 0, .any⟩]⟩,
  ⟨0x00014, [], [⟨23, 0, .ro, 0, .any⟩]⟩,
  ⟨0x00018, [], [⟨31, 0, .ro, 0, .any⟩]⟩,
  ⟨0x0001c, [], [⟨31, 0, .ro, 0, .any⟩]⟩,
  ⟨0x80000, [], [⟨11, 0, .ro, 0, .any⟩, ⟨14, 12, .ro, 0, .any⟩]⟩,
  ⟨0x80004, [], [⟨31, 0, .ro, 0, .any⟩]⟩,
  ⟨0x80008, [], [⟨31, 0, .ro, 0, .any⟩]⟩,
  ⟨0x8000c, [], [⟨15, 0, .ro, 0, .any⟩, ⟨25, 16, .ro, 0, .any⟩]⟩,
  ⟨0x80010, [], [⟨15, 0, .ro, 0, .any⟩, ⟨23, 16, .ro, 0, .any⟩]⟩,
  ⟨0x80014, [], [⟨1, 0, .ro, 0, .any⟩]⟩,
  ⟨0x80018, [], [⟨31, 0, .ro, 0, .any⟩]⟩]
/-- The register table of the CAL block. -/
def regsCal : List RegDesc := regsCal1
/-- Registers of the THM block, part 1. -/
def regsThm1 : List RegDesc := [
  ⟨0x00004, [], [⟨0, 0, .ro, 0, .any⟩, ⟨1, 1, .ro, 0, .any⟩, ⟨2, 2, .ro, 0, .any⟩, ⟨8, 8, .w1c, 0, .any⟩, ⟨9, 9, .w1c, 0, .any⟩]⟩,
  ⟨0x00008, [], [⟨7, 0, .boot, 100, .within 60 100⟩]⟩,
  ⟨0x0000c, [], [⟨11, 0, .ro, 0, .any⟩, ⟨24, 16, .ro, 0, .any⟩]⟩,
  ⟨0x00010, [], [⟨11, 0, .ro, 0, .any⟩, ⟨27, 16, .ro, 0, .any⟩]⟩,
  ⟨0x00014, [], [⟨8, 0, .ro, 0, .any⟩]⟩,
  ⟨0x00018, [], [⟨31, 0, .ro, 0, .any⟩]⟩,
  ⟨0x0001c, [], [⟨31, 0, .ro, 0, .any⟩]⟩,
  ⟨0x00020, [], [⟨11, 0, .ro, 0, .any⟩, ⟨24, 16, .ro, 0, .any⟩]⟩,
  ⟨0x10000, [(4, 50)], [⟨11, 0, .ro, 0, .any⟩, ⟨14, 12, .ro, 0, .any⟩, ⟨19, 16, .ro, 0, .any⟩, ⟨20, 20, .ro, 0, .any⟩]⟩,
  ⟨0x10200, [(4, 2)], [⟨11, 0, .ro, 0, .any⟩]⟩,
  ⟨0x80000, [], [⟨11, 0, .ro, 0, .any⟩, ⟨16, 16, .ro, 0, .any⟩, ⟨17, 17, .ro, 0, .any⟩]⟩,
  ⟨0x80004, [], [⟨11, 0, .ro, 0, .any⟩, ⟨17, 16, .ro, 0, .any⟩]⟩,
  ⟨0x80008, [], [⟨11, 0, .ro, 0, .any⟩]⟩]
/-- The register table of the THM block. -/
def regsThm : List RegDesc := regsThm1
/-- Registers of the BST block, part 1. -/
def regsBst1 : List RegDesc := [
  ⟨0x00004, [], [⟨0, 0, .ro, 0, .any⟩, ⟨1, 1, .ro, 0, .any⟩, ⟨8, 8, .w1c, 0, .any⟩, ⟨9, 9, .w1c, 0, .any⟩]⟩,
  ⟨0x00008, [], [⟨3, 0, .held, 0, .any⟩, ⟨11, 8, .held, 0, .within 1 7⟩]⟩,
  ⟨0x0000c, [], [⟨2, 0, .ro, 0, .any⟩]⟩,
  ⟨0x00010, [], [⟨0, 0, .boot, 1, .any⟩]⟩,
  ⟨0x40000, [], [⟨3, 0, .held, 0, .within 1 12⟩, ⟨15, 15, .held, 0, .any⟩, ⟨31, 16, .held, 0, .any⟩]⟩,
  ⟨0x40004, [], [⟨0, 0, .held, 0, .any⟩]⟩,
  ⟨0x80000, [], [⟨2, 0, .ro, 0, .any⟩, ⟨6, 4, .ro, 0, .any⟩, ⟨11, 8, .ro, 0, .any⟩, ⟨16, 16, .ro, 0, .any⟩, ⟨17, 17, .ro, 0, .any⟩]⟩,
  ⟨0x80004, [], [⟨31, 0, .ro, 0, .any⟩]⟩,
  ⟨0x80008, [], [⟨31, 0, .ro, 0, .any⟩]⟩,
  ⟨0x8000c, [], [⟨15, 0, .ro, 0, .any⟩, ⟨31, 16, .ro, 0, .any⟩]⟩,
  ⟨0x80010, [], [⟨7, 0, .ro, 0, .any⟩, ⟨25, 16, .ro, 0, .any⟩]⟩,
  ⟨0x80014, [], [⟨15, 0, .ro, 0, .any⟩, ⟨31, 16, .ro, 0, .any⟩]⟩,
  ⟨0x80018, [], [⟨31, 0, .ro, 0, .any⟩]⟩,
  ⟨0x81000, [(16, 1024), (4, 4)], [⟨31, 0, .ro, 0, .any⟩]⟩]
/-- The register table of the BST block. -/
def regsBst : List RegDesc := regsBst1
/-- Registers of the CNT block, part 1. -/
def regsCnt1 : List RegDesc := [
  ⟨0x00004, [], [⟨0, 0, .w1c, 0, .any⟩, ⟨1, 1, .w1c, 0, .any⟩]⟩,
  ⟨0x00008, [], [⟨3, 0, .held, 0, .any⟩, ⟨4, 4, .held, 0, .any⟩]⟩,
  ⟨0x0000c, [], [⟨31, 0, .ro, 0, .any⟩]⟩,
  ⟨0x00010, [], [⟨31, 0, .ro, 0, .any⟩]⟩,
  ⟨0x00014, [], [⟨31, 0, .ro, 0, .any⟩]⟩,
  ⟨0x00020, [], [⟨31, 0, .ro, 0, .any⟩]⟩,
  ⟨0x00024, [], [⟨31, 0, .ro, 0, .any⟩]⟩,
  ⟨0x00028, [], [⟨31, 0, .ro, 0, .any⟩]⟩,
  ⟨0x0002c, [], [⟨31, 0, .ro, 0, .any⟩]⟩,
  ⟨0x00100, [(32, 2)], [⟨0, 0, .live, 0, .any⟩, ⟨1, 1, .held, 0, .any⟩, ⟨2, 2, .held, 0, .any⟩, ⟨7, 4, .held, 0, .any⟩, ⟨31, 8, .held, 4096, .within 64 16777215⟩]⟩,
  ⟨0x00104, [(32, 2)], [⟨12, 0, .ro, 0, .any⟩, ⟨16, 16, .w1c, 0, .any⟩]⟩,
  ⟨0x00108, [(32, 2)], [⟨31, 0, .ro, 0, .any⟩]⟩,
  ⟨0x0010c, [(32, 2)], [⟨0, 0, .live, 0, .any⟩]⟩,
  ⟨0x00200, [(32, 2), (4, 8)], [⟨31, 0, .ro, 0, .any⟩]⟩,
  ⟨0x80000, [], [⟨0, 0, .live, 0, .any⟩]⟩,
  ⟨0x80004, [], [⟨31, 0, .ro, 0, .any⟩]⟩]
/-- Registers of the CNT block, part 2. -/
def regsCnt2 : List RegDesc := [
  ⟨0x80008, [], [⟨15, 0, .ro, 0, .any⟩]⟩,
  ⟨0x8000c, [], [⟨31, 0, .ro, 0, .any⟩]⟩,
  ⟨0x80010, [], [⟨31, 0, .ro, 0, .any⟩]⟩,
  ⟨0x80014, [], [⟨31, 0, .ro, 0, .any⟩]⟩,
  ⟨0x80018, [], [⟨15, 0, .ro, 0, .any⟩]⟩,
  ⟨0x8001c, [], [⟨31, 0, .ro, 0, .any⟩]⟩,
  ⟨0x80020, [], [⟨31, 0, .ro, 0, .any⟩]⟩,
  ⟨0x80024, [], [⟨11, 0, .ro, 0, .any⟩, ⟨16, 16, .ro, 0, .any⟩]⟩]
/-- The register table of the CNT block. -/
def regsCnt : List RegDesc := regsCnt1 ++ regsCnt2
/-- Registers of the PWR block, part 1. -/
def regsPwr1 : List RegDesc := [
  ⟨0x00004, [], [⟨0, 0, .ro, 0, .any⟩, ⟨2, 1, .ro, 0, .any⟩, ⟨8, 8, .w1c, 0, .any⟩, ⟨9, 9, .w1c, 0, .any⟩]⟩,
  ⟨0x00008, [], [⟨2, 0, .ro, 0, .any⟩]⟩,
  ⟨0x0000c, [], [⟨1, 0, .held, 0, .any⟩]⟩,
  ⟨0x00010, [], [⟨1, 0, .ro, 0, .any⟩, ⟨7, 7, .ro, 0, .any⟩]⟩,
  ⟨0x00014, [], [⟨10, 0, .live, 2000, .within 1200 2000⟩]⟩,
  ⟨0x00018, [], [⟨15, 0, .boot, 2000, .any⟩]⟩,
  ⟨0x0001c, [], [⟨15, 0, .ro, 0, .any⟩]⟩,
  ⟨0x00020, [], [⟨15, 0, .ro, 0, .any⟩]⟩,
  ⟨0x00024, [], [⟨15, 0, .ro, 0, .any⟩]⟩,
  ⟨0x00028, [], [⟨7, 0, .boot, 8, .any⟩, ⟨26, 16, .boot, 520, .any⟩]⟩,
  ⟨0x0002c, [], [⟨31, 0, .ro, 0, .any⟩]⟩,
  ⟨0x80000, [], [⟨19, 0, .boot, 0, .any⟩]⟩,
  ⟨0x80004, [], [⟨19, 0, .ro, 0, .any⟩, ⟨25, 20, .ro, 32, .any⟩]⟩,
  ⟨0x80008, [], [⟨5, 0, .boot, 48, .within 30 60⟩]⟩,
  ⟨0x8000c, [], [⟨9, 0, .ro, 0, .any⟩]⟩,
  ⟨0x80010, [], [⟨15, 0, .ro, 0, .any⟩]⟩]
/-- Registers of the PWR block, part 2. -/
def regsPwr2 : List RegDesc := [
  ⟨0x80014, [], [⟨31, 0, .ro, 0, .any⟩]⟩,
  ⟨0x80018, [], [⟨4, 0, .ro, 0, .any⟩]⟩]
/-- The register table of the PWR block. -/
def regsPwr : List RegDesc := regsPwr1 ++ regsPwr2

/-- The register table of block `b`, in the order of R9. -/
def regsOf : Nat → List RegDesc
  | 0 => regsCfg
  | 1 => regsTrn
  | 2 => regsWrp
  | 3 => regsWft
  | 4 => regsInt
  | 5 => regsSrv
  | 6 => regsWgt
  | 7 => regsSkn
  | 8 => regsEth
  | 9 => regsGau
  | 10 => regsThm
  | 11 => regsCal
  | 12 => regsBst
  | 13 => regsCnt
  | 14 => regsPwr
  | 15 => regsIxc
  | _ => []

/-- Whether `off` is an instance of the repetition `dims` that starts at 0. -/
def inDims : List (Nat × Nat) → Nat → Bool
  | [], off => off == 0
  | (stride, n) :: ds, off => decide (off / stride < n) && inDims ds (off % stride)

/-- The descriptor of the register at an absolute address, or none at a reserved address (R9, R12). -/
def regDesc? (addr : Nat) : Option RegDesc :=
  (regsOf (addr / 0x100000)).find? fun d =>
    decide (d.off ≤ addr % 0x100000) && inDims d.dims (addr % 0x100000 - d.off)

/-- The value of a field in a register word. -/
def RegField.get (f : RegField) (w : Nat) : Nat := (w >>> f.lo) % 2 ^ (f.hi - f.lo + 1)

/-- The register word with a field replaced. -/
def RegField.put (f : RegField) (w v : Nat) : Nat :=
  w - (RegField.get f w) <<< f.lo + (v % 2 ^ (f.hi - f.lo + 1)) <<< f.lo

/-- The reset value of a register: its fields at their reset values, reserved bits 0. -/
def RegDesc.reset (d : RegDesc) : Nat := d.fields.foldl (fun w f => w + f.reset <<< f.lo) 0

end Sys2Proof
end

