-- ==== Sys2Proof/Config.lean ====
section
/-! DEFINITION. What an implementation fixes and what the manual leaves open. The opaque constants are FREE VALUES: no proof can
see what they are. `free*` constants are applied to the counter `freeCtr` of the state, which the step advances (log
entry 7); the cryptographic primitives are fixed functions of their inputs that the model does not compute (log entry 8). -/

namespace Sys2Proof

/-- The pulse-per-second servo (R66): the new TRN_RATE from the old rate, the phase error and the accepted-edge count. The manual
fixes only its limit of ±100 ppm. -/
opaque Config.servo : Int → Int → Nat → Int
/-- Random words of the life-cycle nonce (R542, CFG_LC_NONCE). -/
opaque Config.freeNonce : Nat → Word
/-- The random remote key of a management queue pair's register window (R460). -/
opaque Config.freeKey : Nat → Word
/-- A byte the manual leaves open. -/
opaque Config.freeByte : Nat → Byte
/-- A word the manual leaves open. -/
opaque Config.freeWord : Nat → Word

/-- A bit the manual leaves open. -/
opaque Config.freeBit : Nat → Bool

/-- The skew between stamps of simultaneous boundaries in the two halves (R72), numbered; taken modulo 41 and less 20, in ns. -/
opaque Config.halfSkew : Nat → Nat
/-- A cell the manual leaves open: the cells of an interrupted write, or of a slot that a master copy of unknown place rewrites. -/
opaque Config.freeCell : Nat → Nat → BitVec 4
/-- The cell a quantising write stores where the quotient of a master value and a scale, both as BF16 bits, is not a number (R159 states
no result): the same for the same operands (R161). -/
opaque Config.nanCell : Nat → Nat → BitVec 4
/-- The lower of the two codes between which a converter of a Warp array lies, as a deviation from the ideal code, under the conditions of
R104: array key, calibration epoch, band, form, group scale, operand, and converter. -/
opaque Config.warpBase : Nat → Nat → Nat → Nat → Nat → List Int → Nat → Int
/-- The district, 0 to 49, whose rail segment feeds a unit without a spare, by the unit's index (R60, R449): the manual does not say which
district a spine, a lane group or a stack PHY lies in. -/
opaque Config.railOf : Nat → Nat
/-- The trim of a Weft line that the recalibration with a given number set (R133, R147). -/
opaque Config.weftTrim : Nat → Nat → Nat
/-- Whether a partition's stop has reached a Spindle by its next slot; within the lag of R50 the moment is not fixed (R310, R430). -/
opaque Config.stopReaches : Nat → Bool
/-- Whether the progress tree delivers the true minimum in a slot, where the lag of R50 leaves it open. -/
opaque Config.treeDelivers : Nat → Bool

/-- Ed25519 verification of a message under a 32-byte public key. -/
opaque Config.ed25519Verify : Bytes → Bytes → Bytes → Bool
/-- Ed25519 signature by the device's identity key. -/
opaque Config.ed25519Sign : Bytes → Bytes
/-- X25519 of the device's transport private key with a public key. -/
opaque Config.x25519 : Bytes → Bytes
/-- HKDF with SHA-512 of key material, salt and info, to a given length. -/
opaque Config.hkdf : Bytes → Bytes → Bytes → Nat → Bytes
/-- AES-256-GCM open: key, nonce, additional data, ciphertext with tag; none when the tag fails. -/
opaque Config.aesGcmOpen : Bytes → Bytes → Bytes → Bytes → Option Bytes

/-- Bytes of a data slice (R200). -/
def Config.sliceBytes : Nat := 262144
/-- Bytes of one stack, 36 GB (R2). -/
def Config.stackBytes : Nat := 36000000000
/-- Lines of one stack (R532). -/
def Config.stackLines : Nat := 562500000
/-- Hold buffer bytes (R208). -/
def Config.holdBytes : Nat := 32768
/-- What a byte that nothing has written reads as: slices, stacks (log entry 3). -/
def Config.blankByte : Byte := 0

end Sys2Proof
end

