-- ==== Sys2Proof/Machine/Parts.lean ====
section
/-! DEFINITION. The parts of the module's state that the chapters name, as plain data: access contexts, time, districts,
Spindles with their buffers, Warp and Weft arrays, adapter entries, partitions, the integrity engine. The serving engine,
weights, links, start, calibration, thermal, self-test and power parts stand in Parts2. -/

namespace Sys2Proof.Machine

/-- The four variants (R2). -/
inductive Variant where | s0i1 | s2i1 | s2i2 | s4i2
  deriving DecidableEq, Repr, Inhabited

/-! ## Access contexts (R16-R22) -/

/-- The counter sample held for a context (R602-R604). -/
structure CntSample where
  value : Nat
  turn : DWord
  slot : Nat
  time : DWord
  moved : Bool
  phys : Nat
  deriving DecidableEq, Repr, Inhabited

/-- One access context: its binding, select registers and latches per block, staged Hank half (R360), counter sample,
and the words its last read returned (the model's own observation). -/
structure Ctx where
  bound : Bool
  qp : Nat
  sel : SMap Word
  latch : SMap Word
  stage : Option (Nat × Word)
  sample : CntSample
  /-- physical tile of the previous sample of each logical tile, plus 1 (R604) -/
  seen : SMap Nat
  read : List Word
  /-- the latest access of one word completed with an error (R10) -/
  err : Bool
  deriving DecidableEq, Repr, Inhabited

/-- A context after reset: unbound, every latch 0. -/
def Ctx.init : Ctx := ⟨false, 0, [], [], none, ⟨0, 0, 0, 0, false, 0⟩, [], [], false⟩

/-! ## The time counter (R64-R71) -/

/-- Discipline states (R66). -/
inductive Disc where | acquire | lock | holdover
  deriving DecidableEq, Repr, Inhabited

/-- The time counter and its discipline. -/
structure TimeSt where
  /-- nanoseconds -/
  cnt : DWord
  /-- 2^-32 ns accumulator -/
  frac : Word
  disc : Disc
  lastRise : Option DWord
  lastAcc : Option DWord
  rejRun : Nat
  accRun : Nat
  /-- armed time of day: seconds and the stamp at which the write of ARM completed (R69) -/
  armed : Option (DWord × DWord)
  deriving DecidableEq, Repr, Inhabited

/-! ## Districts (R61, R63, R579, R626, R628, R630) -/

/-- A column district: band, and the cap factors in force and those that wait for the next window boundary. -/
structure DistSt where
  band : Nat
  /-- thermal throttle (R63), input undervoltage (R626), over-power steps (R628), over-current hold (R630) in force -/
  thr : Bool
  uv : Bool
  op : Nat
  hold : Bool
  deriving DecidableEq, Repr, Inhabited

def DistSt.init : DistSt := ⟨0, false, false, 0, false⟩

/-! ## Spindles -/

/-- A vector register (R245): format tag and lanes; no lanes listed means +0 in all 128. -/
structure VReg where
  tag : Nat
  lanes : List Word
  deriving DecidableEq, Repr, Inhabited

def VReg.init : VReg := ⟨6, []⟩

/-- An open loop of CTL.LOOP (R283): first body word, last body word, further iterations. -/
structure LoopFrame where
  first : Nat
  last : Nat
  left : Nat
  deriving DecidableEq, Repr, Inhabited

/-- A receive channel (R204-R206, R219, R270, R294): the descriptor and the entries in the channel buffer pool. -/
structure RecvCh where
  /-- the descriptor stands in the image -/
  valid : Bool
  sender : Nat
  sendCh : Nat
  depth : Nat
  held : Bool
  entries : List Flit
  heldCnt : Nat
  /-- entries ahead of a flit that failed the end-to-end check: what came after it is not consumed in its place (R219) -/
  gap : Option Nat
  deriving DecidableEq, Repr, Inhabited

def RecvCh.init : RecvCh := ⟨false, 0, 0, 0, false, [], 0, none⟩

/-- A send channel (R48, R268): the descriptor, its spine override and its credit counter. -/
structure SendCh where
  valid : Bool
  dest : Nat
  chan : Nat
  depth : Nat
  spine : Option Nat
  credit : Nat
  deriving DecidableEq, Repr, Inhabited

def SendCh.init : SendCh := ⟨false, 0, 0, 0, none, 0⟩

/-- What R252 says an instruction holds: the four port sides of the data slice, the send side of the Interchange port, the vector
unit, the Weft write port, the Weft array, and each Warp array. -/
inductive SpUnit where
  | localRead | localWrite | ixcRead | ixcWrite | send | vector | weftPort | weft
  | warp (arr : Nat)
  deriving DecidableEq, Repr, Inhabited

/-- A unit that an issued instruction holds: slots until it takes the unit, and the slots for which it then holds it (R46, R252). -/
structure UnitHold where
  unit : SpUnit
  wait : Nat
  left : Nat
  deriving DecidableEq, Repr, Inhabited

/-- Registers that an issued instruction still reads, or has still to write (R247): V0-V31 are 0-31, X0-X15 are 32-47. -/
structure RegUse where
  first : Nat
  cnt : Nat
  left : Nat
  write : Bool
  deriving DecidableEq, Repr, Inhabited

/-- Slice lines that an issued instruction still accesses (R248): it accesses line `first + k` in slot `off + k` of its own, and `age`
slots have passed. -/
structure LineUse where
  first : Nat
  cnt : Nat
  off : Nat
  age : Nat
  write : Bool
  deriving DecidableEq, Repr, Inhabited

/-- Where an instruction stood when it issued: address, class nibble, Turn and occurrence, for a later fault record. -/
structure Site where
  addr : Nat
  cls : Nat
  turn : DWord
  occ : Nat
  deriving DecidableEq, Repr, Inhabited

/-- What a pending receive does with its payload (R269, R270). -/
inductive RecvTo where
  | lines (line : Nat)
  | regs (vreg cnt : Nat) (add : Bool) (got : Bytes)
  deriving DecidableEq, Repr, Inhabited

/-- A MOV receive that still waits for flits. -/
structure RecvP where
  site : Site
  ch : Nat
  tag : Nat
  fmt : Nat
  left : Nat
  dest : RecvTo
  deriving DecidableEq, Repr, Inhabited

/-- A CTX.GET or CTX.XGET whose lines still land (R275): the next line, the bytes to come, and the unit or tile that each line of them
comes from. -/
structure LandP where
  line : Nat
  data : Bytes
  src : List Nat
  deriving DecidableEq, Repr, Inhabited

/-- The kind of a held pass (R208): a Warp pass on index `arr` of physical array key `key`, or a Weft pass. -/
inductive PassKind where
  | warp (arr key k ko cap epoch band : Nat) (dense : Bool)
  | weft (slot : Option Bool) (up : Bool)
  deriving DecidableEq, Repr, Inhabited

/-- A hold record (R208) with the result the integrity engine compares a replay with. -/
structure HoldRec where
  addr : Nat
  occ : Nat
  step : Nat
  gscale : Nat
  operand : List Int
  bytes : Nat
  kind : PassKind
  orig : List Word
  deriving DecidableEq, Repr, Inhabited

/-- A Warp pass in progress (R90, R255): its index, the physical array it runs on, and its results for VD. -/
structure RunPass where
  arr : Nat
  key : Nat
  acc : Bool
  vd : Nat
  results : List Word
  deriving DecidableEq, Repr, Inhabited

/-- A replay that is pending or runs (R421, R422): hold record position data, and whether it judges a shadow dispute. -/
structure ReplayP where
  addr : Nat
  occ : Nat
  /-- the shadow's result, when the replay decides a shadow dispute (R438) -/
  shadow : Option (List Word)
  /-- DETAIL of a suspect record for it (R446), mechanism in [15:8] -/
  detail : Nat
  running : Bool
  deriving DecidableEq, Repr, Inhabited

/-- The step snapshot (R432). -/
structure Snap where
  x : List Word
  occ : SMap Nat
  pc : Nat
  turn : DWord
  /-- open loops and squash count: the rest of the position in the program (log entry 10) -/
  frames : List LoopFrame
  squash : Nat
  deriving DecidableEq, Repr, Inhabited

/-- What a Spindle waits on, in the order of the wait codes of R309: 0 nothing, 1 input token or pass result, 2 credit,
3 power token, 4 port side, 5 share, 6 lead limit, 7 hazard, 8 milestone, 9 CTX request queue, 10 egress hold. -/
structure SpWait where
  code : Nat
  /-- channel of the awaited token or credit -/
  ch : Option Nat
  /-- it waits in SYNC.STEP for a batch (R279) -/
  step : Bool
  deriving DecidableEq, Repr, Inhabited

/-- Progress of SYNC and PWR waits (R279, R280, R287). -/
structure SyncSt where
  /-- the step boundary has fallen: the waiting SYNC.STEP retires -/
  stepGo : Bool
  /-- SYNC.MILE of the present step has retired and its milestone is still to come -/
  miled : Bool
  /-- PWR.WAITWIN: 0 not waiting, 1 waiting, 2 the boundary has passed -/
  win : Nat
  deriving DecidableEq, Repr, Inhabited

/-- A Spindle's program-side state, per logical tile (R244-R249, R253, R283-R287, R420-R432). -/
structure Spindle where
  /-- partition whose program is loaded -/
  part : Option Nat
  pc : Nat
  words : SMap DWord
  parity : SMap Byte
  len : Nat
  restart : Nat
  x : SMap Word
  v : SMap VReg
  frames : List LoopFrame
  squash : Nat
  occ : SMap Nat
  turn : DWord
  tokens : Nat
  grant : Nat
  nextGrant : Nat
  /-- the tile holds tokens only from the first window boundary after the commit (R286) -/
  granted : Bool
  hold : List HoldRec
  recv : SMap RecvCh
  send : SMap SendCh
  /-- flits, tokens or lines of the instruction at the front that have already gone -/
  done : Nat
  recvs : List RecvP
  lands : List LandP
  passes : List RunPass
  dirty : List Nat
  replays : List ReplayP
  snap : Snap
  wait : SpWait
  sync : SyncSt
  /-- slots the present instruction has waited, by subcause 1-8 of R607 -/
  waited : SMap Nat
  /-- instructions retired towards the next sample (R606) -/
  samp : Nat
  /-- units, registers and lines that issued instructions hold (R46, R201, R247, R248) -/
  holds : List UnitHold
  uses : List RegUse
  lineUses : List LineUse
  /-- credits freed and not yet sent: channel and count, the channel freed first in front (R206) -/
  credDue : List (Nat × Nat)
  /-- the partition's true minimum Turn in this Spindle's latest slots, newest first, as far back as the tree lags (R50) -/
  minSeen : List Nat
  /-- arrays whose latest pass issued without a hold record, each with its address and occurrence (R210) -/
  bare : List (Nat × Nat × Nat)
  deriving DecidableEq, Repr, Inhabited

/-- A Spindle without a program, its stores 0 (log entry 3). -/
def Spindle.init : Spindle :=
  ⟨none, 0, [], [], 0, 0, [], [], [], 0, [], 0, 0, 0, 0, false, [], [], [], 0, [], [], [], [], [],
   ⟨[], [], 0, 0, [], 0⟩, ⟨0, none, false⟩, ⟨false, false, 0⟩, [], 0, [], [], [], [], [], []⟩

/-! ## Physical tiles (R598-R600, R119, R123, R124) -/

/-- A service request in a Spindle's queue (R118, R119): array index 0-8 and operation 1 CALIBRATE, 2 REWRITE,
3 MARGIN_SCAN. -/
structure SvcReq where
  arr : Nat
  op : Nat
  deriving DecidableEq, Repr, Inhabited

/-- A value written to WRP_SVC_CMD that waits for its district's window boundary (R128): the array, the operation, and whether firmware
asked for it (R118). -/
structure SvcDue where
  key : Nat
  op : Nat
  fw : Bool
  deriving DecidableEq, Repr, Inhabited

/-- Service stage of a Spindle (R117, R118): the spare idle; loading, ready or standing for an index; and the serviced
array waiting for the hand-back boundary; the spare calibrated in place (R123). -/
inductive SvcStage where
  | idle
  | loading (arr op : Nat)
  | ready (arr op : Nat)
  | standing (arr op : Nat)
  | handback (arr op : Nat)
  | inPlace
  deriving DecidableEq, Repr, Inhabited

/-- What a physical tile keeps whatever logical tile it serves: event counters, service queue and spare. -/
structure PhysTile where
  cnt : SMap Nat
  /-- mode in force and mode waiting for a window boundary; true is LEVEL (R600). Listed where they differ from R600's reset -/
  level : SMap Nat
  levelDue : SMap Nat
  /-- conditions that held in the previous slot -/
  prev : List Nat
  queue : List SvcReq
  stage : SvcStage
  aborts : Nat
  spareSuspect : Bool
  /-- the array index that a periodic calibration round has still to calibrate here, if any (R560) -/
  calLeft : List Nat
  deriving DecidableEq, Repr, Inhabited

def PhysTile.init : PhysTile := ⟨[], [], [], [], [], .idle, 0, false, []⟩

/-! ## Warp arrays (R79-R130, R555) -/

/-- Four integers, at 35, 55, 75 and 95 °C (R81). -/
structure Quad where
  a : Int
  b : Int
  c : Int
  d : Int
  deriving DecidableEq, Repr, Inhabited

/-- The manufacturing set of one column pair (R555): offsets in 1/16 LSB and gain codes, in normal and narrow gain. -/
structure CalCol where
  offN : Quad
  offW : Quad
  gainN : Quad
  gainW : Quad
  deriving DecidableEq, Repr, Inhabited

/-- Offset 0 and gain 1 (log entry 4). -/
def CalCol.init : CalCol :=
  ⟨⟨0, 0, 0, 0⟩, ⟨0, 0, 0, 0⟩, ⟨32768, 32768, 32768, 32768⟩, ⟨32768, 32768, 32768, 32768⟩⟩

/-- The content of a reference column pair (R84): a level in the rows 0 to `rows` - 1, 0 in the others. -/
structure RefPair where
  level : Int
  rows : Nat
  deriving DecidableEq, Repr, Inhabited

/-- The patterns of reference pairs 0 to 3 (R84). -/
def refPatterns : List RefPair := [⟨8, 32⟩, ⟨-8, 32⟩, ⟨0, 512⟩, ⟨1, 512⟩]

/-- A Warp array, per physical tile and index 0-8. `code` is the state code of R117 of a primary array that is not under
service: 0 EMPTY, 1 ACTIVE, 2 QUEUED, 3 SERVICE, 4 FAILED; a spare's code follows from its tile's stage. -/
structure WarpArr where
  cells : SMap (BitVec 4)
  colScale : SMap (BitVec 16)
  k : Nat
  ko : Nat
  man : SMap CalCol
  /-- age correction in force, per column pair -/
  age : SMap AgeFit
  /-- a correction that is accepted and waits for hand-back (R559) -/
  ageDue : Option ArrayCheck
  /-- the epoch record row (R391): its 64 bytes, none when it is not valid -/
  record : Option Bytes
  code : Nat
  /-- an image write is in progress; what the array will hold (R107, R108) -/
  writing : Option Bytes
  /-- dispute mark (R439) with the agreeing sampled comparisons since; and case (b) disputes of a mirror array -/
  mark : Option Nat
  disputes : List Nat
  /-- the reference column pairs, which calibration writes (R79, R84) -/
  refs : List RefPair
  /-- the column of each group that the next shadow reading takes, and the latest readings, by 512 * plane + output (R96) -/
  shadowCol : Nat
  shadow : SMap Int
  deriving DecidableEq, Repr, Inhabited

/-- An array as it leaves MANUFACTURE: its reference pairs hold the patterns of R84 (log entry 116). -/
def WarpArr.init : WarpArr := ⟨[], [], 0, 0, [], [], none, none, 0, none, none, [], refPatterns, 0, []⟩

/-! ## Weft arrays and adapter entries (R131-R165) -/

/-- Slot states (R154). -/
inductive SlotState where | free | loading | resident | shadow | restore
  deriving DecidableEq, Repr, Inhabited

/-- A slot write in progress (R149): the cells it will hold, whether it is a quantising write, whether its partition stopped under it
(R312), and whether it waits for the write port, which the other slot's write holds (R151). -/
structure SlotWrite where
  cells : SMap (BitVec 4)
  quant : Bool
  stopped : Bool
  queued : Bool
  deriving DecidableEq, Repr, Inhabited

/-- One slot of a Weft array (R131, R133): descriptor, data cells by 64 * row + column, output scales, write in progress, flip blocked
(R152); the checksum cell of each row, the segment sums by 64 * segment + column, and the parity of each row, bit n over the 16
cells of columns 4 k + n (log entry 117). -/
structure WeftSlot where
  st : SlotState
  entry : Option Nat
  rank : Nat
  up : Bool
  cells : SMap (BitVec 4)
  scales : SMap (BitVec 16)
  write : Option SlotWrite
  blocked : Bool
  chk : SMap (BitVec 10)
  sums : SMap (BitVec 10)
  par : SMap (BitVec 4)
  deriving DecidableEq, Repr, Inhabited

def WeftSlot.init : WeftSlot := ⟨.free, none, 0, false, [], [], none, false, [], [], []⟩

/-- A Weft array: state 0 ONLINE, 1 RECAL, 2 FAILED (R146), recalibration attempt, slots, scrub row; the slice line of the master copy
that the last quantising write read (R153); and the number of the recalibration that set the line trims in force (R133, R147). -/
structure WeftArr where
  st : Nat
  attempt : Nat
  slot0 : WeftSlot
  slot1 : WeftSlot
  scrubRow : Nat
  master : Option Nat
  trimSet : Nat
  deriving DecidableEq, Repr, Inhabited

def WeftArr.init : WeftArr := ⟨0, 0, .init, .init, 0, none, 0⟩
/-- The trim in force on a line (R133). -/
def WeftArr.trim (w : WeftArr) (line : Nat) : Nat := Config.weftTrim w.trimSet line

/-- One footprint array of an adapter entry: logical tile, orientation, slot, and its stored image (R153, R412). -/
structure FootTile where
  tile : Nat
  up : Bool
  slot : Bool
  cells : SMap (BitVec 4)
  scales : SMap (BitVec 16)
  deriving DecidableEq, Repr, Inhabited

/-- An adapter entry (R154, R155, R162): state code 0 EMPTY, 1 LOADING, 2 LIVE, 3 RETIRING, 4 TRAINING, 5 FAILED. -/
structure Adapter where
  st : Nat
  handle : Nat
  gen : Nat
  part : Nat
  refs : Nat
  rank : Nat
  train : Bool
  foot : List FootTile
  flips : Nat
  flipReq : Bool
  /-- every slot is written and the image verified: it goes LIVE at the next step boundary -/
  ready : Bool
  /-- an UNLOAD or FREEZE that waits for the step boundary (R163): 1, 2, or 0 -/
  due : Nat
  deriving DecidableEq, Repr, Inhabited

def Adapter.init : Adapter := ⟨0, 0, 0, 0, 0, 0, false, [], 0, false, false, 0⟩

/-! ## Partitions (R51, R77, R279, R302-R313, R419-R444) -/

/-- A region of the loaded image (R295). -/
structure Region where
  kind : Nat
  win : Nat
  bound : Nat
  base : Nat
  deriving DecidableEq, Repr, Inhabited

/-- A patch site of the loaded image (R297): tile index or 0xFFF, word or region, type, identifier. -/
structure PatchSite where
  tile : Nat
  word : Nat
  type : Nat
  id : Nat
  deriving DecidableEq, Repr, Inhabited

/-- The loaded program of a partition (R304). `tiles` are its logical tiles in image order, each with its draw (R299). -/
structure Prog where
  seed : DWord
  model : Nat
  regions : List Region
  sites : List PatchSite
  tiles : List (Nat × Nat)
  deriving DecidableEq, Repr, Inhabited

/-- Why a partition has stopped issue: not at all, a fault or abandoned step (R310), an integrity stop (R430). -/
inductive Stop where | run | fault | integrity
  deriving DecidableEq, Repr, Inhabited

/-- An in-place re-run trigger (R428): mechanism, tile and what must recur. -/
structure Trigger where
  mech : Nat
  tile : Nat
  key : Nat
  deriving DecidableEq, Repr, Inhabited

/-- A re-run being prepared (R428-R431): the tile whose detection led to it, the tile that a stand-in is to serve, and whether the
stand-in is for this step only. -/
structure Rerun where
  tile : Nat
  stepOnly : Bool
  standIn : Option Nat
  /-- the stand-in was wanted but runs in place (R429) -/
  forced : Bool
  /-- the stop is complete and the stand-in, if any, is being prepared -/
  drained : Bool
  deriving DecidableEq, Repr, Inhabited

/-- A flit that waits in the egress hold (R442): the I/O-ring unit and the flit, in send order. -/
structure Egress where
  unit : Nat
  flit : Flit
  deriving DecidableEq, Repr, Inhabited

/-- A detection that a pass or a flit has reported and the integrity engine has not taken yet (R98, R145, R219): the tile,
the detection and, for a pass, its instruction address and occurrence. -/
structure DetRec where
  tile : Nat
  det : Detection
  addr : Nat
  occ : Nat
  deriving DecidableEq, Repr, Inhabited

/-- How the step runs (R428): for the first time, as an in-place re-run, as a re-run with stand-in, or as a re-run with
stand-in that had to run in place (R429). -/
inductive RunKind where | first | inPlace | standIn | forced
  deriving DecidableEq, Repr, Inhabited

/-- A partition's step machinery. -/
structure PartSt where
  prog : Option Prog
  stop : Stop
  /-- TRN_PSTATE reads 2 -/
  stopped : Bool
  /-- PARTITION_STOPPED has been raised for this stay in STATE 2 (R78) -/
  told : Bool
  step : Nat
  /-- the step boundary has fallen and the milestone has not been reached -/
  inStep : Bool
  /-- a batch table for the next step is published (R279) -/
  published : Bool
  /-- step boundaries since the program was loaded -/
  begun : Nat
  /-- raw fault records of the present episode (R311) -/
  faults : List Bytes
  /-- tiles that the stop has not reached yet, with the slots of the progress-tree lag left to each (R50, R310, R430) -/
  late : List (Nat × Nat)
  rerun : Option Rerun
  reruns : Nat
  runKind : RunKind
  triggers : List Trigger
  egress : List Egress
  /-- the step is sampled, and shadow comparisons are outstanding (tile, address, occurrence) (R435) -/
  shadowDue : List (Nat × Nat × Nat)
  /-- tiles whose stand-in ends at this step's milestone (R431) -/
  stepStandIns : List Nat
  detects : List DetRec
  deriving DecidableEq, Repr, Inhabited

def PartSt.init : PartSt :=
  ⟨none, .run, false, false, 0, false, false, 0, [], [], none, 0, .first, [], [], [], [], []⟩

/-! ## The integrity engine (R431, R436-R439, R445-R449) -/

/-- An arbitration point of shared bandwidth (R228, R229): who took its latest slots, newest first; `none` is a slot that nobody took. -/
structure SharePt where
  slots : List (Option Nat)
  /-- the partition served last -/
  last : Nat
  deriving DecidableEq, Repr, Inhabited

def SharePt.init : SharePt := ⟨[], 15⟩

/-- The state of a row's spare tile: whether the row is spared or its spare suspect comes from the sparing map; the mirrored
slot and whether the mirror is ready; the logical slot a stand-in serves. -/
structure RowSt where
  /-- failed or suspect position of the row, none when every position works (R32, R33) -/
  failed : Option Nat
  mirror : Option Nat
  ready : Bool
  standIn : Option Nat
  spareSuspect : Bool
  deriving DecidableEq, Repr, Inhabited

def RowSt.init : RowSt := ⟨none, none, false, none, false⟩

/-- A unit without a spare (R60, R221, R226, R448, R449): margin steps applied, steps that wait for the next window boundary, whether it is
over its limit, suspect, and the stamps of its latest retries or parity errors. -/
structure BareSt where
  margin : Nat
  pend : Nat
  overLimit : Bool
  suspect : Bool
  errs : List DWord
  deriving DecidableEq, Repr, Inhabited

def BareSt.init : BareSt := ⟨0, 0, false, false, []⟩

/-- The integrity engine's module-wide state. -/
structure IntegSt where
  rows : SMap RowSt
  bare : SMap BareSt
  suspects : List Bytes
  drain : Bool
  /-- tiles and addresses of instruction-store parity faults since the start (R313) -/
  parityFaults : List (Nat × Nat)
  deriving DecidableEq, Repr, Inhabited

/-! ## Events (R593-R597) and samples (R606-R608) -/

/-- The event machinery: next SEQ, the log ring (newest first), its budget, whether the event queue runs, whether the next
message carries LOST, the events of the start that wait for it, the two sample buffers (oldest first). -/
structure EventSt where
  seq : Word
  log : List Bytes
  budget : Nat
  running : Bool
  lost : Bool
  early : List Bytes
  samples0 : List Bytes
  samples1 : List Bytes
  deriving DecidableEq, Repr, Inhabited

/-! ## What the module sends (the model's own observation) -/

/-- A message or pin change that leaves the module. Queue pairs are named by their slot (R458). -/
inductive OutMsg where
  | rdmaWrite (slot : Nat) (addr : DWord) (key : Word) (bytes : Bytes)
  | rdmaRead (slot : Nat) (addr : DWord) (key : Word) (len : Nat)
  /-- answer to an RDMA READ of the register window -/
  | readResp (slot : Nat) (bytes : Bytes)
  /-- a NAK for an invalid request -/
  | nak (slot : Nat)
  /-- receiver not ready, with the RNR timer code -/
  | rnr (slot : Nat) (timer : Nat)
  /-- one RoCEv2 SEND of an inter-device message on a PEER queue pair -/
  | peerSend (slot : Nat) (bytes : Bytes)
  /-- connection management: REQ, REP and REJ, with private data -/
  | cmReq (slot port device : Nat) (ip : List Word)
  | cmRep (port slot lqpn : Nat) (priv : Bytes)
  | cmRej (port reason : Nat) (priv : Bytes)
  /-- a congestion notification packet -/
  | cnp (slot : Nat)
  /-- priority flow control: pause or its release -/
  | pfc (port prio : Nat) (pause : Bool)
  | arpReply (port : Nat) (target : Word)
  | neighbourAdv (port : Nat) (target : List Word)
  | echoReply (port : Nat) (v6 : Bool) (payload : Bytes)
  /-- a lea of a Skein link -/
  | lea (link : Nat) (bytes : Bytes)
  /-- a datagram of the fallback service, on port E0 -/
  | udp (bytes : Bytes)
  | pin (name : Nat) (level : Bool)
  deriving DecidableEq, Repr, Inhabited

end Sys2Proof.Machine
end

