-- ==== Sys2Proof/Machine/Parts2.lean ====
section
/-! DEFINITION. The parts of the state of the serving engine, the weights, the links, the start, calibration and thermal
control, self-test and power, as plain data. -/

namespace Sys2Proof.Machine

/-! ## The serving engine (09_serving_engine.md) -/

/-- A Hank queue (R356-R360): stored words with their 8 check bits, the last word popped, UNDERRUN and OVERFLOW, and the words
the loader still discards after a bad length word (R361). Of the message that is being pushed: the words it has pushed and those
still to come, and whether it is a COMMAND of 64 bytes; of the message that is being popped, the words still to come. -/
structure HankQ where
  words : List (DWord × Byte)
  last : DWord
  under : Bool
  overrun : Bool
  discard : Nat
  opened : Nat
  left : Nat
  good : Bool
  popLeft : Nat
  deriving DecidableEq, Repr, Inhabited

def HankQ.init : HankQ := ⟨[], 0, false, false, 0, 0, 0, false, 0⟩

/-- Session states (R321) with their codes. -/
inductive SessSt where | pending | imp | feed | gen | hold | exp | suspended
  deriving DecidableEq, Repr, Inhabited

/-- A session (R319-R323): its bindings, state and input. -/
structure Session where
  id : Word
  part : Nat
  st : SessSt
  /-- state before the fault, of a SUSPENDED session -/
  prev : SessSt
  /-- the OPEN's Braid lookup and reservation have not run yet (R328) -/
  lookup : Bool
  rtag : Word
  flags : Nat
  model : Word
  epoch : Nat
  adapter : Option Nat
  /-- committed length C -/
  clen : Nat
  ctxMax : Nat
  maxNew : Nat
  emitted : Nat
  stop : List Word
  /-- input tokens not yet committed (FEED) -/
  input : List Word
  next : Word
  /-- tokens appended without INTERRUPT while in GEN -/
  append : List Word
  /-- the drafts of the next step: position of the first, tokens -/
  drafts : Option (Nat × List Word)
  /-- pages of the block list, in block order; the first `shared` belong to Braid nodes the session holds -/
  blocks : List Nat
  nodes : List Nat
  /-- slice-tier session, or the two open pages of a stack-tier one with the block each serves (R340) -/
  slice : Bool
  openPages : List (Nat × Option Nat)
  /-- tokens of the positions so far, for the token lines (R337) -/
  toks : List Word
  /-- no further block of this session is inserted into the Braid index (R346, R654) -/
  noBraid : Bool
  order : Nat
  at_ : Nat
  device : Nat
  dpart : Nat
  /-- an end decided while a step is in flight: OP of the notice and status with which it ends at the next tick (R363) -/
  ending : Option (Nat × Nat)
  /-- adapter handle of the OPEN, and the generation it requires -/
  handle : Option Nat
  exact : Option Nat
  /-- the page reservation is done, and it joins at the next tick (R328) -/
  reserved : Bool
  deriving DecidableEq, Repr, Inhabited

/-- A request that waits for its partition's next engine tick (R328): its queue pair slot and its bytes. -/
structure PendReq where
  slot : Nat
  msg : Bytes
  deriving DecidableEq, Repr, Inhabited

/-- A batch entry of the step (R330, R331). -/
structure BatchE where
  session : Word
  clen : Nat
  prov : Nat
  feed : Bool
  adapter : Option Nat
  toks : List Word
  deriving DecidableEq, Repr, Inhabited

/-- A result record the engine holds (R332). -/
structure ResRec where
  entry : Nat
  data : Bool
  bytes : Bytes
  deriving DecidableEq, Repr, Inhabited

/-- A node of the Braid index (R343). -/
structure BraidNode where
  digest : DWord
  page : Nat
  parent : Option Nat
  refs : Nat
  depth : Nat
  deriving DecidableEq, Repr, Inhabited

/-- A notice entry (R354). -/
structure NoticeE where
  session : Word
  rtag : Word
  op : Nat
  status : Nat
  deriving DecidableEq, Repr, Inhabited

/-- The serving engine's state of one partition. -/
structure ServPart where
  reqs : List PendReq
  /-- the step's batch table, and the one published for the next boundary -/
  batch : List BatchE
  next : List BatchE
  /-- the batch table of the step before, for a Spindle that has not retired the SYNC.STEP of the new one (R279, R285) -/
  prev : List BatchE
  records : List ResRec
  /-- admission number of the session served last in the round robin, plus 1; 0 before the first (R330) -/
  rr : Nat
  notice : List NoticeE
  ringOff : Nat
  ringFree : Nat
  fullRaised : Bool
  nodes : SMap BraidNode
  /-- eviction list, head first -/
  lru : List Nat
  /-- open-page copies in progress (R340) -/
  copies : List (Word × Nat)
  /-- the messages of the frame queue, each kept until its ring write completes: whether it has been rebuilt, length word, body
  (R358) -/
  kept : List (Bool × DWord × Bytes)
  deriving DecidableEq, Repr, Inhabited

def ServPart.init : ServPart := ⟨[], [], [], [], [], 0, [], 0, 0, false, [], [], [], []⟩

/-- A context transfer (R348-R351). -/
structure Xfer where
  session : Word
  sender : Bool
  device : Nat
  dpart : Nat
  accepted : Bool
  blocks : Nat
  tokens : Nat
  /-- indices that have arrived and checked, and how often each has been resent -/
  got : List Nat
  resent : SMap Nat
  ended : Bool
  next : Word
  data : SMap Byte
  deriving DecidableEq, Repr, Inhabited

/-- Where a TENSOR message came from (R470): the ingress unit (link 0-7, 8 the RoCEv2 engine), the sender's device, partition and
egress channel, and the message's body flits. -/
structure Orig where
  unit : Nat
  dev : Nat
  part : Nat
  chan : Nat
  body : Nat
  deriving DecidableEq, Repr, Inhabited

/-- Ingress lines of one descriptor that freed and are not returned yet, and the time of the first of them (R470). -/
structure Freed where
  orig : Orig
  n : Nat
  since : DWord
  deriving DecidableEq, Repr, Inhabited

/-- A send channel of an I/O-ring unit towards a Spindle (R207, R294): key 32 * tile + receive channel. -/
structure UnitCh where
  unit : Nat
  sendCh : Nat
  tag : Nat
  depth : Nat
  spine : Option Nat
  credit : Nat
  /-- flits that wait for a credit, with the message each came in -/
  queue : List (Flit × Option Orig)
  deriving DecidableEq, Repr, Inhabited

def UnitCh.init : UnitCh := ⟨0, 0, 0, 0, none, 0, []⟩

/-- The serving engine. -/
structure ServSt where
  sessions : List Session
  /-- admissions so far, for the order of R330 -/
  opened : Nat
  parts : SMap ServPart
  queues : SMap HankQ
  /-- mailbox contexts in the order in which their commands became complete (R361) -/
  complete : List Nat
  xfers : List Xfer
  /-- the loader's LOAD whose image is being fetched: context and command bytes (R303) -/
  loading : Option (Nat × Bytes)
  unitCh : SMap UnitCh
  deriving DecidableEq, Repr, Inhabited

def ServSt.init : ServSt := ⟨[], 0, [], [], [], [], none, []⟩

end Sys2Proof.Machine
end

