-- ==== Sys2Proof/Machine/Parts3.lean ====
section
/-! DEFINITION. The parts of the state of the links (12_links_and_topology.md) and of the weights (10_weights.md), as plain data. -/

namespace Sys2Proof.Machine

/-! ## Links -/

/-- A queue pair slot (R457-R464, R500): STATE 0 FREE, 1 CONNECTING, 2 RTS, 3 ERROR; QP numbers; the peer's address; its device ID;
the port; the remote key of a MANAGEMENT register window; the stamps of its last cut, raise and sent notification (R462). -/
structure Qp where
  st : Nat
  lqpn : Nat
  rqpn : Nat
  ip : List Word
  device : Nat
  port : Nat
  key : Word
  cut : Option DWord
  raise : Option DWord
  cnp : Option DWord
  deriving DecidableEq, Repr, Inhabited

def Qp.init : Qp := ⟨0, 0, 0, [], 0, 0, 0, none, none, none⟩

/-- A Skein link's transmitter and receiver (R475-R481): next SEQ, last SEQ received in order, whether it discards until a resend,
the retry buffer (SEQ, class, flits), credits and leas to return per class, flits that wait to leave and of the message that
arrives per class, the lanes' roles (0-3 data, 4 spare, 5 under recalibration, 6 FAILED) and those before a recalibration,
the stamp of the last retry-limit swap, the lane that rotates next, the stamp of the last SKN_FP_DROP, DISABLE in force, the stamps of the
resends of the last second, and since when an acknowledgement is awaited. -/
structure LinkSt where
  txSeq : Nat
  rxLast : Nat
  skip : Bool
  retry : List (Nat × Nat × Bytes)
  credit : SMap Nat
  owed : SMap Nat
  txq : SMap (List Bytes)
  rx : SMap (List Bytes)
  roles : List Nat
  before : Option (List Nat)
  swapAt : Option DWord
  rotate : Nat
  fpAt : Option DWord
  off : Bool
  resends : List DWord
  ackAt : Option DWord
  deriving DecidableEq, Repr, Inhabited

def LinkSt.init : LinkSt := ⟨0, 4095, false, [], [], [], [], [], [0, 1, 2, 3, 4], none, none, 0, none, false, [], none⟩

/-- A message formed at a milestone that waits for its descriptor's credits (R466): partition, I/O-die unit (0-7 links, 8 the
RoCEv2 engine), receive channel, format, tag, payloads, step. -/
structure EgMsg where
  part : Nat
  unit : Nat
  chan : Nat
  fmt : Nat
  tag : Nat
  body : List Bytes
  step : Nat
  deriving DecidableEq, Repr, Inhabited

/-- The links' module-wide state: messages that wait, messages sent per descriptor (R465 MSEQ) and the RoCEv2 engine's descriptor
credits, by 512 * unit + 32 * partition + channel; freed flits to return (R470); the engine's transfer buffer (R472); peers of the
configuration, device and address; the ports at which pause is received and sent, and the RoCEv2 packets that a pause holds back, each with
its port (R463). -/
structure NetSt where
  links : SMap LinkSt
  waiting : List EgMsg
  mseq : SMap Nat
  ethCred : SMap Nat
  freed : List Freed
  transfer : List Bytes
  peers : List (Nat × List Word)
  paused : List Nat
  pausing : List Nat
  held : List (Nat × OutMsg)
  deriving DecidableEq, Repr, Inhabited

def NetSt.init : NetSt := ⟨[], [], [], [], [], [], [], [], [], []⟩

/-! ## Weights -/

/-- A shard of a resident layer (R392): targets, each 16 * logical tile + array index, and resident digest. -/
structure ShardRes where
  targets : List Nat
  digest : Bytes
  deriving DecidableEq, Repr, Inhabited

/-- A resident layer: layer epoch and shards. -/
structure LayerRes where
  epoch : Nat
  shards : List ShardRes
  deriving DecidableEq, Repr, Inhabited

/-- The residence record of a model in flash (R392), with its intent entry. -/
structure ResidRec where
  model : Nat
  epoch : Nat
  layers : List LayerRes
  intent : Option Nat
  deriving DecidableEq, Repr, Inhabited

/-- A model table entry (R369-R371): MODEL (0 ABSENT), state, REASON, model epoch, layers, EPOCH_MIN, epoch switches, and the
verify reads of its shards since their last re-check (R398): layer, shard, target, and whether the read matched. -/
structure ModelSt where
  id : Nat
  st : Nat
  reason : Nat
  epoch : Nat
  layers : List LayerRes
  min : Nat
  switches : Nat
  verified : List (Nat × Nat × Nat × Bool)
  deriving DecidableEq, Repr, Inhabited

def ModelSt.init : ModelSt := ⟨0, 0, 0, 0, [], 0, 0, []⟩

/-- A golden image (R395): the native image and whether it has been compared with its ADIG since the start (R397). -/
structure Gold where
  image : Bytes
  compared : Bool
  deriving DecidableEq, Repr, Inhabited

/-- A shard that has arrived and passed its checks (R375, R387): layer (or handle), index, COUNT, targets, native images (slot
images of an adapter) and their digest (R392). -/
structure Staged where
  layer : Nat
  shard : Nat
  count : Nat
  targets : List Nat
  images : List Bytes
  digest : Bytes
  deriving DecidableEq, Repr, Inhabited

/-- An entry of a shard list (R372). -/
structure ListEntry where
  addr : DWord
  len : Nat
  key : Word
  deriving DecidableEq, Repr, Inhabited

/-- A weight job (R372-R390): OP and parameters taken at GO, the writing context, shards by list index, refusals per index, array
writes still to run, layers written, whether an array write has been done or has failed, whether the job waits for adapter slots
(R155), the entry an ADAPTER job loads, and the shard list, none until its READ has been answered. -/
structure Job where
  op : Nat
  model : Nat
  epoch : Nat
  layers : Nat
  cnt : Nat
  ctx : Nat
  part : Nat
  adpt : Nat
  staged : SMap Staged
  refused : SMap Nat
  writes : List Nat
  written : List Nat
  wrote : Bool
  failed : Bool
  waiting : Bool
  entry : Option Nat
  list : Option (List ListEntry)
  deriving DecidableEq, Repr, Inhabited

def Job.init : Job := ⟨0, 0, 0, 0, 0, 0, 0, 0, [], [], [], [], false, false, false, none, none⟩

/-- A shard request (R401): ID, model, layer epoch, layer, shard; an adapter's request (R412) has its entry; one that has expired
stays until a RESTORE answers it (R402). `fix` are the targets to rewrite once the shard is restored (R399). -/
structure ShardReq where
  id : Nat
  model : Nat
  epoch : Nat
  layer : Nat
  shard : Nat
  adapter : Option Nat
  lost : Bool
  fix : List Nat
  deriving DecidableEq, Repr, Inhabited

/-- The weights: models by table entry, jobs by slot, golden images by 16 * logical tile + index, residence records in flash,
shard requests and the next request ID, the job and model entry under the barrier, and the models of the configuration in force
with their EPOCH_MIN. -/
structure WgtSt where
  models : SMap ModelSt
  jobs : SMap Job
  gold : SMap Gold
  flash : List ResidRec
  reqs : List ShardReq
  nextReq : Nat
  barrier : Option (Nat × Nat)
  conf : List (Nat × Nat)
  deriving DecidableEq, Repr, Inhabited

def WgtSt.init : WgtSt := ⟨[], [], [], [], [], 0, none, []⟩

/-! ## Calibration, the Gauge and thermal control -/

/-- The Gauge converter beside its registers (R566-R573): where the regular and the injected sequence stand (entry, channel within
it), whether a STOP waits for the running conversion and whether the regular sequence waits between passes, which conversion runs
(0 none, 1 regular, 2 injected), and the ground and half-scale readings that the corrections are set from. -/
structure GaugeSt where
  reg : Nat × Nat
  inj : Nat × Nat
  stop : Bool
  gap : Bool
  run : Nat
  ground : Int
  half : Int
  deriving DecidableEq, Repr, Inhabited

/-- The Gauge at power-good: idle, no correction (half scale reads 2^22 codes). -/
def GaugeSt.init : GaugeSt := ⟨(0, 0), (0, 0), false, false, 0, 0, 4194304⟩

/-- One half's part of a periodic calibration round (R560): the district that is served next, or is under way, 25 after the last; and
the array index under way in it, if any. -/
structure CalHalf where
  d : Nat
  idx : Option Nat
  deriving DecidableEq, Repr, Inhabited

/-- The margin scan round (R116): array keys still to scan, the one under way first, and the arrays found with low cells; the next row
of each district's periodic Weft recalibration and the district that is next (R148); consecutive scans below 100 °C while throttled
(R581); the Gauge; the halves' parts of the calibration round. -/
structure CalSt where
  scan : List Nat
  scanLow : Nat
  weft : SMap Nat
  cool : Nat
  gauge : GaugeSt
  weftD : Nat
  east : CalHalf
  west : CalHalf
  deriving DecidableEq, Repr, Inhabited

def CalSt.init : CalSt := ⟨[], 0, [], 0, .init, 0, ⟨0, none⟩, ⟨0, none⟩⟩

/-! ## Power -/

/-- Power management beside the registers (16_power_and_mechanical.md): the orderly shutdown, 0 none, 1 draining, 2 drained and in
its self-test, 3 asked for during a start (R645); for how many 1 ms averages in a row the input power has been more than 5 % above the limit at factor 3/4, or below 95 %
of it (R628); the levels of the output contacts PWR_GOOD_OUT and FAULT_OUT, true when asserted (R639); and that the module went OFF by
itself, so that only ENABLE or the input starts it again (R637). -/
structure PowerSt where
  shut : Nat
  above : Nat
  below : Nat
  good : Bool
  fault : Bool
  held : Bool
  deriving DecidableEq, Repr, Inhabited

def PowerSt.init : PowerSt := ⟨0, 0, 0, false, false, false⟩

/-! ## Start, configuration and trust (13_start_and_configuration.md) -/

/-- Fuses and the mask ROM (R504, R505). -/
structure FuseSt where
  /-- Cerug root public key in the boot ROM -/
  root : Bytes
  serial : DWord
  /-- programmed owner key slots 0-3 -/
  owners : List (Option Bytes)
  revoked : Nat
  /-- life-cycle base state: how many of MANUFACTURE, FIELD, RETURNED, RETIRED are set -/
  base : Nat
  bootMin : Nat
  fwMin : Nat
  deriving DecidableEq, Repr, Inhabited

def FuseSt.init : FuseSt := ⟨[], 0, [none, none, none, none], 0, 0, 0, 0⟩

/-- The configuration flash (R506), the parts that have no register or other field: images, configuration copies, the start record
(R512: START_CNT, IN_PROGRESS, the last failure, SEQ_MIN, pending SVN commits of boot code and firmware, the service token and its
STARTS left, the pending token), the failed positions of manufacturing and self-tests, self-test result records, newest first
(R611), and the last thermal latch (sensor, reading). -/
structure FlashSt where
  boot : Bytes
  fw : Bytes
  copyA : Bytes
  copyB : Bytes
  startCnt : Nat
  inProgress : Bool
  reason : Nat
  step : Nat
  detail : Nat
  seqMin : Nat
  svnBoot : Nat
  svnFw : Nat
  token : Option Bytes
  starts : Nat
  pendTok : Option Bytes
  failed : List Nat
  results : List Bytes
  latch : Option (Nat × Nat)
  /-- THM_STATUS.LATCH_PREV is due at the next start -/
  latched : Bool
  /-- arrays with cells below THRESH whose REWRITE is due after the next READY (R610): 16 * physical tile + index -/
  rewrite : List Nat
  /-- oscillator cycles in READY, ACTIVE or DRAIN over life (CNT_LIFE_HOURS, R622) -/
  upCycles : Nat
  deriving DecidableEq, Repr, Inhabited

def FlashSt.init : FlashSt := ⟨[], [], [], [], 0, false, 0, 0, 0, 0, 0, 0, none, 0, none, [], [], none, false, [], 0⟩

/-- A self-test run under way (R609, R614, R616): record KIND and SET, the raw engine's class, unit and ALL, and its start. -/
structure TestRun where
  kind : Nat
  set : Nat
  cls : Nat
  unit : Nat
  all : Bool
  stamp : DWord
  deriving DecidableEq, Repr, Inhabited

/-- The start (R510-R516): the step at which it waits for an event, if any; whether a restart is due
one second later, 1 after a failed start, 2 after RETRY, REVERT or a push; whether the boot ROM runs fallback; the copy in force
(false A) with its image; COMMIT_SVN of the running boot code and firmware; arrays whose REWRITE is due once they are compared
(R610); the self-test under way; the second and the answers in it of the fallback responder (R518). -/
structure BootSt where
  waits : Option Nat
  restart : Nat
  rom : Bool
  copy : Bool
  applied : Bytes
  commitBoot : Bool
  commitFw : Bool
  fix : List Nat
  test : Option TestRun
  udpSec : Nat
  udpCnt : Nat
  fuse : FuseSt
  flash : FlashSt
  deriving DecidableEq, Repr, Inhabited

def BootSt.init : BootSt := ⟨none, 0, false, false, [], false, false, [], none, 0, 0, .init, .init⟩

end Sys2Proof.Machine
end

