-- ==== Sys2Proof/Machine/State.lean ====
section
/-! DEFINITION. The state of the module as plain data, the reasons a step can stop, and the state at power-good before step 1 of
the start has done anything (R65, R510). -/

namespace Sys2Proof.Machine

/-- Why a command faults. -/
inductive Fault where
  /-- The command names a unit that does not exist on the module (an invalid slot or position of R7, an index above its range):
  raised by every meaning whose operand names a unit. Safe: the module has no such unit. -/
  | noSuchUnit
  deriving DecidableEq, Repr

/-- Why a command is refused. -/
inductive Refusal where
  /-- A command without a meaning yet: raised by `exec` alone. Safe. -/
  | notModelled (mnemonic : String)
  deriving DecidableEq, Repr

/-- The state of the module. -/
structure State where
  /-- part number (R1, R2) -/
  variant : Variant
  /-- commands that wait, first in first out -/
  pending : List Instr
  /-- numbers the free values that have been used (the model's own field) -/
  freeCtr : Nat
  /-- what the module has sent, newest last (the model's own field) -/
  out : List OutMsg
  /-- register store: absolute address + 2^24 * instance; unlisted is the register's reset value -/
  regs : SMap Word
  /-- LIVE fields in force per domain (R538): 16777216 * domain + address, domain 0-15 a partition, 16-65 a district; unlisted
  is the reset value -/
  live : SMap Word
  ctxs : SMap Ctx
  time : TimeSt
  dists : SMap DistSt
  spindles : SMap Spindle
  tiles : SMap PhysTile
  /-- data slices: 262,144 * packed logical tile + byte (R200) -/
  slices : SMap Byte
  /-- stacks: 64 * line + byte over the stack line space (R532) -/
  stackMem : SMap Byte
  /-- Warp arrays: 16 * packed physical tile + index -/
  warps : SMap WarpArr
  /-- Weft arrays, by packed physical tile -/
  wefts : SMap WeftArr
  adapters : SMap Adapter
  parts : SMap PartSt
  integ : IntegSt
  events : EventSt
  /-- WRP_SVC_CMD writes that wait for their window boundary (R128): in arrival order -/
  svcDue : List SvcDue
  /-- flits on the Interchange, in send order (R211-R217) -/
  flits : List Flit
  /-- flits sent over each Causeway lane group, by 2 * group + direction, modulo 1,024 (R225) -/
  lanes : SMap Nat
  /-- arbitration points, by 2^20 * class + point (R228) -/
  shares : SMap SharePt
  /-- the serving engine and the Hank queues -/
  serve : ServSt
  /-- the Skein links, messages and ports -/
  net : NetSt
  /-- models, jobs, golden copy -/
  wgt : WgtSt
  /-- calibration and thermal control -/
  cal : CalSt
  power : PowerSt
  /-- queue pair slots (R458) -/
  qps : SMap Qp
  /-- start, fuses, configuration flash -/
  boot : BootSt
  deriving DecidableEq, Repr

/-- The module at power-good: every field at the value the manual gives, or at the value the log names. -/
def State.reset : State where
  variant := .s4i2
  pending := []
  freeCtr := 0
  out := []
  regs := []
  live := []
  ctxs := []
  time := ⟨0, 0, .acquire, none, none, 0, 0, none⟩
  dists := []
  spindles := []
  tiles := []
  slices := []
  stackMem := []
  warps := []
  wefts := []
  adapters := []
  parts := []
  integ := ⟨[], [], [], false, []⟩
  events := ⟨0, [], 20000, false, false, [], [], []⟩
  svcDue := []
  flits := []
  lanes := []
  shares := []
  serve := ServSt.init
  net := NetSt.init
  cal := CalSt.init
  power := PowerSt.init
  wgt := WgtSt.init
  qps := []
  boot := BootSt.init

end Sys2Proof.Machine
end

