-- ==== Sys2Proof/Machine/Ops.lean ====
section
/-! DEFINITION. The named operations over the module's state: units that exist, the register store, LIVE fields, the tile
maps, slices and stacks, event records, Hank queues, event counters, the oscillator. -/

namespace Sys2Proof.Machine

/-! ## Units that exist (R2, R6, R7, R26) -/

/-- Stacked DRAM devices of a variant. -/
def stacksOf : Variant → Nat | .s0i1 => 0 | .s2i1 => 2 | .s2i2 => 2 | .s4i2 => 4
/-- I/O dies of a variant. -/
def ioDiesOf : Variant → Nat | .s0i1 => 1 | .s2i1 => 1 | .s2i2 => 2 | .s4i2 => 2
/-- Whether stack `k` is fitted; the two-stack variants fit stacks 0 and 2 (R26). -/
def stackFitted (v : Variant) (k : Nat) : Bool :=
  match stacksOf v with | 0 => false | 2 => k == 0 || k == 2 | _ => decide (k < 4)
/-- Skein links fitted: four per I/O die. -/
def linksOf (v : Variant) : Nat := 4 * ioDiesOf v

/-- A valid packed logical tile (R7). -/
def tileOk (t : Nat) : Bool := decide (t < 4096 ∧ t % 32 < 24)
/-- A valid packed physical tile (R7). -/
def physOk (p : Nat) : Bool := decide (p < 4096 ∧ p % 32 < 25)
/-- Row of a packed tile, 64 * half + row. -/
def rowOf (t : Nat) : Nat := t / 32
/-- Half of a packed tile. -/
def halfOf (t : Nat) : Nat := t / 2048
/-- Column district of a packed physical tile, 25 * half + position (R6, R646). -/
def districtOf (phys : Nat) : Nat := 25 * (phys / 2048) + phys % 32
/-- The logical tiles in the order of R7. -/
def allTiles : List Nat := (List.range 4096).filter fun t => decide (t % 32 < 24)
/-- The physical tiles of a district, in row order. -/
def districtTiles (d : Nat) : List Nat := (List.range 64).map fun r => 2048 * (d / 25) + 32 * r + d % 25

/-! ## The register store (R10, R14) -/

/-- The store's key of a register instance. -/
def regKey (addr inst : Nat) : Nat := addr + 16777216 * inst

/-- Reset value of the register at an address, 0 where none stands. -/
def regReset (addr : Nat) : Word :=
  match regDesc? addr with
  | some d => BitVec.ofNat 32 d.reset
  | none => 0

/-- The value of a register instance. -/
def State.reg (s : State) (addr : Nat) (inst : Nat := 0) : Nat :=
  (SMap.get (regReset addr) s.regs (regKey addr inst)).toNat

/-- Write a register instance; the reset value is kept unlisted. -/
def State.setReg (s : State) (addr inst v : Nat) : State :=
  { s with regs := SMap.set (regReset addr) s.regs (regKey addr inst) (BitVec.ofNat 32 v) }

/-- Bits [hi:lo] of a word. -/
def bits (w hi lo : Nat) : Nat := (w >>> lo) % 2 ^ (hi + 1 - lo)
/-- A word with bits [hi:lo] replaced. -/
def putBits (w hi lo v : Nat) : Nat := w - (bits w hi lo) <<< lo + (v % 2 ^ (hi + 1 - lo)) <<< lo

/-- A field of a register instance. -/
def State.fld (s : State) (addr inst hi lo : Nat) : Nat := bits (s.reg addr inst) hi lo
/-- Write a field of a register instance. -/
def State.setFld (s : State) (addr inst hi lo v : Nat) : State :=
  s.setReg addr inst (putBits (s.reg addr inst) hi lo v)
/-- Set one bit: a W1C flag that the module sets (R14). -/
def State.setBit (s : State) (addr inst b : Nat) : State := s.setFld addr inst b b 1
/-- Clear one bit. -/
def State.clrBit (s : State) (addr inst b : Nat) : State := s.setFld addr inst b b 0
/-- Add to a wrapping counter register. -/
def State.bump (s : State) (addr : Nat) (inst : Nat := 0) (n : Nat := 1) : State :=
  s.setReg addr inst (s.reg addr inst + n)
/-- Add to a counter field that saturates at its width. -/
def State.bumpSat (s : State) (addr inst hi lo : Nat) (n : Nat := 1) : State :=
  s.setFld addr inst hi lo (min (s.fld addr inst hi lo + n) (2 ^ (hi + 1 - lo) - 1))
/-- Write a 64-bit register pair, low word at `addr` (R13). -/
def State.setReg64 (s : State) (addr inst v : Nat) : State :=
  (s.setReg addr inst (v % 2 ^ 32)).setReg (addr + 4) inst (v / 2 ^ 32)
/-- A 64-bit register pair. -/
def State.reg64 (s : State) (addr : Nat) (inst : Nat := 0) : Nat := s.reg addr inst + 2 ^ 32 * s.reg (addr + 4) inst

/-! ## LIVE fields (R538) -/

/-- A domain's in-force copy of a LIVE register: domain 0-15 a partition, 16-65 a district. -/
def State.liveReg (s : State) (dom addr : Nat) : Nat := (SMap.get (regReset addr) s.live (16777216 * dom + addr)).toNat
/-- Copy a register's shadow into force for one domain. -/
def State.applyLive (s : State) (dom addr : Nat) : State :=
  { s with live := SMap.set (regReset addr) s.live (16777216 * dom + addr) (BitVec.ofNat 32 (s.reg addr)) }
/-- LIVE registers applied at a partition's step boundary. -/
def liveStep : List Nat := [Reg.wrpCsumTol, Reg.intTol, Reg.intShadowCfg, Reg.cntSampCfg, Reg.cntSampCfg + 32]
/-- LIVE registers that govern no step, applied at each partition's engine tick. -/
def liveTick : List Nat := [Reg.srvAdmitCfg, Reg.srvFaultHold, Reg.srvXferCfg]
/-- LIVE power and thermal registers, applied at each district's window boundary. -/
def livePower : List Nat := [Reg.pwrOpLimit]

/-! ## Parts of the state by key -/

def State.ctx (s : State) (c : Nat) : Ctx := SMap.get Ctx.init s.ctxs c
def State.modCtx (s : State) (c : Nat) (f : Ctx → Ctx) : State :=
  { s with ctxs := SMap.set Ctx.init s.ctxs c (f (s.ctx c)) }
def State.dist (s : State) (d : Nat) : DistSt := SMap.get DistSt.init s.dists d
def State.modDist (s : State) (d : Nat) (f : DistSt → DistSt) : State :=
  { s with dists := SMap.set DistSt.init s.dists d (f (s.dist d)) }
def State.spin (s : State) (t : Nat) : Spindle := SMap.get Spindle.init s.spindles t
def State.modSpin (s : State) (t : Nat) (f : Spindle → Spindle) : State :=
  { s with spindles := SMap.set Spindle.init s.spindles t (f (s.spin t)) }
def State.tile (s : State) (p : Nat) : PhysTile := SMap.get PhysTile.init s.tiles p
def State.modTile (s : State) (p : Nat) (f : PhysTile → PhysTile) : State :=
  { s with tiles := SMap.set PhysTile.init s.tiles p (f (s.tile p)) }
def State.warp (s : State) (k : Nat) : WarpArr := SMap.get WarpArr.init s.warps k
def State.modWarp (s : State) (k : Nat) (f : WarpArr → WarpArr) : State :=
  { s with warps := SMap.set WarpArr.init s.warps k (f (s.warp k)) }
def State.weft (s : State) (p : Nat) : WeftArr := SMap.get WeftArr.init s.wefts p
def State.modWeft (s : State) (p : Nat) (f : WeftArr → WeftArr) : State :=
  { s with wefts := SMap.set WeftArr.init s.wefts p (f (s.weft p)) }
def State.adapter (s : State) (e : Nat) : Adapter := SMap.get Adapter.init s.adapters e
def State.modAdapter (s : State) (e : Nat) (f : Adapter → Adapter) : State :=
  { s with adapters := SMap.set Adapter.init s.adapters e (f (s.adapter e)) }
def State.part (s : State) (p : Nat) : PartSt := SMap.get PartSt.init s.parts p
def State.modPart (s : State) (p : Nat) (f : PartSt → PartSt) : State :=
  { s with parts := SMap.set PartSt.init s.parts p (f (s.part p)) }
def State.row (s : State) (r : Nat) : RowSt := SMap.get RowSt.init s.integ.rows r
def State.modRow (s : State) (r : Nat) (f : RowSt → RowSt) : State :=
  { s with integ := { s.integ with rows := SMap.set RowSt.init s.integ.rows r (f (s.row r)) } }
def State.bareUnit (s : State) (u : Nat) : BareSt := SMap.get BareSt.init s.integ.bare u
def State.modBare (s : State) (u : Nat) (f : BareSt → BareSt) : State :=
  { s with integ := { s.integ with bare := SMap.set BareSt.init s.integ.bare u (f (s.bareUnit u)) } }
def State.servPart (s : State) (p : Nat) : ServPart := SMap.get ServPart.init s.serve.parts p
def State.modServPart (s : State) (p : Nat) (f : ServPart → ServPart) : State :=
  { s with serve := { s.serve with parts := SMap.set ServPart.init s.serve.parts p (f (s.servPart p)) } }
def State.hank (s : State) (q : Nat) : HankQ := SMap.get HankQ.init s.serve.queues q
def State.modHank (s : State) (q : Nat) (f : HankQ → HankQ) : State :=
  { s with serve := { s.serve with queues := SMap.set HankQ.init s.serve.queues q (f (s.hank q)) } }

def State.qp (s : State) (k : Nat) : Qp := SMap.get Qp.init s.qps k
def State.modQp (s : State) (k : Nat) (f : Qp → Qp) : State := { s with qps := SMap.set Qp.init s.qps k (f (s.qp k)) }

/-- No partition has a program loaded. -/
def State.noPrograms (s : State) : Bool := s.parts.all fun e => e.2.prog.isNone

/-- The next free value's number, and the state that has used it (log entry 7). -/
def State.fresh (s : State) : Nat × State := (s.freeCtr, { s with freeCtr := s.freeCtr + 1 })

/-- The port of the Ethernet by which a RoCEv2 packet leaves; none for what is no RoCEv2 packet. -/
def State.roceport (s : State) : OutMsg → Option Nat
  | .rdmaWrite k _ _ _ => some (s.qp k).port
  | .rdmaRead k _ _ _ => some (s.qp k).port
  | .readResp k _ => some (s.qp k).port
  | .nak k => some (s.qp k).port
  | .rnr k _ => some (s.qp k).port
  | .peerSend k _ => some (s.qp k).port
  | .cnp k => some (s.qp k).port
  | .cmReq _ p _ _ => some p
  | .cmRep p _ _ _ => some p
  | .cmRej p _ _ => some p
  | _ => none
/-- Send a message; a RoCEv2 packet of a port that is paused waits until the pause ends (R463). -/
def State.send (s : State) (m : OutMsg) : State :=
  match s.roceport m with
  | some p =>
    if s.net.paused.contains p then { s with net := { s.net with held := s.net.held ++ [(p, m)] } }
    else { s with out := s.out ++ [m] }
  | none => { s with out := s.out ++ [m] }

/-- The time counter (R64, R72). -/
def State.now (s : State) : Nat := s.time.cnt.toNat

/-! ## Tile maps (R32, R431) and partitions (R51, R532, R551) -/

/-- The physical tile that the sparing map gives a logical tile (R32). -/
def State.sparedTile (s : State) (t : Nat) : Nat :=
  if (s.row (rowOf t)).failed = some (t % 32) then 32 * rowOf t + 24 else t
/-- The physical tile that serves a logical tile now, a stand-in included (R431, R604). -/
def State.physOf (s : State) (t : Nat) : Nat :=
  if (s.row (rowOf t)).standIn = some (t % 32) then 32 * rowOf t + 24 else s.sparedTile t
/-- The logical tile that a physical tile serves under the sparing map and stand-ins. -/
def State.logOf (s : State) (p : Nat) : Option Nat :=
  let r := s.row (rowOf p)
  if p % 32 = 24 then
    match r.standIn with
    | some k => some (32 * rowOf p + k)
    | none => match r.failed with
      | some k => if k < 24 then some (32 * rowOf p + k) else none
      | none => none
  else if r.standIn = some (p % 32) ∨ r.failed = some (p % 32) then none else some p
/-- Whether the row has a spare tile for stand-ins and mirrors (R35). -/
def State.hasSpare (s : State) (r : Nat) : Bool := (s.row r).failed.isNone && !(s.row r).spareSuspect

/-- The partition is defined in the protection set-up (R551). -/
def State.partDefined (s : State) (p : Nat) : Bool := s.fld Reg.cfgPartDef p 0 0 == 1
/-- The partition that owns a logical tile (CFG_TILE_OWNER, R551). -/
def State.ownerOf (s : State) (t : Nat) : Option Nat :=
  let w := s.reg (Reg.cfgTileOwner + 4 * t)
  if bits w 4 4 = 1 then some (bits w 3 0) else none
/-- The partition's tile base, packed with slot 0 (R551). -/
def State.partBase (s : State) (p : Nat) : Nat :=
  2048 * s.fld Reg.cfgPartDef p 2 2 + 32 * s.fld Reg.cfgPartDef p 8 3
/-- The logical tiles of the partition's loaded program, in image order. -/
def State.partTiles (s : State) (p : Nat) : List Nat :=
  match (s.part p).prog with
  | some g => g.tiles.map Prod.fst
  | none => []
/-- Slice window of a partition: base line and lines (R203, R551). -/
def State.sliceWin (s : State) (p : Nat) : Nat × Nat := (s.fld Reg.cfgPartSlice p 11 0, s.fld Reg.cfgPartSlice p 28 16)
/-- Quiescence of a partition (R77): no program, or its last step at its milestone and no step admitted. -/
def State.quiescent (s : State) (p : Nat) : Bool :=
  let q := s.part p
  q.prog.isNone || (!q.inStep && !q.published && q.stop == .run && q.rerun.isNone)

/-! ## Slices and stacks -/

def State.sliceByte (s : State) (t a : Nat) : Byte := SMap.get Config.blankByte s.slices (Config.sliceBytes * t + a)
def State.setSliceByte (s : State) (t a : Nat) (b : Byte) : State :=
  { s with slices := SMap.set Config.blankByte s.slices (Config.sliceBytes * t + a) b }
/-- Read `n` bytes of a slice from byte address `a`. -/
def State.sliceRead (s : State) (t a n : Nat) : Bytes := (List.range n).map fun i => s.sliceByte t (a + i)
/-- Write bytes to a slice from byte address `a`. -/
def State.sliceWrite (s : State) (t a : Nat) : Bytes → State
  | [] => s
  | b :: bs => (s.setSliceByte t a b).sliceWrite t (a + 1) bs
def State.stackByte (s : State) (a : Nat) : Byte := SMap.get Config.blankByte s.stackMem a
def State.setStackByte (s : State) (a : Nat) (b : Byte) : State :=
  { s with stackMem := SMap.set Config.blankByte s.stackMem a b }
/-- Read `n` bytes of the stack line space from byte address `a`. -/
def State.stackRead (s : State) (a n : Nat) : Bytes := (List.range n).map fun i => s.stackByte (a + i)
/-- Write bytes to the stack line space from byte address `a`. -/
def State.stackWrite (s : State) (a : Nat) : Bytes → State
  | [] => s
  | b :: bs => (s.setStackByte a b).stackWrite (a + 1) bs

/-! ## Hank queues (R356-R361) -/

/-- Words a queue holds. -/
def hankSize (q : Nat) : Nat := if q < 16 then 8192 else if q = 16 then 2048 else 256
/-- Body words that a length word announces; the loader takes at most 255 of a mailbox message (R361). -/
def lengthWords (q : Nat) (w : DWord) : Nat :=
  let n := bits w.toNat 31 0 / 8
  if 17 ≤ q ∧ q ≤ 22 then min n 255 else n
/-- A mailbox command's length word: KIND 4 with BYTES 64 (R361). -/
def commandWord (w : DWord) : Bool := bits w.toNat 39 36 == 4 && bits w.toNat 31 0 == 64
/-- Follow the messages through the words pushed. -/
def HankQ.frame (h : HankQ) (q : Nat) (w : DWord) : HankQ :=
  if h.left = 0 then
    let n := lengthWords q w
    { h with left := n, opened := if n = 0 then 0 else 1, good := commandWord w }
  else { h with left := h.left - 1, opened := if h.left = 1 then 0 else h.opened + 1 }
/-- Append one word with its check bits; a full queue, or one whose OVERFLOW is set, drops it (R360). A word that the loader still
discards leaves as it arrives (R361). -/
def State.hankPush (s : State) (q : Nat) (w : DWord) : State :=
  s.modHank q fun h =>
    if h.overrun then h
    else if hankSize q ≤ h.words.length then { h with overrun := true }
    else
      let h := h.frame q w
      if h.discard = 0 then { h with words := h.words ++ [(w, hamCheck w)] } else { h with discard := h.discard - 1 }
/-- The length word of R353. -/
def lengthWord (bytes part kind : Nat) : DWord := BitVec.ofNat 64 (bytes + part * 2 ^ 32 + kind * 2 ^ 36)
/-- The 64-bit words of a body. -/
def wordsOf (body : Bytes) : List DWord := (chunks 8 (body.length / 8 + 1) body).map fun c => BitVec.ofNat 64 (leNat c 0 8)
/-- Free words of a queue. -/
def State.hankFree (s : State) (q : Nat) : Nat := hankSize q - (s.hank q).words.length
/-- Push a whole message of R353. -/
def State.pushMsg (s : State) (q : Nat) (part kind : Nat) (body : Bytes) : State :=
  (lengthWord body.length part kind :: wordsOf body).foldl (fun s w => s.hankPush q w) s

/-! ## Event records (R593-R597) -/

/-- Pad a byte string with zeros, or cut it, to a length. -/
def padTo (n : Nat) (bs : Bytes) : Bytes := (bs ++ List.replicate n 0).take n
/-- The event record and, for a detail above 16 bytes, its continuation (R593). -/
def eventRecords (code flags src : Nat) (seq : Word) (stamp : DWord) (detail : Bytes) : List Bytes :=
  let ext := decide (16 < detail.length)
  let flags := flags + (if ext then 1 else 0)
  (natLe code 2 ++ natLe flags 1 ++ natLe src 1 ++ natLe seq.toNat 4 ++ natLe stamp.toNat 8 ++ padTo 16 detail) ::
    (if ext then [natLe 0 4 ++ natLe seq.toNat 4 ++ natLe 0 8 ++ padTo 16 (detail.drop 16)] else [])
/-- Codes whose records the log always takes (R596): THERM_LATCH, RAIL_TRIP, POWER_LOSS. -/
def alwaysLogged (code : Nat) : Bool := code == 0xA005 || code == 0xC005 || code == 0xC006
/-- Write one record to the event log in flash (R596). -/
def State.logRecord (s : State) (code : Nat) (r : Bytes) : State :=
  if alwaysLogged code then { s with events := { s.events with log := (r :: s.events.log).take 2097152 } }
  else if s.events.budget = 0 then s.bump Reg.cntLogDropCnt
  else { s with events := { s.events with log := (r :: s.events.log).take 2097152, budget := s.events.budget - 1 } }
/-- Push one EVENT message to the event queue, or drop and count it (R597). -/
def State.pushEvent (s : State) (part : Nat) (recs : List Bytes) : State :=
  let body := recs.flatten
  if 1 + body.length / 8 ≤ s.hankFree 16 ∧ (s.hank 16).overrun = false then
    let body := if s.events.lost then body.set 2 (BitVec.ofNat 8 (byteAt body 2 ||| 2)) else body
    let s := s.pushMsg 16 part 6 body
    { s with events := { s.events with lost := false } }
  else
    let s := (s.bump Reg.cntEvqDropCnt).setBit Reg.cntStatus 0 0
    { s with events := { s.events with lost := true } }
/-- Raise an event (R593-R597): log it at once; push it when the event queue runs, else keep it for READY with START set. In fallback
no event queue runs. -/
def State.raiseIn (s : State) (part code src : Nat) (detail : Bytes) : State :=
  let fallback := s.fld Reg.cfgStatus 0 5 5 == 1
  let flags := if s.events.running ∨ fallback = true then 0 else 4
  let recs := eventRecords code flags src s.events.seq s.time.cnt detail
  let s := (s.setReg Reg.cntEventSeq 0 s.events.seq.toNat)
  let s := { s with events := { s.events with seq := s.events.seq + 1 } }
  let s := recs.foldl (fun s r => s.logRecord code r) s
  if s.events.running then s.pushEvent part recs
  else if fallback then s
  else { s with events := { s.events with early := s.events.early ++ [natLe part 1 ++ recs.flatten] } }
/-- Raise an event of the module as a whole. -/
def State.raise (s : State) (code : Nat) (detail : Bytes) (src : Nat := 4) : State := s.raiseIn 0 code src detail

/-! ## Event counters (R598-R601) -/

/-- Reset mode of a counter: LEVEL for 0-15 (R600). -/
def levelReset (n : Nat) : Nat := if n < 16 then 1 else 0
/-- Mode in force of a counter of a physical tile; 1 is LEVEL. -/
def PhysTile.mode (p : PhysTile) (n : Nat) : Nat := SMap.get (levelReset n) p.level n
def PhysTile.addCnt (p : PhysTile) (n k : Nat) : PhysTile :=
  { p with cnt := SMap.set 0 p.cnt n ((SMap.get 0 p.cnt n + k) % 2 ^ 48) }
/-- Count `k` occurrences of an O event in the present slot (R600). -/
def State.countO (s : State) (phys n k : Nat) : State :=
  if k = 0 then s
  else s.modTile phys fun p => p.addCnt n (if p.mode n = 1 then 1 else k)
/-- The C events (R599). -/
def cEvents : List Nat := [0, 1, 2, 3, 4, 5, 6, 7, 8, 9, 10, 11, 12, 13, 14, 15, 30, 35, 36, 45, 56, 59]
/-- One slot in which the conditions `held` hold (R600). -/
def State.slotConds (s : State) (phys : Nat) (held : List Nat) : State :=
  s.modTile phys fun p =>
    let p' := held.foldl (fun q n => if q.mode n = 1 ∨ n ∉ p.prev then q.addCnt n 1 else q) p
    { p' with prev := held }

/-! ## The oscillator (R64, R65; log entry 2) -/

/-- A 12-bit two's complement reading in 0.25 °C. -/
def signed12 (w : Nat) : Int := if w % 4096 < 2048 then (w % 4096 : Nat) else (w % 4096 : Nat) - (4096 : Int)
/-- A reading as 12 bits. -/
def word12 (i : Int) : Nat := (i % 4096).toNat
/-- Signed value of a 32-bit word. -/
def signed32 (w : Nat) : Int := if w < 2 ^ 31 then w else (w : Int) - 2 ^ 32
/-- A signed value as a 32-bit word. -/
def word32 (i : Int) : Nat := (i % 2 ^ 32).toNat
/-- What an oscillator cycle adds, in 2^-32 ns: 10 ns plus TRN_RATE (R64). -/
def State.oscStep (s : State) : Int := 10 * 2 ^ 32 + signed32 (s.reg Reg.trnRate)
/-- Advance the time counter by `n` oscillator cycles: 10 ns plus TRN_RATE each, carried to 2^-32 ns; in
READY, ACTIVE or DRAIN they count towards CNT_LIFE_HOURS (R622). -/
def State.oscCycles (s : State) (n : Nat) : State :=
  let t : Nat := s.time.cnt.toNat * 2 ^ 32 + s.time.frac.toNat + (n * s.oscStep).toNat
  let p := s.fld Reg.pwrState 0 2 0
  let f := s.boot.flash
  { s with time := { s.time with cnt := BitVec.ofNat 64 (t / 2 ^ 32), frac := BitVec.ofNat 32 t }
           boot := { s.boot with flash := { f with upCycles := f.upCycles + if 2 ≤ p ∧ p ≤ 4 then n else 0 } } }
/-- `n` slots of an arbitration point pass, taken by a partition or by nobody; the latest 255 are kept (R229). -/
def SharePt.pass (x : SharePt) (n : Nat) (p : Option Nat) : SharePt := ⟨(List.replicate (min n 255) p ++ x.slots).take 255, p.getD x.last⟩
/-- Slots of the arbitration points that pass while nothing is sent, ten in a cycle of 10 ns at nominal (log entry 106). -/
def State.idleShares (s : State) (cycles : Nat) : State :=
  { s with shares := s.shares.map fun e => (e.1, e.2.pass (10 * cycles) none) }
/-- One cycle of the 100 MHz oscillator: what a step does when no command waits. -/
def oscCycle (s : State) : State := (s.oscCycles 1).idleShares 1

/-! ## Detail items (R594) -/

def le1 (v : Nat) : Bytes := natLe v 1
def le2 (v : Nat) : Bytes := natLe v 2
def le4 (v : Nat) : Bytes := natLe v 4
def le6 (v : Nat) : Bytes := natLe v 6
def le8 (v : Nat) : Bytes := natLe v 8

/-! ## Caps (R63, R626, R628, R630) -/

/-- The product of the four factors in 1/32 (PWR_DIST_CAP.FACTOR). -/
def DistSt.factor (d : DistSt) : Nat :=
  32 / (if d.thr then 2 else 1) / (if d.uv then 2 else 1) / (if d.hold then 2 else 1) *
    (match d.op with | 0 => 4 | 1 => 3 | _ => 2) / 4

end Sys2Proof.Machine
end

