-- ==== Sys2Proof/Machine/Time.lean ====
section
/-! DEFINITION. The time counter's discipline and the time-of-day load (02_turns_and_time.md R64-R71, R78). -/

namespace Sys2Proof.Machine

/-- A signed integer as a 64-bit little-endian detail item. -/
def le8s (i : Int) : Bytes := natLe ((i % 2 ^ 64).toNat) 8

/-- The phase error: the counter modulo 10^9 ns folded into -500,000,000 to +499,999,999 (R66). -/
def phaseError (cnt : Nat) : Int :=
  let r := cnt % 1000000000
  if r < 500000000 then r else (r : Int) - 1000000000

/-- PPS_EN (R75). -/
def State.ppsEn (s : State) : Bool := s.fld Reg.trnPpsCfg 0 0 0 == 1

/-- Set the discipline state with its LOCKED and HOLDOVER bits (R75). -/
def State.setDisc (s : State) (d : Disc) : State :=
  let s := { s with time := { s.time with disc := d } }
  (s.setFld Reg.trnStatus 0 0 0 (if d = .lock then 1 else 0)).setFld Reg.trnStatus 0 1 1 (if d = .holdover then 1 else 0)

/-- Step the counter to a value: STEPPED is set and TIME_STEPPED raised with the signed step (R66, R69, R78). The stamps the
module compares with later counter values move with the step. -/
def State.stepTime (s : State) (v : Nat) : State :=
  let d : Int := (v : Int) - s.now
  let shift (x : DWord) : DWord := BitVec.ofInt 64 ((x.toNat : Int) + d)
  let s := { s with time := { s.time with cnt := BitVec.ofNat 64 v, lastRise := s.time.lastRise.map shift,
                                           lastAcc := s.time.lastAcc.map shift,
                                           armed := s.time.armed.map fun (a : DWord × DWord) => (a.1, shift a.2) } }
  (s.setBit Reg.trnStatus 0 10).raise 0x2004 (le8s d)

/-- Load the armed seconds: counter, ARM clear, TOD_VALID, STEPPED (R69). -/
def State.loadTod (s : State) (sec : DWord) : State :=
  let s := s.stepTime (sec.toNat * 1000000000)
  let s := { s with time := { s.time with armed := none } }
  (s.clrBit Reg.trnTodCtl 0 0).setBit Reg.trnStatus 0 2

/-- An accepted edge: it is counted, and an armed value whose ARM completed at least 1 µs ago loads (R66, R69). -/
def State.acceptEdge (s : State) : State :=
  let s := s.bump Reg.trnPpsCnt
  let s := { s with time := { s.time with lastAcc := some s.time.cnt, rejRun := 0, accRun := s.time.accRun + 1 } }
  match s.time.armed with
  | some (sec, stamp) => if stamp.toNat + 1000 ≤ s.now then s.loadTod sec else s
  | none => s

/-- A rejected edge: PPS_REJ and the reject count (R66, R68). -/
def State.rejectEdge (s : State) : State :=
  let s := (s.bump Reg.trnPpsRejCnt).setBit Reg.trnStatus 0 9
  { s with time := { s.time with rejRun := s.time.rejRun + 1 } }

/-- To Acquire, with PPS_REACQUIRE (R66, R78). -/
def State.toAcquire (s : State) : State :=
  let s := (s.setDisc .acquire).raise 0x2003 []
  { s with time := { s.time with rejRun := 0, accRun := 0 } }

/-- The rules of R66 for an edge with phase error `err`. -/
def State.judgeEdge (s : State) (err : Int) : State :=
  let win : Int := 1000 * s.fld Reg.trnPpsCfg 0 15 8
  let inWin := decide (-win ≤ err ∧ err ≤ win)
  match s.time.disc with
  | .acquire =>
    let s := s.stepTime (((s.now : Int) - err).toNat)
    (s.setDisc .lock).acceptEdge
  | .lock =>
    if inWin then
      let r := Config.servo (signed32 (s.reg Reg.trnRate)) err s.time.accRun
      let r := max (-4294967) (min 4294967 r)
      (s.setReg Reg.trnRate 0 (word32 r)).acceptEdge
    else
      let s := s.rejectEdge
      if 3 ≤ s.time.rejRun then s.toAcquire else s
  | .holdover =>
    if inWin then ((s.setDisc .lock).raise 0x2002 []).acceptEdge
    else s.rejectEdge.toAcquire

/-- The edge at the present counter value: an edge within 500 ms of the previous rising edge is ignored and counts as a reject
(R68); any other is measured and judged (R66). -/
def State.takeEdge (s : State) : State :=
  let close := match s.time.lastRise with
    | some r => decide (s.now < r.toNat + 500000000)
    | none => false
  let s' := { s with time := { s.time with lastRise := some s.time.cnt } }
  if close then
    let s' := s'.rejectEdge
    if s'.time.disc = .lock ∧ 3 ≤ s'.time.rejRun then s'.toAcquire else s'
  else
    let err := phaseError s.now
    (s'.setReg Reg.trnPpsErr 0 (word32 err)).judgeEdge err

/-- PPS_EDGE (R66): `cycles` oscillator cycles pass and a rising edge of the pulse-per-second input arrives. -/
def execPpsEdge (cycles : Nat) (s : State) : Host.Outcome State Fault Refusal :=
  let s := (s.oscCycles cycles).idleShares cycles
  .next (if s.ppsEn then s.takeEdge else s)

/-- No edge has been accepted within `ns` of the present counter value. -/
def State.noEdgeFor (s : State) (ns : Nat) : Bool :=
  match s.time.lastAcc with
  | some a => decide (a.toNat + ns < s.now)
  | none => true
/-- HOLDOVER_ENTER (R66, R78): in Lock, no edge has been accepted for more than 1.5 s. -/
def execHoldoverEnter (s : State) : Host.Outcome State Fault Refusal :=
  .next (if s.time.disc = .lock ∧ s.noEdgeFor 1500000000 = true then
      ((s.setDisc .holdover).setBit Reg.trnStatus 0 8).raise 0x2001 []
    else s)

/-- The counter's latest oscillator cycle has reached or passed a second boundary (R64). -/
def State.atSecond (s : State) : Bool := decide (s.now % 1000000000 * 2 ^ 32 + s.time.frac.toNat < (s.oscStep).toNat)
/-- TOD_LOAD_AT_SECOND (R69): with PPS_EN clear, the armed value loads at the next second boundary. -/
def execTodLoadAtSecond (s : State) : Host.Outcome State Fault Refusal :=
  .next (match s.time.armed with
    | some (sec, stamp) => if s.ppsEn = false ∧ s.atSecond = true ∧ stamp.toNat < s.now then s.loadTod sec else s
    | none => s)

/-- TOD_LOAD_TIMEOUT (R71, R78): with PPS_EN set, no edge was accepted 2 s after ARM. -/
def execTodLoadTimeout (s : State) : Host.Outcome State Fault Refusal :=
  .next (match s.time.armed with
    | some (sec, stamp) =>
      if s.ppsEn = true ∧ stamp.toNat + 2000000000 ≤ s.now then
        let s := { s with time := { s.time with armed := none } }
        ((s.clrBit Reg.trnTodCtl 0 0).setBit Reg.trnStatus 0 11).raise 0x2006 (le8 sec.toNat)
      else s
    | none => s)

/-- A write of TRN_TOD_CTL that passes the class rules (R69-R71): CANCEL with ARM ends an armed load; ARM arms, unless the
seconds times 10^9 exceed 2^64 - 1. -/
def State.todCtl (s : State) (v : Nat) : State :=
  match s.time.armed with
  | some _ =>
    if bits v 1 1 = 1 ∧ bits v 0 0 = 1 then
      { (s.clrBit Reg.trnTodCtl 0 0) with time := { s.time with armed := none } }
    else s
  | none =>
    let sec := s.reg64 Reg.trnTodSecLo
    if bits v 0 0 = 1 ∧ bits v 1 1 = 0 ∧ sec * 1000000000 < 2 ^ 64 then
      { (s.setBit Reg.trnTodCtl 0 0) with time := { s.time with armed := some (BitVec.ofNat 64 sec, s.time.cnt) } }
    else s

end Sys2Proof.Machine
end

