-- ==== Sys2Proof/Machine/IntegOps.lean ====
section
/-! DEFINITION. Shared operations of the integrity engine (11_integrity_and_replay.md): suspect units and DRAIN (R445-R447), stopping
a partition (R310, R430), abandoned steps (R433) and the start of a re-run (R428-R430). -/

namespace Sys2Proof.Machine

/-- Change the power state and raise POWER_STATE (R633, R649). -/
def State.setPower (s : State) (new : Nat) : State :=
  let old := s.fld Reg.pwrState 0 2 0
  if old = new then s else (s.setFld Reg.pwrState 0 2 0 new).raise 0xC001 (le1 old ++ le1 new)

/-- The suspect record of R446. -/
def suspectRecord (kind cause phys ltile array part step detail : Nat) (stamp : DWord) : Bytes :=
  le1 kind ++ le1 cause ++ le2 phys ++ le2 ltile ++ le1 array ++ le1 part ++ le8 stamp.toNat ++ le6 step ++ le2 0 ++ le8 detail

/-- Whether the unit already has a suspect record: KIND, PHYS and ARRAY agree. -/
def State.isSuspect (s : State) (kind phys array : Nat) : Bool :=
  s.integ.suspects.any fun r => byteAt r 0 == kind && leNat r 2 2 == phys && byteAt r 6 == array

/-- Enter DRAIN (R447), if the module is not already in it. -/
def State.enterDrain (s : State) (cause : Nat) : State :=
  if s.integ.drain then s
  else
    let s := { s with integ := { s.integ with drain := true } }
    let s := ((s.setBit Reg.intStatus 0 0).setFld Reg.intDrain 0 3 0 cause).raise 0x7007 (le1 cause)
    let p := s.fld Reg.pwrState 0 2 0
    if p = 2 ∨ p = 3 then s.setPower 4 else s

/-- Words of a byte string into consecutive registers from an address. -/
def State.setRegBytes (s : State) (addr : Nat) (bs : Bytes) : State :=
  (List.range (bs.length / 4)).foldl (fun s w => s.setReg (addr + 4 * w) 0 (leNat bs (4 * w) 4)) s

/-- Make a unit suspect (R445, R446): one record to flash (up to 64), SUSPECT_UNIT, DRAIN. A spare tile that becomes suspect
leaves its row without a spare (R35). A unit that is suspect already keeps its record. -/
def State.suspect (s : State) (kind cause phys ltile array part step detail : Nat) : State :=
  if s.isSuspect kind phys array then s
  else
    let r := suspectRecord kind cause phys ltile array part step detail s.time.cnt
    let n := s.integ.suspects.length
    let s := if n < 64 then
        ({ s with integ := { s.integ with suspects := s.integ.suspects ++ [r] } }).setRegBytes (Reg.intSuspect + 32 * n) r
      else s
    let s := (s.bumpSat Reg.intDrain 0 15 8).setBit Reg.intStatus 0 3
    let s := s.raiseIn (if part < 16 then part else 0) 0x7005 (if kind ≤ 6 then halfOf phys else 4) r
    let s := if kind ≤ 6 ∧ phys % 32 = 24 then s.modRow (rowOf phys) fun r => { r with spareSuspect := true, ready := false } else s
    s.enterDrain cause

/-- The flit is bound for one of the tiles. -/
def flitTo (ts : List Nat) (f : Flit) : Bool := ts.contains (bits f.hdr.toNat 15 4)

/-- Pending comparisons of a partition: replays and shadow runs (R444). -/
def State.pendingCmp (s : State) (p : Nat) : Nat :=
  (s.part p).shadowDue.length + ((s.partTiles p).map fun t => (s.spin t).replays.length).sum

/-- What one Spindle loses when it stops: units in flight complete and nothing they produce is kept, landings and receives are
discarded, and freed credits go nowhere (R310, R430). -/
def Spindle.stopped (sp : Spindle) : Spindle :=
  { sp with passes := [], recvs := [], lands := [], replays := [], wait := ⟨0, none, false⟩, done := 0, credDue := []
            recv := sp.recv.map fun e => (e.1, { e.2 with entries := [], gap := none }) }

/-- A quantising write under way completes and then blocks the next flip (R312). -/
def WeftSlot.stopBlocked (w : WeftSlot) : WeftSlot :=
  match w.write with
  | some q => if q.quant then { w with write := some { q with stopped := true } } else w
  | none => w

/-- The partition spans both halves, so its progress tree lags by up to 56 slots and not 16 (R50). -/
def State.treeLag (s : State) (p : Nat) : Nat :=
  let ts := s.partTiles p
  if ts.any (fun t => halfOf t == 0) && ts.any (fun t => halfOf t == 1) then 56 else 16

/-- The stop of its partition reaches tile `t` (R310, R430): what is in flight for it is discarded, and a quantising write of a faulted
step blocks the next flip (R312). -/
def State.stopTile (s : State) (p t : Nat) : State :=
  let s := s.modPart p fun q => { q with late := q.late.filter fun e => e.1 != t }
  let s := { s with flits := s.flits.filter fun f => !flitTo [t] f }.modSpin t Spindle.stopped
  if (s.part p).stop = .fault then
    s.modWeft (s.physOf t) fun w => { w with slot0 := w.slot0.stopBlocked, slot1 := w.slot1.stopBlocked }
  else s
/-- Stop a partition (R310, R430): the stop travels to its Spindles. Tile `t`, if any, has stopped at once, and each other one stops
within the lag and goes on until then. -/
def State.stopPart (s : State) (p : Nat) (how : Stop) (t : Option Nat := none) : State :=
  let lag := s.treeLag p
  let s := s.modPart p fun q => { q with
    stop := how, egress := [], shadowDue := [], detects := if how = .fault then q.detects else [],
    late := (s.partTiles p).map fun u => (u, lag) }
  match t with
  | some t => s.stopTile p t
  | none => s

/-- A fault or an abandoned step stops the partition; comparisons that were pending are dropped and counted (R444). -/
def State.faultStop (s : State) (p t : Nat) : State :=
  let n := s.pendingCmp p
  (if n = 0 then s else s.bump Reg.intCmpDropCnt p n).stopPart p .fault (some t)

/-- Abandon the step of a partition (R433): handled as a fault, without a fault record; the tile whose detection did it is made
suspect with cause 3. -/
def State.abandonStep (s : State) (p t : Nat) (detail : Nat) : State :=
  let step := (s.part p).step
  let s := ((s.faultStop p t).bump Reg.intAbandonCnt p).setBit Reg.intStatus 0 4
  let s := s.raiseIn p 0x7003 (halfOf t) (le1 p ++ le2 t)
  s.suspect 1 3 (s.physOf t) t 0xFF p step detail

/-- Draw of a loaded tile (R299). -/
def State.tileDraw (s : State) (t : Nat) : Nat :=
  match (s.spin t).part with
  | some p => match (s.part p).prog with
    | some g => ((g.tiles.find? fun e => e.1 == t).map Prod.snd).getD 0
    | none => 0
  | none => 0

/-- Sum of the draws of every loaded tile that a physical district serves, the programs of partition `skip` left out (R299). -/
def State.districtDraw (s : State) (d : Nat) (skip : Option Nat) : Nat :=
  (s.parts.map fun e =>
    match e.2.prog with
    | some g => if skip = some e.1 then 0 else
        ((g.tiles.filter fun q => districtOf (s.physOf q.1) == d).map Prod.snd).sum
    | none => 0).sum

/-- Whether a stand-in for tile `t` must run in place: no spare tile, a spare that already stands in, or the draw of district 24
above its allocation (R429). -/
def State.standInForced (s : State) (t : Nat) : Bool :=
  let d := 25 * halfOf t + 24
  !s.hasSpare (rowOf t) || (s.row (rowOf t)).standIn.isSome ||
    decide (s.fld Reg.pwrDistAlloc d 19 0 < s.districtDraw d none + s.tileDraw t)

/-- Begin a re-run of the partition's step (R428-R430, order 1), in place or with a stand-in for tile `t`; a step is re-run at
most twice, so a third trigger abandons it. -/
def State.beginRerun (s : State) (p t : Nat) (standIn : Bool) (detail : Nat) (stepOnly : Bool := false) : State :=
  if 2 ≤ (s.part p).reruns then s.abandonStep p t detail
  else
    let forced := standIn && s.standInForced t
    let s := s.stopPart p .integrity
    s.modPart p fun q =>
      { q with rerun := some ⟨t, stepOnly, if standIn && !forced then some t else none, forced, false⟩, reruns := q.reruns + 1 }

/-- A replay disagreement (R423, R424, R428): the tile is made suspect and the step re-run with stand-in, or abandoned in a
second re-run or a re-run with stand-in. -/
def State.replayDisagree (s : State) (p t arr mech detail : Nat) : State :=
  let q := s.part p
  let s := s.bump Reg.intReplayDisagreeCnt p
  let s := s.raiseIn p 0x7001 (halfOf t) (le1 p ++ le2 t ++ le1 arr ++ le1 mech)
  if q.runKind = .standIn ∨ q.runKind = .forced ∨ 2 ≤ q.reruns then s.abandonStep p t detail
  else
    let cause := if s.hasSpare (rowOf t) then 1 else 4
    let s' := s.beginRerun p t true detail
    s'.suspect 1 cause (s.physOf t) t arr p q.step detail

end Sys2Proof.Machine
end

