-- ==== Sys2Proof/Machine/Operands.lean ====
section
/-! DEFINITION. Operand forms of the Spindle instructions: index and vector registers (R245), line and entry operands (R251),
tags (R261), and the fault tests on them (R307-R309). -/

namespace Sys2Proof.Machine

/-! ## Registers (R245) -/

/-- X[i]; X0 reads 0. -/
def Spindle.xr (sp : Spindle) (i : Nat) : Nat := if i = 0 then 0 else (SMap.get 0 sp.x i).toNat
/-- Write X[i]; a write to X0 has no effect. -/
def Spindle.setX (sp : Spindle) (i v : Nat) : Spindle :=
  if i = 0 then sp else { sp with x := SMap.set 0 sp.x i (BitVec.ofNat 32 v) }
/-- V[i]. -/
def Spindle.vr (sp : Spindle) (i : Nat) : VReg := SMap.get VReg.init sp.v i
/-- Lane `j` of a register; lanes that are not listed are 0. -/
def VReg.lane (v : VReg) (j : Nat) : Word := v.lanes.getD j 0
/-- All 128 lanes. -/
def VReg.all (v : VReg) : List Word := (List.range 128).map v.lane
/-- The canonical form of 128 lanes: none listed when every lane is 0. -/
def mkVReg (tag : Nat) (ls : List Word) : VReg := if ls.all (· == 0) then ⟨tag, []⟩ else ⟨tag, ls⟩
/-- Write V[i]. -/
def Spindle.setV (sp : Spindle) (i : Nat) (v : VReg) : Spindle := { sp with v := SMap.set VReg.init sp.v i v }
/-- Write consecutive registers from V[i] with one tag, 128 lanes each. -/
def Spindle.setVs (sp : Spindle) (i tag : Nat) : List (List Word) → Spindle
  | [] => sp
  | l :: ls => (sp.setV i (mkVReg tag l)).setVs (i + 1) tag ls
/-- Lanes of `n` consecutive registers. -/
def Spindle.lanesOf (sp : Spindle) (i n : Nat) : List Word := (List.range n).flatMap fun k => (sp.vr (i + k)).all

/-- The exact value of a lane under a register tag. -/
def laneNum (tag : Nat) (w : Word) : Num :=
  match tag with
  | 5 => ofBF16Lane w
  | 2 => Num.ofInt w.toInt 0
  | _ => ofFP32 w

/-! ## Effective operands (R251) -/

/-- Effective line of a LOP. -/
def Spindle.lop (sp : Spindle) (l : Lop) : Nat := (l.line.toNat + sp.xr l.xi.toNat) % 2 ^ 32
/-- Effective entry of an ENT. -/
def Spindle.ent (sp : Spindle) (e : Ent) : Nat := (e.base.toNat + sp.xr e.xi.toNat) % 2 ^ 32

/-! ## Fault tests (R307, R309): a fault is its code and its DETAIL -/

/-- A fault to raise: code and DETAIL. -/
abbrev FaultP := Nat × Nat

/-- The first test that fails. -/
def firstFault : List (Option FaultP) → Option FaultP
  | [] => none
  | some f :: _ => some f
  | none :: l => firstFault l

/-- FAULT_INDEX with a cause. -/
def faultIndex (cause v : Nat) : Option FaultP := some (0x1007, cause + v * 2 ^ 32)
/-- FAULT_FORMAT: tag required, tag found, operand. -/
def faultFormat (req found operand : Nat) : Option FaultP := some (0x1006, req + found * 16 + operand * 256)
/-- FAULT_ACCESS with a cause. -/
def faultAccess (cause v : Nat) : Option FaultP := some (0x1004, cause + v % 2 ^ 32 * 2 ^ 32)
/-- FAULT_BOUND: cause, region, value, bound. -/
def faultBound (cause region v bound : Nat) : Option FaultP :=
  some (0x1005, cause + region * 16 + v % 2 ^ 24 * 256 + bound % 2 ^ 32 * 2 ^ 32)

/-- A line inside the partition's slice window and below 4,096 (R251). -/
def State.lineOk (s : State) (p line : Nat) : Bool :=
  let w := s.sliceWin p
  decide (w.1 ≤ line ∧ line < w.1 + w.2 ∧ line < 4096)
/-- Every one of `n` lines from `line` must lie in the window: the first that does not is reported. -/
def State.linesFault (s : State) (p line n : Nat) : Option FaultP :=
  match (List.range n).find? fun k => !s.lineOk p (line + k) with
  | some k => faultAccess 1 (line + k)
  | none => none
/-- A register range must end at V31 (R260, R309). -/
def rangeFault (first n : Nat) : Option FaultP := if 32 < first + n then faultIndex 3 (first + n - 1) else none
/-- An effective entry must be at most 255 (R251). -/
def entFault (e : Nat) : Option FaultP := if 255 < e then faultIndex 4 e else none
/-- `n` registers from `first` must carry tag `req`. -/
def Spindle.tagFault (sp : Spindle) (first n req operand : Nat) : Option FaultP :=
  match (List.range n).find? fun k => (sp.vr (first + k)).tag != req with
  | some k => faultFormat req (sp.vr (first + k)).tag operand
  | none => none
/-- `n` registers from `first` must all carry one of two tags; `req` is the one reported. -/
def Spindle.tagFault2 (sp : Spindle) (first n req alt operand : Nat) : Option FaultP :=
  match (List.range n).find? fun k => (sp.vr (first + k)).tag != req && (sp.vr (first + k)).tag != alt with
  | some k => faultFormat req (sp.vr (first + k)).tag operand
  | none => none

/-! ## The batch table (R285, R331) -/

/-- The batch entry at an index, when it is valid in the step. -/
def State.entry (s : State) (p e : Nat) : Option BatchE := (s.servPart p).batch[e]?
/-- Entry `e` of the batch table of the step that tile `t` is in (R279, R285): the step's own until the tile retires the next SYNC.STEP. -/
def State.entryAt (s : State) (p t e : Nat) : Option BatchE :=
  if (s.spin t).sync.stepGo then (s.servPart p).prev[e]? else s.entry p e
/-- The session of an ID. -/
def State.session (s : State) (id : Word) : Option Session := s.serve.sessions.find? fun x => x.id == id
/-- The RESIDENT slot of a Weft array that holds an adapter-table entry (R140). -/
def WeftArr.residentOf (w : WeftArr) (e : Nat) : Option Bool :=
  if (w.slot0.st = .resident ∨ w.slot0.st = .restore) ∧ w.slot0.entry = some e then some false
  else if (w.slot1.st = .resident ∨ w.slot1.st = .restore) ∧ w.slot1.entry = some e then some true
  else none
/-- A slot of a Weft array. -/
def WeftArr.slot (w : WeftArr) (k : Bool) : WeftSlot := if k then w.slot1 else w.slot0
/-- Replace a slot. -/
def WeftArr.setSlot (w : WeftArr) (k : Bool) (x : WeftSlot) : WeftArr := if k then { w with slot1 := x } else { w with slot0 := x }

/-! ## Slice lines -/

/-- Read lines of a slice. -/
def State.readLines (s : State) (t line n : Nat) : Bytes := s.sliceRead t (64 * line) (64 * n)
/-- Write whole lines and mark them in the dirty map (R420). -/
def State.writeLines (s : State) (t line : Nat) (bs : Bytes) : State :=
  let n := (bs.length + 63) / 64
  let s := s.sliceWrite t (64 * line) (padTo (64 * n) bs)
  s.modSpin t fun sp => { sp with dirty := sp.dirty ++ ((List.range n).map (line + ·)).filter fun l => l ∉ sp.dirty }

end Sys2Proof.Machine
end

