-- ==== Sys2Proof/Machine/Channels.lean ====
section
/-! DEFINITION. Flits and channels (06_spindles_and_interchange.md R204-R220): forming flits, the units on a flit's route, sending,
delivering, consuming entries and returning credits. -/

namespace Sys2Proof

/-! ## Flit header fields (R211) -/

def Flit.part (f : Flit) : Nat := Machine.bits f.hdr.toNat 3 0
def Flit.dest (f : Flit) : Nat := Machine.bits f.hdr.toNat 15 4
def Flit.chan (f : Flit) : Nat := Machine.bits f.hdr.toNat 20 16
def Flit.kind (f : Flit) : Nat := Machine.bits f.hdr.toNat 23 21
def Flit.fmt (f : Flit) : Nat := Machine.bits f.hdr.toNat 26 24
def Flit.tag (f : Flit) : Nat := Machine.bits f.hdr.toNat 34 27
def Flit.src (f : Flit) : Nat := Machine.bits f.hdr.toNat 46 35

/-- CRC of a flit (R213): header bits [47:0], low byte first, then the payload slot. -/
def Flit.crcOf (hdr : Nat) (payload : Bytes) : Nat := crc16 (natLe (hdr % 2 ^ 48) 6 ++ Machine.padTo 64 payload)
/-- The end-to-end check (R219). -/
def Flit.crcGood (f : Flit) : Bool := Machine.bits f.hdr.toNat 63 48 == Flit.crcOf f.hdr.toNat f.payload
/-- A flit with its CRC (R211-R213). -/
def mkFlit (part dest chan kind fmt tag src : Nat) (payload : Bytes) : Flit :=
  let h := part % 16 + dest % 4096 * 2 ^ 4 + chan % 32 * 2 ^ 16 + kind % 8 * 2 ^ 21 + fmt % 8 * 2 ^ 24 + tag % 256 * 2 ^ 27 +
    src % 4096 * 2 ^ 35
  let pl := Machine.padTo 64 payload
  ⟨BitVec.ofNat 64 (h + Flit.crcOf h pl * 2 ^ 48), pl⟩

/-- An I/O-ring unit in flit form rather than a tile (R211). -/
def isUnit (d : Nat) : Bool := decide (24 ≤ d % 32)
/-- A Skein egress unit or the RoCEv2 engine. -/
def isIoUnit (d : Nat) : Bool := d % 32 == 25
/-- A stack-channel unit. -/
def isStackUnit (d : Nat) : Bool := d % 32 == 24

end Sys2Proof

namespace Sys2Proof.Machine

/-! ## Routes (R215, R217, R222, R233) -/

/-- IXC_SEL index of a tile port, leaf, spine, lane group (R240). -/
def ixcTile (t : Nat) : Nat := 4096 + t
def ixcLeaf (r : Nat) : Nat := 2 * 4096 + r
def ixcSpine (half k : Nat) : Nat := 3 * 4096 + 16 * half + k
def ixcGroup (k : Nat) : Nat := 4 * 4096 + k

/-- The half in which a destination or source joins the fabric: a unit of an I/O die joins the half of its die, whatever bit
[11] says (R25, R233). -/
def joinHalf (d : Nat) : Nat :=
  if isIoUnit d then (if bits d 10 5 < 4 ∨ bits d 10 5 = 8 then 0 else 1) else halfOf d

/-- The spine index of a path (R215, R233), without an override. -/
def spineOf (src dst : Nat) : Nat :=
  if isStackUnit dst then bits dst 8 5
  else if isStackUnit src then bits src 8 5
  else if isIoUnit dst then (src % 32 + bits src 10 5) % 16
  else if isIoUnit src then (dst % 32 + bits dst 10 5) % 16
  else (src % 32 + dst % 32 + bits dst 10 5) % 16

/-- The units between the source port and the destination port, in order. -/
def route (src dst : Nat) (override : Option Nat) : List Nat :=
  if !isUnit src && !isUnit dst && rowOf src == rowOf dst then [ixcLeaf (rowOf src)]
  else
    let k := override.getD (spineOf src dst)
    let hs := joinHalf src
    let hd := joinHalf dst
    (if isUnit src then [] else [ixcLeaf (rowOf src)]) ++ [ixcSpine hs k] ++
      (if hs = hd then [] else [ixcGroup k, ixcSpine hd k]) ++ (if isUnit dst then [] else [ixcLeaf (rowOf dst)])

/-- Event counter of a flit kind that leaves (`base` 39) or arrives (`base` 40) at the tile port (R599). -/
def flitEvent (base kind : Nat) : Nat := match kind with | 2 => base + 2 | 1 => base + 4 | _ => base

/-! ## Links of a route: arbitration points and Causeway lane groups (R222-R233) -/

/-- Kind and number of an IXC_SEL index. -/
def ixcKind (u : Nat) : Nat := u / 4096
def ixcNum (u : Nat) : Nat := u % 4096

/-- The arbitration point of a link between two units of a route, with the unit that serves it (R228): class 0 a leaf uplink, a spine
downlink or a spine-to-ring port, class 1 a lane group by direction. `near` is the spine at which a lane group is entered. -/
def linkPoint : List Nat → List (Nat × Nat)
  | a :: b :: l =>
    let here : Option (Nat × Nat) :=
      if ixcKind a = 2 ∧ ixcKind b = 3 then some (2 * (32 * ixcNum a + ixcNum b), a)
      else if ixcKind a = 3 ∧ ixcKind b = 2 then some (2 * (32 * ixcNum b + ixcNum a) + 1, a)
      else if ixcKind a = 3 ∧ ixcKind b = 4 then some (2 ^ 20 + 2 * ixcNum b + ixcNum a / 16, b)
      else none
    here.toList ++ linkPoint (b :: l)
  | _ => []
/-- The spine-to-ring port that a unit's traffic takes, by direction (R228, R232). -/
def ringPoint (spine unit : Nat) (out : Bool) : Nat × Nat := (2 ^ 16 + 2 * (4096 * ixcNum spine + unit) + (if out then 1 else 0), spine)
/-- The arbitration points of a route (R228). -/
def routePoints (src dst : Nat) (us : List Nat) : List (Nat × Nat) :=
  (if isUnit src then (us.head?.map fun u => ringPoint u src false).toList else []) ++ linkPoint us ++
    (if isUnit dst then (us.getLast?.map fun u => ringPoint u dst true).toList else [])
/-- The lane of a route, 2 * group + the half it leaves (R222). -/
def routeLane (us : List Nat) : Option Nat := (linkPoint us).findSome? fun e => if 2 ^ 20 ≤ e.1 then some (e.1 - 2 ^ 20) else none

/-- Where the flits of a channel go: the spine override of the descriptor of its sender (R215); a CREDIT flit has none. -/
def State.overrideOf (s : State) (f : Flit) : Option Nat :=
  if f.kind = 2 then none
  else if isUnit f.src then (SMap.get UnitCh.init s.serve.unitCh (32 * f.dest + f.chan)).spine
  else ((s.spin f.src).send.find? fun e => e.2.valid && e.2.dest == f.dest && e.2.chan == f.chan).bind fun e => e.2.spine
/-- The route of a flit in flight. -/
def State.flitRoute (s : State) (f : Flit) : List Nat := route f.src f.dest (s.overrideOf f)

/-- Count a flit through units (R242): each receives it and sends it onward. -/
def State.countRoute (s : State) (us : List Nat) : State :=
  us.foldl (fun s u => (s.bump Reg.ixcRxCnt u).bump Reg.ixcTxCnt u) s

/-! ## Bandwidth shares (R228-R231) -/

def State.sharePt (s : State) (k : Nat) : SharePt := SMap.get SharePt.init s.shares k
/-- Class of an arbitration point. -/
def pointClass (k : Nat) : Nat := k / 2 ^ 20
/-- WEIGHT and CAP of a partition in a class (R241). -/
def State.weight (s : State) (p cls : Nat) : Nat := s.fld (Reg.ixcShare + 32 * p + 4 * cls) 0 8 0
def State.capped (s : State) (p cls : Nat) : Bool := s.fld (Reg.ixcShare + 32 * p + 4 * cls) 0 16 16 == 1
/-- Slots of the 255 before the present one that a partition took. -/
def SharePt.taken (x : SharePt) (p : Nat) : Nat := (x.slots.filter (· == some p)).length
/-- A partition with CAP set that has taken WEIGHT slots of the current 256 is skipped (R229, R231). -/
def State.atCap (s : State) (k p : Nat) : Bool :=
  s.capped p (pointClass k) && decide (s.weight p (pointClass k) ≤ (s.sharePt k).taken p)
/-- A partition's guarantee claims the slot: it has had fewer than WEIGHT - 1 of the current 256 (R229). -/
def State.claims (s : State) (k p : Nat) : Bool := decide ((s.sharePt k).taken p + 1 < s.weight p (pointClass k))
/-- Partition `p` may take the next slot of a point at which the partitions `ps` wait: it claims the slot, or nobody does and it is not
at its cap (R229). -/
def State.admits (s : State) (k p : Nat) (ps : List Nat) : Bool :=
  !s.atCap k p && (s.claims k p || !ps.any fun q => q != p && s.claims k q && !s.atCap k q)
/-- A slot of a point passes, taken by a partition or by nobody. -/
def State.useSlot (s : State) (k : Nat) (p : Option Nat) : State :=
  { s with shares := SMap.set SharePt.init s.shares k ((s.sharePt k).pass 1 p) }
/-- `n` slots of a point pass, taken by a partition. -/
def State.useSlots (s : State) (k p n : Nat) : State :=
  { s with shares := SMap.set SharePt.init s.shares k ((s.sharePt k).pass n (some p)) }
/-- The partition that the arbiter serves next among those that wait: of those it admits, the first in round-robin order after the
partition served last (R229). -/
def State.servesNext (s : State) (k : Nat) (ps : List Nat) : Option Nat :=
  ((List.range 16).map fun i => ((s.sharePt k).last + 1 + i) % 16).find? fun p => ps.contains p && s.admits k p ps

/-- The partitions whose flits in flight pass an arbitration point. -/
def State.waitingAt (s : State) (k : Nat) : List Nat :=
  (s.flits.filter fun f => (routePoints f.src f.dest (s.flitRoute f)).any fun e => e.1 == k).map Flit.part
/-- The first point of a route at which a partition is not admitted now (R229). -/
def State.heldAt (s : State) (part : Nat) (pts : List (Nat × Nat)) : Option (Nat × Nat) :=
  pts.find? fun e => !s.admits e.1 part (s.waitingAt e.1)
/-- A flit passes the points of a route: a slot of each is its partition's. -/
def State.passPoints (s : State) (part : Nat) (pts : List (Nat × Nat)) : State := pts.foldl (fun s e => s.useSlot e.1 (some part)) s
/-- A flit in flight waits for share admission at the point found (R229, R242). -/
def State.countShareWait (s : State) (e : Nat × Nat) : State := s.bump Reg.ixcShareWaitCnt e.2

/-! ## Lane groups (R222-R225) -/

/-- Flits in flight over a lane, in the order sent: the first 384 stand in the far spine's receive buffer and in the near spine's retry
buffer, and the rest wait at the near spine for a buffer credit (R224). -/
def State.laneFlits (s : State) (lane : Nat) : List Flit := s.flits.filter fun f => routeLane (s.flitRoute f) == some lane
/-- Receive and retry buffer of a lane group and direction. -/
def laneDepth : Nat := 384
/-- Causeway sequence number of the oldest flit in flight over a lane (R225). -/
def State.laneFirst (s : State) (lane : Nat) : Nat := (SMap.get 0 s.lanes lane + 1024 - (s.laneFlits lane).length % 1024) % 1024
/-- A flit has crossed to the far spine, or crosses no lane. -/
def State.crossed (s : State) (f : Flit) : Bool :=
  match routeLane (s.flitRoute f) with
  | some l => ((s.laneFlits l).take laneDepth).contains f
  | none => true
/-- A flit enters a lane: it takes the next sequence number, and the highest occupancy of the receive buffer is kept (R225, R242). -/
def State.enterLane (s : State) (us : List Nat) : State :=
  match routeLane us with
  | none => s
  | some l =>
    let s := { s with lanes := SMap.set 0 s.lanes l ((SMap.get 0 s.lanes l + 1) % 1024) }
    let n := min laneDepth (s.laneFlits l).length
    let u := ixcGroup (l / 2)
    if s.fld Reg.ixcCwDepthMax u 8 0 < n then s.setFld Reg.ixcCwDepthMax u 8 0 n else s

/-- Put a flit on the Interchange. -/
def State.launch (s : State) (f : Flit) (override : Option Nat) : State :=
  let s := if isUnit f.src then s
    else (s.bump Reg.ixcTxCnt (ixcTile f.src)).countO (s.physOf f.src) (flitEvent 39 f.kind) 1
  ({ s with flits := s.flits ++ [f] }).enterLane (route f.src f.dest override)

/-! ## The egress hold (R442) -/

/-- I/O die of an I/O-die unit. -/
def dieOf (d : Nat) : Nat := joinHalf d
/-- I/O die of an I/O-die unit by its number: links 0-3 and the RoCEv2 engine (8) on die 0, links 4-7 on die 1. -/
def dieOfUnit (n : Nat) : Nat := if n < 4 ∨ n = 8 then 0 else 1
/-- Lines of a partition's egress hold in use on a die: flits that wait for the milestone and flits released but not gone. -/
def State.egressUse (s : State) (p die : Nat) : Nat :=
  ((s.part p).egress.filter fun e => dieOf e.unit == die).length +
    ((s.net.waiting.filter fun m => m.part == p && dieOfUnit m.unit == die).map fun m => m.body.length).sum
/-- Lines the partition's hold has on a die. -/
def State.egressSize (s : State) (p die : Nat) : Nat := s.fld (Reg.intEgress + 8 * p + 4 * die) 0 16 0
/-- Put a flit for an I/O-die unit into the egress hold; the unit returns the tile's credit at once (R467). -/
def State.holdEgress (s : State) (p : Nat) (f : Flit) (override : Option Nat) : State :=
  let s := (s.bump Reg.ixcTxCnt (ixcTile f.src)).countO (s.physOf f.src) (flitEvent 39 f.kind) 1
  let us := route f.src f.dest override
  let s := (s.countRoute us).passPoints p (routePoints f.src f.dest us)
  let s := s.modPart p fun q => { q with egress := q.egress ++ [⟨f.dest, f⟩] }
  let use := ((s.part p).egress.filter fun e => dieOf e.unit == dieOf f.dest).length
  let s := if s.fld Reg.intEgressMax p 16 0 < use then s.setFld Reg.intEgressMax p 16 0 use else s
  s.launch (mkFlit p f.src f.chan 2 0 0 f.dest (natLe 1 64)) none

/-! ## Credits (R206, R207, R271) -/

/-- Send a CREDIT flit for `n` entries of receive channel `ch` of tile `t` to the channel's sender. -/
def State.sendCredit (s : State) (p t ch n : Nat) : State :=
  if n = 0 then s
  else
    let r := SMap.get RecvCh.init (s.spin t).recv ch
    s.launch (mkFlit p r.sender ch 2 0 0 t (natLe n 64)) none

/-- Change one receive channel of a tile. -/
def State.modRecv (s : State) (t ch : Nat) (f : RecvCh → RecvCh) : State :=
  s.modSpin t fun sp => { sp with recv := SMap.set RecvCh.init sp.recv ch (f (SMap.get RecvCh.init sp.recv ch)) }
/-- A receive channel. -/
def Spindle.recvCh (sp : Spindle) (ch : Nat) : RecvCh := SMap.get RecvCh.init sp.recv ch
/-- A send channel. -/
def Spindle.sendCh (sp : Spindle) (ch : Nat) : SendCh := SMap.get SendCh.init sp.send ch

/-- The unit is taken in the present slot. -/
def Spindle.holdsNow (sp : Spindle) (q : SpUnit → Bool) : Bool := sp.holds.any fun h => h.wait == 0 && q h.unit
/-- Add freed credits of a channel to those that wait for the send side (R206). -/
def addDue (ch n : Nat) : List (Nat × Nat) → List (Nat × Nat)
  | [] => [(ch, n)]
  | (c, m) :: l => if c = ch then (c, m + n) :: l else (c, m) :: addDue ch n l
/-- Consume the first `n` entries of a receive channel: a held channel keeps their credits; any other channel's wait for the first Turn
after this one in which the port's send side is free (R206, R270). -/
def State.consume (s : State) (t ch n : Nat) : State :=
  if n = 0 then s
  else
    let r := (s.spin t).recvCh ch
    let s := s.modRecv t ch fun r =>
      { r with entries := r.entries.drop n, heldCnt := if r.held then r.heldCnt + n else r.heldCnt, gap := r.gap.map (· - n) }
    if r.held then s else s.modSpin t fun sp => { sp with credDue := addDue ch n sp.credDue }
/-- In a slot in which the send side is free, the credits of the channel freed first go in one CREDIT flit (R206; log entry 15). -/
def State.sendDue (s : State) (p t : Nat) : State :=
  match (s.spin t).credDue with
  | [] => s
  | (ch, n) :: l =>
    if (s.spin t).holdsNow (· == .send) then s else (s.modSpin t fun sp => { sp with credDue := l }).sendCredit p t ch n

/-! ## Units that send to Spindles (R207, R331) -/

/-- A unit's send channel, by 32 * tile + receive channel. -/
def State.unitSend (s : State) (k : Nat) : UnitCh := SMap.get UnitCh.init s.serve.unitCh k
def State.modUnitSend (s : State) (k : Nat) (f : UnitCh → UnitCh) : State :=
  { s with serve := { s.serve with unitCh := SMap.set UnitCh.init s.serve.unitCh k (f (s.unitSend k)) } }
/-- Count a flit that has freed its ingress line towards the RETURN of its descriptor (R470). -/
def State.freeIngress (s : State) (o : Orig) : State :=
  let l := s.net.freed
  let l := if l.any (fun e => e.orig == o) then listUpdate (fun e => e.orig == o) (fun e => { e with n := e.n + 1 }) l
    else l ++ [⟨o, 1, s.time.cnt⟩]
  { s with net := { s.net with freed := l } }
/-- Send as many queued flits as the unit has credits for. -/
def State.pumpUnit (s : State) (k : Nat) : State :=
  let u := s.unitSend k
  let n := min u.credit u.queue.length
  let s := s.modUnitSend k fun u => { u with credit := u.credit - n, queue := u.queue.drop n }
  (u.queue.take n).foldl (fun s e =>
    let s := s.launch e.1 u.spine
    match e.2 with
    | some o => s.freeIngress o
    | none => s) s

/-! ## Arrival (R204, R219, R220) -/

/-- A flit leaves the Interchange at the end of its route: its units have passed it on (R242). -/
def State.passRoute (s : State) (f : Flit) : State :=
  let us := s.flitRoute f
  (s.countRoute us).passPoints f.part (routePoints f.src f.dest us)

/-- Remove the first flit that satisfies `q`. -/
def dropFirst (q : Flit → Bool) : List Flit → List Flit
  | [] => []
  | f :: l => if q f then l else f :: dropFirst q l

/-- The entries of a channel that a receive may consume: none past the place of a flit that failed its check (R219). -/
def RecvCh.ready (r : RecvCh) : List Flit :=
  match r.gap with
  | some n => r.entries.take n
  | none => r.entries
/-- An end-to-end CRC failure: the flit is not written; counted, raised and reported to the integrity engine, and the receive that
expects it waits until the engine acts (R219). -/
def State.crcDetect (s : State) (f : Flit) : State :=
  let s := if f.kind = 2 then s else s.modRecv f.dest f.chan fun r => { r with gap := some (r.gap.getD r.entries.length) }
  let s := (s.bump Reg.ixcCrcCnt (ixcTile f.dest)).setBit Reg.ixcStatus 0 0
  let s := s.countO (s.physOf f.dest) 46 1
  let s := s.raiseIn f.part 0x0002 (halfOf f.dest) (le2 f.dest ++ le2 f.src ++ le1 f.chan ++ le1 f.tag)
  match (s.spin f.dest).part with
  | some p => s.modPart p fun q =>
      { q with detects := q.detects ++ [⟨f.dest, .flitCrc (BitVec.ofNat 12 f.src) (BitVec.ofNat 5 f.chan), 0, 0⟩] }
  | none => s

/-- A good flit enters its receive channel; a CREDIT flit does not (R204). -/
def State.acceptFlit (s : State) (f : Flit) : State :=
  let s := (s.bump Reg.ixcRxCnt (ixcTile f.dest)).countO (s.physOf f.dest) (flitEvent 40 f.kind) 1
  s.modRecv f.dest f.chan fun r => { r with entries := r.entries ++ [f] }

end Sys2Proof.Machine
end

