-- ==== Sys2Proof/Machine/Flags.lean ====
section
/-! DEFINITION. Slot accounting (R49, R599-R601): the conditions of retired, wasted and waiting slots; what a word holds and for how
long (R246-R252); precise samples (R606-R608). -/

namespace Sys2Proof.Machine

/-- C events of a waiting slot, by the wait code of R309 (R601); `after`: SYNC.MILE has retired (R599, MILE_WAIT). -/
def waitConds (w : SpWait) (after : Bool) : List Nat :=
  match w.code with
  | 1 => [2, 5] ++ (if w.step then [13] else [])
  | 8 => [2, 5] ++ (if after then [14] else [])
  | 6 => [2, 6]
  | 4 => [2, 7]
  | 7 => [2, 8]
  | 2 => [3, 9]
  | 5 => [3, 9]
  | 3 => [3, 10]
  | 9 => [3, 11]
  | 10 => [3, 12]
  | _ => []

/-- Stall cause code of a sample (R607), by the wait code of R309. -/
def waitCause (code : Nat) : Nat :=
  match code with
  | 1 => 1 | 8 => 1 | 6 => 2 | 4 => 3 | 7 => 4 | 2 => 5 | 5 => 5 | 3 => 6 | 9 => 7 | 10 => 8 | _ => 0

/-- The unit is one of the Warp arrays. -/
def SpUnit.isWarp : SpUnit → Bool
  | .warp _ => true
  | _ => false

/-- Conditions that hold whatever the slot's class: LOADED, SLOT, WARP_ACTIVE, WEFT_ACTIVE, VEC_ACTIVE, CHANBUF_USED, CTX_OUTSTANDING,
THROTTLED (R599). -/
def State.baseConds (s : State) (t : Nat) : List Nat :=
  let sp := s.spin t
  (if sp.part.isSome then [4] else []) ++ [15] ++
    (if sp.passes.isEmpty && sp.replays.isEmpty && !sp.holdsNow SpUnit.isWarp then [] else [30]) ++
    (if sp.holdsNow (· == .weft) then [35] else []) ++
    (if sp.holdsNow (· == .vector) then [36] else []) ++
    (if sp.recv.any fun e => !e.2.entries.isEmpty then [45] else []) ++
    (if sp.lands.isEmpty then [] else [56]) ++
    (if (s.dist (districtOf (s.physOf t))).factor < 32 then [59] else [])

/-! ## Units, registers and lines in use (R46, R201, R247, R248, R252) -/

/-- A slot passes for a unit that is held. -/
def UnitHold.tick (h : UnitHold) : Option UnitHold :=
  if 0 < h.wait then some { h with wait := h.wait - 1 } else if h.left ≤ 1 then none else some { h with left := h.left - 1 }
/-- Two holds of one unit meet in some slot. -/
def UnitHold.meets (a b : UnitHold) : Bool :=
  a.unit == b.unit && decide (a.wait < b.wait + b.left ∧ b.wait < a.wait + a.left)
/-- A slot passes for registers in use. -/
def RegUse.tick (u : RegUse) : Option RegUse := if u.left ≤ 1 then none else some { u with left := u.left - 1 }
/-- A slot passes for lines in use: a line written counts until the slot after its write (R248). -/
def LineUse.tick (u : LineUse) : Option LineUse :=
  if u.off + u.cnt + (if u.write then 1 else 0) ≤ u.age + 1 then none else some { u with age := u.age + 1 }
/-- Line `l` has still to be accessed. -/
def LineUse.waits (u : LineUse) (l : Nat) : Bool :=
  decide (u.first ≤ l ∧ l < u.first + u.cnt ∧ u.age < u.off + (l - u.first) + (if u.write then 1 else 0))
/-- One slot passes for what issued instructions hold; `m` is the partition's true minimum Turn in it, of which the Spindle keeps `n`. -/
def Spindle.tick (sp : Spindle) (m : Option Nat) (n : Nat) : Spindle :=
  { sp with holds := sp.holds.filterMap UnitHold.tick, uses := sp.uses.filterMap RegUse.tick
            lineUses := sp.lineUses.filterMap LineUse.tick, minSeen := (m.toList ++ sp.minSeen).take n }

/-- The least Turn of the partition's other Spindles, none when it has no other (R47 condition 4, R50). -/
def State.minOthers (s : State) (p t : Nat) : Option Nat :=
  match ((s.partTiles p).filter fun u => u != t).map fun u => (s.spin u).turn.toNat with
  | [] => none
  | u :: us => some (us.foldl min u)

/-- Count one slot of tile `t` with the given class conditions; the slot then passes for what its Spindle holds. -/
def State.slotOf (s : State) (t : Nat) (held : List Nat) : State :=
  let m := (s.spin t).part.bind fun p => s.minOthers p t
  let n := match (s.spin t).part with
    | some p => s.treeLag p + 1
    | none => 0
  (s.slotConds (s.physOf t) (held ++ s.baseConds t)).modSpin t fun sp => sp.tick m n
/-- Count `n` slots alike. -/
def State.slotsOf (s : State) (t : Nat) (held : List Nat) (n : Nat) : State := (List.range n).foldl (fun s _ => s.slotOf t held) s

/-- Operand lines a pass fetches, *f* of R252. -/
def passFetch (w : DWord) : Nat :=
  if wCls w = 0 then (if wf w 35 35 = 1 then 9 else 5) else if wf w 54 54 = 1 then 1 else 5

/-- Slice lines per register of VEC.LD and VEC.ST (R252), by TYPE. -/
def ldLines (ty : Nat) : Nat := match ty with | 0 => 4 | 1 => 8 | _ => 2

/-- Slice lines of a vector of a CVT word (R265). -/
def cvtLines (w : DWord) : Nat := ceilDiv (vectorBytes (wf w 47 45) (128 * (wf w 50 48 + 1))) 64
/-- Master lines of a CVT.QW word (R266). -/
def qwLines (w : DWord) : Nat := if wf w 20 20 = 1 then 16 * wf w 27 21 else 512 * ceilDiv (wf w 27 21) 32
/-- Turns for which CTX.ATTN holds its units (R252). -/
def attnOcc (w : DWord) : Nat := 4 + (if wf w 32 32 = 1 then 66 else 33) * (wf w 31 26 + 1)

/-- The units that a word holds from its issue on (R252). The arrivals of a MOV.RECV take the write side as they come (R652; log
entry 9). -/
def holdsOf (w : DWord) : List UnitHold :=
  let cnt := wf w 35 33 + 1
  let n := wf w 39 34 + 1
  match wCls w, wOp w with
  | 0, _ => [⟨.localRead, 0, passFetch w⟩, ⟨.warp (wf w 55 52), passFetch w, if wf w 31 30 = 0 then 64 else 96⟩]
  | 1, 2 => []
  | 1, _ => [⟨.localRead, 0, passFetch w⟩, ⟨.weft, passFetch w, 48⟩]
  | 2, 11 => [⟨.localRead, 0, cnt * ldLines (wf w 32 31)⟩]
  | 2, 12 => [⟨.localWrite, 0, cnt * ldLines (wf w 32 31)⟩]
  | 2, 13 => [⟨.vector, 0, cnt⟩]
  | 2, 14 => [⟨.vector, 0, cnt⟩]
  | 2, _ => [⟨.vector, 0, vecOcc w⟩]
  | 3, 1 => [⟨.localRead, 0, cvtLines w⟩]
  | 3, 3 => [⟨.vector, 0, wf w 50 48 + 1⟩]
  | 3, 4 => [⟨.vector, 0, wf w 50 48 + 1⟩]
  | 3, 5 => [⟨.localRead, 0, qwLines w⟩, ⟨.weftPort, 0, max 512 (qwLines w) + 8⟩]
  | 3, _ => [⟨.localWrite, 2, cvtLines w⟩]
  | 4, 0 => [⟨.ixcRead, 0, n⟩, ⟨.send, 0, n⟩]
  | 4, 1 => [⟨.send, 0, n⟩]
  | 4, 2 => []
  | 4, _ => [⟨.vector, 0, n⟩]
  | 5, 0 => [⟨.send, 0, n⟩]
  | 5, 2 => [⟨.send, 0, 1⟩]
  | 6, 0 => [⟨.ixcRead, 0, if wf w 29 29 = 1 then 5 else 3⟩, ⟨.send, 0, if wf w 29 29 = 1 then 5 else 3⟩]
  | 6, 2 => [⟨.localRead, 0, attnOcc w⟩, ⟨.vector, 0, attnOcc w⟩]
  | 6, 4 => [⟨.ixcRead, 0, wf w 23 18 + 1⟩, ⟨.send, 0, wf w 23 18 + 1⟩]
  | 6, _ => [⟨.send, 0, 1⟩]
  | 7, 2 => [⟨.ixcRead, 0, 1⟩, ⟨.send, 0, 1⟩]
  | 8, 5 => [⟨.localRead, 0, 1⟩]
  | _, _ => []

/-- Turns for which a word's units stay held. -/
def heldTurns (hs : List UnitHold) : Nat := hs.foldl (fun m h => max m (h.wait + h.left)) 0

/-- Index registers that a word reads, as registers 32-47; X0 is no register (R245, R251). -/
def xReads (w : DWord) : List Nat :=
  let lop := match lineAt w with
    | some l => [wf w (l + 15) (l + 12)]
    | none => []
  let more := match wCls w, wOp w with
    | 1, 2 => []
    | 1, _ => if wf w 55 55 = 1 then [] else [wf w 32 29]
    | 6, 0 => [wf w 55 52]
    | 6, 1 => [wf w 55 52, wf w 22 19]
    | 6, 2 => [wf w 55 52, wf w 25 22]
    | 6, _ => [wf w 51 48]
    | 7, 2 => [wf w 55 52]
    | 8, 2 => [wf w 55 52]
    | 8, 4 => [wf w 51 48]
    | 8, 6 => [wf w 51 48]
    | _, _ => []
  ((lop ++ more).filter fun i => i != 0).map (32 + ·)
/-- The index register that a word writes. -/
def xWrites (w : DWord) : List Nat :=
  if wCls w = 8 ∧ 3 ≤ wOp w ∧ wf w 55 52 ≠ 0 then [32 + wf w 55 52] else []

/-- The slot, counted from issue, in which a word accesses its first line; the others follow one a slot (R252, R265). -/
def lineStart (w : DWord) : Nat :=
  match wCls w, wOp w with
  | 3, 0 => 2
  | 3, 2 => 2
  | 6, 2 => 4
  | _, _ => 0
/-- The word writes its lines: VEC.ST, CVT.PACK and CVT.GRAD; what a receive or a landing writes is kept with it. -/
def writesLines (w : DWord) : Bool := (wCls w == 2 && wOp w == 12) || (wCls w == 3 && (wOp w == 0 || wOp w == 2))
/-- The word lands lines later: MOV.RECV, CTX.GET and CTX.XGET (R248). -/
def landsLines (w : DWord) : Bool := (wCls w == 4 && wOp w == 2) || (wCls w == 6 && (wOp w == 1 || wOp w == 3))
/-- Logical Turns that a word takes (R246). -/
def turnsOf (w : DWord) : Nat := if wCls w = 8 ∧ wOp w = 0 then wf w 55 44 + 1 else 1

/-- Turns from issue to completion as published (R252, R607; log entry 9): the later of occupancy and result. -/
def doneTurns (w : DWord) : Nat :=
  let cnt := wf w 35 33 + 1
  match wCls w with
  | 0 => passFetch w + (if wf w 31 30 = 0 then 64 else 96)
  | 1 => if wOp w = 2 then 0 else passFetch w + 48
  | 2 =>
    match wOp w with
    | 5 | 6 | 7 => vecOcc w + 4
    | 8 | 9 => vecOcc w + 1
    | 11 => cnt * ldLines (wf w 32 31) + 1
    | 12 => cnt * ldLines (wf w 32 31)
    | 13 | 14 => cnt + 1
    | _ => vecOcc w + 2
  | 3 =>
    match wOp w with
    | 3 | 4 => wf w 50 48 + 2
    | 5 => max 512 (qwLines w) + 8
    | _ => cvtLines w + 2
  | 4 => wf w 39 34 + 1
  | 5 => match wOp w with | 0 => wf w 39 34 + 1 | 1 => 0 | _ => 1
  | 6 =>
    match wOp w with
    | 0 => if wf w 29 29 = 1 then 5 else 3
    | 2 => attnOcc w + 4
    | 4 => wf w 23 18 + 1
    | _ => 1
  | 7 => if wOp w = 2 then 1 else 0
  | 8 => if wOp w = 5 then 2 else 0
  | _ => 0

/-- The subcause that took the most waiting slots, the lower code among equals (R607). -/
def topCause (waited : SMap Nat) : Nat :=
  (waited.foldl (fun (b : Nat × Nat) e => if b.2 < e.2 then (e.1, e.2) else b) (0, 0)).1

/-- The sample record of R607. -/
def sampleRecord (t p addr : Nat) (w : DWord) (waited : SMap Nat) (turn stamp : DWord) : Bytes :=
  let wait := (waited.map Prod.snd).sum
  natLe (t + p * 4096) 2 ++ natLe (addr + wCls w * 4096) 2 ++ natLe (wOp w) 1 ++ natLe (topCause waited) 1 ++
    natLe (min wait 65535) 2 ++ natLe turn.toNat 8 ++ natLe (doneTurns w) 4 ++ natLe (doneTurns w) 4 ++ natLe stamp.toNat 8

/-- A full buffer stops recording under STOP_FULL: STOPPED and SAMPLE_STOPPED (R608, R624). -/
def State.stopSampling (s : State) (half : Nat) : State :=
  if s.fld (Reg.cntSampStat + 32 * half) 0 16 16 = 1 then s
  else (s.setBit (Reg.cntSampStat + 32 * half) 0 16).raise 0xB004 (le1 half) half
/-- Put a sample record into its half's buffer (R608). -/
def State.pushSample (s : State) (half : Nat) (r : Bytes) : State :=
  let buf := if half = 0 then s.events.samples0 else s.events.samples1
  let put (b : List Bytes) : State :=
    { s with events := if half = 0 then { s.events with samples0 := b } else { s.events with samples1 := b } }
  let lost (s : State) : State := (s.bump (Reg.cntSampLost + 32 * half)).setBit Reg.cntStatus 0 1
  let stopFull := s.fld (Reg.cntSampCfg + 32 * half) 0 1 1 = 1
  if buf.length < 4096 then
    let s' := put (buf ++ [r])
    if stopFull ∧ buf.length = 4095 then s'.stopSampling half else s'
  else if stopFull then lost (s.stopSampling half)
  else put (buf.drop 1 ++ [r])

/-- Count a retired instruction towards the half's sampling, and record every Nth (R606). -/
def State.sample (s : State) (p t : Nat) (w : DWord) (waited : SMap Nat) (turn : DWord) : State :=
  let h := halfOf t
  let cfg := s.reg (Reg.cntSampCfg + 32 * h)
  let on := bits (s.liveReg p (Reg.cntSampCfg + 32 * h)) 0 0 = 1 ∧ (bits cfg 2 2 = 1 ∨ bits cfg 7 4 = p)
  if on then
    let n := bits cfg 31 8
    let k := (s.spin t).samp + 1
    let s := s.modSpin t fun sp => { sp with samp := k }
    if (t + k) % n = 0 then s.pushSample h (sampleRecord t p (s.spin t).pc w waited turn s.time.cnt) else s
  else s

end Sys2Proof.Machine
end

