-- ==== Sys2Proof/Machine/Issue.lean ====
section
/-! DEFINITION. One issue slot of a Spindle (R46, R47, R244-R249, R284, R307-R310): the wrapper around the effect of each
instruction command. An instruction command is one slot of its tile: it issues and retires, waits, is squashed, or faults. -/

namespace Sys2Proof.Machine

/-- What an instruction asks of the wrapper: the vector registers that it reads and writes and the slice lines that it touches, each as
first and count (R247, R248), its first fault, what it waits on with the progress that it makes while it waits, the Turns it takes,
its effect, and what follows once it has retired. -/
structure Issue where
  reads : List (Nat × Nat) := []
  writes : List (Nat × Nat) := []
  lines : Nat × Nat := (0, 0)
  fault : Option FaultP := none
  wait : Option (SpWait × (State → State)) := none
  turns : Nat := 1
  /-- what it holds, where that is not what R252 gives its word -/
  holds : Option (List UnitHold) := none
  eff : State → State
  post : State → State := id

/-- A wait without progress. -/
def waits (code : Nat) (ch : Option Nat := none) : Option (SpWait × (State → State)) := some (⟨code, ch, false⟩, id)

/-- Registers `first` to `first + cnt - 1` meet registers `v` to `v + n - 1`. -/
def meetRange (first cnt v n : Nat) : Bool := decide (first < v + n ∧ v < first + cnt)
/-- Vector registers that an earlier pass has still to write (R247). -/
def Spindle.passRegs (sp : Spindle) : List (Nat × Nat) := sp.passes.map fun r => (r.vd, 4)
/-- Vector registers that an earlier receive has still to write (R247). -/
def Spindle.recvRegs (sp : Spindle) : List (Nat × Nat) :=
  sp.recvs.filterMap fun r => match r.dest with
    | .regs v c _ _ => some (v, c)
    | .lines _ => none
/-- Some register of one list of ranges stands in the other. -/
def meetAny (a b : List (Nat × Nat)) : Bool := a.any fun x => b.any fun y => meetRange x.1 x.2 y.1 y.2

/-- Lines that an earlier receive or landing has still to write: first line and count (R248). -/
def Spindle.busyLines (sp : Spindle) : List (Nat × Nat) :=
  (sp.recvs.filterMap fun r => match r.dest with
    | .lines l => some (l, r.left)
    | .regs _ _ _ _ => none) ++
  sp.lands.map fun l => (l.line, (l.data.length + 63) / 64)

/-- The instruction reads what a pass has still to write (R90). -/
def Spindle.passWait (sp : Spindle) (i : Issue) : Bool := meetAny i.reads sp.passRegs
/-- A register hazard (R247): a register read that an earlier instruction has still to write, or one written that an earlier
instruction still reads or has still to write. -/
def Spindle.regHazard (sp : Spindle) (reads writes : List (Nat × Nat)) : Bool :=
  meetAny writes sp.passRegs || meetAny (reads ++ writes) sp.recvRegs ||
    sp.uses.any fun u => (u.write && reads.any fun r => meetRange r.1 r.2 u.first u.cnt) ||
      writes.any fun r => meetRange r.1 r.2 u.first u.cnt
/-- A slice-ordering hazard (R248): a line that an earlier instruction has still to write, or, where the word writes its lines, one
that an earlier instruction has still to read. -/
def Spindle.lineHazard (sp : Spindle) (writes : Bool) (l : Nat × Nat) : Bool :=
  sp.busyLines.any (fun r => meetRange r.1 r.2 l.1 l.2) ||
    sp.lineUses.any fun u => (u.write || writes) && (List.range l.2).any fun k => u.waits (l.1 + k)
/-- The registers that the word itself names, index registers among them. -/
def wordReads (w : DWord) (i : Issue) : List (Nat × Nat) := i.reads ++ (xReads w).map fun r => (r, 1)
def wordWrites (w : DWord) (i : Issue) : List (Nat × Nat) := i.writes ++ (xWrites w).map fun r => (r, 1)
/-- A register or slice-ordering hazard. -/
def Spindle.hazard (sp : Spindle) (w : DWord) (i : Issue) : Bool :=
  sp.regHazard (wordReads w i) (wordWrites w i) || sp.lineHazard (writesLines w || landsLines w) i.lines

/-- What the instruction holds from its issue on; a send that has gone in part holds its ports for the rest. -/
def Spindle.holdsFor (sp : Spindle) (w : DWord) (i : Issue) : List UnitHold :=
  let hs := i.holds.getD (holdsOf w)
  if wCls w = 4 ∨ wCls w = 5 then hs.map fun h => { h with left := h.left - sp.done } else hs
/-- A unit that the instruction needs and an earlier one holds: the earlier instruction keeps it (R46, R201). -/
def Spindle.clash (sp : Spindle) (hs : List UnitHold) : Option SpUnit :=
  (hs.find? fun h => sp.holds.any h.meets).map UnitHold.unit
/-- An array is waited for as an input token (R90, R142), any other unit as a port side (R201; log entry 9). -/
def SpUnit.waitCode : SpUnit → Nat
  | .warp _ => 1
  | .weft => 1
  | _ => 4
/-- An instruction that issues takes its units, registers and lines (R247, R248, R252). A pass keeps its destination by itself until its
end Turn, and so does a receive. -/
def Spindle.claim (sp : Spindle) (w : DWord) (i : Issue) : Spindle :=
  let hs := sp.holdsFor w i
  let held := heldTurns hs
  let use (write : Bool) (n : Nat) (r : Nat × Nat) : RegUse := ⟨r.1, r.2, n, write⟩
  let reads := if held = 0 then [] else (i.reads.map (use false held))
  let writes := if wCls w = 0 ∨ wCls w = 4 then [] else (wordWrites w i).map (use true (max 1 (doneTurns w)))
  { sp with holds := sp.holds ++ hs, uses := sp.uses ++ reads ++ writes
            lineUses := if i.lines.2 = 0 ∨ landsLines w = true then sp.lineUses
              else sp.lineUses ++ [⟨i.lines.1, i.lines.2, lineStart w, 0, writesLines w⟩] }

/-- The step number that tile `t`'s instructions run in (R279). -/
def State.stepOf (s : State) (p t : Nat) : Nat :=
  let q := s.part p
  if (s.spin t).sync.stepGo && decide (2 ≤ q.begun) then q.step - 1 else q.step

/-- Turns that the lead limit leaves to tile `t` (R47 condition 4): by the oldest value that the progress tree can deliver in this slot,
and by the true minimum; none when no other tile holds it back (R50). -/
def State.leadRooms (s : State) (p t : Nat) : Option (Nat × Nat) :=
  (s.minOthers p t).map fun m =>
    let sp := s.spin t
    let old := min m (((m :: sp.minSeen).take (s.treeLag p + 1)).getLastD m)
    let room (v : Nat) : Nat := v + s.fld Reg.trnLead p 10 0 - sp.turn.toNat
    (room old, room m)
/-- Whether the answer for `n` Turns hangs on the value that the tree delivers now (R50). -/
def State.leadOpen (s : State) (p t n : Nat) : Bool :=
  match s.leadRooms p t with
  | some (a, b) => decide (a < n ∧ a < b)
  | none => false
/-- Turns that the lead limit leaves to a word of `n` Turns by the value delivered now: within the lag a free value (R50). -/
def State.leadRoom (s : State) (p t n : Nat) : Option Nat :=
  (s.leadRooms p t).map fun r => if s.leadOpen p t n && Config.treeDelivers s.freeCtr then r.2 else r.1

/-! ## Slots that retire nothing -/

/-- A slot of tile `t` without a retired instruction: the partition's first tile drives the watchdog (R74), except while every Spindle
waits in SYNC.STEP for a batch (R279) and from an integrity stop to the re-run's resume (R430). -/
def State.wdgTick (s : State) (p t : Nat) : State :=
  let ts := s.partTiles p
  let idle := ts.all fun u => (s.spin u).wait.step
  if ts.all (fun u => decide (t ≤ u)) && !idle && (s.part p).rerun.isNone then
    s.setFld Reg.trnWdg p 20 0 (min (s.fld Reg.trnWdg p 20 0 + 1) (2 ^ 20))
  else s

/-- The partition has retired an instruction: TRN_WDG restarts and STATE 2 ends (R51, R74). -/
def State.progress (s : State) (p : Nat) : State :=
  (s.modPart p fun q => { q with stopped := false, told := false }).setFld Reg.trnWdg p 20 0 0

/-- A waiting slot: its class is counted, and the subcause adds up for R607. -/
def State.waitSlot (s : State) (p t : Nat) (w : SpWait) : State :=
  let s := s.modSpin t fun sp =>
    { sp with wait := w, waited := SMap.set 0 sp.waited (waitCause w.code) (SMap.get 0 sp.waited (waitCause w.code) + 1) }
  (s.slotOf t (waitConds w (s.spin t).sync.miled)).wdgTick p t

/-- A wasted slot (R49, R599). -/
def State.wasteSlot (s : State) (p t : Nat) : State := (s.slotOf t [1]).wdgTick p t

/-! ## Faults (R307-R313) -/

/-- The fault record of R308 before its episode orders it: SEQ and FLAGS 0. -/
def faultRecord (code tile part addr cls turn step occ detail : Nat) : Bytes :=
  natLe code 2 ++ natLe (tile + part * 4096) 2 ++ natLe (addr + cls * 4096) 2 ++ [0, 0] ++ natLe turn 8 ++ natLe step 6 ++
    natLe occ 2 ++ natLe detail 8

/-- Add a record to the partition's episode and stop the partition, unless it has stopped for a fault already: then the
Spindle alone stops (R310). -/
def State.recordFault (s : State) (p t : Nat) (r : Bytes) : State :=
  let again := (s.part p).stop == .fault
  let s := s.modPart p fun q => { q with faults := q.faults ++ [r] }
  if again then s.stopTile p t
  else s.faultStop p t

/-- Take a fault of an instruction that issued at `site`: a record and the stop (R288, R310). A fault of the stand-in in a re-run
on the row's spare tile is a replay disagreement and leaves no record (R312). -/
def State.takeFaultAt (s : State) (p t : Nat) (site : Site) (f : FaultP) : State :=
  if (s.part p).runKind = .standIn ∧ (s.row (rowOf t)).standIn = some (t % 32) then s.replayDisagree p t 0xFF 0 0
  else s.recordFault p t (faultRecord f.1 t p site.addr site.cls site.turn.toNat (s.stepOf p t) site.occ f.2)

/-- Take an instruction fault at issue: no effect, a wasted slot. A second instruction-store parity fault at one place makes the
tile suspect (R313). -/
def State.takeFault (s : State) (p t : Nat) (w : DWord) (f : FaultP) : State :=
  let sp := s.spin t
  let step := (s.part p).step
  let s := (s.takeFaultAt p t ⟨sp.pc, wCls w, sp.turn, SMap.get 0 sp.occ sp.pc⟩ f).wasteSlot p t
  if f.1 = 0x1008 ∧ f.2 < 256 then
    if s.integ.parityFaults.contains (t, sp.pc) then s.suspect 1 9 (s.physOf t) t 0xFF p step 0
    else { s with integ := { s.integ with parityFaults := s.integ.parityFaults ++ [(t, sp.pc)] } }
  else s

/-! ## Retiring (R244, R246, R283, R284) -/

/-- The next word after `pc` and the open loops (R283): a loop whose last word has issued starts its next iteration or ends; the
image's last word wraps to the restart address (R244). -/
def loopNext (pc len restart : Nat) : List LoopFrame → Nat × List LoopFrame
  | [] => (if pc + 1 < len then pc + 1 else restart, [])
  | f :: fs =>
    if f.last = pc then
      if f.left = 0 then loopNext pc len restart fs else (f.first, { f with left := f.left - 1 } :: fs)
    else (pc + 1, f :: fs)

/-- A Spindle after its word: next word, loops, Turns, occurrence, one word fewer to squash, nothing waited for. -/
def Spindle.retired (sp : Spindle) (turns : Nat) : Spindle :=
  let nx := loopNext sp.pc sp.len sp.restart sp.frames
  { sp with pc := nx.1, frames := nx.2, turn := sp.turn + BitVec.ofNat 64 turns,
            occ := SMap.set 0 sp.occ sp.pc (SMap.get 0 sp.occ sp.pc + 1), squash := sp.squash - 1,
            wait := ⟨0, none, false⟩, waited := [], done := 0 }

/-- Retire the word at the pc: Turns, occurrence, next word, and what the slots count. `cls` is RETIRED 0 or WASTED 1; a squashed word
takes its Turn and retires nothing (R284, R74). Each Turn of a CTL.NOP is a retired slot (log entry 13). -/
def State.retire (s : State) (p t : Nat) (w : DWord) (turns cls : Nat) : State :=
  let sp := s.spin t
  let phys := s.physOf t
  let s := s.countO phys (16 + wCls w) 1
  let s := if cls = 1 then s.countO phys 26 1 else s.countO phys 57 (tokenCost w)
  let s := s.slotsOf t [cls] turns
  let s := if cls = 1 then s else s.sample p t w sp.waited sp.turn
  let s := s.modSpin t fun sp => sp.retired turns
  if cls = 1 then s.wdgTick p t else s.progress p

/-! ## The issue slot -/

/-- The words that CTL.SKIP squashes, by class (R284). -/
def squashable (w : DWord) : Bool := [0, 1, 2, 3, 6].contains (wCls w)

/-- A CTX.PUT, GET or ATTN on an entry that is not valid in the step, but in range (R276). -/
def State.ctxInvalid (s : State) (p t : Nat) (w : DWord) : Bool :=
  if wCls w = 6 ∧ wOp w ≤ 2 then
    let e := (wf w 51 44 + (s.spin t).xr (wf w 55 52)) % 2 ^ 32
    decide (e ≤ 255) && (s.entryAt p t e).isNone
  else false

/-- The grant test of R62: the declared grant of the current window, once the tile has one (R286). -/
def Spindle.grantFault (sp : Spindle) (w : DWord) : Option FaultP :=
  let c := tokenCost w
  if sp.granted && decide (sp.grant < c) then some (0x1001, c + sp.grant * 2 ^ 16) else none

/-- Where a wait stands in the order of R601: front-starved causes first. -/
def waitRank (code : Nat) : Nat :=
  match code with
  | 1 => 0 | 8 => 0 | 6 => 1 | 4 => 2 | 7 => 3 | 2 => 4 | 5 => 4 | 3 => 5 | 9 => 6 | _ => 7
/-- The wait that the slot counts: the first of R601's order, the first in the list among equals. -/
def firstOf : List (Option (SpWait × (State → State))) → Option (SpWait × (State → State))
  | [] => none
  | none :: l => firstOf l
  | some x :: l => match firstOf l with
    | some y => if waitRank y.1.code < waitRank x.1.code then some y else some x
    | none => some x
/-- A wait on a condition. -/
def waitIf (c : Bool) (code : Nat) : Option (SpWait × (State → State)) := if c then waits code else none

/-- What keeps the word from issuing, hazards apart: what it waits on by itself, the lead limit, a unit, power tokens (R47, R49,
R201, R601). -/
def State.firstWait (s : State) (p t : Nat) (w : DWord) (i : Issue) : Option (SpWait × (State → State)) :=
  let sp := s.spin t
  let unit := match sp.clash (sp.holdsFor w i) with
    | some u => waits u.waitCode
    | none => none
  firstOf [i.wait, waitIf (s.leadRoom p t 1 == some 0) 6, unit,
    waitIf (decide (sp.tokens < tokenCost w ∨ (tokenCost w ≠ 0 ∧ sp.granted = false))) 3]

/-- Spend power tokens (R253). -/
def Spindle.spend (sp : Spindle) (n : Nat) : Spindle := { sp with tokens := sp.tokens - n }
/-- Charge an instruction's tokens (R253). -/
def State.charge (s : State) (t : Nat) (w : DWord) : State :=
  if tokenCost w = 0 then s else s.modSpin t fun sp => sp.spend (tokenCost w)

/-- Issue a legal word whose effect is `i`. -/
def State.issueWord (s : State) (p t : Nat) (w : DWord) (i : Issue) : State :=
  let sp := s.spin t
  if sp.passWait i || sp.hazard w i then
    match firstOf [waitIf (sp.passWait i) 1, waitIf true 7, (s.firstWait p t w i).map fun x => (x.1, id)] with
    | some (wt, _) => s.waitSlot p t wt
    | none => s
  else match firstFault [i.fault, sp.grantFault w] with
    | some f => s.takeFault p t w f
    | none => match s.firstWait p t w i with
      | some (wt, prog) => (prog s).waitSlot p t wt
      | none => i.post ((i.eff ((s.charge t w).modSpin t fun sp => sp.claim w i)).retire p t w i.turns 0)

/-- Whether the stop of its partition has reached tile `t` (R310, R430): a tile still under way in the lag is reached at a moment
that is not fixed, a free value. -/
def State.stopReached (s : State) (p t : Nat) : Bool × State :=
  let q := s.part p
  if q.stop = .run then (false, s)
  else match (q.late.find? fun e => e.1 == t).map Prod.snd with
    | none => (true, s)
    | some n =>
      let (k, s) := s.fresh
      if n = 0 ∨ Config.stopReaches k then (true, s.stopTile p t)
      else (false, s.modPart p fun q => { q with late := q.late.map fun e => if e.1 = t then (e.1, n - 1) else e })

/-- One slot of tile `t` in which the command offers word `w` with effect `f`. A tile without a program issues nothing. The word
that issues is the word in the program store: where it fails its parity or is illegal it faults (R249), and where it is another
word than the command's, this is not what the Spindle does now. Credits freed earlier go first (R206). -/
def State.issue (s : State) (t : Nat) (w : DWord) (f : State → Nat → Issue) : State :=
  match (s.spin t).part with
  | none => s
  | some p =>
    if (s.part p).prog.isNone then s
    else
      let (stop, s1) := (s.sendDue p t).stopReached p t
      let sp := s1.spin t
      let fetched := SMap.get 0 sp.words sp.pc
      let bad := (SMap.get 0 sp.parity sp.pc ^^^ wordParity fetched).toNat
      let illegal := !wordLegal fetched
      if bad = 0 && !illegal && fetched != w then s
      else if stop then s1.wasteSlot p t
      else if sp.sync.miled then s1.waitSlot p t ⟨8, none, false⟩
      else if bad ≠ 0 ∨ illegal = true then s1.takeFault p t fetched (0x1008, bad + if illegal then 256 else 0)
      else
        let done (s2 : State) : State := if s1.leadOpen p t (turnsOf w) then { s2 with freeCtr := s2.freeCtr + 1 } else s2
        if (sp.squash ≠ 0 ∧ squashable w = true) ∨ s1.ctxInvalid p t w = true then
          done (if s1.leadRoom p t 1 = some 0 then s1.waitSlot p t ⟨6, none, false⟩ else s1.retire p t w 1 1)
        else done (s1.issueWord p t w (f s1 p))

/-- An instruction command: the tile must be a logical tile of the module. -/
def instr (s : State) (t : BitVec 12) (w : DWord) (f : State → Nat → Nat → Issue) : Host.Outcome State Fault Refusal :=
  if tileOk t.toNat then .next (s.issue t.toNat w fun s p => f s p t.toNat) else .fault .noSuchUnit

end Sys2Proof.Machine
end

