-- ==== Sys2Proof/Machine/CtxStore.lean ====
section
/-! DEFINITION. The context store's addresses (R337, R338, R340), its blocks (R273), and the RDMA windows (R534). -/

namespace Sys2Proof.Machine

/-! ## The context map -/

/-- LAYERS, HEADS, head dimension and lines of a block of a partition's context map (R337). -/
def State.ctxLayers (s : State) (p : Nat) : Nat := s.fld Reg.srvCtxCfg p 7 0 + 1
def State.ctxHeads (s : State) (p : Nat) : Nat := s.fld Reg.srvCtxCfg p 13 8 + 1
def State.ctxDim (s : State) (p : Nat) : Nat := if s.fld Reg.srvCtxCfg p 16 16 = 1 then 128 else 64
def blockLines (d : Nat) : Nat := if d = 128 then 66 else 33
/-- Slice-tier and stack-tier pages of a partition. -/
def State.slicePages (s : State) (p : Nat) : Nat := s.fld Reg.srvCtxSlice p 27 16
def State.stackPages (s : State) (p : Nat) : Nat := s.fld Reg.srvCtxStack p 23 0

/-- The logical tile of a relative tile of the partition (R292). -/
def State.relTile (s : State) (p r : Nat) : Nat :=
  let b := s.partBase p
  2048 * ((halfOf r + halfOf b) % 2) + 32 * (r / 32 % 64 + b / 32 % 64) + r % 32
/-- A relative tile's result row stays on the die. -/
def State.relOk (s : State) (p r : Nat) : Bool := decide (r / 32 % 64 + s.partBase p / 32 % 64 < 64)
/-- Home tile of store `i` (R338). -/
def State.ctxHome (s : State) (p i : Nat) : Nat := s.relTile p (s.reg (Reg.srvCtxHome + 1024 * p + 4 * i) % 4096)

/-- Where a line of the context store lies: in a slice, by tile and byte address, or in a stack, by byte address. -/
inductive CtxAddr where
  | slice (tile byte : Nat)
  | stack (byte : Nat)

/-- First byte of a block of page `pg` and store `i` (R338). -/
def State.ctxAddr (s : State) (p pg i : Nat) : CtxAddr :=
  let b := blockLines (s.ctxDim p)
  let n := s.slicePages p
  if pg < n then
    let home := s.ctxHome p i
    let q := ((List.range i).filter fun k => s.ctxHome p k == home).length
    .slice home (64 * ((s.sliceWin p).1 + s.fld Reg.srvCtxSlice p 11 0 + q * n * b + pg * b))
  else
    let stores := s.ctxLayers p * s.ctxHeads p
    .stack (64 * (s.reg Reg.cfgPartStackBase p + s.reg Reg.srvCtxStackBase p + (pg - n) * stores * b + i * b))

/-- Read `n` bytes from an offset of a block. -/
def State.ctxRead (s : State) (a : CtxAddr) (off n : Nat) : Bytes :=
  match a with
  | .slice t b => s.sliceRead t (b + off) n
  | .stack b => s.stackRead (b + off) n
/-- Write bytes at an offset of a block. -/
def State.ctxWrite (s : State) (a : CtxAddr) (off : Nat) (bs : Bytes) : State :=
  match a with
  | .slice t b => s.sliceWrite t (b + off) bs
  | .stack b => s.stackWrite (b + off) bs

/-! ## Context traffic on the Interchange (R27, R228, R242, R275, R651) -/

/-- The stack-channel unit of a line of the stack line space (R211, R232): the fitted stacks follow one another, and successive lines
of a stack lie on successive channels (log entry 108). -/
def State.stackUnit (s : State) (line : Nat) : Nat :=
  let st := ((List.range 4).filter (stackFitted s.variant)).getD (line / (Config.stackBytes / 64)) 0
  2048 * (st / 2) + 32 * (16 * st + line % 16) + 24
/-- The RoCEv2 engine as a flit names it (R211). -/
def engineUnit : Nat := 32 * 8 + 25
/-- The tile or unit that holds the line at an offset of a block. -/
def State.ctxSrc (s : State) (a : CtxAddr) (off : Nat) : Nat :=
  match a with
  | .slice t _ => t
  | .stack b => s.stackUnit ((b + off) / 64)
/-- Arbitration points of a line between a tile or unit and another: those of its route, and the access to a stack channel, whose
waits count at the spine of the channel (R228). -/
def carryPoints (src dst : Nat) : List (Nat × Nat) :=
  let access (u : Nat) : List (Nat × Nat) :=
    if isStackUnit u then [(2 * 2 ^ 20 + u / 32 % 64, ixcSpine (joinHalf u) (bits u 8 5))] else []
  routePoints src dst (route src dst none) ++ access src ++ access dst
/-- The first point at which a line from `src` to `dst` is not admitted now (R229). -/
def State.carryHeld (s : State) (p src dst : Nat) : Option (Nat × Nat) := s.heldAt p (carryPoints src dst)
/-- A line of the partition's context traffic crosses from `src` to `dst` (R27): its units and ports count it as a flit, and every point
on its way gives it a slot. -/
def State.carry (s : State) (p src dst : Nat) : State :=
  let s := (s.countRoute (route src dst none)).passPoints p (carryPoints src dst)
  let s := if isUnit src then s else (s.bump Reg.ixcTxCnt (ixcTile src)).countO (s.physOf src) 39 1
  if isUnit dst then s else (s.bump Reg.ixcRxCnt (ixcTile dst)).countO (s.physOf dst) 40 1
/-- Lines from `src` to each of a list. -/
def State.carryAll (s : State) (p src : Nat) (dsts : List Nat) : State := dsts.foldl (fun s d => s.carry p src d) s

/-- The arbitration point of an Ethernet port's egress, by the queue pair that uses it (R228 class 4, R464). -/
def State.portPoint (s : State) (slot : Nat) : Nat := 4 * 2 ^ 20 + (s.qp slot).port
/-- A partition's WRITE takes the slots of its bytes at its port. -/
def State.usePort (s : State) (p slot bytes : Nat) : State := s.useSlots (s.portPoint slot) p (ceilDiv bytes 64)
/-- Lines towards the units or tiles of `dsts` wait for share admission (R229, R231). -/
def State.shareWait (s : State) (p src : Nat) (dsts : List Nat) : Option (SpWait × (State → State)) :=
  match dsts.findSome? fun d => s.carryHeld p src d with
  | some e => some (⟨5, none, false⟩, fun s => s.countShareWait e)
  | none => none

/-- The page that block `b` of a session translates to: an open page while one serves it (R340), else its block list's page. -/
def Session.pageOf (x : Session) (b : Nat) : Nat :=
  match x.openPages.find? fun e => e.2 == some b with
  | some e => e.1
  | none => x.blocks.getD b 0

/-- Element index in a block of the key (first `d`) and value elements of token row `k` (R273). -/
def blockElem (d k i : Nat) : Nat := if i < d then k * d + i else (16 + k) * d + (i - d)

/-- Copy the key and value of one token, a scale-led E4M3 vector of 2d elements, into its place in a block: elements and the scales
of their blocks of 32. -/
def State.putToken (s : State) (a : CtxAddr) (d k : Nat) (v : Bytes) : State :=
  let s := (List.range (2 * d)).foldl (fun s i =>
    let e := blockElem d k i
    s.ctxWrite a (unitBase 3 e + 8 + e % 256) [BitVec.ofNat 8 (vecCode 3 v i)]) s
  (List.range (2 * d / 32)).foldl (fun s c =>
    let e := blockElem d k (32 * c)
    s.ctxWrite a (unitBase 3 e + e % 256 / 32) [BitVec.ofNat 8 (vecScale 3 v (32 * c))]) s

/-! ## RDMA windows (R534) -/

/-- Base, lines, host and validity of a partition's RDMA window. -/
def State.rdmaBase (s : State) (p w : Nat) : Nat := s.reg64 (Reg.cfgRdmaBaseLo + 16 * w) p
def State.rdmaLines (s : State) (p w : Nat) : Nat := s.reg (Reg.cfgRdmaLines + 16 * w) p
def State.rdmaValid (s : State) (p w : Nat) : Bool := s.fld (Reg.cfgRdmaHost + 16 * w) p 31 31 == 1
def State.rdmaKey (s : State) (p w : Nat) : Word := BitVec.ofNat 32 (s.reg (Reg.cfgRdmaKey + 8 * w) p)
def State.rdmaSlot (s : State) (p w : Nat) : Nat := s.fld (Reg.cfgRdmaSlot + 8 * w) p 8 0
/-- Address of allowed host `h` (R551), four words. -/
def State.hostAddr (s : State) (h : Nat) : List Word :=
  (List.range 4).map fun k => BitVec.ofNat 32 (s.reg (Reg.cfgHost + 16 * h + 4 * k))
/-- A range of bytes lies inside the window. -/
def State.inWindow (s : State) (p w addr bytes : Nat) : Bool :=
  s.rdmaValid p w && decide (s.rdmaBase p w ≤ addr ∧ addr + bytes ≤ s.rdmaBase p w + 64 * s.rdmaLines p w)
/-- A WRITE through the window may be issued (R534). -/
def State.rdmaOk (s : State) (p w addr bytes : Nat) : Bool :=
  let k := s.rdmaSlot p w
  let q := s.qp k
  s.inWindow p w addr bytes && decide (6 ≤ k ∧ k ≤ 261) && q.st == 2 &&
    q.ip == s.hostAddr (s.fld (Reg.cfgRdmaHost + 16 * w) p 5 0)

end Sys2Proof.Machine
end

