-- ==== Sys2Proof/Machine/LinkOps.lean ====
section
/-! DEFINITION. Inter-device messages, leas and queue pairs as shared operations (12_links_and_topology.md R464-R481, R484-R486,
R491, R492). A unit is a link 0-7, or 8 for the RoCEv2 engine. -/

namespace Sys2Proof.Machine

def State.link (s : State) (l : Nat) : LinkSt := SMap.get LinkSt.init s.net.links l
def State.modLink (s : State) (l : Nat) (f : LinkSt → LinkSt) : State :=
  { s with net := { s.net with links := SMap.set LinkSt.init s.net.links l (f (s.link l)) } }

/-- A link that the variant fits (R474). -/
def State.linkFitted (s : State) (l : Nat) : Bool := decide (l < linksOf s.variant)
/-- State code of a link (R485): 0 DOWN, 1 TRAINING, 2 UP, 3 QUARANTINED, 4 FAILED. -/
def State.linkState (s : State) (l : Nat) : Nat := s.fld Reg.sknState l 2 0
/-- GROUPED topology (R487). -/
def State.grouped (s : State) : Bool := s.fld Reg.sknMode 0 0 0 == 1
/-- The module's device ID and configuration fingerprint (R45). -/
def State.device (s : State) : Nat := s.fld Reg.cfgDevice 0 15 0
def State.fprint (s : State) : Nat := s.reg64 Reg.cfgFprintLo

/-! ## Leas (R475-R478) -/

/-- The CRC of a lea: header bits [39:0], then the flits (R475). -/
def leaCrc (hdr : Nat) (flits : Bytes) : Nat := crc24 (natLe (hdr % 2 ^ 40) 5 ++ flits)
/-- The bytes of a lea. -/
def leaBytes (hdr : Nat) (flits : Bytes) : Bytes := natLe (hdr % 2 ^ 40 + leaCrc hdr flits * 2 ^ 40) 8 ++ flits
/-- A fill flit: bytes 8-9 are 0xFF (R476). -/
def fillFlit : Bytes := List.replicate 8 0 ++ [0xFF#8, 0xFF#8] ++ List.replicate 54 0

/-- Put a lea on the link with the acknowledgement and the credits of one class. GROUP marks every fifth lea, IDLE leas included,
and where the group stands is not fixed: a free value. -/
def State.putLea (s : State) (l kind : Nat) (nak : Bool) (seq cls : Nat) (flits : Bytes) : State :=
  let x := s.link l
  let (cc, n) := (x.owed.head?.getD (0, 0))
  let n := min n 63
  let (k, s) := s.fresh
  let hdr := kind + (if Config.freeBit k then 4 else 0) + (if nak then 8 else 0) + seq * 2 ^ 4 + x.rxLast * 2 ^ 16 +
    cc * 2 ^ 28 + n * 2 ^ 30 + cls * 2 ^ 36
  (s.modLink l fun x => { x with owed := SMap.set 0 x.owed cc (SMap.get 0 x.owed cc - n) }).send (.lea l (leaBytes hdr flits))

/-- Send one DATA lea of a class: up to 32 flits, completed with fill flits; one credit; into the retry buffer (R476-R478). -/
def State.sendLea (s : State) (l cls : Nat) : State :=
  let x := s.link l
  let q := SMap.get [] x.txq cls
  let body := ((List.range 32).map fun i => q.getD i fillFlit).flatten
  let s := s.putLea l 1 false x.txSeq cls body
  let s := s.modLink l fun x => { x with
    txSeq := (x.txSeq + 1) % 4096
    retry := x.retry ++ [(x.txSeq, cls, body)]
    ackAt := if x.retry.isEmpty then some s.time.cnt else x.ackAt
    credit := SMap.set 64 x.credit cls (SMap.get 64 x.credit cls - 1)
    txq := SMap.set [] x.txq cls (q.drop 32) }
  s.bump Reg.sknTxLeaCnt l

/-- Send leas of a class while it has flits and credits and the retry buffer of 256 has room. -/
def State.pumpClass (s : State) (l cls : Nat) : Nat → State
  | 0 => s
  | fuel + 1 =>
    let x := s.link l
    if (SMap.get [] x.txq cls).isEmpty ∨ SMap.get 64 x.credit cls = 0 ∨ 256 ≤ x.retry.length then s
    else (s.sendLea l cls).pumpClass l cls fuel

/-- Send what every class may send now. Each class has credits of its own, so none waits for another (R478); that classes which may all
send are served 3, 2, 1, 0 is the model's choice (log entry 115). -/
def State.pumpLink (s : State) (l : Nat) : State :=
  [3, 2, 1, 0].foldl (fun s c => s.pumpClass l c 256) s

/-- Resend from the retry buffer, in order, and count the resend (R477). -/
def State.resend (s : State) (l : Nat) : State :=
  let x := s.link l
  if x.retry.isEmpty then s
  else
    let s := s.modLink l fun x => { x with
      ackAt := some s.time.cnt
      resends := (x.resends.filter fun e => decide (s.now < e.toNat + 1000000000)) ++ [s.time.cnt] }
    (x.retry.foldl (fun s e => s.putLea l 1 false e.1 e.2.1 e.2.2) s).bump Reg.sknRetryCnt l
/-- No acknowledgement has come for TO_US, 0 acting as 1 (R477, R498). -/
def State.ackLate (s : State) (l : Nat) : Bool :=
  match (s.link l).ackAt with
  | some t => decide (t.toNat + 1000 * max 1 (s.fld Reg.sknRetryCfg 0 23 16) ≤ s.now)
  | none => false
/-- The link's resends of the last second exceed LIMIT (R481). -/
def State.overRetries (s : State) (l : Nat) : Bool :=
  decide (s.fld Reg.sknRetryCfg 0 11 0 < ((s.link l).resends.filter fun e => decide (s.now < e.toNat + 1000000000)).length)

/-- An acknowledgement frees the retry buffer up to its lea. -/
def LinkSt.acked (x : LinkSt) (ack : Nat) (now : DWord) : LinkSt :=
  match x.retry.findIdx? fun e => e.1 == ack with
  | some k => { x with retry := x.retry.drop (k + 1), ackAt := if (x.retry.drop (k + 1)).isEmpty then none else some now }
  | none => x

/-! ## Messages (R465) -/

/-- Fields of a message header (R465). -/
structure MsgHdr where
  cls : Nat
  ddev : Nat
  spart : Nat := 0
  dpart : Nat := 0
  schan : Nat := 0
  fmt : Nat := 0
  dchan : Nat := 0
  tag : Nat := 0
  job : Nat := 0
  dgroup : Nat := 0
  dmember : Nat := 0
  via : Option Nat := none
  step : Nat := 0
  mseq : Nat := 0

/-- The message of a header and its body, padded to whole flits, with its CRC. -/
def State.message (s : State) (h : MsgHdr) (body : Bytes) : Bytes :=
  let n := (body.length + 63) / 64
  let body := padTo (64 * n) body
  let h60 := padTo 60 (natLe s.fprint 8 ++ natLe h.cls 1 ++ natLe (n - 1) 1 ++ natLe s.device 2 ++ natLe h.ddev 2 ++
    natLe (h.spart + 16 * h.dpart) 1 ++ natLe (h.schan + 32 * h.fmt) 1 ++ natLe h.dchan 1 ++ natLe h.tag 1 ++ natLe h.job 2 ++
    natLe h.dgroup 2 ++ natLe h.dmember 1 ++ natLe (if h.via.isSome then 1 else 0) 1 ++ natLe (h.via.getD 0) 2 ++ natLe 0 2 ++
    natLe h.step 6 ++ natLe h.mseq 2)
  h60 ++ natLe (crc32c (h60 ++ body)) 4 ++ body

/-- The intermediate group (R492): the first of `h mod G`, upward, that is neither the own nor the destination group; none when
G < 3 or the groups agree. -/
def State.viaGroup (s : State) (key dgroup ddev : Nat) : Option Nat :=
  let g := s.fld Reg.sknMode 0 24 16
  let n := s.fld Reg.sknGroups 0 9 0
  if n < 3 ∨ dgroup = g then none
  else
    let h := ((s.device * 0x9E37) % 2 ^ 32) ^^^ key ^^^ ((ddev * 8) % 2 ^ 32)
    ((List.range 3).map fun d => (h % n + d) % n).find? fun i => i != g && i != dgroup

/-- Send a message on a Skein link: its flits join their class. A link that is not UP takes nothing, but a SERVICE message while
QUARANTINED (R485). -/
def State.linkSend (s : State) (l cls : Nat) (msg : Bytes) : State :=
  let st := s.linkState l
  if st = 2 ∨ (st = 3 ∧ cls = 2) then
    (s.modLink l fun x => { x with txq := SMap.set [] x.txq cls (SMap.get [] x.txq cls ++ chunks 64 (msg.length / 64 + 1) msg) }).pumpLink l
  else s

/-! ## Descriptors (R466, R473, R489, R499) -/

/-- Address of descriptor `c` of partition `p` of a link. -/
def rdesc (p c : Nat) : Nat := 16 * (32 * p + c)
/-- Key of a descriptor's counters. -/
def descKey (unit p c : Nat) : Nat := 512 * unit + 32 * p + c
/-- DEPTH of a descriptor; 0 when it is not in force. -/
def State.descDepth (s : State) (unit p c : Nat) : Nat :=
  if unit < 8 then
    if s.fld (Reg.sknRdescDst + rdesc p c) unit 31 31 = 1 then s.fld (Reg.sknRdescJob + rdesc p c) unit 26 16 else 0
  else if s.fld (Reg.ethRdescDst + 256 * p + 8 * c) 0 31 31 = 1 then s.fld (Reg.ethRdescQp + 256 * p + 8 * c) 0 26 16 else 0
/-- Credits of a descriptor. -/
def State.descCred (s : State) (unit p c : Nat) : Nat :=
  if unit < 8 then s.fld (Reg.sknRdescCred + rdesc p c) unit 11 0 else SMap.get 0 s.net.ethCred (descKey 8 p c)
/-- Set a descriptor's credits. -/
def State.setDescCred (s : State) (unit p c n : Nat) : State :=
  if unit < 8 then s.setFld (Reg.sknRdescCred + rdesc p c) unit 11 0 n
  else { s with net := { s.net with ethCred := SMap.set 0 s.net.ethCred (descKey 8 p c) n } }
/-- The PEER slot of an engine descriptor. -/
def State.ethSlot (s : State) (p c : Nat) : Nat := s.fld (Reg.ethRdescQp + 256 * p + 8 * c) 0 8 0
/-- The unit can carry the descriptor's messages: a link that is UP, or a PEER queue pair in RTS. -/
def State.unitUp (s : State) (unit p c : Nat) : Bool :=
  if unit < 8 then s.linkState unit == 2 else (s.qp (s.ethSlot p c)).st == 2

/-- The message of a waiting run of flits (R465, R466, R491, R492). -/
def State.tensorMsg (s : State) (m : EgMsg) : Bytes :=
  let n := SMap.get 0 s.net.mseq (descKey m.unit m.part m.chan)
  let body := m.body.flatten
  if m.unit < 8 then
    let a := rdesc m.part m.chan
    let dst := s.reg (Reg.sknRdescDst + a) m.unit
    let grp := s.reg (Reg.sknRdescGrp + a) m.unit
    let via := if s.grouped = true ∧ s.fld Reg.sknRoute 0 0 0 = 1 then
        s.viaGroup (32 * m.part + m.chan) (bits grp 8 0) (bits dst 15 0) else none
    s.message { cls := 0, ddev := bits dst 15 0, spart := m.part, dpart := bits dst 19 16, schan := m.chan, fmt := m.fmt,
                dchan := bits dst 24 20, tag := m.tag, job := s.fld (Reg.sknRdescJob + a) m.unit 15 0,
                dgroup := if s.grouped then bits grp 8 0 else 0, dmember := if s.grouped then bits grp 22 16 else 0,
                via := via, step := m.step, mseq := n % 65536 } body
  else
    let dst := s.reg (Reg.ethRdescDst + 256 * m.part + 8 * m.chan)
    s.message { cls := 0, ddev := bits dst 15 0, spart := m.part, dpart := bits dst 19 16, schan := m.chan, fmt := m.fmt,
                dchan := bits dst 24 20, tag := m.tag, step := m.step, mseq := n % 65536 } body

/-- Send a waiting message: its credits go at once, and its lines leave the egress hold. -/
def State.sendTensor (s : State) (m : EgMsg) : State :=
  let msg := s.tensorMsg m
  let k := descKey m.unit m.part m.chan
  let s := s.setDescCred m.unit m.part m.chan (s.descCred m.unit m.part m.chan - m.body.length)
  let s := { s with net := { s.net with mseq := SMap.set 0 s.net.mseq k (SMap.get 0 s.net.mseq k + 1) } }
  if m.unit < 8 then s.linkSend m.unit 0 msg else s.send (.peerSend (s.ethSlot m.part m.chan) msg)

/-- The first waiting message of every partition on every unit: it holds back the later ones there (R466). -/
def headMsgs : List (Nat × Nat) → List EgMsg → List EgMsg
  | _, [] => []
  | seen, m :: l =>
    if seen.contains (m.part, m.unit) then headMsgs seen l else m :: headMsgs ((m.part, m.unit) :: seen) l
/-- The arbitration point at which a message leaves: its link, or the Ethernet port of its queue pair (R228, R464, R493). -/
def State.egPoint (s : State) (m : EgMsg) : Nat :=
  if m.unit < 8 then 3 * 2 ^ 20 + m.unit else s.portPoint (s.ethSlot m.part m.chan)
/-- The messages that their units carry and their credits cover. -/
def State.coveredMsgs (s : State) : List EgMsg :=
  (headMsgs [] s.net.waiting).filter fun m =>
    s.unitUp m.unit m.part m.chan && decide (m.body.length ≤ s.descCred m.unit m.part m.chan)
/-- The message that goes next: its partition is the one that its point serves among those that wait there (R229, R493). -/
def State.nextMsg (s : State) : Option EgMsg :=
  let ms := s.coveredMsgs
  ms.find? fun m => s.servesNext (s.egPoint m) ((ms.filter fun x => s.egPoint x == s.egPoint m).map EgMsg.part) == some m.part
/-- Send up to `fuel` messages; each takes a slot for every 64 bytes of its body. -/
def State.pumpMsgs (s : State) : Nat → State
  | 0 => s
  | fuel + 1 =>
    match s.nextMsg with
    | none => s
    | some m =>
      let s := { s with net := { s.net with waiting := s.net.waiting.erase m } }
      ((s.useSlots (s.egPoint m) m.part m.body.length).sendTensor m).pumpMsgs fuel
/-- Send every message that may go. -/
def State.pumpEgress (s : State) : State := s.pumpMsgs s.net.waiting.length
/-- One cycle in which no command is taken: time passes, and messages that waited for their partition's share may go (R467, R493). -/
def State.idleCycle (s : State) : State := (oscCycle s).pumpEgress

/-- Cut a partition's held flits of one unit into runs of one channel, format and tag, at most `min 128 DEPTH` flits each. -/
def State.formRuns (s : State) (p unit step : Nat) : List EgMsg → List Flit → List EgMsg
  | acc, [] => acc.reverse
  | [], f :: l => s.formRuns p unit step [⟨p, unit, f.chan, f.fmt, f.tag, [f.payload], step⟩] l
  | m :: acc, f :: l =>
    if m.chan = f.chan ∧ m.fmt = f.fmt ∧ m.tag = f.tag ∧ m.body.length < min 128 (s.descDepth unit p f.chan) then
      s.formRuns p unit step ({ m with body := m.body ++ [f.payload] } :: acc) l
    else s.formRuns p unit step (⟨p, unit, f.chan, f.fmt, f.tag, [f.payload], step⟩ :: m :: acc) l

/-- Drop a flit at release (R466): SKN_DROP_CNT, SKN_EGRESS_DROP with link, partition and channel. -/
def State.dropEgress (s : State) (unit p c : Nat) : State :=
  let s := if unit < 8 then s.bump Reg.sknDropCnt unit else s
  (s.setBit Reg.sknStatus 0 5).raiseIn p 0x8009 (2 + dieOfUnit unit) (le1 unit ++ le1 p ++ le1 c)

/-- Release a partition's egress hold at its milestone (R442, R466): drop what no descriptor in force or no carrying link serves,
form the rest into messages per unit, and send. -/
def State.releaseEgress (s : State) (p step : Nat) : State :=
  let held := (s.part p).egress.map Egress.flit
  let s := s.modPart p fun q => { q with egress := [] }
  let unitOf (f : Flit) : Nat := bits f.dest 10 5
  let ok (s : State) (f : Flit) : Bool := s.descDepth (unitOf f) p f.chan != 0 && s.unitUp (unitOf f) p f.chan
  let s' := held.foldl (fun s f => if ok s f then s else s.dropEgress (unitOf f) p f.chan) s
  let msgs := (List.range 9).flatMap fun u => s.formRuns p u step [] (held.filter fun f => unitOf f == u && ok s f)
  ({ s' with net := { s'.net with waiting := s'.net.waiting ++ msgs } }).pumpEgress

/-! ## CONTEXT messages (R472) -/

/-- Links set in SKN_CTX_LINKS, ascending. -/
def State.ctxLinks (s : State) : List Nat := (List.range 8).filter fun l => (s.reg Reg.sknCtxLinks).testBit l
/-- Send a context-transfer body of a session to a device: on link SESSION mod m of the m links. In GROUPED mode the manual does not
say where the destination's group and member come from: free values. -/
def State.sendContext (s : State) (dev spart dpart : Nat) (session : Word) (body : Bytes) : State :=
  let ls := s.ctxLinks
  if ls.isEmpty then s
  else
    let l := ls.getD (session.toNat % ls.length) 0
    let (k, s) := s.fresh
    let w := (Config.freeWord k).toNat
    let g := if s.grouped then w % 512 else 0
    let m := if s.grouped then w / 512 % 128 else 0
    let via := if s.grouped = true ∧ s.fld Reg.sknRoute 0 1 1 = 1 then s.viaGroup session.toNat g dev else none
    s.linkSend l 1 (s.message { cls := 1, ddev := dev, spart := spart, dpart := dpart, job := s.fld Reg.sknPath l 15 0, dgroup := g, dmember := m,
                                via := via } body)

/-! ## Link states (R485, R486) -/

/-- Set a link's state. -/
def State.setLink (s : State) (l st : Nat) : State := s.setFld Reg.sknState l 2 0 st

/-- Write the lanes' roles to their registers, SPARE and LANES_OK. -/
def State.setRoles (s : State) (l : Nat) (roles : List Nat) : State :=
  let s := s.modLink l fun x => { x with roles := roles }
  let s := (List.range 5).foldl (fun s k => s.setFld Reg.sknLaneStat (l + 16 * k) 2 0 (roles.getD k 0)) s
  let ok := ((List.range 5).map fun k => if roles.getD k 0 = 6 then 0 else 2 ^ k).sum
  (s.setFld Reg.sknState l 18 16 (match roles.findIdx? (· == 4) with
    | some k => k
    | none => 7)).setFld Reg.sknState l 12 8 ok

/-- The link leaves UP for a state (R486): the retry buffer, partial messages and pending returns go; a recalibration is abandoned and
the roles return (14_calibration_and_thermal.md). -/
def State.leaveUp (s : State) (l st : Nat) : State :=
  let up := s.linkState l = 2
  let x := s.link l
  let s := s.setLink l st
  if up then
    let partials := (x.rx.filter fun e => !e.2.isEmpty).length
    let s := s.modLink l fun x => { x with
      retry := [], ackAt := none, txq := [], rx := [], owed := [], skip := false, before := none }
    let s := match x.before with
      | some r => s.setRoles l r
      | none => s
    let s := { s with net := { s.net with freed := s.net.freed.filter fun e => e.orig.unit != l } }
    ((s.bump Reg.sknDropCnt l partials).setBit Reg.sknStatus 0 3).raise 0x8002 (le1 l) (2 + dieOfUnit l)
  else s

/-- The link reaches UP (R484, R486): 64 credits per class, every descriptor on it back to DEPTH, waiting messages go. -/
def State.enterUp (s : State) (l : Nat) : State :=
  let s := s.setLink l 2
  let s := s.modLink l fun x => { x with
    txSeq := 0, rxLast := 4095
    skip := false, retry := [], ackAt := none, credit := [], owed := [], txq := [], rx := [] }
  let s := (List.range 512).foldl (fun s k =>
    let d := s.descDepth l (k / 32) (k % 32)
    if d = 0 then s else s.setDescCred l (k / 32) (k % 32) d) s
  (s.raise 0x8001 (le1 l ++ le2 (s.fld Reg.sknPeer l 15 0) ++ le2 (s.fld Reg.sknPeer l 25 16)) (2 + dieOfUnit l)).pumpEgress

/-! ## Queue pairs (R458, R464) -/

/-- Service of a slot: 1 MANAGEMENT, 2 SERVING, 3 PEER. -/
def slotService (k : Nat) : Nat := if k < 6 then 1 else if k < 262 then 2 else 3
/-- Slots of the module. -/
def slotOk (k : Nat) : Bool := decide (k < 326)

/-- Write a slot's ETH_QP registers from its state. -/
def State.showQp (s : State) (k : Nat) : State :=
  let q := s.qp k
  let w := q.st + slotService k * 2 ^ 4 + q.port * 2 ^ 8 + (if k < 6 then k else 0) * 2 ^ 12 + (if 262 ≤ k then q.device else 0) * 2 ^ 16
  ((s.setReg Reg.ethQpState k (if q.st = 0 then 0 else w)).setReg Reg.ethQpLqpn k q.lqpn).setReg Reg.ethQpRqpn k q.rqpn

/-- Reset an access context's select registers and latches, and end its counter binding (R17, R605). -/
def State.resetCtx (s : State) (c : Nat) : State :=
  (s.modCtx c fun x => { Ctx.init with sample := x.sample, seen := x.seen, read := x.read }).setReg Reg.cntCtxBind c 0

/-- Tear a queue pair down (R17, R464): its slot is free, and a management slot's context is reset. -/
def State.freeQp (s : State) (k : Nat) : State :=
  let s := (s.modQp k fun _ => Qp.init).showQp k
  let s := s.setReg Reg.ethQpRate k 200000
  if k < 6 then s.resetCtx k else s

/-- A queue pair enters ERROR (R464, R503): the event, then it is torn down. -/
def State.qpError (s : State) (k : Nat) : State :=
  if (s.qp k).st = 0 then s
  else
    ((s.setBit Reg.ethStatus 0 1).raise 0x8012 (le2 (0x2000 + k) ++ le2 k ++ le1 (slotService k)) 2).freeQp k

end Sys2Proof.Machine
end

