-- ==== Sys2Proof/Machine/Links.lean ====
section
/-! DEFINITION. The rows of the links (12_links_and_topology.md R456-R493, 14_calibration_and_thermal.md R561-R563): queue pairs,
ports, messages, leas, training, lanes. -/

namespace Sys2Proof.Machine

/-! ## Delivery (R468-R470, R472) -/

/-- A message as the ingress side reads it. -/
def msgField (m : Bytes) (i n : Nat) : Nat := leNat m i n
/-- CLASS of a message. -/
def msgClass (m : Bytes) : Nat := byteAt m 8 % 4
/-- Length and CRC-32C of a message (R465, check 1 of R468). -/
def msgCrcOk (m : Bytes) : Bool :=
  m.length == 64 * (byteAt m 9 % 128 + 2) && crc32c (m.take 60 ++ m.drop 64) == leNat m 60 4

/-- Lines of a partition's ingress space in use on a die. -/
def State.ingressUse (s : State) (p die : Nat) : Nat :=
  (s.serve.unitCh.map fun e =>
    if isIoUnit e.2.unit = true ∧ dieOfUnit (bits e.2.unit 10 5) = die then (e.2.queue.filter fun f => f.1.part == p).length
    else 0).sum

/-- The send channel DCHAN of an ingress unit in a partition's loaded image (check 4 of R468). -/
def State.ingressCh (s : State) (unit p dchan : Nat) : Option Nat :=
  (s.serve.unitCh.find? fun e => isIoUnit e.2.unit && bits e.2.unit 10 5 == unit && e.2.sendCh == dchan &&
    (s.spin (e.1 / 32)).part == some p).map Prod.fst

/-- Deliver a TENSOR message (R468 checks 4 and 5, R469). -/
def State.ingressTensor (s : State) (unit : Nat) (m : Bytes) : State :=
  let p := byteAt m 14 / 16
  match s.ingressCh unit p (byteAt m 16 % 32) with
  | none => s.bump Reg.sknNochanCnt
  | some k =>
    let n := byteAt m 9 % 128 + 1
    let die := dieOfUnit unit
    if s.fld (Reg.sknIngress + 8 * p + 4 * die) 0 16 0 < s.ingressUse p die + n then
      (s.setBit Reg.sknStatus 0 6).raiseIn p 0x800A (2 + die) (le1 unit ++ le1 p ++ le2 (msgField m 10 2))
    else
      let u := s.unitSend k
      let tag := if u.tag = 0 then byteAt m 17 else u.tag
      let o : Orig := ⟨unit, msgField m 10 2, byteAt m 14 % 16, byteAt m 15 % 32, n⟩
      let fs := (List.range n).map fun i =>
        (mkFlit p (k / 32) (k % 32) 0 (byteAt m 15 / 32) tag u.unit ((m.drop (64 * (i + 1))).take 64), some o)
      (s.modUnitSend k fun u => { u with queue := u.queue ++ fs }).pumpUnit k

/-- Add a RETURN message's entries to the descriptors they name (R470), and send what waited. -/
def State.ingressReturn (s : State) (unit : Nat) (m : Bytes) : State :=
  ((List.range 16).foldl (fun s i =>
    let w := leNat m (64 + 4 * i) 4
    let n := bits w 20 9
    if n = 0 then s else s.setDescCred unit (bits w 3 0) (bits w 8 4) (s.descCred unit (bits w 3 0) (bits w 8 4) + n)) s).pumpEgress

/-- A CONTEXT message lands in the engine's transfer buffer of 2 MiB; one that finds it full is dropped and counted (R472). -/
def State.ingressContext (s : State) (unit : Nat) (m : Bytes) : State :=
  if 2097152 < (s.net.transfer.map List.length).sum + m.length then
    if unit < 8 then s.bump Reg.sknDropCnt unit else s
  else { s with net := { s.net with transfer := s.net.transfer ++ [m] } }

/-- Send a message back on the unit it came in on. -/
def State.unitSendMsg (s : State) (unit dev cls : Nat) (msg : Bytes) : State :=
  if unit < 8 then s.linkSend unit cls msg
  else match s.qps.find? fun e => decide (262 ≤ e.1) && e.2.st == 2 && e.2.device == dev with
    | some (k, _) => s.send (.peerSend k msg)
    | none => s

/-- Firmware answers an ECHO with an ECHO_REPLY of the same body (R472). -/
def State.ingressService (s : State) (unit : Nat) (m : Bytes) : State :=
  if byteAt m 64 = 1 then
    let dev := msgField m 10 2
    s.unitSendMsg unit dev 2 (s.message { cls := 2, ddev := dev } (2#8 :: (m.drop 65)))
  else s

/-- The drop of a message with a foreign fingerprint, raised at most once per link and second (R468). -/
def State.fpDrop (s : State) (unit : Nat) (m : Bytes) : State :=
  let s := (s.bump Reg.sknFpDropCnt).setBit Reg.sknStatus 0 1
  let quiet := match (s.link unit).fpAt with
    | some t => decide (s.now < t.toNat + 1000000000)
    | none => false
  if quiet then s
  else ((s.modLink unit fun x => { x with fpAt := some s.time.cnt }).raise 0x8007
    (le1 unit ++ le2 (msgField m 10 2) ++ le4 (msgField m 0 4)) (2 + dieOfUnit unit))

/-- The ingress checks of R468 in order, and what a message that passes does. -/
def State.ingress (s : State) (unit : Nat) (m : Bytes) : State :=
  if msgCrcOk m = false then
    ((s.bump Reg.sknE2eCrcCnt).setBit Reg.sknStatus 0 2).raise 0x8008 (le1 unit) (2 + dieOfUnit unit)
  else if msgClass m ≠ 2 ∧ msgField m 0 8 ≠ s.fprint then s.fpDrop unit m
  else if msgField m 12 2 ≠ s.device then s.bump Reg.sknMisrouteCnt
  else match msgClass m with
    | 0 => s.ingressTensor unit m
    | 1 => s.ingressContext unit m
    | 2 => s.ingressService unit m
    | _ => s.ingressReturn unit m

/-- A unit that a message can arrive on: a fitted link, or 8 for the RoCEv2 engine. -/
def State.unitOk (s : State) (unit : Nat) : Bool := s.linkFitted unit || unit == 8
/-- What the unit carries now: every class when UP, SERVICE alone when QUARANTINED (R485). -/
def State.carries (s : State) (unit : Nat) (m : Bytes) : Bool :=
  unit == 8 || s.linkState unit == 2 || (s.linkState unit == 3 && msgClass m == 2)

/-- A message row: the message of one class, or of any, arrives complete at a unit. -/
def arrive (unit : Nat) (m : Bytes) (want : Bytes → Bool) (s : State) : Host.Outcome State Fault Refusal :=
  if s.unitOk unit then .next (if s.carries unit m && want m then s.ingress unit m else s) else .fault .noSuchUnit

/-- MESSAGE_INGRESS (R468). -/
def execMessageIngress (link : Nat) (msg : Bytes) (s : State) : Host.Outcome State Fault Refusal :=
  arrive link msg (fun _ => true) s
/-- RETURN_RECEIVE (R470). -/
def execReturnReceive (link : Nat) (msg : Bytes) (s : State) : Host.Outcome State Fault Refusal :=
  arrive link msg (fun m => msgClass m == 3) s
/-- ECHO (R472). -/
def execEcho (link : Nat) (msg : Bytes) (s : State) : Host.Outcome State Fault Refusal :=
  arrive link msg (fun m => msgClass m == 2 && byteAt m 64 == 1) s
/-- ECHO_REPLY (R472): firmware takes it; nothing of the module's state changes but what the checks count. -/
def execEchoReply (link : Nat) (msg : Bytes) (s : State) : Host.Outcome State Fault Refusal :=
  arrive link msg (fun m => msgClass m == 2 && byteAt m 64 == 2) s

/-- One RETURN message to a device: up to 16 entries of at most 2,047 flits. -/
def State.sendReturn (s : State) (unit dev : Nat) (es : List Freed) : State :=
  let body := es.flatMap fun e => natLe (e.orig.part + e.orig.chan * 2 ^ 4 + min e.n 2047 * 2 ^ 9) 4
  let (k, s) := s.fresh
  let w := (Config.freeWord k).toNat
  let job := if unit < 8 then s.fld Reg.sknPath unit 15 0 else 0
  s.unitSendMsg unit dev 3 (s.message { cls := 3, ddev := dev, job := job, dgroup := if s.grouped then w % 512 else 0,
                                        dmember := if s.grouped then w / 512 % 128 else 0 } (padTo 64 body))

/-- A descriptor's freed flits are due: a quarter of its message's body, or 1 µs after the first (R470). -/
def State.returnDue (s : State) (e : Freed) : Bool := decide (e.orig.body ≤ 4 * e.n ∨ e.since.toNat + 1000 ≤ s.now)
/-- RETURN_SEND (R470): the freed flits of the first descriptor of a unit whose return is due go back, with those of the other descriptors
of its device, up to 16. -/
def execReturnSend (link : Nat) (s : State) : Host.Outcome State Fault Refusal :=
  if s.unitOk link then
    .next (match s.net.freed.find? fun e => e.orig.unit == link && s.returnDue e with
      | none => s
      | some e =>
        let mine := (e :: s.net.freed.filter fun x => x.orig.unit == link && x.orig.dev == e.orig.dev && x != e).take 16
        let left := s.net.freed.filterMap fun x =>
          if mine.contains x then (if 2047 < x.n then some { x with n := x.n - 2047 } else none) else some x
        ({ s with net := { s.net with freed := left } }).sendReturn link e.orig.dev mine)
  else .fault .noSuchUnit

/-! ## Leas (R475-R478) -/

/-- Take one flit of a class: a fill flit at a header's place is passed over; the last flit of a message completes it. -/
def State.rxFlit (s : State) (l cls : Nat) (f : Bytes) : State :=
  let have_ := SMap.get [] (s.link l).rx cls
  if have_.isEmpty ∧ byteAt f 8 = 0xFF ∧ byteAt f 9 = 0xFF then s
  else
    let all := have_ ++ [f]
    let need := byteAt (all.headD []) 9 % 128 + 2
    let put (x : List Bytes) : State := s.modLink l fun y => { y with rx := SMap.set [] y.rx cls x }
    if need ≤ all.length then (put []).ingress l all.flatten else put all

/-- Accept a DATA lea that is next in order (R477, R478): its buffer is freed when its flits are taken. -/
def State.acceptLea (s : State) (l seq cls : Nat) (flits : Bytes) : State :=
  let s := (s.modLink l fun x => { x with rxLast := seq, skip := false, owed := SMap.set 0 x.owed cls (SMap.get 0 x.owed cls + 1) }).bump
    Reg.sknRxLeaCnt l
  if s.linkState l = 3 ∧ cls ≠ 2 then s else (chunks 64 33 flits).foldl (fun s f => s.rxFlit l cls f) s

/-- Discard until the resend, and send NAK with the last good lea (R477). -/
def State.nakBack (s : State) (l : Nat) : State := (s.modLink l fun x => { x with skip := true }).putLea l 0 true 0 0 (List.replicate 2048 0)

/-- A received lea's acknowledgement, NAK and credits (R475, R477, R478). -/
def State.leaAck (s : State) (l hdr : Nat) : State :=
  let s := s.modLink l fun x =>
    let x := x.acked (bits hdr 27 16) s.time.cnt
    { x with credit := SMap.set 64 x.credit (bits hdr 29 28) (min 64 (SMap.get 64 x.credit (bits hdr 29 28) + bits hdr 35 30)) }
  (if bits hdr 3 3 = 1 then s.resend l else s).pumpLink l

/-- LEA_RECEIVE (R475-R477); of the codewords that end with it, `corrected` were corrected and `uncorrectable` were not. A lea that fails its check is discarded, and one out of order too; a CONTROL lea's records have rows of
their own. -/
def execLeaReceive (link : BitVec 3) (lea : Bytes) (fec : FecCount) (s : State) : Host.Outcome State Fault Refusal :=
  let l := link.toNat
  if s.linkFitted l then
    let st := s.linkState l
    let hdr := leNat lea 0 8
    let flits := padTo 2048 (lea.drop 8)
    let good := fec.uncorrectable == 0 && bits hdr 63 40 == leaCrc hdr flits
    .next (
      if st ≠ 2 ∧ st ≠ 3 then s
      else
        let s := (s.bump Reg.sknFecCorrCnt l fec.corrected).bump Reg.sknFecUncorrCnt l fec.uncorrectable
        if good = false then (if (s.link l).skip then s else s.nakBack l)
        else
          let s := s.leaAck l hdr
          if bits hdr 1 0 = 1 ∧ bits hdr 15 4 = ((s.link l).rxLast + 1) % 4096 then
            s.acceptLea l (bits hdr 15 4) (bits hdr 37 36) flits
          else s)
  else .fault .noSuchUnit

/-- LEA_NAK (R477): the far side names the last good lea, and what follows is resent. -/
def execLeaNak (link : BitVec 3) (ack : BitVec 12) (s : State) : Host.Outcome State Fault Refusal :=
  let l := link.toNat
  if s.linkFitted l then .next ((s.modLink l fun x => x.acked ack.toNat s.time.cnt).resend l) else .fault .noSuchUnit

/-- LEA_ACK_TIMEOUT (R477): no acknowledgement for TO_US; everything unacknowledged is resent. -/
def execLeaAckTimeout (link : BitVec 3) (s : State) : Host.Outcome State Fault Refusal :=
  if s.linkFitted link.toNat then .next (if s.ackLate link.toNat then s.resend link.toNat else s) else .fault .noSuchUnit

/-! ## Lanes (R480, R481, R561-R563) -/

/-- Start a recalibration of lane `k` (R480, R562, R563): a data lane's data moves onto the spare first. -/
def State.recalLane (s : State) (l k : Nat) : State :=
  let x := s.link l
  let r := x.roles.getD k 6
  match x.roles.findIdx? (· == 4) with
  | none => s
  | some j =>
    if s.linkState l ≠ 2 ∨ x.before.isSome = true ∨ r = 6 ∨ r = 5 then s
    else
      let s := s.modLink l fun y => { y with before := some x.roles }
      if r = 4 then s.setRoles l (x.roles.set k 5)
      else ((s.setRoles l ((x.roles.set j r).set k 5)).bump Reg.sknRecalCnt l).raise 0x8005 (le1 l) (2 + dieOfUnit l)

/-- The link enters FAILED (R481). -/
def State.failLink (s : State) (l : Nat) : State := (s.leaveUp l 4).raise 0x8006 (le1 l) (2 + dieOfUnit l)

/-- Guard of a lane row. -/
def laneRow (link : BitVec 3) (f : State → Nat → State) (s : State) : Host.Outcome State Fault Refusal :=
  if s.linkFitted link.toNat then .next (f s link.toNat) else .fault .noSuchUnit
/-- Lane 0-4. -/
def laneOk (k : BitVec 3) : Bool := decide (k.toNat < 5)

/-- LANE_SWAP (R480): a lane's data moves onto the spare at an FEC group boundary. -/
def execLaneSwap (link lane : BitVec 3) (s : State) : Host.Outcome State Fault Refusal :=
  if laneOk lane then laneRow link (fun s l => s.recalLane l lane.toNat) s else .fault .noSuchUnit

/-- The data lane with the smallest eye width, the lowest among equals. -/
def State.worstLane (s : State) (l : Nat) : Nat :=
  let ks := (List.range 5).filter fun k => decide ((s.link l).roles.getD k 6 < 4)
  ks.foldl (fun b k => if s.fld Reg.sknEyeQ (l + 16 * k) 15 0 < s.fld Reg.sknEyeQ (l + 16 * b) 15 0 then k else b) (ks.headD 0)

/-- SKN_RETRY_LIMIT (R481): more resends than LIMIT in a second; again within 60 s of the swap, the link fails. -/
def execSknRetryLimit (link : BitVec 3) (s : State) : Host.Outcome State Fault Refusal :=
  laneRow link (fun s l =>
    let again := match (s.link l).swapAt with
      | some t => decide (s.now ≤ t.toNat + 60000000000)
      | none => false
    if s.linkState l ≠ 2 ∨ s.overRetries l = false then s
    else
      let s := s.modLink l fun x => { x with resends := [] }
      if again then s.failLink l
      else (s.modLink l fun x => { x with swapAt := some s.time.cnt }).recalLane l (s.worstLane l)) s

/-- Whether an eye lies below a minimum of CAL_SKN_CFG. -/
def State.eyeLow (s : State) (w h : Nat) : Bool :=
  decide (w < s.fld Reg.calSknCfg 0 25 16 ∨ h < s.fld Reg.calSknCfg 0 31 26)
/-- Record a lane's eye. -/
def State.setEye (s : State) (l k w h : Nat) : State := s.setReg Reg.sknEyeQ (l + 16 * k) (w + h * 2 ^ 16)

/-- EYE_MEASURE (R561, R562): a data lane's background eye; one below a minimum raises LANE_EYE_LOW and starts a recalibration. -/
def execEyeMeasure (link lane : BitVec 3) (width height : BitVec 16) (s : State) : Host.Outcome State Fault Refusal :=
  if laneOk lane then laneRow link (fun s l =>
    let k := lane.toNat
    if s.linkState l ≠ 2 ∨ 4 ≤ (s.link l).roles.getD k 6 then s
    else
      let s := s.setEye l k width.toNat height.toNat
      if s.eyeLow width.toNat height.toNat then
        ((s.setBit Reg.calStatus 0 9).raise 0xA00A (le1 l ++ le1 k ++ le2 width.toNat ++ le2 height.toNat) (2 + dieOfUnit l)).recalLane l k
      else s) s
  else .fault .noSuchUnit

/-- LANE_RECAL_PERIODIC (R562): one lane in turn, lanes 0-3 and then the spare. -/
def execLaneRecalPeriodic (link : BitVec 3) (s : State) : Host.Outcome State Fault Refusal :=
  laneRow link (fun s l =>
    if s.fld Reg.calSknCfg 0 15 0 = 0 then s
    else
      let x := s.link l
      let k := if x.rotate < 4 then x.rotate else (x.roles.findIdx? (· == 4)).getD 4
      (s.modLink l fun y => { y with rotate := (y.rotate + 1) % 5 }).recalLane l k) s

/-- LANE_RECAL_DONE (R481, R562): the lane becomes the spare; an eye still below a minimum after two adaptations fails it, and two
failed lanes fail the link. -/
def execLaneRecalDone (link : BitVec 3) (width height : BitVec 16) (s : State) : Host.Outcome State Fault Refusal :=
  laneRow link (fun s l =>
    match (s.link l).roles.findIdx? (· == 5) with
    | none => s
    | some k =>
      let s := ((s.setEye l k width.toNat height.toNat).bump Reg.calLaneCnt).modLink l fun x => { x with before := none }
      let bad := s.eyeLow width.toNat height.toNat
      let s := s.setRoles l ((s.link l).roles.set k (if bad then 6 else 4))
      let s := if bad then s.raise 0x8005 (le1 l) (2 + dieOfUnit l) else s
      if 2 ≤ ((s.link l).roles.filter (· == 6)).length then s.failLink l else s) s

/-! ## Training (R482-R486) -/

/-- Links and ports run: from the start's lock (R511), not in FALLBACK, STANDBY or after a thermal latch (R496). -/
def State.linksRun (s : State) : Bool :=
  s.fld Reg.cfgStatus 0 4 4 == 1 && s.fld Reg.cfgStatus 0 5 5 == 0 && s.fld Reg.pwrState 0 2 0 != 1 && s.fld Reg.pwrState 0 2 0 != 7
/-- SKN_SIGNAL_DETECT (R483, R485): a DOWN link that is not disabled trains. -/
def execSknSignalDetect (link : BitVec 3) (s : State) : Host.Outcome State Fault Refusal :=
  laneRow link (fun s l => if s.linksRun = true ∧ s.linkState l = 0 ∧ (s.link l).off = false then s.setLink l 1 else s) s

/-- SKN_LOSS_OF_SIGNAL (R485): the link goes DOWN; a FAILED link stays so. -/
def execSknLossOfSignal (link : BitVec 3) (s : State) : Host.Outcome State Fault Refusal :=
  laneRow link (fun s l => if s.linkState l = 4 then s else (s.leaveUp l 0).setFld Reg.sknState l 6 4 0) s

/-- The module's own training record (R482). -/
def State.ownRecord (s : State) (l : Nat) : Bytes :=
  let g := s.grouped
  [0x53#8, 0x4B#8, 0x54#8, 0x52#8] ++ natLe (s.reg Reg.sknWire) 2 ++ natLe 0 2 ++ natLe l 2 ++ natLe s.device 2 ++
    natLe (if g then s.fld Reg.sknMode 0 24 16 else 0xFFFF) 2 ++ natLe (if g then 1 else 0) 2 ++ natLe s.fprint 8 ++
    natLe (if g then 0 else s.fld Reg.sknPath l 15 0) 2

/-- What the table of R484 decides: 0 UP, or the QCAUSE of QUARANTINED; and whether the neighbour is learned. -/
def State.judgeRecord (s : State) (l : Nat) (r : Bytes) : Nat × Bool :=
  let g := s.grouped
  let role := byteAt r 6
  let port := leNat r 8 2
  let dev := leNat r 10 2
  let x := s.reg Reg.sknExpect l
  if byteAt r 5 ≠ s.fld Reg.sknWire 0 15 8 then (1, false)
  else if byteAt r 14 ≠ (if g then 1 else 0) ∨ role ≠ (if g then 1 else 0) then (2, false)
  else if g = false ∧ s.fld Reg.sknState l 20 20 = 1 ∧
      (dev ≠ s.fld Reg.sknPath l 31 16 ∨ port ≠ s.fld Reg.sknPathPort l 2 0 ∨ leNat r 24 2 ≠ s.fld Reg.sknPath l 15 0) then (3, false)
  else if bits x 29 29 = 0 ∧ (role ≠ bits x 28 28 ∨ dev ≠ bits x 15 0 ∨ port ≠ bits x 25 16) then
    (if s.fld Reg.sknMode 0 1 1 = 1 then (0, true) else (2, false))
  else if leNat r 16 8 ≠ s.fprint then (4, false)
  else (0, false)

/-- TRAINING_RECORD (R482, R484): the peer's record decides the trained port. -/
def execTrainingRecord (link : BitVec 3) (record : Bytes) (s : State) : Host.Outcome State Fault Refusal :=
  laneRow link (fun s l =>
    if s.linkState l ≠ 1 ∨ record.take 4 ≠ [0x53#8, 0x4B#8, 0x54#8, 0x52#8] then s
    else
      let r := padTo 64 record
      let s := s.putLea l 2 false 0 0 (padTo 2048 (s.ownRecord l))
      let s := s.setReg Reg.sknPeer l (leNat r 10 2 + leNat r 8 2 % 1024 * 2 ^ 16 + byteAt r 6 % 2 * 2 ^ 28)
      let s := (s.setReg Reg.sknPeerGroup l (leNat r 12 2)).setReg64 Reg.sknPeerFpLo l (leNat r 16 8)
      let s := s.setReg Reg.sknPeerWire l (byteAt r 4 + byteAt r 5 * 2 ^ 8 + min (byteAt r 4) (s.fld Reg.sknWire 0 7 0) * 2 ^ 16)
      let (q, learned) := s.judgeRecord l r
      let s := s.setFld Reg.sknState l 6 4 q
      if q = 0 then
        let s := s.enterUp l
        if learned then s.raise 0x8004 (le1 l) (2 + dieOfUnit l) else s
      else
        ((s.setLink l 3).setBit Reg.sknStatus 0 0).raise 0x8003 (le1 l ++ le1 q ++ (r.drop 4).take 10) (2 + dieOfUnit l)) s

/-! ## Commands of the SKN block (R485, R488, R489, R499) -/

/-- SKN_CMD (R485, R499): RETRAIN, DISABLE, ENABLE of a link. A FAILED link stays so. -/
def State.sknCommand (s : State) (l op : Nat) : State :=
  let st := s.linkState l
  match op with
  | 1 => if st = 2 ∨ st = 3 then (s.leaveUp l 1).setFld Reg.sknState l 6 4 0 else s
  | 2 =>
    let s := s.modLink l fun x => { x with off := true }
    if st = 4 then s else (s.leaveUp l 0).setFld Reg.sknState l 6 4 0
  | 3 => s.modLink l fun x => { x with off := false }
  | _ => s

/-- A partition that is not quiescent holds a VALID descriptor on the link (R489). -/
def State.linkInUse (s : State) (l : Nat) : Bool :=
  (List.range 16).any fun p => !s.quiescent p && (List.range 32).any fun c => s.fld (Reg.sknRdescDst + rdesc p c) l 31 31 == 1

/-- Record a path command's result (R498), and SKN_PATH_CHANGE for a DONE. -/
def State.pathResult (s : State) (l job r : Nat) : State :=
  let s := s.setReg Reg.sknPathResult 0 r
  if r = 1 then s.raise 0x800B (le1 l ++ le2 job) (2 + dieOfUnit l) else s

/-- SKN_PATH_CMD (R488, R489): SETUP (1) by the first row that applies, RELEASE (2). -/
def State.pathCommand (s : State) (op l job : Nat) : State :=
  let held := s.fld Reg.sknState l 20 20 = 1
  let dev := s.fld Reg.sknPathPeer 0 15 0
  let port := s.fld Reg.sknPathPeer 0 18 16
  if op = 1 then
    if s.grouped then s.pathResult l job 6
    else if s.linkFitted l = false then s.pathResult l job 5
    else if held ∧ s.fld Reg.sknPath l 15 0 ≠ job then s.pathResult l job 2
    else if held ∧ (s.fld Reg.sknPath l 31 16 ≠ dev ∨ s.fld Reg.sknPathPort l 2 0 ≠ port) then s.pathResult l job 3
    else (((s.setFld Reg.sknState l 20 20 1).setReg Reg.sknPath l (job + dev * 2 ^ 16)).setReg Reg.sknPathPort l port).pathResult l job 1
  else if op = 2 then
    if s.linkFitted l = false then s.pathResult l job 5
    else if s.linkInUse l then s.pathResult l job 4
    else (((s.setFld Reg.sknState l 20 20 0).setReg Reg.sknPath l 0).setReg Reg.sknPathPort l 0).pathResult l job 1
  else s

/-- A descriptor's VALID write that CIRCUIT mode rejects (R489): the link is not held by a path whose JOB and peer device are the
descriptor's. -/
def State.descRejected (s : State) (l p c v : Nat) : Bool :=
  bits v 31 31 == 1 && !s.grouped &&
    !(s.fld Reg.sknState l 20 20 == 1 && s.fld Reg.sknPath l 15 0 == s.fld (Reg.sknRdescJob + rdesc p c) l 15 0 &&
      s.fld Reg.sknPath l 31 16 == bits v 15 0)

/-! ## Connections (R458, R459, R464, R517, R519) -/

/-- The service of a CM service ID, 0 for none. -/
def serviceOf (id : DWord) : Nat :=
  if id.toNat = 0x4C4D0001 then 1 else if id.toNat = 0x4C4D0002 then 2 else if id.toNat = 0x4C4D0003 then 3 else 0
/-- Slots of a service: first slot, and how many it may use (R458, R519). -/
def State.serviceSlots (s : State) (svc : Nat) : Nat × Nat :=
  match svc with
  | 1 => (0, if s.fld Reg.cfgStatus 0 5 5 = 1 then 1 else 6)
  | 2 => (6, min 256 (s.fld Reg.ethQpLimit 0 8 0))
  | _ => (262, min 64 (s.fld Reg.ethQpLimit 0 22 16))
/-- The first free slot of a service. -/
def State.freeSlot (s : State) (svc : Nat) : Option Nat :=
  let (b, n) := s.serviceSlots svc
  ((List.range n).map (b + ·)).find? fun k => (s.qp k).st == 0
/-- The allowed-host list, its empty entries left out (R551). -/
def State.hosts (s : State) : List (List Word) := ((List.range 64).map s.hostAddr).filter fun a => a.any (· != 0)
/-- The source address is listed for the service; in fallback without a good configuration copy any address is (R517). -/
def State.listed (s : State) (svc : Nat) (src : List Word) : Bool :=
  if svc = 3 then s.net.peers.any fun e => e.2 == src
  else (s.fld Reg.cfgStatus 0 5 5 == 1 && s.hosts.isEmpty) || s.hosts.contains src

/-- Why a REQ is refused: 3 SERVICE_OFF (SERVING in BLANK too: R540, log entry 132), 1 NO_SLOT, 2 NOT_LISTED, 4 MTU, in the order of R459's conditions. -/
def State.refusal (s : State) (svc : Nat) (src : List Word) (mtu : Nat) : Nat :=
  if svc = 0 ∨ (svc ≠ 1 ∧ s.fld Reg.cfgStatus 0 5 5 = 1) ∨ (svc = 2 ∧ s.fld Reg.cfgLc 0 2 0 = 0) then 3
  else if (s.freeSlot svc).isNone then 1
  else if s.listed svc src = false then 2
  else if mtu ≠ 4096 then 4
  else 0

/-- Take a slot for a connected queue pair: a free local QP number, the peer's address; a MANAGEMENT one draws its window key and binds
its context (R16, R459). -/
def State.openQp (s : State) (k port : Nat) (src : List Word) (rqpn : Nat) : State :=
  let (i, s) := s.fresh
  let (j, s) := s.fresh
  let dev := if 262 ≤ k then ((s.net.peers.find? fun e => e.2 == src).map Prod.fst).getD 0 else 0
  let s := s.modQp k fun _ => { Qp.init with st := 2, lqpn := (Config.freeWord i).toNat % 2 ^ 24, rqpn := rqpn, ip := src,
                                             device := dev, port := port, key := if k < 6 then Config.freeKey j else 0 }
  let s := s.showQp k
  if k < 6 then s.modCtx k fun c => { c with bound := true, qp := k } else s

/-- The module takes connections: from the end of start step 6, never before the lock, or in fallback (R511, R519). -/
def State.answersCm (s : State) : Bool :=
  s.fld Reg.cfgStatus 0 5 5 == 1 || (s.fld Reg.cfgStatus 0 4 4 == 1 && s.boot.waits != some 6)

/-- The port is up and has an address: without one it has no service (R524). -/
def State.portServes (s : State) (p : Nat) : Bool :=
  s.fld Reg.ethPortState p 0 0 == 1 && (s.reg Reg.ethIpv4 p != 0 || (List.range 4).any fun n => s.reg (Reg.ethIpv6 + 4 * n) p != 0)
/-- CM_REQ (R459): accepted into the lowest free slot of its service, or answered with REJ reason 28. -/
def execCmReq (port : BitVec 2) (service : DWord) (src : List Word) (mtu : Nat) (rqpn : BitVec 24) (s : State) :
    Host.Outcome State Fault Refusal :=
  let svc := serviceOf service
  let p := port.toNat
  .next (if s.answersCm = false ∨ s.portServes p = false then s else match s.refusal svc src mtu, s.freeSlot svc with
    | 0, some k =>
      let s := s.openQp k p src rqpn.toNat
      s.send (.cmRep p k (s.qp k).lqpn (if k < 6 then natLe (s.qp k).key.toNat 4 else []))
    | r, _ =>
      (((s.bump Reg.ethRefuseCnt).setBit Reg.ethStatus 0 3).raise 0x8013 (le2 (0x1000 + p) ++ le1 r) 2).send (.cmRej p 28 (natLe r 1)))

/-- ETH_PEER_CMD (R500): a REQ for a PEER slot that is free. -/
def State.peerConnect (s : State) (v : Nat) : State :=
  let k := bits v 8 0
  if 262 ≤ k ∧ k < 326 ∧ (s.qp k).st = 0 then
    let ip := (List.range 4).map fun n => BitVec.ofNat 32 (s.reg (Reg.ethPeerIp + 4 * n))
    let s := (s.modQp k fun _ => { Qp.init with st := 1, ip := ip, device := bits v 31 16, port := bits v 13 12 }).showQp k
    s.send (.cmReq k (bits v 13 12) (bits v 31 16) ip)
  else s

/-- CM_REP (R459, R500): the peer's answer to the module's REQ; a refusal ends the attempt. -/
def execCmRep (slot : BitVec 9) (accepted : Bool) (rqpn : BitVec 24) (s : State) : Host.Outcome State Fault Refusal :=
  let k := slot.toNat
  if slotOk k then
    .next (if (s.qp k).st ≠ 1 then s
      else if accepted then
        let (i, s) := s.fresh
        ((s.modQp k fun q => { q with st := 2, rqpn := rqpn.toNat, lqpn := (Config.freeWord i).toNat % 2 ^ 24 }).showQp k).pumpEgress
      else s.freeQp k)
  else .fault .noSuchUnit

/-- Guard of a queue-pair row. -/
def qpRow (slot : BitVec 9) (f : State → Nat → State) (s : State) : Host.Outcome State Fault Refusal :=
  if slotOk slot.toNat then .next (if (s.qp slot.toNat).st = 0 then s else f s slot.toNat) else .fault .noSuchUnit

/-- QP_TEARDOWN (R17, R464). -/
def execQpTeardown (slot : BitVec 9) (s : State) : Host.Outcome State Fault Refusal := qpRow slot (fun s k => s.freeQp k) s
/-- LOCAL_ACK_TIMEOUT (R461, R464): the retries are exhausted; they are counted, and the queue pair enters ERROR. -/
def execLocalAckTimeout (slot : BitVec 9) (s : State) : Host.Outcome State Fault Refusal :=
  qpRow slot (fun s k => (s.bump Reg.ethQpRetryCnt k (s.fld Reg.ethRcCfg 0 7 5)).qpError k) s
/-- INVALID_REQUEST (R457): a NAK, and the queue pair enters ERROR. -/
def execInvalidRequest (slot : BitVec 9) (s : State) : Host.Outcome State Fault Refusal :=
  qpRow slot (fun s k => (s.send (.nak k)).qpError k) s

/-! ## Congestion control (R462, R463) -/

/-- At least `us` microseconds have passed since a stamp. -/
def State.since (s : State) (t : Option DWord) (us : Nat) : Bool :=
  match t with
  | some x => decide (x.toNat + 1000 * us ≤ s.now)
  | none => true

/-- CE_PACKET (R462): a notification to the requester, at most one per CUT_GAP. -/
def execCePacket (slot : BitVec 9) (s : State) : Host.Outcome State Fault Refusal :=
  qpRow slot (fun s k =>
    let port := (s.qp k).port
    let s := s.bump Reg.ethCeRx port
    if s.since (s.qp k).cnp (s.fld Reg.ethCcCfg 0 23 16) then
      ((s.modQp k fun q => { q with cnp := some s.time.cnt }).bump Reg.ethCnpTx port).send (.cnp k)
    else s) s

/-- CNP_RECEIVE (R462): the rate is cut, not below 1 Gb/s, at most once per CUT_GAP. -/
def execCnpReceive (slot : BitVec 9) (s : State) : Host.Outcome State Fault Refusal :=
  qpRow slot (fun s k =>
    let s := (s.bump Reg.ethCnpRx (s.qp k).port).setBit Reg.ethStatus 0 2
    if s.since (s.qp k).cut (s.fld Reg.ethCcCfg 0 23 16) then
      let r := s.fld Reg.ethQpRate k 17 0
      (s.setFld Reg.ethQpRate k 17 0 (max (r * (8 - s.fld Reg.ethCcCfg 0 2 0) / 8) 1000)).modQp k fun q =>
        { q with cut := some s.time.cnt, raise := some s.time.cnt }
    else s) s

/-- RATE_RAISE (R462): RAISE_US have passed since the last raise; additive recovery up to line rate. -/
def execRateRaise (slot : BitVec 9) (s : State) : Host.Outcome State Fault Refusal :=
  qpRow slot (fun s k =>
    if s.since (s.qp k).raise (s.fld Reg.ethCcCfg 0 31 24) then
      let r := s.fld Reg.ethQpRate k 17 0
      (s.setFld Reg.ethQpRate k 17 0 (min (r + s.fld Reg.ethCcCfg 0 15 8 * 1000) 200000)).modQp k fun q =>
        { q with raise := some s.time.cnt }
    else s) s

/-- A port's pause ends: the packets that it held back leave in their order (R463). -/
def State.unpause (s : State) (p : Nat) : State :=
  let out := (s.net.held.filter fun e => e.1 == p).map Prod.snd
  { s with net := { s.net with paused := s.net.paused.filter (· != p), held := s.net.held.filter fun e => e.1 != p }, out := s.out ++ out }
/-- PFC_PAUSE_RECEIVE (R463): honoured on PFC_PRIO with PFC_EN set. -/
def execPfcPauseReceive (port : BitVec 2) (prio : BitVec 3) (pause : Bool) (s : State) : Host.Outcome State Fault Refusal :=
  let p := port.toNat
  let s := s.bump Reg.ethPauseRx p
  .next (if s.fld Reg.ethQos 0 16 16 = 1 ∧ prio.toNat = s.fld Reg.ethQos 0 22 20 then
    if pause then { s with net := { s.net with paused := s.net.paused.filter (· != p) ++ [p] } } else s.unpause p
  else s)

/-- PFC_BUFFER_THRESHOLD (R463): pause above 75 % full, release below 50 %. -/
def execPfcBufferThreshold (port : BitVec 2) (above75 : Bool) (s : State) : Host.Outcome State Fault Refusal :=
  let p := port.toNat
  .next (if s.fld Reg.ethQos 0 16 16 = 1 ∧ s.net.pausing.contains p ≠ above75 then
    let l := s.net.pausing.filter (· != p)
    let s := { s with net := { s.net with pausing := if above75 then l ++ [p] else l } }
    (s.bump Reg.ethPauseTx p).send (.pfc p (s.fld Reg.ethQos 0 22 20) above75)
  else s)

/-! ## Ports (R455, R456, R641) -/

/-- The port is up. -/
def State.portUp (s : State) (p : Nat) : Bool := s.fld Reg.ethPortState p 0 0 == 1
/-- One frame received and, when `r` is some, one answered. -/
def State.frameFor (s : State) (p : Nat) (r : Option OutMsg) : State :=
  if s.portUp p then
    let s := s.bump Reg.ethRxFrames p
    match r with
    | some m => (s.bump Reg.ethTxFrames p).send m
    | none => s
  else s
/-- A port's IPv6 address. -/
def State.ipv6 (s : State) (p : Nat) : List Word := (List.range 4).map fun n => BitVec.ofNat 32 (s.reg (Reg.ethIpv6 + 4 * n) p)
/-- A port's IPv4 address, in word 0 with words 1-3 zero. -/
def State.ipv4 (s : State) (p : Nat) : List Word := [BitVec.ofNat 32 (s.reg Reg.ethIpv4 p), 0, 0, 0]

/-- ARP_REQUEST (R456). -/
def execArpRequest (port : BitVec 2) (target : Word) (s : State) : Host.Outcome State Fault Refusal :=
  .next (s.frameFor port.toNat
    (if s.ipv4 port.toNat = [target, 0, 0, 0] ∧ target ≠ 0 then some (.arpReply port.toNat target) else none))
/-- NEIGHBOR_SOLICITATION (R456). -/
def execNeighborSolicitation (port : BitVec 2) (target : List Word) (s : State) : Host.Outcome State Fault Refusal :=
  .next (s.frameFor port.toNat
    (if s.ipv6 port.toNat = target ∧ target.any (· != 0) then some (.neighbourAdv port.toNat target) else none))
/-- ICMP_ECHO (R456): ICMP or ICMPv6. -/
def execIcmpEcho (port : BitVec 2) (v6 : Bool) (target : List Word) (payload : Bytes) (s : State) :
    Host.Outcome State Fault Refusal :=
  .next (s.frameFor port.toNat
    (if (if v6 then s.ipv6 port.toNat else s.ipv4 port.toNat) = target ∧ target.any (· != 0) then
      some (.echoReply port.toNat v6 payload) else none))

/-- Ports run from the start's lock, or in FALLBACK; not after a thermal latch (R496, R511, R516). -/
def State.portsRun (s : State) : Bool :=
  (s.fld Reg.cfgStatus 0 4 4 == 1 || s.fld Reg.cfgStatus 0 5 5 == 1) && s.fld Reg.pwrState 0 2 0 != 7
/-- ETH_PORT_UP (R455, R641): PMD 1 CR4, 2 SR4, 3 DR4; a plug that declares more than 12 W stays in low-power mode, its port down. In
fallback and STANDBY only E0 runs. -/
def execEthPortUp (port pmd : BitVec 2) (watts : Nat) (s : State) : Host.Outcome State Fault Refusal :=
  let p := port.toNat
  let only0 := s.fld Reg.cfgStatus 0 5 5 = 1 ∨ s.fld Reg.pwrState 0 2 0 = 1
  .next (if pmd = 0 ∨ 12 < watts ∨ s.portUp p = true ∨ (only0 ∧ p ≠ 0) ∨ s.portsRun = false then s
    else
      let w := 1 + 2 + (if pmd.toNat = 1 then 4 else 0) + pmd.toNat * 2 ^ 4
      ((s.setReg Reg.ethPortState p w).setBit Reg.ethStatus 0 0).raise 0x8010 (le2 (0x1000 + p)) 2)

/-- A port goes down (R502, R503). -/
def State.portDown (s : State) (p : Nat) : State :=
  if s.portUp p then ((s.setReg Reg.ethPortState p 0).setBit Reg.ethStatus 0 0).raise 0x8011 (le2 (0x1000 + p)) 2 else s
/-- ETH_PORT_DOWN. -/
def execEthPortDown (port : BitVec 2) (s : State) : Host.Outcome State Fault Refusal := .next (s.portDown port.toNat)

/-- The compute, stack and I/O die 1 rails go off: what is volatile there is lost, links leave UP, ports E1 to E3 go down
(R513, R634). -/
def State.railsOff (s : State) : State :=
  let s := (List.range 8).foldl (fun s l => if s.linkFitted l then s.leaveUp l 0 else s) s
  let s := [1, 2, 3].foldl State.portDown s
  let ws := (s.warps.map fun e => (e.1, { e.2 with mark := none, disputes := [], ageDue := none })).filter fun e => e.2 != WarpArr.init
  { s with spindles := [], slices := [], stackMem := [], wefts := [], flits := [], svcDue := [], warps := ws
           wgt := { s.wgt with gold := [] } }.setReg Reg.ixcCwUp 0 0

end Sys2Proof.Machine
end

