-- ==== Sys2Proof/Machine/Arrays.lean ====
section
/-! DEFINITION. The Warp and Weft arrays' arithmetic (03_warp_arrays.md R79-R103, 04_weft_arrays.md R131-R145): planes,
converters, the digital tail, checksum and reference comparisons, slots and exact passes. -/

namespace Sys2Proof.Machine

/-! ## Calibration set in force (R81, R94, R555) -/

/-- Add to every point. -/
def Quad.shift (q : Quad) (d : Int) : Quad := ⟨q.a + d, q.b + d, q.c + d, q.d + d⟩
/-- A gain code multiplied by a ratio of 1 + r * 2^-17, to the nearest code (R555). -/
def gainTimes (g r : Int) : Int := rneShift ((98304 + g) * (131072 + r)) 17 - 98304
/-- Every gain multiplied by the ratio. -/
def Quad.times (q : Quad) (r : Int) : Quad := ⟨gainTimes q.a r, gainTimes q.b r, gainTimes q.c r, gainTimes q.d r⟩
/-- Eight times the value at a band's reference temperature: linear between the two nearest points, and extrapolated from the
75 and 95 °C points beyond 95 °C (R94). -/
def Quad.at8 (q : Quad) (band : Nat) : Int :=
  match band with
  | 0 => 8 * q.a
  | 1 => 2 * q.a + 6 * q.b
  | 2 => 2 * q.b + 6 * q.c
  | 3 => 3 * q.c + 5 * q.d
  | _ => 10 * q.d - 2 * q.c

/-- The set in force of a column pair: the manufacturing set with the age correction. -/
def WarpArr.col (a : WarpArr) (j : Nat) : CalCol :=
  let m := SMap.get CalCol.init a.man j
  match a.age.find? fun e => e.1 == j with
  | some (_, f) => ⟨m.offN.shift f.offN, m.offW.shift f.offW, m.gainN.times f.gainN, m.gainW.times f.gainW⟩
  | none => m

/-! ## Planes (R86-R89) -/

/-- The form of a pass: 0 plain, 1 outlier, 2 dense overflow (R86). -/
def passForm (n cap : Nat) : Nat := if n = 0 then 0 else if n ≤ cap then 1 else 2
/-- Outlier capacity of a CAP code (R254). -/
def capOf (c : Nat) : Nat := match c with | 0 => 0 | 1 => 8 | 2 => 16 | _ => 32

/-- One plane: tail weight, narrow-range gain, and each row's drive of -1, 0 or 1. -/
structure Plane where
  wt : Int
  narrow : Bool
  drive : List Int

/-- Bit `p` of a two's complement value. -/
def bitOf (x : Int) (p : Nat) : Int := if (x % 256).toNat.testBit p then 1 else 0
/-- The signed low nibble. -/
def lowNib (x : Int) : Int := (x + 8) % 16 - 8
/-- The planes of a form in order (R89). -/
def planesOf (form : Nat) (xs : List Int) : List Plane :=
  if form = 2 then
    (List.range 8).map fun p => ⟨if p = 7 then -128 else 2 ^ p, false, xs.map fun x => bitOf x p⟩
  else
    ((List.range 4).map fun p => ⟨if p = 3 then -8 else 2 ^ p, false, xs.map fun x => bitOf (lowNib x) p⟩) ++
      (if form = 1 then
        (List.range 4).map fun p =>
          ⟨2 ^ (p + 4), true, xs.map fun x =>
            let h := (x - lowNib x) / 16
            (if h < 0 then -1 else 1) * bitOf (h.natAbs : Int) p⟩
      else [])

/-! ## Converters and checks (R91, R95-R99) -/

/-- The exact sum of column `j` of the cells under a drive. -/
def colSum (cells : SMap (BitVec 4)) (drive : List Int) (j : Nat) : Int :=
  cells.foldl (fun a e => if e.1 % 512 = j then a + e.2.toInt * drive.getD (e.1 / 512) 0 else a) 0
/-- Row sums S of a checksum group, for the rows that hold a weight (R83). -/
def groupSums (cells : SMap (BitVec 4)) (g : Nat) : SMap Int :=
  cells.foldl (fun m e => if e.1 % 512 / 64 = g then SMap.set 0 m (e.1 / 512) (SMap.get 0 m (e.1 / 512) + e.2.toInt) else m) []
/-! ### Reference pairs and shadow readings (R84, R96) -/

/-- What reference pairs hold in a row. -/
def RefPair.cell (q : RefPair) (row : Nat) : Int := if row < q.rows then q.level else 0
/-- The sum of a reference pair's column under a drive: of R84's pattern, the expected reading in weight units. -/
def RefPair.sum (q : RefPair) (drive : List Int) : Int := (drive.mapIdx fun i d => q.cell i * d).sum
/-- The reference pair that odd fine converter 2 * g + 1 reads in plane `p` (R96). -/
def refOf (g p : Nat) : Nat := (g + p) % 4
/-- The column that odd fine converter 2 * g + 1 takes a shadow reading of (R96). -/
def WarpArr.shadowAt (a : WarpArr) (g : Nat) : Nat := 64 * g + a.shadowCol % 64

/-- A deviation of 0 or 1: which of two neighbouring codes a converter gives (R104). -/
def oneCode (d : Int) : Int := if 1 ≤ d then 1 else 0
/-- What a transient fault adds to the reading with an index. -/
def upsetAt (an : WarpAnalog) (i : Nat) : Int := ((an.upset.filter fun e => e.1 == i).map Prod.snd).sum

/-- A converter: the ideal quotient rounded half to even, the deviation, and the clamp; with the saturation. -/
def convert (sum : Int) (k : Nat) (dev lo hi : Int) : Int × Bool :=
  let v := rneShift sum k + dev
  if v < lo then (lo, true) else if hi < v then (hi, true) else (v, false)

/-- What one plane gives: data codes, saturations, the checksum groups that exceed the tolerance, the fine converters' reference
deviations, and their shadow readings by 512 * plane + output. -/
structure PlaneOut where
  codes : List Int
  sats : Nat
  bad : List Nat
  refDev : List Nat
  shadow : List (Nat × Int)

/-- Run one plane `p` (R91, R95-R97, R100). `base` gives the deviation of the lower of the two codes that R104 allows each converter:
data column j as 512 * p + j, the even and odd fine converters of group g as 4096 and 4160 + 8 * p + g. `even`: the array's pass count
is even, so that the odd fine converters read reference pairs, else data columns. A reference reading is compared with what the same
converter gives for the expected value of R84 (log entry 116). -/
def runPlane (a : WarpArr) (an : WarpAnalog) (base : Nat → Int) (tol : Nat) (even : Bool) (p : Nat) (pl : Plane) : PlaneOut :=
  let k := if pl.narrow then a.ko else a.k
  let dev (i : Nat) (d : Int) : Int := base i + oneCode d + upsetAt an i
  let cs := (List.range 512).map fun j =>
    convert (colSum a.cells pl.drive j) k (dev (512 * p + j) (an.data.getD (512 * p + j) 0)) (-32) 31
  let codes := cs.map Prod.fst
  let odd (g : Nat) (sum : Int) : Int :=
    (convert (16 * sum) k (dev (4160 + 8 * p + g) (an.ref.getD (8 * p + g) 0)) (-512) 511).1
  let refDev (g : Nat) : Nat :=
    let want := ((refPatterns.getD (refOf g p) default).sum pl.drive)
    (odd g ((a.refs.getD (refOf g p) default).sum pl.drive) - (convert (16 * want) k 0 (-512) 511).1).natAbs
  let shadow (g : Nat) : Nat × Int := (512 * p + a.shadowAt g, odd g (colSum a.cells pl.drive (a.shadowAt g)))
  let bad := (List.range 8).filter fun g =>
    let sums := groupSums a.cells g
    let chk := (sums.map fun e => rneShift e.2 6 * pl.drive.getD e.1 0).sum
    let q := (sums.map fun e => (e.2 - 64 * rneShift e.2 6) * pl.drive.getD e.1 0).sum
    let fine := (convert (16 * chk) k (dev (4096 + 8 * p + g) (an.fine.getD (8 * p + g) 0)) (-512) 511).1
    let grp := (codes.drop (64 * g)).take 64
    let sat := grp.any (fun c => c == -32 || c == 31) || fine == -512 || fine == 511
    !sat && decide ((tol : Int) * 2 ^ k < ((grp.sum - 4 * fine) * 2 ^ k - q).natAbs)
  ⟨codes, (cs.filter Prod.snd).length, bad, if even then (List.range 8).map refDev else [],
    if even then [] else (List.range 8).map shadow⟩

/-! ## The tail (R92, R93) -/

/-- The FP32 result of column `j` from its accumulator and the calibration set, each operation rounded once. -/
def tailResult (a : WarpArr) (band form gs j : Nat) (acc : Int) : Word :=
  if gs = 0xFF then toFP32 .nan
  else
    let m := if form = 1 then min a.k a.ko else a.k
    let c := a.col j
    -- offsets in 1/16 LSB times 8 from the interpolation
    let offN := toFP32 ((Num.ofInt (c.offN.at8 band) (-7)))
    let offW := toFP32 ((Num.ofInt (c.offW.at8 band) (-7)))
    let tn := toFP32 ((ofFP32 offN).mul (Num.ofInt (-1) (a.k - m : Nat)))
    let off := if form = 1 then
        fpAdd tn (toFP32 ((ofFP32 offW).mul (Num.ofInt 240 (a.ko - m : Nat))))
      else tn
    let v := fpSub (toFP32 (Num.ofInt acc 0)) off
    let v := fpMul v (toFP32 (Num.ofInt (8 * 98304 + c.gainN.at8 band) (-20)))
    let v := toFP32 ((ofFP32 v).scale m)
    let v := fpMul v (toFP32 (fBF16.decode (SMap.get 0 a.colScale j).toNat))
    toFP32 ((ofFP32 v).scale ((gs : Int) - 127))

/-- What a Warp pass gives (R86-R103): its 512 results, its form, outlier rows, saturations, the (group, plane) pairs that
report a detection, the largest reference deviation, and the shadow readings. -/
structure WarpOut where
  results : List Word
  form : Nat
  rows : Nat
  sats : Nat
  bad : List (Nat × Nat)
  refDev : Nat
  shadow : List (Nat × Int)

/-- Run a pass on an array's cells. `cnt` is the array's pass count before it (R96); `base` is `Config.warpBase` of the array, by form. -/
def warpRun (a : WarpArr) (an : WarpAnalog) (base : Nat → Nat → Int) (band tol cap gs cnt : Nat) (xs : List Int) : WarpOut :=
  let n := outlierRows xs
  let form := passForm n cap
  let planes := planesOf form xs
  let outs := planes.mapIdx fun p pl => runPlane a an (base form) tol (cnt % 2 == 0) p pl
  let m := if form = 1 then min a.k a.ko else a.k
  let acc (j : Nat) : Int :=
    (List.zipWith (fun (pl : Plane) (o : PlaneOut) => pl.wt * o.codes.getD j 0 * 2 ^ ((if pl.narrow then a.ko else a.k) - m))
      planes outs).sum
  { results := (List.range 512).map fun j => tailResult a band form gs j (acc j)
    form := form
    rows := n
    sats := (outs.map PlaneOut.sats).sum
    bad := (outs.mapIdx fun p o => o.bad.map fun g => (g, p)).flatten
    refDev := (outs.flatMap PlaneOut.refDev).foldl max 0
    shadow := outs.flatMap PlaneOut.shadow }
/-- An array with a pass's shadow readings recorded; after a pass that took any, the next column is due (R96). -/
def WarpArr.noteShadow (a : WarpArr) (l : List (Nat × Int)) : WarpArr :=
  if l.isEmpty then a
  else { a with shadow := l.foldl (fun m e => SMap.set 0 m e.1 e.2) a.shadow, shadowCol := (a.shadowCol + 1) % 64 }

/-! ## Where an index runs (R120, R123) -/

/-- The array that serves index `a` of a physical tile: the spare while it stands for it. -/
def State.servingIdx (s : State) (phys a : Nat) : Nat :=
  match (s.tile phys).stage with
  | .standing x _ => if x = a then 8 else a
  | .handback x _ => if x = a then 8 else a
  | _ => a
/-- Store key of a physical array. -/
def arrKey (phys idx : Nat) : Nat := 16 * phys + idx

/-- Put an accepted service request into a Spindle's queue, which has room for it; one for the same array merges with it and keeps its
operation (R118, R119; log entry 118). An ACTIVE primary array becomes QUEUED. -/
def State.queueSvc (s : State) (phys idx op : Nat) : State :=
  let q := s.tile phys
  if q.queue.any fun r => r.arr == idx then s
  else
    let s := s.modTile phys fun q => { q with queue := q.queue ++ [⟨idx, op⟩] }
    s.modWarp (arrKey phys idx) fun a => if a.code = 1 ∧ idx < 8 then { a with code := 2 } else a

/-- A value written to WRP_SVC_CMD waits for its district's window boundary, in place of one for the same array that waits there
(R128). -/
def State.svcWait (s : State) (key op : Nat) (fw : Bool) : State :=
  { s with svcDue := (s.svcDue.filter fun e => e.key != key) ++ [⟨key, op, fw⟩] }
/-- Firmware asks for a service: it starts it in WRP_SVC_CMD (R118). -/
def State.svcRequest (s : State) (phys idx op : Nat) : State :=
  (s.setReg Reg.wrpSvcCmd (arrKey phys idx) op).svcWait (arrKey phys idx) op true

/-- The index is in service already (R99): asked for, queued, or the one that is out of use. -/
def State.svcPending (s : State) (phys idx : Nat) : Bool :=
  s.svcDue.any (fun e => e.key == arrKey phys idx && e.op != 4) || (s.tile phys).queue.any (fun r => r.arr == idx) ||
    (match (s.tile phys).stage with
     | .loading a _ => a == idx
     | .ready a _ => a == idx
     | .standing a _ => a == idx
     | .handback a _ => a == idx
     | .inPlace => idx == 8
     | .idle => false)

/-! ## Hold records (R208-R210) -/

/-- Bytes in use in the hold buffer. -/
def Spindle.holdUse (sp : Spindle) : Nat := (sp.hold.map HoldRec.bytes).sum
/-- The step is sampled (R435): its number is a multiple of 2^RATE_LOG2, from 1 to 20. -/
def State.sampled (s : State) (p step : Nat) : Bool :=
  let n := bits (s.liveReg p Reg.intShadowCfg) 4 0
  decide (1 ≤ n ∧ n ≤ 20) && step % 2 ^ n == 0
/-- A Warp pass of a mirrored slot in a sampled step has a shadow comparison to come (R435, R437). -/
def State.shadowDue (s : State) (t : Nat) (r : HoldRec) : State :=
  let row := s.row (rowOf t)
  match (s.spin t).part, r.kind with
  | some p, .warp .. =>
    if row.ready = true ∧ row.mirror = some (t % 32) ∧ row.standIn = none ∧ s.sampled p r.step = true then
      s.modPart p fun q => { q with shadowDue := q.shadowDue ++ [(t, r.addr, r.occ)] }
    else s
  | _, _ => s
/-- The array index of a held pass; 9 is the Weft array. -/
def HoldRec.arr (r : HoldRec) : Nat := match r.kind with
  | .warp arr _ _ _ _ _ _ _ => arr
  | .weft _ _ => 9
/-- Make a hold record, or issue without one when it does not fit (R210). -/
def State.addHold (s : State) (t : Nat) (r : HoldRec) : State :=
  let others (sp : Spindle) : List (Nat × Nat × Nat) := sp.bare.filter fun e => e.1 != r.arr
  if (s.spin t).holdUse + r.bytes ≤ Config.holdBytes then
    (s.modSpin t fun sp => { sp with hold := sp.hold ++ [r], bare := others sp }).shadowDue t r
  else (s.countO (s.physOf t) 61 1).modSpin t fun sp => { sp with bare := (r.arr, r.addr, r.occ) :: others sp }

/-- The first hold of a unit ends. -/
def dropHold (u : SpUnit) : List UnitHold → List UnitHold
  | [] => []
  | h :: l => if h.unit = u then l else h :: dropHold u l

/-- Report a detection of a pass (R418). -/
def State.report (s : State) (p t : Nat) (d : Detection) (addr occ : Nat) : State :=
  s.modPart p fun q => { q with detects := q.detects ++ [⟨t, d, addr, occ⟩] }

/-! ## Weft slots (R134-R145, R149-R152) -/

/-- The TRAINING entry that holds a Weft array, if any (R140, R259, R266). -/
def State.trainingOf (s : State) (w : WeftArr) : Option Nat :=
  match w.slot0.entry, w.slot1.entry with
  | some a, some b => if a = b ∧ (s.adapter a).st = 4 then some a else none
  | _, _ => none
/-- The slot a WEFT instruction selects (R140). -/
def State.weftSelect (s : State) (p t : Nat) (w : WeftArr) (train : Bool) (e : Nat) : Option Bool :=
  if train then (s.trainingOf w).bind w.residentOf
  else ((s.entryAt p t e).bind BatchE.adapter).bind w.residentOf

/-! ### What a slot write stores beside the cells (R131, R133, R149) -/

/-- The checksum cells: the sum of each row's 64 data cells. -/
def rowSums (cells : SMap (BitVec 4)) : SMap (BitVec 10) :=
  cells.foldl (fun m e => SMap.set 0 m (e.1 / 64) (SMap.get 0 m (e.1 / 64) + BitVec.ofInt 10 e.2.toInt)) []
/-- The segment sums W, by 64 * segment + column. -/
def segSums (cells : SMap (BitVec 4)) : SMap (BitVec 10) :=
  cells.foldl (fun m e =>
    let k := 64 * (e.1 / 4096) + e.1 % 64
    SMap.set 0 m k (SMap.get 0 m k + BitVec.ofInt 10 e.2.toInt)) []
/-- The parity of a cell's four bits. -/
def cellParity (c : BitVec 4) : Bool := (c.getLsbD 0 ^^ c.getLsbD 1) ^^ (c.getLsbD 2 ^^ c.getLsbD 3)
/-- The row parities. -/
def rowParity (cells : SMap (BitVec 4)) : SMap (BitVec 4) :=
  cells.foldl (fun m e => if cellParity e.2 then SMap.set 0 m (e.1 / 64) (SMap.get 0 m (e.1 / 64) ^^^ (1#4 <<< (e.1 % 4))) else m) []
/-- A slot with cells written: the write stores checksum cells, parity and segment sums with them. -/
def WeftSlot.store (x : WeftSlot) (cells : SMap (BitVec 4)) : WeftSlot :=
  { x with cells := cells, chk := rowSums cells, sums := segSums cells, par := rowParity cells, write := none }

/-! ### The pass (R134-R139) -/

/-- The pulse width that row `i` is driven with (R135, R137). -/
def weftPulse (up : Bool) (xs : List Int) (i : Nat) : Int := xs.getD (if up then i % 64 else i) 0 + 8
/-- The segment reading T of each column, exact (R136), by 64 * segment + column. -/
def segReadings (sl : WeftSlot) (up : Bool) (xs : List Int) : SMap Int :=
  sl.cells.foldl (fun m e =>
    let k := 64 * (e.1 / 4096) + e.1 % 64
    SMap.set 0 m k (SMap.get 0 m k + e.2.toInt * weftPulse up xs (e.1 / 64))) []
/-- The checksum line's exact reading in segment `g`: a checksum cell works with 10 bits (R134). -/
def chkReading (sl : WeftSlot) (up : Bool) (xs : List Int) (g : Nat) : Int :=
  sl.chk.foldl (fun a e => if e.1 / 64 = g then a + e.2.toInt * weftPulse up xs e.1 else a) 0
/-- The sum of the pulse widths of a segment's rows. -/
def pulseSum (up : Bool) (xs : List Int) (g : Nat) : Int := ((List.range 64).map fun i => weftPulse up xs (64 * g + i)).sum
/-- A reading in whole units of an exact value and a deviation in 1/64 unit (R136). -/
def wholeUnit (exact dev : Int) : Int := rneShift (64 * exact + dev) 6

/-- The deviations of the data readings in force: below the threshold, and of a transient fault (R143). -/
def weftDev (an : WeftAnalog) (exact : Bool) (i : Nat) : Int :=
  (if exact then 0 else an.data.getD i 0) + ((an.upset.filter fun e => e.1 == i).map Prod.snd).sum
/-- The integer results (R137) from the segment readings and the segment sums: 64 of a DOWN pass, 512 of an UP pass. -/
def weftInts (sl : WeftSlot) (up : Bool) (xs : List Int) (dev : Nat → Int) : List Int :=
  let ts := segReadings sl up xs
  let y (i : Nat) : Int := SMap.get 0 ts i + dev i - 8 * (SMap.get 0 sl.sums i).toInt
  if up then (List.range 512).map y
  else (List.range 64).map fun c => ((List.range 8).map fun g => y (64 * g + c)).sum
/-- Scale an output (R139). -/
def weftScale (sl : WeftSlot) (gs o : Nat) (y : Int) : Word :=
  if gs = 0xFF then toFP32 .nan
  else toFP32 (((Num.ofInt y 0).mul (fBF16.decode (SMap.get 0 sl.scales o).toNat)).scale ((gs : Int) - 127))
/-- The pass's fine readings: the line (128, 129 checksum of slot 0, 1; 130, 131 reference) and the deviation in 1/64 unit. -/
def weftFine (an : WeftAnalog) (slot : Option Bool) : List (Nat × Int) :=
  (match slot with
   | some k => (List.range 8).map fun g => (if k then 129 else 128, an.chk.getD g 0)
   | none => []) ++
  (List.range 8).map (fun g => (130, an.ref0.getD g 0)) ++ (List.range 8).map fun g => (131, an.ref1.getD g 0)
/-- The pass's ratio margin, 0 for less, and the first line that has it (R145). -/
def weftMargin (an : WeftAnalog) (slot : Option Bool) : Nat × Nat :=
  (weftFine an slot).foldl (fun m e => let x := 32 - e.2.natAbs; if x < m.1 then (x, e.1) else m) (33, 130)
/-- Whether the three equalities of R144 hold in every segment. Without a slot there is no checksum line to compare. -/
def weftChecks (sl : Option WeftSlot) (up : Bool) (xs : List Int) (dev : Nat → Int) (an : WeftAnalog) : Bool :=
  (List.range 8).all fun g =>
    let u := pulseSum up xs g
    (match sl with
     | none => true
     | some w =>
       let ts := segReadings w up xs
       decide (((List.range 64).map fun c => SMap.get 0 ts (64 * g + c) + dev (64 * g + c)).sum =
         wholeUnit (chkReading w up xs g) (an.chk.getD g 0))) &&
      wholeUnit (7 * u) (an.ref0.getD g 0) == 7 * u && wholeUnit (-8 * u) (an.ref1.getD g 0) == -8 * u
/-- The FP32 results of a pass on the selected slot; +0 throughout without one (R141). -/
def weftResults (sl : Option WeftSlot) (up : Bool) (gs : Nat) (xs : List Int) (dev : Nat → Int) : List Word :=
  match sl with
  | none => List.replicate (if up then 512 else 64) 0
  | some w => (weftInts w up xs dev).mapIdx fun o y => weftScale w gs o y

/-- Put an array into RECAL (R145, R147). -/
def State.enterRecal (s : State) (phys : Nat) : State :=
  if (s.weft phys).st ≠ 0 then s
  else
    let s := s.modWeft phys fun w => { w with st := 1, attempt := 0 }
    ((s.setBit Reg.wftStatus 0 1).bump Reg.wftRecalCnt phys).bumpSat Reg.wftRecalActive 0 11 0

end Sys2Proof.Machine
end

