-- ==== Sys2Proof/Machine/Vec.lean ====
section
/-! DEFINITION. VEC instructions (R260-R263, R181, R182). -/

namespace Sys2Proof.Machine

/-- Register tag of a TYPE (R261): 0 BF16, 1 FP32, 2 I8. -/
def tyTag (ty : Nat) : Nat := match ty with | 0 => 5 | 1 => 6 | _ => 2
/-- A lane of a tag from a value, rounded once to nearest, ties to even. -/
def toLane (tag : Nat) (v : Num) : Word := if tag = 5 then toBF16Lane v else toFP32 v

/-- The file's registers of one operand. -/
def regRange (first n : Nat) : List Nat := (List.range n).map (first + ·)

/-- Apply a function of one lane to `cnt` registers from VA. -/
def mapLanes1 (sp : Spindle) (va cnt : Nat) (g : Word → Word) : List (List Word) :=
  (List.range cnt).map fun i => (sp.vr (va + i)).all.map g
/-- Apply a function of two lanes to registers from VA and VB. -/
def mapLanes2 (sp : Spindle) (va vb cnt : Nat) (g : Word → Word → Word) : List (List Word) :=
  (List.range cnt).map fun i => List.zipWith g (sp.vr (va + i)).all (sp.vr (vb + i)).all
/-- Apply a function of three lanes to registers from VA, VB and VC. -/
def mapLanes3 (sp : Spindle) (va vb vc cnt : Nat) (g : Word → Word → Word → Word) : List (List Word) :=
  (List.range cnt).map fun i =>
    List.zipWith (fun (h : Word → Word) c => h c) (List.zipWith g (sp.vr (va + i)).all (sp.vr (vb + i)).all) (sp.vr (vc + i)).all

/-- Count of registers of a VEC. -/
def vecN (f : VecF) : Nat := f.cnt.toNat + 1

/-- Lane operations (R261): integers wrap in 32 bits, floats round once (R181). -/
def laneFma (ty ctag : Nat) (a b c : Word) : Word :=
  if ty = 2 then a * b + c
  else toLane ctag (((laneNum (tyTag ty) a).mul (laneNum (tyTag ty) b)).add (laneNum ctag c))
def laneAdd (ty : Nat) (a b : Word) : Word :=
  if ty = 2 then a + b else toLane (tyTag ty) ((laneNum (tyTag ty) a).add (laneNum (tyTag ty) b))
def laneMul (ty : Nat) (a b : Word) : Word :=
  if ty = 2 then a * b else toLane (tyTag ty) ((laneNum (tyTag ty) a).mul (laneNum (tyTag ty) b))
def laneMax (ty : Nat) (a b : Word) : Word :=
  if ty = 2 then (if a.toInt < b.toInt then b else a) else toLane (tyTag ty) ((laneNum (tyTag ty) a).max (laneNum (tyTag ty) b))
def laneMin (ty : Nat) (a b : Word) : Word :=
  if ty = 2 then (if b.toInt < a.toInt then b else a) else toLane (tyTag ty) ((laneNum (tyTag ty) a).min (laneNum (tyTag ty) b))

/-- A two-source operation of one TYPE: ADD, MUL, MAX, MIN. -/
def vec2 (t : BitVec 12) (op : Nat) (f : VecF) (g : Nat → Word → Word → Word) (s : State) :
    Host.Outcome State Fault Refusal :=
  instr s t (encVec op f) fun s _ t =>
    let sp := s.spin t
    let vd := f.vd.toNat
    let va := f.va.toNat
    let vb := f.vb.toNat
    let tag := tyTag f.ty.toNat
    { reads := [(va, vecN f), (vb, vecN f)]
      writes := [(vd, vecN f)]
      fault := firstFault [rangeFault vd (vecN f), rangeFault va (vecN f), rangeFault vb (vecN f),
        sp.tagFault va (vecN f) tag 1, sp.tagFault vb (vecN f) tag 2]
      eff := fun s => s.modSpin t fun sp => sp.setVs vd tag (mapLanes2 sp va vb (vecN f) (g f.ty.toNat)) }

/-- VEC.FMA (R261): a × b + c with one rounding, into the tag of c. -/
def execVecFma (t : BitVec 12) (f : VecF) (s : State) : Host.Outcome State Fault Refusal :=
  instr s t (encVec 0 f) fun s _ t =>
    let sp := s.spin t
    let vd := f.vd.toNat
    let va := f.va.toNat
    let vb := f.vb.toNat
    let vc := f.vc.toNat
    let tag := tyTag f.ty.toNat
    { reads := [(va, vecN f), (vb, vecN f), (vc, vecN f)]
      writes := [(vd, vecN f)]
      fault := firstFault [rangeFault vd (vecN f), rangeFault va (vecN f), rangeFault vb (vecN f), rangeFault vc (vecN f),
        sp.tagFault va (vecN f) tag 1, sp.tagFault vb (vecN f) tag 2,
        if tag = 5 then sp.tagFault2 vc (vecN f) 5 6 3 else sp.tagFault vc (vecN f) tag 3]
      eff := fun s => s.modSpin t fun sp =>
        ((List.range (vecN f)).map fun i => (sp.vr (vc + i)).tag).zip
            ((List.range (vecN f)).map fun i =>
              List.zipWith (fun (h : Word → Word) c => h c)
                (List.zipWith (laneFma f.ty.toNat (sp.vr (vc + i)).tag) (sp.vr (va + i)).all (sp.vr (vb + i)).all)
                (sp.vr (vc + i)).all)
          |>.foldl (fun (a : Spindle × Nat) r => (a.1.setV a.2 (mkVReg r.1 r.2), a.2 + 1)) (sp, vd) |>.1 }

/-- VEC.ADD. -/
def execVecAdd (t : BitVec 12) (f : VecF) (s : State) : Host.Outcome State Fault Refusal := vec2 t 1 f laneAdd s
/-- VEC.MUL. -/
def execVecMul (t : BitVec 12) (f : VecF) (s : State) : Host.Outcome State Fault Refusal := vec2 t 2 f laneMul s
/-- VEC.MAX. -/
def execVecMax (t : BitVec 12) (f : VecF) (s : State) : Host.Outcome State Fault Refusal := vec2 t 3 f laneMax s
/-- VEC.MIN. -/
def execVecMin (t : BitVec 12) (f : VecF) (s : State) : Host.Outcome State Fault Refusal := vec2 t 4 f laneMin s

/-- A helper of R262 on every lane; the destination is FP32. -/
def vecHelper (t : BitVec 12) (op : Nat) (f : VecF) (g : Num → Word) (s : State) : Host.Outcome State Fault Refusal :=
  instr s t (encVec op f) fun s _ t =>
    let sp := s.spin t
    let vd := f.vd.toNat
    let va := f.va.toNat
    let tag := tyTag f.ty.toNat
    { reads := [(va, vecN f)]
      writes := [(vd, vecN f)]
      fault := firstFault [rangeFault vd (vecN f), rangeFault va (vecN f), sp.tagFault va (vecN f) tag 1]
      eff := fun s => s.modSpin t fun sp => sp.setVs vd 6 (mapLanes1 sp va (vecN f) fun a => g (laneNum tag a)) }

/-- VEC.EXP. -/
def execVecExp (t : BitVec 12) (f : VecF) (s : State) : Host.Outcome State Fault Refusal := vecHelper t 5 f fpExp s
/-- VEC.RSQRT. -/
def execVecRsqrt (t : BitVec 12) (f : VecF) (s : State) : Host.Outcome State Fault Refusal := vecHelper t 6 f fpRsqrt s
/-- VEC.RCP. -/
def execVecRcp (t : BitVec 12) (f : VecF) (s : State) : Host.Outcome State Fault Refusal := vecHelper t 7 f fpRcp s

/-- One level of the reduction tree: pairs in order (R263). -/
def pairUp (g : Word → Word → Word) : List Word → List Word
  | a :: b :: l => g a b :: pairUp g l
  | l => l
/-- The 7 levels over 128 lanes (R263). -/
def reduceLanes (g : Word → Word → Word) (l : List Word) : Word :=
  ((List.range 7).foldl (fun l _ => pairUp g l) l).headD 0
/-- Reduce `cnt` registers: each by its tree, then left to right (R263). -/
def reduceRegs (g : Word → Word → Word) (regs : List (List Word)) : Word :=
  match regs.map (reduceLanes g) with
  | [] => 0
  | r :: rs => rs.foldl g r

/-- VEC.RSUM and VEC.RMAX: into lane 0 of VD, the other lanes +0. -/
def vecReduce (t : BitVec 12) (op : Nat) (f : VecF) (g : Word → Word → Word) (s : State) : Host.Outcome State Fault Refusal :=
  instr s t (encVec op f) fun s _ t =>
    let sp := s.spin t
    let vd := f.vd.toNat
    let va := f.va.toNat
    let tag := tyTag f.ty.toNat
    { reads := [(va, vecN f)]
      writes := [(vd, 1)]
      fault := firstFault [rangeFault va (vecN f), sp.tagFault va (vecN f) tag 1]
      eff := fun s => s.modSpin t fun sp =>
        let r := reduceRegs g (mapLanes1 sp va (vecN f) fun a => toFP32 (laneNum tag a))
        sp.setV vd (mkVReg 6 (r :: List.replicate 127 0)) }

/-- VEC.RSUM. -/
def execVecRsum (t : BitVec 12) (f : VecF) (s : State) : Host.Outcome State Fault Refusal := vecReduce t 8 f fpAdd s
/-- VEC.RMAX. -/
def execVecRmax (t : BitVec 12) (f : VecF) (s : State) : Host.Outcome State Fault Refusal := vecReduce t 9 f fpMax s

/-- VEC.IMAC (R261): d + a × b in 32-bit two's complement, wrapping. -/
def execVecImac (t : BitVec 12) (f : VecF) (s : State) : Host.Outcome State Fault Refusal :=
  instr s t (encVec 10 f) fun s _ t =>
    let sp := s.spin t
    let vd := f.vd.toNat
    let va := f.va.toNat
    let vb := f.vb.toNat
    { reads := [(va, vecN f), (vb, vecN f), (vd, vecN f)]
      writes := [(vd, vecN f)]
      fault := firstFault [rangeFault vd (vecN f), rangeFault va (vecN f), rangeFault vb (vecN f), sp.tagFault va (vecN f) 2 1,
        sp.tagFault vb (vecN f) 2 2, sp.tagFault vd (vecN f) 2 0]
      eff := fun s => s.modSpin t fun sp => sp.setVs vd 2 (mapLanes3 sp va vb vd (vecN f) fun a b d => d + a * b) }

/-- One lane from slice bytes in a TYPE (R261). -/
def loadLane (ty : Nat) (bs : Bytes) (i : Nat) : Word :=
  match ty with
  | 0 => BitVec.ofNat 32 (leNat bs (2 * i) 2 * 65536)
  | 1 => BitVec.ofNat 32 (leNat bs (4 * i) 4)
  | _ => BitVec.ofInt 32 (signedOf 8 (byteAt bs i))
/-- The bytes of one lane in a TYPE; an I8 lane clamps to -128 to +127 (R261). -/
def storeLane (ty : Nat) (w : Word) : Bytes :=
  match ty with
  | 0 => natLe (w.toNat / 65536) 2
  | 1 => natLe w.toNat 4
  | _ => natLe (fieldOf 8 (max (-128) (min 127 w.toInt))) 1

/-- VEC.LD (R261): consecutive lines into consecutive registers. -/
def execVecLd (t : BitVec 12) (f : VecF) (s : State) : Host.Outcome State Fault Refusal :=
  instr s t (encVec 11 f) fun s p t =>
    let vd := f.vd.toNat
    let line := (s.spin t).lop f.lop
    let k := ldLines f.ty.toNat
    { writes := [(vd, vecN f)]
      lines := (line, k * vecN f)
      fault := firstFault [rangeFault vd (vecN f), s.linesFault p line (k * (vecN f))]
      eff := fun s =>
        let ls := (List.range (vecN f)).map fun i =>
          let bs := s.readLines t (line + k * i) k
          (List.range 128).map (loadLane f.ty.toNat bs)
        (s.countO (s.physOf t) 47 (k * (vecN f))).modSpin t fun sp => sp.setVs vd (tyTag f.ty.toNat) ls }

/-- VEC.ST (R261): consecutive registers to consecutive lines. -/
def execVecSt (t : BitVec 12) (f : VecF) (s : State) : Host.Outcome State Fault Refusal :=
  instr s t (encVec 12 f) fun s p t =>
    let sp := s.spin t
    let va := f.va.toNat
    let line := sp.lop f.lop
    let k := ldLines f.ty.toNat
    { reads := [(va, vecN f)]
      lines := (line, k * vecN f)
      fault := firstFault [rangeFault va (vecN f), sp.tagFault va (vecN f) (tyTag f.ty.toNat) 1, s.linesFault p line (k * (vecN f))]
      eff := fun s =>
        let bs := (sp.lanesOf va (vecN f)).flatMap (storeLane f.ty.toNat)
        (s.countO (s.physOf t) 48 (k * (vecN f))).writeLines t line bs }

/-- Registers from registers, each keeping the tag of its source. -/
def vecMove (t : BitVec 12) (op : Nat) (f : VecF) (g : VReg → List Word) (s : State) : Host.Outcome State Fault Refusal :=
  instr s t (encVec op f) fun _ _ t =>
    let vd := f.vd.toNat
    let va := f.va.toNat
    { reads := [(va, vecN f)]
      writes := [(vd, vecN f)]
      fault := firstFault [rangeFault vd (vecN f), rangeFault va (vecN f)]
      eff := fun s => s.modSpin t fun sp =>
        ((List.range (vecN f)).map fun i => mkVReg (sp.vr (va + i)).tag (g (sp.vr (va + i))))
          |>.foldl (fun (a : Spindle × Nat) r => (a.1.setV a.2 r, a.2 + 1)) (sp, vd) |>.1 }

/-- VEC.BCAST: every lane gets lane IMM of a. -/
def execVecBcast (t : BitVec 12) (f : VecF) (s : State) : Host.Outcome State Fault Refusal :=
  vecMove t 13 f (fun v => List.replicate 128 (v.lane f.imm.toNat)) s
/-- VEC.ROT: lane j gets lane (j + IMM) mod 128 of a. -/
def execVecRot (t : BitVec 12) (f : VecF) (s : State) : Host.Outcome State Fault Refusal :=
  vecMove t 14 f (fun v => (List.range 128).map fun j => v.lane ((j + f.imm.toNat) % 128)) s

/-- VEC.SEL: a where the sign bit of c is 0, otherwise b. -/
def execVecSel (t : BitVec 12) (f : VecF) (s : State) : Host.Outcome State Fault Refusal :=
  instr s t (encVec 15 f) fun s _ t =>
    let sp := s.spin t
    let vd := f.vd.toNat
    let va := f.va.toNat
    let vb := f.vb.toNat
    let vc := f.vc.toNat
    let tag := tyTag f.ty.toNat
    { reads := [(va, vecN f), (vb, vecN f), (vc, vecN f)]
      writes := [(vd, vecN f)]
      fault := firstFault [rangeFault vd (vecN f), rangeFault va (vecN f), rangeFault vb (vecN f), rangeFault vc (vecN f),
        sp.tagFault va (vecN f) tag 1, sp.tagFault vb (vecN f) tag 2]
      eff := fun s => s.modSpin t fun sp =>
        sp.setVs vd tag (mapLanes3 sp va vb vc (vecN f) fun a b c => if c.msb then b else a) }

end Sys2Proof.Machine
end

