-- ==== Sys2Proof/Machine/Warp.lean ====
section
/-! DEFINITION. WARP and WEFT instructions and the end of a Warp pass (R85-R103, R139-R145, R254-R259). -/

namespace Sys2Proof.Machine

/-- Count a dense overflow pass and the outlier rows of every pass (R103). OUTLIER_SPILL names no array, so that its SOURCE is the
module (4) and not a half: the model's choice (log entry 119). -/
def State.countSpill (s : State) (p tag key : Nat) (o : WarpOut) : State :=
  let mx := Reg.wrpSpillMax + 1024 * p + 4 * tag
  let s := if s.fld mx 0 9 0 < o.rows then s.setFld mx 0 9 0 o.rows else s
  if o.form = 2 then
    let c := Reg.wrpSpillCnt + 1024 * p + 4 * tag
    let first := decide (s.reg c = 0)
    let s := ((s.bump Reg.wrpDenseCnt key).bump c).setBit Reg.wrpStatus 0 0
    if first then s.raiseIn p 0x3006 4 (le1 p ++ le1 tag) else s
  else s

/-- A reference reading beyond 24 fine LSB asks for a CALIBRATE and raises WARP_REF_DRIFT; the largest deviation is kept (R99). -/
def State.refDrift (s : State) (p t phys idx dev : Nat) : State :=
  let key := arrKey phys idx
  let s := if s.fld Reg.wrpRefDev key 9 0 < dev then s.setFld Reg.wrpRefDev key 9 0 (min dev 1023) else s
  if 24 < dev then
    let s := if s.svcPending phys idx then s else s.svcRequest phys idx 1
    s.raiseIn p 0x3008 (halfOf t) (le2 t ++ le1 idx)
  else s

/-- Report a pass's checksum detections (R97, R98). -/
def State.csumDetect (s : State) (p t arr key addr occ : Nat) (bad : List (Nat × Nat)) : State :=
  bad.foldl (fun s b =>
    ((s.bump Reg.wrpCsumErrCnt key).setBit Reg.wrpStatus 0 1).report p t
      (.warpChecksum (BitVec.ofNat 4 arr) (BitVec.ofNat 3 b.1) (BitVec.ofNat 3 b.2)) addr occ) s

/-- An earlier pass on the array runs longer than the Turns that it was to hold the array for (R90). -/
def Spindle.overrun (sp : Spindle) (arr : Nat) : Bool :=
  sp.passes.any (fun r => r.arr == arr) && !sp.holds.any fun h => h.unit == .warp arr
/-- A pass holds its array for its actual Turns where they are more than its compiled ones (R87, R255). -/
def Spindle.holdForm (sp : Spindle) (arr form : Nat) : Spindle :=
  if form = 2 then
    { sp with holds := sp.holds.map fun h => if h.unit = .warp arr ∧ 0 < h.wait then { h with left := max h.left 128 } else h }
  else sp

/-- The deviations that the array's converters have under one operand, group scale, calibration epoch and band, by form (R104; log
entry 120). -/
def State.warpBase (s : State) (key band gs : Nat) (xs : List Int) (form : Nat) : Nat → Int :=
  Config.warpBase key (s.fld Reg.wrpCalEpoch key 15 0) band form gs xs
/-- What a pass that has run leaves on its array, whatever it was run for: its counts, spill and saturations, its shadow readings, and
the reference deviation (R91, R96, R99, R103). `t` is the logical tile, `tag` the layer tag. -/
def State.warpRan (s : State) (p t phys idx tag : Nat) (o : WarpOut) : State :=
  let key := arrKey phys idx
  let s := ((s.bump Reg.wrpPassCnt key).bump Reg.wrpSatCnt key o.sats).countSpill p tag key o
  (s.modWarp key fun a => a.noteShadow o.shadow).refDrift p t phys idx o.refDev

/-- Run a Warp pass (R255): fetch and form the operand, make the hold record, count, and leave the results pending for its
end Turn. -/
def State.runWarp (s : State) (p t : Nat) (f : WarpF) (an : WarpAnalog) (acc : Bool) (w : DWord) : State :=
  let sp := s.spin t
  let phys := s.physOf t
  let arr := f.arr.toNat
  let idx := s.servingIdx phys arr
  let key := arrKey phys idx
  let a := s.warp key
  let band := (s.dist (districtOf phys)).band
  let n := passFetch w
  let (gs, xs) := formOperand (if f.sfmt then 2 else 1) 512 f.d.toNat (s.readLines t (sp.lop f.src) n)
  let cap := capOf f.cap.toNat
  let tol := max 1 (bits (s.liveReg p Reg.wrpCsumTol) 7 0)
  let cnt := s.reg Reg.wrpPassCnt key
  let o := warpRun a an (s.warpBase key band gs xs) band tol cap gs cnt xs
  let occ := SMap.get 0 sp.occ sp.pc
  let s := s.countO phys 47 n
  let s := (s.countO phys (27 + o.form) 1).countO phys 31 o.sats
  let s := s.warpRan p t phys idx f.ltag.toNat o
  let s := s.addHold t ⟨sp.pc, occ, s.stepOf p t, gs, xs, if f.sfmt then 544 else 288,
    .warp arr key a.k a.ko cap (s.fld Reg.wrpCalEpoch key 15 0) band (o.form == 2), o.results⟩
  let s := s.csumDetect p t arr key sp.pc occ o.bad
  s.modSpin t fun sp => { (sp.holdForm arr o.form) with passes := sp.passes ++ [⟨arr, key, acc, f.vd.toNat, o.results⟩] }

/-- Registers that a pending pass leaves tagged FP32 do not fail a PASSA's tag test (R255, R256, R307). -/
def Spindle.accTag (sp : Spindle) (vd n : Nat) : Option FaultP :=
  let pend := sp.passes.flatMap fun r => (List.range 4).map (r.vd + ·)
  match (List.range n).find? fun k => (sp.vr (vd + k)).tag != 6 && !pend.contains (vd + k) with
  | some k => faultFormat 6 (sp.vr (vd + k)).tag 0
  | none => none

/-- WARP.PASS (0) and WARP.PASSA (1). The destination of a PASSA is waited for at its end Turn (R255). -/
def warpInstr (t : BitVec 12) (op : Nat) (f : WarpF) (an : WarpAnalog) (s : State) : Host.Outcome State Fault Refusal :=
  let w := encWarp op f
  instr s t w fun s p t =>
    let sp := s.spin t
    let vd := f.vd.toNat
    let line := sp.lop f.src
    { writes := if op = 1 then [] else [(vd, 4)]
      lines := (line, passFetch w)
      fault := firstFault [if 8 ≤ f.arr.toNat then faultIndex 1 f.arr.toNat else none,
        if vd % 4 ≠ 0 then faultIndex 2 vd else none,
        if f.sfmt ∧ f.d ≠ 0 then faultFormat 1 2 5 else none,
        if op = 1 then sp.accTag vd 4 else none,
        s.linesFault p line (passFetch w)]
      wait := if sp.overrun f.arr.toNat then waits 1 else none
      eff := fun s => s.runWarp p t f an (op == 1) w }

/-- WARP.PASS (R255). -/
def execWarpPass (t : BitVec 12) (f : WarpF) (a : WarpAnalog) (s : State) : Host.Outcome State Fault Refusal :=
  warpInstr t 0 f a s
/-- WARP.PASSA (R255). -/
def execWarpPassa (t : BitVec 12) (f : WarpF) (a : WarpAnalog) (s : State) : Host.Outcome State Fault Refusal :=
  warpInstr t 1 f a s

/-- Write or add a pass's results to VD to VD + 3 (R255): additions round once. -/
def Spindle.endPass (sp : Spindle) (vd : Nat) (acc : Bool) (results : List Word) : Spindle :=
  (chunks 128 5 results).foldl (fun (a : Spindle × Nat) l =>
    let old := (a.1.vr a.2).all
    (a.1.setV a.2 (mkVReg 6 (if acc then List.zipWith fpAdd old l else l)), a.2 + 1)) (sp, vd) |>.1

/-- The first pass on an index, with the passes before it. -/
def splitPass (arr : Nat) : List RunPass → List RunPass → Option (List RunPass × RunPass × List RunPass)
  | _, [] => none
  | pre, r :: l => if r.arr = arr then some (pre, r, l) else splitPass arr (pre ++ [r]) l

/-- WARP_PASS_END (R90, R255): the first pass on the index reaches its end Turn, and its array is free, unless an earlier pass or a
receive has still to write its destination. -/
def execWarpPassEnd (t : BitVec 12) (arr : BitVec 4) (s : State) : Host.Outcome State Fault Refusal :=
  if tileOk t.toNat then
    .next (match splitPass arr.toNat [] (s.spin t.toNat).passes with
      | none => s
      | some (pre, r, post) =>
        let sp := s.spin t.toNat
        if meetAny [(r.vd, 4)] ({ sp with passes := pre }.passRegs ++ sp.recvRegs) then s
        else s.modSpin t.toNat fun sp => { (sp.endPass r.vd r.acc r.results) with
          passes := pre ++ post, holds := dropHold (.warp arr.toNat) sp.holds })
  else .fault .noSuchUnit

/-! ## WEFT -/

/-- What a Weft pass gives: its results, and whether its checks report a detection. -/
structure WeftOut where
  results : List Word
  bad : Bool

/-- Run a pass on an array, on the slot `k` if one qualifies (R136-R145): the results, exact while the array's ratio margin and the
pass's stand at or above THRESH (R143); the three equalities; and the ratio margin, which lowers WFT_QUAL, and below THRESH makes a
detection and sends the array to RECAL. A pass counts as one detection, however many of its checks fail (log entry 121). -/
def State.weftRan (s : State) (phys : Nat) (k : Option Bool) (up : Bool) (gs : Nat) (xs : List Int) (an : WeftAnalog) :
    WeftOut × State :=
  let sl := k.map (s.weft phys).slot
  let m := weftMargin an k
  let q := s.fld Reg.wftQual phys 5 0
  let thresh := s.fld Reg.wftQualCfg 0 5 0
  let dev := weftDev an (decide (thresh ≤ min q m.1))
  let low := decide (m.1 < thresh)
  let bad := low || !weftChecks sl up xs dev an
  let s := if m.1 < q then (s.setFld Reg.wftQual phys 5 0 m.1).setFld Reg.wftQual phys 15 8 m.2 else s
  let s := if low then s.enterRecal phys else s
  let s := if bad then (s.bump Reg.wftCsumErrCnt phys).setBit Reg.wftStatus 0 0 else s
  (⟨weftResults sl up gs xs dev, bad⟩, s)

/-- Run a Weft pass (R258): operand, hold record, slot, results written or added to the destination. -/
def State.runWeft (s : State) (p t : Nat) (f : WeftF) (an : WeftAnalog) (acc : Bool) (w : DWord) : State :=
  let sp := s.spin t
  let phys := s.physOf t
  let arr := s.weft phys
  let n := passFetch w
  let (gs, xs) := formOperand 1 (if f.up then 64 else 512) 0 (s.readLines t (sp.lop f.src) n)
  let sel := s.weftSelect p t arr f.train (sp.ent f.ent)
  let form := match sel with
    | some k => (arr.slot k).up == f.up
    | none => true
  let slot := if form then sel else none
  let occ := SMap.get 0 sp.occ sp.pc
  let s := s.countO phys 47 n
  let s := (s.countO phys 32 1).bump Reg.wftPassCnt phys
  let s := if sel.isNone then (s.bump Reg.wftNoslotCnt phys).countO phys 33 1
    else if !form then (s.bump Reg.wftFormMissCnt phys).countO phys 33 1 else s
  let (o, s) := s.weftRan phys slot f.up gs xs an
  let res := o.results
  let s := s.addHold t ⟨sp.pc, occ, s.stepOf p t, gs, xs, if f.up then 64 else 288, .weft slot f.up, res⟩
  let s := if o.bad then s.report p t .weft sp.pc occ else s
  let vd := f.vd.toNat
  s.modSpin t fun sp =>
    if f.up then sp.endPass vd acc res
    else
      let old := (sp.vr vd).all
      let lo := if acc then List.zipWith fpAdd old res else res
      sp.setV vd (mkVReg 6 (lo ++ (if acc then old.drop 64 else List.replicate 64 0)))

/-- WEFT.PASS (0) and WEFT.PASSA (1): waits while the array is in RECAL or the selected slot in RESTORE (R142). -/
def weftInstr (t : BitVec 12) (op : Nat) (f : WeftF) (an : WeftAnalog) (s : State) : Host.Outcome State Fault Refusal :=
  let w := encWeft op f
  instr s t w fun s p t =>
    let sp := s.spin t
    let vd := f.vd.toNat
    let line := sp.lop f.src
    let n := if f.up then 4 else 1
    let arr := s.weft (s.physOf t)
    let restoring : Bool := match s.weftSelect p t arr f.train (sp.ent f.ent) with
      | some k => (arr.slot k).st == .restore || ((arr.slot k).write.map SlotWrite.quant).getD false
      | none => false
    { reads := if op = 1 then [(vd, n)] else []
      writes := [(vd, n)]
      lines := (line, passFetch w)
      fault := firstFault [if f.up ∧ vd % 4 ≠ 0 then faultIndex 2 vd else none,
        if f.train then none else entFault (sp.ent f.ent),
        if op = 1 then sp.tagFault vd n 6 0 else none,
        s.linesFault p line (passFetch w)]
      wait := if arr.st = 1 ∨ restoring = true then waits 1 else none
      eff := fun s => s.runWeft p t f an (op == 1) w }

/-- WEFT.PASS (R258). -/
def execWeftPass (t : BitVec 12) (f : WeftF) (a : WeftAnalog) (s : State) : Host.Outcome State Fault Refusal :=
  weftInstr t 0 f a s
/-- WEFT.PASSA (R258). -/
def execWeftPassa (t : BitVec 12) (f : WeftF) (a : WeftAnalog) (s : State) : Host.Outcome State Fault Refusal :=
  weftInstr t 1 f a s

/-- WEFT.FLIP (R259): request a flip for the TRAINING entry that holds the tile's array. -/
def execWeftFlip (t : BitVec 12) (s : State) : Host.Outcome State Fault Refusal :=
  instr s t encFlip fun _ _ t =>
    { eff := fun s => match s.trainingOf (s.weft (s.physOf t)) with
        | some e => s.modAdapter e fun a => { a with flipReq := true }
        | none => s }

end Sys2Proof.Machine
end

