-- ==== Sys2Proof/Machine/Cvt.lean ====
section
/-! DEFINITION. CVT instructions (R159, R177-R180, R189-R194, R264-R266). -/

namespace Sys2Proof.Machine

/-- Registers and elements of a CVT. -/
def cvtN (f : CvtF) : Nat := f.cnt.toNat + 1

/-- The rounding of element `i` of the word at the tile's pc (R192-R194). -/
def State.srOf (s : State) (p t : Nat) (i : Nat) : Rnd :=
  let sp := s.spin t
  let seed := match (s.part p).prog with
    | some g => g.seed
    | none => 0
  .sr (draw seed (s.stepOf p t) t sp.pc (SMap.get 0 sp.occ sp.pc) i)

/-- Values of the source registers, each under its tag. -/
def Spindle.values (sp : Spindle) (first n : Nat) : List Num :=
  (List.range n).flatMap fun k => (sp.vr (first + k)).all.map (laneNum (sp.vr (first + k)).tag)

/-- Write converted bytes and count clamps and draws (R265). -/
def State.writeCvt (s : State) (t line : Nat) (r : Bytes × Nat) (draws : Nat) : State :=
  let phys := s.physOf t
  let s := s.countO phys 48 (ceilDiv r.1.length 64)
  ((s.countO phys 37 r.2).countO phys 38 draws).writeLines t line r.1

/-- CVT.PACK (R264, R265): quantise the registers into a block-scaled vector. -/
def execCvtPack (t : BitVec 12) (f : CvtF) (s : State) : Host.Outcome State Fault Refusal :=
  instr s t (encCvt 0 f) fun s p t =>
    let sp := s.spin t
    let v := f.vreg.toNat
    let n := cvtN f
    let fmt := f.fmt.toNat
    let line := sp.lop f.lop
    let k := ceilDiv (vectorBytes fmt (128 * n)) 64
    { reads := [(v, n)]
      lines := (line, k)
      fault := firstFault [rangeFault v n, if fmt = 1 ∨ fmt = 2 ∨ fmt = 3 then none else faultFormat 1 fmt 0,
        sp.tagFault2 v n 6 5 1, s.linesFault p line k]
      eff := fun s => s.writeCvt t line
        (packVector fmt (fun i => if f.sr then s.srOf p t i else .rne) (sp.values v n)) (if f.sr then 128 * n else 0) }

/-- CVT.UNPK (R264): widen a vector into FP32 registers, exactly. -/
def execCvtUnpk (t : BitVec 12) (f : CvtF) (s : State) : Host.Outcome State Fault Refusal :=
  instr s t (encCvt 1 f) fun s p t =>
    let v := f.vreg.toNat
    let n := cvtN f
    let fmt := f.fmt.toNat
    let line := (s.spin t).lop f.lop
    let k := ceilDiv (vectorBytes fmt (128 * n)) 64
    { writes := [(v, n)]
      lines := (line, k)
      fault := firstFault [rangeFault v n, if 1 ≤ fmt ∧ fmt ≤ 5 then none else faultFormat 1 fmt 1, s.linesFault p line k]
      eff := fun s =>
        let bs := s.readLines t line k
        let ls := (List.range n).map fun r => (List.range 128).map fun j => toFP32 (vecValue fmt bs (128 * r + j))
        (s.countO (s.physOf t) 47 k).modSpin t fun sp => sp.setVs v 6 ls }

/-- CVT.GRAD (R264): convert to E5M2, always rounding stochastically. -/
def execCvtGrad (t : BitVec 12) (f : CvtF) (s : State) : Host.Outcome State Fault Refusal :=
  instr s t (encCvt 2 f) fun s p t =>
    let sp := s.spin t
    let v := f.vreg.toNat
    let n := cvtN f
    let line := sp.lop f.lop
    { reads := [(v, n)]
      lines := (line, 2 * n)
      fault := firstFault [rangeFault v n, if f.fmt = 4 then none else faultFormat 4 f.fmt.toNat 0,
        sp.tagFault2 v n 6 5 1, s.linesFault p line (2 * n)]
      eff := fun s => s.writeCvt t line (gradVector (s.srOf p t) (sp.values v n)) (128 * n) }

/-- CVT.NARW and CVT.WIDE: in place, from one register tag to the other. -/
def cvtInPlace (t : BitVec 12) (op : Nat) (f : CvtF) (src dst : Nat) (s : State) : Host.Outcome State Fault Refusal :=
  instr s t (encCvt op f) fun s _ t =>
    let sp := s.spin t
    let v := f.vreg.toNat
    let n := cvtN f
    { reads := [(v, n)]
      writes := [(v, n)]
      fault := firstFault [rangeFault v n, sp.tagFault v n src 1]
      eff := fun s => s.modSpin t fun sp => sp.setVs v dst (mapLanes1 sp v n fun a => toLane dst (laneNum src a)) }

/-- CVT.NARW (R264): FP32 to BF16, to nearest, ties to even. -/
def execCvtNarw (t : BitVec 12) (f : CvtF) (s : State) : Host.Outcome State Fault Refusal := cvtInPlace t 3 f 6 5 s
/-- CVT.WIDE (R264): BF16 to FP32, exactly. -/
def execCvtWide (t : BitVec 12) (f : CvtF) (s : State) : Host.Outcome State Fault Refusal := cvtInPlace t 4 f 5 6 s

/-- FP32 quotient of two values, rounded once (R159). -/
def fpDiv (a b : Num) : Word :=
  match a, b with
  | .nan, _ => toFP32 .nan
  | _, .nan => toFP32 .nan
  | .inf _, .inf _ => toFP32 .nan
  | .inf x, .fin y _ _ => toFP32 (.inf (xor x y))
  | .fin x _ _, .inf y => toFP32 (.fin (xor x y) 0 0)
  | .fin x m e, .fin y n g =>
    if n = 0 then (if m = 0 then toFP32 .nan else toFP32 (.inf (xor x y)))
    else if m = 0 then toFP32 (.fin (xor x y) 0 0)
    else
      let k := n.log2 + 80
      toFP32Sticky (xor x y) (m * 2 ^ k / n) (e - g - k) (m * 2 ^ k % n ≠ 0)

/-- The cell of one master value (R159): clamp(SR(M / scale), -8, +7), and whether it clamped; none where the quotient is not a
number, for which the manual states no cell. -/
def qwCell (rnd : Rnd) (master scale : Num) : Option (Int × Bool) :=
  match ofFP32 (fpDiv master scale) with
  | .nan => none
  | .inf n => some (if n then -8 else 7, true)
  | .fin n m e =>
    let i := roundInt rnd n m e
    some (if i < -8 then (-8, true) else if 7 < i then (7, true) else (i, false))

/-- Slot cells that a master copy of rank `r` feeds: (cell key 64 * row + column, master index, output) (R137, R266). Masters of a
DOWN slot stand in 512 rows of ⌈r / 32⌉ lines, of an UP slot in 8r rows of 64 values. -/
def qwMap (r : Nat) (up : Bool) : List (Nat × Nat × Nat) :=
  if up then
    (List.range 8).flatMap fun g => (List.range r).flatMap fun i => (List.range 64).map fun c =>
      (64 * (64 * g + i) + c, 64 * (r * g + i) + c, 64 * g + c)
  else
    (List.range 512).flatMap fun i => (List.range r).map fun c => (64 * i + c, 32 * ceilDiv r 32 * i + c, c)

/-- The quantised cells of a slot, and the clamps. -/
def qwCells (rnd : Nat → Rnd) (bs : Bytes) (scales : SMap (BitVec 16)) (r : Nat) (up : Bool) :
    SMap (BitVec 4) × Nat :=
  (qwMap r up).foldl (fun (a : SMap (BitVec 4) × Nat) x =>
    match qwCell (rnd x.1) (vecValue 5 bs x.2.1) (fBF16.decode (SMap.get 0 scales x.2.2).toNat) with
    | some (i, c) => (SMap.set 0 a.1 x.1 (BitVec.ofInt 4 i), a.2 + if c then 1 else 0)
    | none => (SMap.set 0 a.1 x.1 (Config.nanCell (leNat bs (2 * x.2.1) 2) (SMap.get 0 scales x.2.2).toNat), a.2)) ([], 0)

/-- The SHADOW slot that a CVT.QW of the given rank and orientation writes (R266): its TRAINING entry must match. -/
def State.qwTarget (s : State) (t : Nat) (r : Nat) (up : Bool) : Option Bool :=
  let w := s.weft (s.physOf t)
  match s.trainingOf w with
  | none => none
  | some _ =>
    let sh : Option Bool := if w.slot0.st = .shadow then some false else if w.slot1.st = .shadow then some true else none
    match sh with
    | some k => if (w.slot k).rank = r ∧ (w.slot k).up = up then some k else none
    | none => none

/-- CVT.QW (R266): a quantising write of the SHADOW slot from the BF16 master; it waits for the write port. Without a matching
TRAINING entry it only counts. -/
def execCvtQw (t : BitVec 12) (f : CvtF) (s : State) : Host.Outcome State Fault Refusal :=
  instr s t (encCvt 5 f) fun s p t =>
    let r := f.rank.toNat
    let line := (s.spin t).lop f.lop
    let target := s.qwTarget t r f.up
    let k := if target.isNone then 0 else if f.up then 16 * r else 512 * ceilDiv r 32
    let w := s.weft (s.physOf t)
    { lines := (line, k)
      fault := firstFault [if f.fmt = 5 then none else faultFormat 5 f.fmt.toNat 1, s.linesFault p line (max k 1)]
      holds := if target.isNone then some [] else none
      wait := if target.isSome && (w.slot0.write.isSome || w.slot1.write.isSome) then waits 4 else none
      eff := fun s =>
        let phys := s.physOf t
        match target with
        | none => s.bump Reg.wftFormMissCnt phys
        | some sl =>
          let c := qwCells (s.srOf p t) (s.readLines t line k) (w.slot sl).scales r f.up
          let s := ((s.countO phys 47 k).countO phys 38 (512 * r)).bump Reg.wftClampCnt phys c.2
          s.modWeft phys fun w => { (w.setSlot sl { (w.slot sl) with write := some ⟨c.1, true, false, false⟩ }) with
            master := some line } }

end Sys2Proof.Machine
end

