-- ==== Sys2Proof/Machine/Images.lean ====
section
/-! DEFINITION. Native images and the arrival forms of shards (10_weights.md R375-R386, R391): what an array or a slot holds as
bytes, the shard header, decryption, the four weight forms, and the epoch record row. -/

namespace Sys2Proof.Machine

/-! ## Native images (R378, R383) -/

/-- The two elements of each byte (R167). -/
def nibbles (bs : Bytes) : List Nat := bs.flatMap fun b => [b.toNat % 16, b.toNat / 16]
/-- A dense list as a sparse map: zeros unlisted. -/
def sparse (w : Nat) (l : List Nat) : SMap (BitVec w) :=
  l.zipIdx.filterMap fun e => if e.1 % 2 ^ w = 0 then none else some (e.2, BitVec.ofNat w e.1)
/-- 16-bit little-endian values of a byte string. -/
def words16 (bs : Bytes) : List Nat := (List.range (bs.length / 2)).map fun i => leNat bs (2 * i) 2
/-- Packed cells 0 to n - 1. -/
def cellBytes (m : SMap (BitVec 4)) (n : Nat) : Bytes := packNibbles ((List.range n).map fun i => (SMap.get 0 m i).toNat)
/-- 16-bit values 0 to n - 1. -/
def scaleBytes (m : SMap (BitVec 16)) (n : Nat) : Bytes := (List.range n).flatMap fun i => natLe (SMap.get 0 m i).toNat 2
/-- The native image that a verify read of intact cells forms (R378, R394). -/
def WarpArr.image (a : WarpArr) : Bytes :=
  cellBytes a.cells 262144 ++ scaleBytes a.colScale 512 ++ natLe a.k 1 ++ natLe a.ko 1 ++ List.replicate 62 0
/-- An array with an image written (R108). -/
def WarpArr.load (a : WarpArr) (img : Bytes) : WarpArr :=
  { a with cells := sparse 4 (nibbles (img.take 131072)), colScale := sparse 16 (words16 ((img.drop 131072).take 1024)),
           k := byteAt img 132096 % 8, ko := byteAt img 132097 % 8, writing := none }
/-- ADIG of an image (R391). -/
def adigOf (img : Bytes) : Bytes := (sha512 img).take 16
/-- The cells and scales of a slot image; cells beyond the rank are written 0 (R137, R149). -/
def slotCells (img : Bytes) (rank : Nat) (up : Bool) : SMap (BitVec 4) :=
  (sparse 4 (nibbles (img.take 16384))).filter fun e => if up then decide (e.1 / 64 % 64 < rank) else decide (e.1 % 64 < rank)
def slotScales (img : Bytes) : SMap (BitVec 16) := sparse 16 (words16 ((img.drop 16384).take 1024))

/-! ## The epoch record row (R391) -/

/-- A record row. -/
def epochRecord (model epoch layer shard ord : Nat) (adig : Bytes) (stamp : DWord) : Bytes :=
  let b := natLe model 4 ++ natLe epoch 2 ++ natLe layer 2 ++ natLe shard 2 ++ natLe ord 2 ++ natLe 0 4 ++ padTo 16 adig ++
    natLe stamp.toNat 8 ++ List.replicate 20 0
  b ++ natLe (crc32c b) 4
/-- A record row is valid when its CRC matches. -/
def recordValid (r : Bytes) : Bool := r.length == 64 && crc32c (r.take 60) == leNat r 60 4
/-- The valid record of an array. -/
def WarpArr.valid (a : WarpArr) : Option Bytes := a.record.filter recordValid
/-- ADIG of the valid record. -/
def WarpArr.adig (a : WarpArr) : Bytes := match a.valid with
  | some r => (r.drop 16).take 16
  | none => []

/-! ## Shards (R375-R377) -/

/-- A shard's header fields. -/
structure Shard where
  form : Nat
  enc : Bool
  model : Nat
  epoch : Nat
  layer : Nat
  shard : Nat
  count : Nat
  targets : Nat
  rows : Nat
  cols : Nat
  k : Nat
  ko : Nat
  scope : Nat
  div : Nat

def shardOf (b : Bytes) : Shard :=
  ⟨byteAt b 6, byteAt b 7 % 2 == 1, leNat b 8 4, leNat b 12 2, leNat b 14 2, leNat b 16 2, leNat b 18 2, leNat b 20 2, leNat b 32 4,
    leNat b 36 4, byteAt b 40, byteAt b 41, byteAt b 42, byteAt b 43⟩
/-- MAGIC, VERSION, reserved and length fields (R387). -/
def shardHeadOk (b : Bytes) : Bool :=
  let h := shardOf b
  b.take 4 == [0x53#8, 0x48#8, 0x52#8, 0x44#8] && leNat b 4 2 == 0x0100 && decide (1 ≤ h.form ∧ h.form ≤ 5) && byteAt b 7 / 2 == 0 &&
    leNat b 22 2 == 0 && leNat b 28 4 == 0 && leNat b 44 148 == 0 && decide (1 ≤ h.count ∧ h.count ≤ 4096 ∧ h.shard < h.count) &&
    decide (1 ≤ h.targets ∧ h.targets ≤ 512) && decide (4 * h.targets ≤ leNat b 24 4) && decide (b.length ≤ 67108864) &&
    b.length == 256 + (if h.enc then 128 else 0) + leNat b 24 4 && (h.form != 5 || h.model == 0)

/-- The body in plaintext (R384, R385); none when a tag check fails. `pub` is the transport public key. -/
def shardBody (b pub : Bytes) (device : Nat) : Option Bytes :=
  let h := shardOf b
  if h.enc then
    let e := b.drop 256
    let epk := e.take 32
    let info : Bytes := [0x4C, 0x4D, 0x58, 0x31, 0x2D, 0x53, 0x48, 0x41, 0x52, 0x44] ++ natLe device 2
    let kek := Config.hkdf (Config.x25519 epk) (epk ++ pub) info 32
    let nonce := natLe h.model 4 ++ natLe h.epoch 2 ++ natLe h.layer 2 ++ natLe h.shard 2 ++ [0, 0]
    match Config.aesGcmOpen kek nonce (b.take 192) ((e.drop 32).take 48) with
    | none => none
    | some key => Config.aesGcmOpen key ((e.drop 80).take 12) (b.take 192) (b.drop 384 ++ (e.drop 92).take 16)
  else some (b.drop 256)
/-- DIGEST over header and plaintext body (R376). -/
def shardDigestOk (b body : Bytes) : Bool := sha512 (b.take 192 ++ body) == (b.drop 192).take 64
/-- Entry `i` of the target table. -/
def shardTarget (body : Bytes) (i : Nat) : Nat := leNat body (4 * i) 4

/-! ## Forms (R379-R383) -/

/-- Assemble a native image from 512 × 512 weight codes, scales and range codes. -/
def assemble (ws scales : List Nat) (k ko : Nat) : Bytes :=
  packNibbles ws ++ scales.flatMap (fun v => natLe v 2) ++ natLe k 1 ++ natLe ko 1 ++ List.replicate 62 0
/-- The range codes and reserved bytes of a native image. -/
def imageOk (img : Bytes) : Bool :=
  img.length == 132160 && decide (byteAt img 132096 ≤ 6 ∧ byteAt img 132097 ≤ 6) && leNat img 132098 62 == 0

/-- Cut a matrix of weight codes into images (R380). `w i j` is the code, `sc b j` the scale of column `j` in row block `b`. -/
def cutMatrix (h : Shard) (w : Nat → Nat → Nat) (sc : Nat → Nat → Nat) : Option (List Bytes) :=
  let rb := (h.rows + 511) / 512
  let cb := (h.cols + 511) / 512
  if h.rows = 0 ∨ h.cols = 0 ∨ h.cols % 2 = 1 ∨ h.targets ≠ rb * cb ∨ 6 < h.k ∨ 6 < h.ko then none
  else some ((List.range h.targets).map fun t =>
    let r := t % rb
    let c := t / rb
    let code (n : Nat) : Nat :=
      let i := 512 * r + n / 512
      let j := 512 * c + n % 512
      if i < h.rows ∧ j < h.cols then w i j else 0
    assemble ((List.range 262144).map code)
      ((List.range 512).map fun j => if 512 * c + j < h.cols then sc r (512 * c + j) else 0) h.k h.ko)

/-- ROWMAJOR (R379). -/
def rowMajor (h : Shard) (pl : Bytes) : Option (List Bytes) :=
  if pl.length ≠ 2 * h.cols + (h.rows * h.cols + 1) / 2 then none
  else
    let nib (n : Nat) : Nat := let b := byteAt pl (2 * h.cols + n / 2); if n % 2 = 0 then b % 16 else b / 16
    cutMatrix h (fun i j => nib (h.cols * i + j)) fun _ j => leNat pl (2 * j) 2

/-- The column scale of a group of BF16 values (R381): amax / D in FP32, then rounded to BF16. -/
def groupScale (d : Nat) (vs : List Num) : Nat :=
  let m := vs.foldl (fun (a : Num) v => a.max (if v.sign then v.neg else v)) (.fin false 0 0)
  fBF16.encode (ofFP32 (fpDiv m (.fin false d 0)))
/-- A weight code of R381. -/
def quantWeight (v scale : Num) : Nat :=
  match scale with
  | .fin _ 0 _ => 0
  | _ => match qwCell .rne v scale with
    | some (i, _) => (i % 16).toNat
    | none => 0
/-- BF16 (R381). -/
def bf16Shard (h : Shard) (pl : Bytes) : Option (List Bytes) :=
  if pl.length ≠ 2 * (h.rows * h.cols) ∨ 1 < h.scope ∨ 1 < h.div then none
  else
    let v (i j : Nat) : Num := fBF16.decode (leNat pl (2 * (h.cols * i + j)) 2)
    if (List.range (h.rows * h.cols)).any fun n => (fBF16.decode (leNat pl (2 * n) 2)).special then none
    else
      let d := if h.div = 0 then 7 else 8
      let rows (b : Nat) : List Nat := if h.scope = 0 then List.range h.rows
        else ((List.range 512).map (512 * b + ·)).filter fun i => decide (i < h.rows)
      let sc (b j : Nat) : Nat := groupScale d ((rows b).map fun i => v i j)
      cutMatrix h (fun i j => quantWeight (v i j) (fBF16.decode (sc (i / 512) j))) sc

/-- A number from bits, most significant first. -/
def msbNat (bs : List Bool) : Nat := bs.foldl (fun a b => 2 * a + if b then 1 else 0) 0
/-- One codeword of R382: its weight codes and the bits left; none for a reserved codeword or an early end. -/
def codeword : List Bool → Option (List Nat × List Bool)
  | false :: false :: l => some ([0], l)
  | false :: true :: false :: l => some ([1], l)
  | false :: true :: true :: l => some ([15], l)
  | true :: false :: false :: false :: l => some ([2], l)
  | true :: false :: false :: true :: l => some ([14], l)
  | true :: false :: true :: false :: l =>
    if l.length < 4 then none else some (List.replicate (msbNat (l.take 4) + 2) 0, l.drop 4)
  | true :: false :: true :: true :: b :: l => some ([if b then 13 else 3], l)
  | true :: true :: false :: false :: false :: l => some ([4], l)
  | true :: true :: false :: false :: true :: l => some ([12], l)
  | true :: true :: false :: true :: false :: l =>
    if l.length < 8 then none else some (List.replicate (msbNat (l.take 8) + 18) 0, l.drop 8)
  | true :: true :: false :: true :: true :: b :: l => some ([if b then 11 else 5], l)
  | true :: true :: true :: false :: false :: b :: l => some ([if b then 10 else 6], l)
  | true :: true :: true :: false :: true :: b :: l => some ([if b then 9 else 7], l)
  | true :: true :: true :: true :: false :: false :: l => some ([8], l)
  | _ => none
/-- Decode `need` weights, by fuel (R383): the weights and the bits left. -/
def unpackStream : Nat → Nat → List Bool → Option (List Nat × List Bool)
  | _, 0, l => some ([], l)
  | 0, _, _ => none
  | fuel + 1, need, l =>
    match codeword l with
    | none => none
    | some (ws, l) =>
      if need < ws.length then none
      else (unpackStream fuel (need - ws.length) l).map fun r => (ws ++ r.1, r.2)
/-- The bits of a byte string, bit 0 of byte 0 first. -/
def streamBits (bs : Bytes) : List Bool := bs.flatMap fun b => (List.range 8).map b.getLsbD
/-- PACKED (R379, R382, R383), by targets left. -/
def packedShard : Nat → Bytes → Option (List Bytes)
  | 0, pl => if pl.isEmpty then some [] else none
  | n + 1, pl =>
    let len := leNat pl 1026 4
    if pl.length < 1030 + len then none
    else match unpackStream 262144 262144 (streamBits ((pl.drop 1030).take len)) with
      | none => none
      | some (ws, rest) =>
        if 8 ≤ rest.length ∨ rest.any id then none
        else
          let img := assemble ws (words16 ((pl.drop 2).take 1024)) (byteAt pl 0) (byteAt pl 1)
          if imageOk img then (packedShard n (pl.drop (1030 + len))).map (img :: ·) else none

/-- The native images of a shard's targets, or none where the payload breaks its form (R379, R383). -/
def shardImages (h : Shard) (body : Bytes) : Option (List Bytes) :=
  let pl := body.drop (4 * h.targets)
  match h.form with
  | 1 =>
    let l := (List.range h.targets).map fun i => (pl.drop (132160 * i)).take 132160
    if pl.length = 132160 * h.targets ∧ l.all imageOk then some l else none
  | 2 => rowMajor h pl
  | 3 => bf16Shard h pl
  | 4 => packedShard h.targets pl
  | _ =>
    if pl.length = 17408 * h.targets then some ((List.range h.targets).map fun i => (pl.drop (17408 * i)).take 17408) else none

end Sys2Proof.Machine
end

