-- ==== Sys2Proof/Machine/AdapterOps.lean ====
section
/-! DEFINITION. Weight-job results, models and adapter entries as shared operations (04_weft_arrays.md R154-R165, 10_weights.md R371,
R411-R417). -/

namespace Sys2Proof.Machine

/-! ## Jobs and models -/

def State.job (s : State) (j : Nat) : Job := SMap.get Job.init s.wgt.jobs j
def State.modJob (s : State) (j : Nat) (f : Job → Job) : State :=
  { s with wgt := { s.wgt with jobs := SMap.set Job.init s.wgt.jobs j (f (s.job j)) } }
def State.model (s : State) (m : Nat) : ModelSt := SMap.get ModelSt.init s.wgt.models m
def State.modModel (s : State) (m : Nat) (f : ModelSt → ModelSt) : State :=
  { s with wgt := { s.wgt with models := SMap.set ModelSt.init s.wgt.models m (f (s.model m)) } }
/-- The table entry of a MODEL value. -/
def State.modelEntry (s : State) (id : Nat) : Option Nat :=
  if id = 0 then none else (s.wgt.models.find? fun e => e.2.id == id).map Prod.fst
/-- The table entry of the model that a partition's image names. -/
def State.modelOfPart (s : State) (p : Nat) : Option Nat := (s.part p).prog.bind fun g => s.modelEntry g.model
/-- STATE of a job slot (R415): 0 IDLE, 1 FETCH, 2 WAIT_BARRIER, 3 WRITING, 4 ENDED. -/
def State.jobState (s : State) (j : Nat) : Nat := s.fld Reg.wgtJobStat j 2 0
/-- A job of the slot runs. -/
def State.jobRuns (s : State) (j : Nat) : Bool := s.jobState j != 0 && s.jobState j != 4

/-- End a job (R415, R417): RESULT 1 is DONE. -/
def State.endJob (s : State) (j result index : Nat) : State :=
  let x := s.job j
  let s := ((s.setFld Reg.wgtJobStat j 2 0 4).setFld Reg.wgtJobStat j 11 8 result).setFld Reg.wgtJobStat j 27 16 index
  let s := s.modJob j fun _ => Job.init
  if result = 1 then s.raise 0x6001 (le1 j ++ le1 x.op ++ le4 x.model)
  else (s.setBit Reg.wgtStatus 0 0).raise 0x6002 (le1 j ++ le1 x.op ++ le4 x.model ++ le1 result ++ le2 index)

/-- A model enters NOT_READY with a REASON, or takes another REASON in it (R371, R417). -/
def State.notReady (s : State) (m reason : Nat) : State :=
  let was := (s.model m).st
  let s := s.modModel m fun x => { x with st := 1, reason := reason }
  if was = 1 then s else s.raise 0x6008 (le4 (s.model m).id ++ le1 reason)

/-! ## Adapter entries -/

/-- Detail items of an adapter event (R165). -/
def State.entryItems (s : State) (e : Nat) : Bytes := le2 e ++ le2 (s.adapter e).handle ++ le1 (s.adapter e).gen
/-- Record a result in WFT_ADPT_RESULT. -/
def State.adptResult (s : State) (e r : Nat) : State := s.setReg Reg.wftAdptResult 0 (r + e * 2 ^ 8)
/-- The adapter entries of the table, by number. -/
def State.entries (s : State) (f : Adapter → Bool) : List Nat := (s.adapters.filter fun e => f e.2).map Prod.fst

/-- Change the slots of an entry's footprint. -/
def State.modFoot (s : State) (e : Nat) (f : Bool → WeftSlot → WeftSlot) : State :=
  (s.adapter e).foot.foldl (fun s t => s.modWeft (s.physOf t.tile) fun w =>
    let g (k : Bool) (x : WeftSlot) : WeftSlot := if x.entry = some e then f k x else x
    { w with slot0 := g false w.slot0, slot1 := g true w.slot1 }) s

/-- The entry returns to EMPTY and its slots to FREE; ADAPTER_FREED (R155). -/
def State.freeEntry (s : State) (e : Nat) : State :=
  let p := (s.adapter e).part
  let items := s.entryItems e
  let s := s.modFoot e fun _ _ => WeftSlot.init
  (s.modAdapter e fun _ => Adapter.init).raiseIn p 0x4004 4 items

/-- A RETIRING or FAILED entry without references is freed (R155). -/
def State.freeUnused (s : State) (e : Nat) : State :=
  let a := s.adapter e
  if a.refs = 0 ∧ (a.st = 3 ∨ a.st = 5) then s.freeEntry e else s
/-- Free what a partition's steps have left unused. -/
def State.freeEntries (s : State) (p : Nat) : State :=
  (s.entries fun a => a.part == p && a.refs == 0 && (a.st == 3 || a.st == 5)).foldl State.freeUnused s
/-- A session's reference goes (R156). Entry states change at step boundaries only (R157): within a step of the entry's partition the entry
is freed at its boundary; between steps, at once (log entry 124). -/
def State.dropRef (s : State) (e : Nat) : State :=
  let s := s.modAdapter e fun a => { a with refs := a.refs - 1 }
  if (s.part (s.adapter e).part).inStep then s else s.freeUnused e

/-- The slot images of an entry's footprint are kept as its stored image (R412): those that its slots hold in force. -/
def State.keepImages (s : State) (e : Nat) : State :=
  let take (f : FootTile) : FootTile :=
    let w := s.weft (s.physOf f.tile)
    match w.residentOf e with
    | some k => if (w.slot k).st = .resident then { f with slot := k, cells := (w.slot k).cells, scales := (w.slot k).scales } else f
    | none => f
  s.modAdapter e fun a => { a with foot := a.foot.map take }

/-- UNLOAD (1) or FREEZE (2) of an entry at its partition's step boundary (R155, R163). -/
def State.applyAdptCmd (s : State) (e op : Nat) : State :=
  let a := s.adapter e
  let s := s.modAdapter e fun a => { a with due := 0 }
  if op = 1 ∧ (a.st = 2 ∨ a.st = 4) then
    let s := if a.st = 4 then s.keepImages e else s
    (if a.refs = 0 then s.freeEntry e else s.modAdapter e fun a => { a with st := 3 }).adptResult e 1
  else if op = 2 ∧ a.st = 4 then
    (((s.keepImages e).modFoot e fun _ x => if x.st = .shadow then WeftSlot.init else x).modAdapter e fun a =>
      { a with st := 2 }).adptResult e 1
  else s.adptResult e 7

/-- A loaded and verified entry becomes LIVE or TRAINING (R155); the LIVE entry of its handle retires, or is freed. The job that
loaded it ends DONE. -/
def State.goLive (s : State) (e : Nat) : State :=
  let a := s.adapter e
  let old := s.entries fun x => x.st == 2 && x.handle == a.handle && x.part == a.part
  let s := s.modFoot e fun k x =>
    if a.train = true ∧ k = true then { x with st := .shadow, blocked := x.blocked || x.st == .restore }
    else if x.st = .restore then x else { x with st := .resident }
  let s := s.modAdapter e fun a => { a with st := if a.train then 4 else 2, ready := false }
  let s := s.raiseIn a.part 0x4001 4 (s.entryItems e)
  let s := old.foldl (fun s o => if (s.adapter o).refs = 0 then s.freeEntry o else s.modAdapter o fun x => { x with st := 3 }) s
  let s := s.adptResult e 1
  match s.wgt.jobs.find? fun j => j.2.entry == some e with
  | some (j, _) => s.endJob j 1 0
  | none => s

/-- A slot of the footprint blocks the flip (R152, R312). -/
def State.flipBlocked (s : State) (e : Nat) : Bool :=
  (s.adapter e).foot.any fun t =>
    let w := s.weft (s.physOf t.tile)
    [w.slot0, w.slot1].any fun x => x.entry == some e && x.blocked

/-- The requested flip of a TRAINING entry (R160): the slots exchange roles on every array at once, and the generation increments. A slot
whose restore is under way becomes the SHADOW slot, where its error only blocks the next flip (R152; log entry 125). -/
def State.flip (s : State) (e : Nat) : State :=
  if s.flipBlocked e then s
  else
    let s := s.modFoot e fun _ x => match x.st with
      | .resident => { x with st := .shadow }
      | .shadow => { x with st := .resident }
      | .restore => { x with st := .shadow, blocked := true }
      | _ => x
    s.modAdapter e fun a => { a with flipReq := false, gen := (a.gen + 1) % 256, flips := (a.flips + 1) % 2 ^ 32 }

/-- The adapter changes of a partition's step boundary (R157, R160, R163). -/
def State.boundaryAdapters (s : State) (p : Nat) : State :=
  let s := (s.entries fun a => a.part == p && a.st == 4 && a.flipReq).foldl State.flip s
  let s := (s.entries fun a => a.part == p && a.due != 0).foldl (fun s e => s.applyAdptCmd e (s.adapter e).due) s
  ((s.entries fun a => a.part == p && a.st == 1 && a.ready).foldl State.goLive s).freeEntries p

/-- A quantising write with a flip requested holds the boundary (R151). -/
def State.flipWaits (s : State) (p : Nat) : Bool :=
  (s.entries fun a => a.part == p && a.st == 4 && a.flipReq).any fun e =>
    (s.adapter e).foot.any fun t =>
      let w := s.weft (s.physOf t.tile)
      [w.slot0, w.slot1].any fun x => x.entry == some e && (match x.write with
        | some q => q.quant
        | none => false)

end Sys2Proof.Machine
end

