-- ==== Sys2Proof/Machine/ServeOps.lean ====
section
/-! DEFINITION. The serving engine's shared operations (09_serving_engine.md): sessions and their ends, notices, frames and the frame
ring, pages, the Braid index, composing a batch. -/

namespace Sys2Proof.Machine

/-! ## Sessions -/

/-- Change one session. -/
def State.modSession (s : State) (id : Word) (f : Session → Session) : State :=
  { s with serve := { s.serve with sessions := listUpdate (fun x => x.id == id) f s.serve.sessions } }
/-- The sessions of a partition, in table order. -/
def State.sessionsOf (s : State) (p : Nat) : List Session := s.serve.sessions.filter fun x => x.part == p
/-- While no step of the partition is in flight, or published, any moment is an engine tick. -/
def State.tickable (s : State) (p : Nat) : Bool :=
  let q := s.part p
  !q.inStep && !q.published && q.stop == .run
/-- Intake shift, BATCH_MAX, PROV_MAX, FEED_ENTRIES and ROLE of a partition (R366). -/
def State.intakeShift (s : State) (p : Nat) : Nat := s.fld Reg.srvPcfg p 23 19
def State.batchMax (s : State) (p : Nat) : Nat := s.fld Reg.srvPcfg p 9 2 + 1
def State.provMax (s : State) (p : Nat) : Nat := s.fld Reg.srvPcfg p 12 10 + 1
def State.feedEntries (s : State) (p : Nat) : Nat := s.fld Reg.srvPcfg p 18 13 + 1
def State.role (s : State) (p : Nat) : Nat := s.fld Reg.srvPcfg p 1 0

/-- Tokens that the input pool holds at most (R327), and that it holds. -/
def State.inputPool (s : State) : Nat := if s.variant = .s0i1 then 65536 else 1048576
def State.inputUse (s : State) : Nat := (s.serve.sessions.map fun x => x.input.length + x.append.length).sum

/-- Admissions are refused with DRAINING (R447, R636). -/
def State.draining (s : State) : Bool := s.integ.drain || s.power.shut != 0

/-! ## Frame queue and notices (R353-R356) -/

/-- Close a message into the partition's frame queue. -/
def State.pushFrame (s : State) (p kind : Nat) (body : Bytes) : State :=
  (s.pushMsg p p kind body).modServPart p fun q => { q with kept := q.kept ++ [(false, lengthWord body.length p kind, body)] }

/-- Bytes of the largest frame that a step of `n` entries can close (R356). -/
def frameBound (n : Nat) : Nat := 40 + 192 * n
/-- Words that an open notice has taken in the frame queue: the slot of its length word, reserved when it opened, its header and its
entries (R353, R354). -/
def State.noticeWords (s : State) (p : Nat) : Nat :=
  let n := (s.servPart p).notice.length
  if n = 0 then 0 else 2 + 2 * n
/-- Words that the step in flight may still close as its frame (R356). -/
def State.stepWords (s : State) (p : Nat) : Nat :=
  if (s.part p).inStep ∨ (s.part p).published then
    let q := s.servPart p
    frameBound (if (s.part p).inStep then q.batch.length else q.next.length) / 8
  else 0
/-- Close the open notice, once the queue has room for it beside the frame of the step in flight (R354). -/
def State.closeNotice (s : State) (p : Nat) : State :=
  let es := (s.servPart p).notice
  let es := es.take 64
  if es.isEmpty ∨ s.hankFree p < 2 + 2 * es.length + s.stepWords p then s
  else
    let body := padTo 8 (natLe es.length 2) ++
      es.flatMap fun e => padTo 16 (natLe e.session.toNat 4 ++ natLe e.rtag.toNat 4 ++ natLe e.op 1 ++ natLe e.status 1)
    (s.modServPart p fun q => { q with notice := q.notice.drop 64 }).pushFrame p 3 body

/-- Add a notice entry; the 64th closes the notice. -/
def State.notice (s : State) (p : Nat) (id rtag : Word) (op status : Nat) : State :=
  let s := s.modServPart p fun q => { q with notice := q.notice ++ [⟨id, rtag, op, status⟩] }
  if 64 ≤ (s.servPart p).notice.length then s.closeNotice p else s

/-! ## The Braid index (R343-R346, R654) -/

def State.pagesOf (s : State) (p : Nat) : Nat := s.slicePages p + s.stackPages p
def State.bucketsOf (s : State) (p : Nat) : Nat := 16 * ceilDiv (s.pagesOf p) 16
/-- Nodes that the area has room for (R654). -/
def State.nodePool (s : State) (p : Nat) : Nat :=
  s.reg Reg.srvBraidLines p - s.pagesOf p - s.bucketsOf p / 16

/-- A line of the Braid area (R343). -/
def State.braidAddr (s : State) (p n : Nat) : CtxAddr :=
  let l := s.reg Reg.srvBraidBase p + n
  if s.variant = .s0i1 then .slice (s.relTile p 0) (64 * ((s.sliceWin p).1 + l))
  else .stack (64 * (s.reg Reg.cfgPartStackBase p + l))
/-- The 16 IDs of a page's token line. -/
def State.tokenLine (s : State) (p pg : Nat) : List Word :=
  let b := s.ctxRead (s.braidAddr p pg) 0 64
  (List.range 16).map fun i => BitVec.ofNat 32 (leNat b (4 * i) 4)
/-- Write a page's token line. -/
def State.setTokenLine (s : State) (p pg : Nat) (ts : List Word) : State :=
  s.ctxWrite (s.braidAddr p pg) 0 (padTo 64 (ts.flatMap fun t => natLe t.toNat 4))

def State.braidNode (s : State) (p n : Nat) : Option BraidNode := ((s.servPart p).nodes.find? fun e => e.1 == n).map Prod.snd

/-- Lay the bucket heads and the node lines out in the Braid area (R343, R654). -/
def State.layBraid (s : State) (p : Nat) : State :=
  let q := s.servPart p
  let h := s.bucketsOf p
  let base := s.pagesOf p
  let none32 := 0xFFFFFFFF
  let inBucket (b : Nat) (e : Nat × BraidNode) : Bool := e.2.digest.toNat % h == b
  let head (b : Nat) : Nat := ((q.nodes.find? (inBucket b)).map Prod.fst).getD none32
  let s := (List.range (h / 16)).foldl (fun s k =>
    s.ctxWrite (s.braidAddr p (base + k)) 0 ((List.range 16).flatMap fun i => natLe (head (16 * k + i)) 4)) s
  q.nodes.foldl (fun s e =>
    let b := e.2.digest.toNat % h
    let next := ((q.nodes.find? fun x => decide (e.1 < x.1) && inBucket b x).map Prod.fst).getD none32
    let links := match q.lru.idxOf? e.1 with
      | some k => (if k = 0 then none32 else q.lru.getD (k - 1) none32, q.lru.getD (k + 1) none32)
      | none => (none32, none32)
    s.ctxWrite (s.braidAddr p (base + h / 16 + e.1)) 0
      (padTo 64 (natLe e.2.digest.toNat 8 ++ natLe e.2.page 4 ++ natLe (e.2.parent.getD none32) 4 ++ natLe next 4 ++
        natLe links.1 4 ++ natLe links.2 4 ++ natLe e.2.refs 2 ++ natLe 0 2 ++ natLe e.2.depth 4))) s

/-- Change the references of a node: one without any joins the tail of the eviction list, one with leaves it (R346). -/
def State.refNode (s : State) (p n : Nat) (up : Bool) : State :=
  s.modServPart p fun q =>
    let nodes := q.nodes.map fun e => if e.1 = n then (e.1, { e.2 with refs := if up then e.2.refs + 1 else e.2.refs - 1 }) else e
    let refs := ((nodes.find? fun e => e.1 == n).map fun e => e.2.refs).getD 1
    { q with nodes := nodes, lru := (q.lru.filter (· != n)) ++ (if refs = 0 then [n] else []) }

/-- Evict the node at the head of the eviction list: its page is free, its parent loses a reference (R346). -/
def State.evict (s : State) (p : Nat) : State :=
  match (s.servPart p).lru with
  | [] => s
  | n :: l =>
    let parent := (s.braidNode p n).bind BraidNode.parent
    let s := (s.modServPart p fun q => { q with lru := l, nodes := q.nodes.filter fun e => e.1 != n }).bump Reg.srvBraidEvictCnt p
    match parent with
    | some m => s.refNode p m false
    | none => s

/-- Two 32-bit words as one digest. -/
def digestOf (o : List Word) : DWord := BitVec.ofNat 64 ((o.getD 0 0).toNat + (o.getD 1 0).toNat * 2 ^ 32)
/-- The root of a chain (R344). -/
def braidRoot (model epoch handle gen part : Nat) : DWord :=
  digestOf (twist (BitVec.ofNat 32 model) (BitVec.ofNat 32 (epoch + handle * 2 ^ 16)) (BitVec.ofNat 32 gen) (BitVec.ofNat 32 part) 0 0)
/-- The digest of a block after another (R344). -/
def blockDigest (prev : DWord) (ts : List Word) : DWord :=
  (List.range 4).foldl (fun (d : DWord) g =>
    digestOf (twist (d.setWidth 32) ((d >>> 32).setWidth 32) (ts.getD (4 * g) 0) (ts.getD (4 * g + 1) 0) (ts.getD (4 * g + 2) 0)
      (ts.getD (4 * g + 3) 0))) prev

/-- A session's root: its model, epoch, adapter and partition. -/
def State.rootOf (s : State) (x : Session) : DWord :=
  match x.adapter with
  | some e => braidRoot x.model.toNat x.epoch (s.adapter e).handle (s.adapter e).gen x.part
  | none => braidRoot x.model.toNat x.epoch 0 0 x.part

/-- A digest that agrees while the tokens differ (R345, R346, R368). -/
def State.collide (s : State) (p : Nat) (id : Word) : State :=
  (s.bump Reg.srvBraidCollideCnt p).raiseIn p 0x5007 4 (le4 id.toNat ++ le1 p)

/-- The node under a parent with a digest. -/
def State.findNode (s : State) (p : Nat) (parent : Option Nat) (d : DWord) : Option (Nat × BraidNode) :=
  (s.servPart p).nodes.find? fun e => e.2.parent == parent && e.2.digest == d

/-- Walk the tree with a prompt, up to `fuel` blocks (R345): the nodes matched, in order. -/
def State.walkBraid (s : State) (p : Nat) (id : Word) (parent : Option Nat) (d : DWord) (ts : List Word) : Nat → List Nat × State
  | 0 => ([], s)
  | fuel + 1 =>
    let b := ts.take 16
    let d' := blockDigest d b
    match s.findNode p parent d' with
    | none => ([], s)
    | some (n, x) =>
      if s.tokenLine p x.page = b then
        let r := (s.refNode p n true).walkBraid p id (some n) d' (ts.drop 16) fuel
        (n :: r.1, r.2)
      else ([], s.collide p id)

/-- Insert one complete block of a session (R346, R654); the session keeps its own page, and references the node. -/
def State.insertBlock (s : State) (id : Word) (k : Nat) : State :=
  match s.session id with
  | none => s
  | some x =>
    let p := x.part
    let skip (s : State) : State := (s.bump Reg.srvBraidSkipCnt p).modSession id fun x => { x with noBraid := true }
    if x.noBraid then skip s
    else
      let blk (j : Nat) : List Word := (x.toks.drop (16 * j)).take 16
      let parent := if k = 0 then none else x.nodes[k - 1]?
      let prev := match parent.bind (s.braidNode p) with
        | some n => n.digest
        | none => s.rootOf x
      let d := blockDigest prev (blk k)
      match s.findNode p parent d with
      | some (n, y) =>
        if s.tokenLine p y.page = blk k then (s.refNode p n true).modSession id fun x => { x with nodes := x.nodes ++ [n] }
        else skip (s.collide p id)
      | none =>
        let s := if (s.servPart p).nodes.length < s.nodePool p then s else s.evict p
        match (List.range (s.nodePool p)).find? fun n => (s.braidNode p n).isNone with
        | none => skip s
        | some n =>
          let node : BraidNode := ⟨d, x.blocks.getD k 0, parent, 1, k⟩
          let s := s.modServPart p fun q => { q with nodes := SMap.insert q.nodes n node }
          let s := match parent with
            | some m => s.refNode p m true
            | none => s
          s.modSession id fun x => { x with nodes := x.nodes ++ [n] }

/-- Insert the blocks of a session that became complete as its committed length rose from `c0`: their token lines, then the nodes. -/
def State.insertFrom (s : State) (id : Word) (c0 : Nat) : State :=
  match s.session id with
  | none => s
  | some x =>
    let ks := (List.range (x.clen / 16)).drop (c0 / 16)
    let s := ks.foldl (fun s k => s.setTokenLine x.part (x.blocks.getD k 0) ((x.toks.drop (16 * k)).take 16)) s
    (ks.foldl (fun s k => s.insertBlock id k) s).layBraid x.part

/-! ## Pages (R341) -/

/-- A page no session and no node holds. -/
def State.pageFree (s : State) (p pg : Nat) : Bool :=
  !((s.sessionsOf p).any fun x => x.blocks.contains pg || x.openPages.any fun e => e.1 == pg) &&
    !((s.servPart p).nodes.any fun e => e.2.page == pg)
/-- Free pages of a range. -/
def State.freePages (s : State) (p lo n : Nat) : List Nat := ((List.range n).map (lo + ·)).filter (s.pageFree p)

/-- Take `n` pages of a free list; which one comes off the list is not fixed: free values. -/
def State.drawPages (s : State) (l : List Nat) : Nat → List Nat × State
  | 0 => ([], s)
  | n + 1 =>
    match l with
    | [] => ([], s)
    | d :: _ =>
      let (k, s) := s.fresh
      let pg := l.getD ((Config.freeWord k).toNat % l.length) d
      let r := s.drawPages (l.filter (· != pg)) n
      (pg :: r.1, r.2)

/-- Evict from the head until a range has `n` free pages or nothing can be evicted. -/
def State.makeFree (s : State) (p lo n need : Nat) : Nat → State
  | 0 => s
  | fuel + 1 =>
    if need ≤ (s.freePages p lo n).length ∨ (s.servPart p).lru.isEmpty then s else (s.evict p).makeFree p lo n need fuel

/-- Reserve a session's pages: its blocks beyond the shared ones in its tier, and two slice-tier pages for a stack-tier session. False
when pages are short. -/
def State.reserve (s : State) (x : Session) : Bool × State :=
  let p := x.part
  let need := ceilDiv x.ctxMax 16 - x.blocks.length
  let sl := s.slicePages p
  let (lo, n) := if x.slice then (0, sl) else (sl, s.stackPages p)
  let fuel := (s.servPart p).nodes.length
  let s := s.makeFree p lo n need fuel
  let s := if x.slice then s else s.makeFree p 0 sl 2 fuel
  if (s.freePages p lo n).length < need ∨ (x.slice = false ∧ (s.freePages p 0 sl).length < 2) then (false, s)
  else
    let (pgs, s) := s.drawPages (s.freePages p lo n) need
    let (op, s) := if x.slice then ([], s) else s.drawPages (s.freePages p 0 sl) 2
    (true, s.modSession x.id fun x =>
      { x with blocks := x.blocks ++ pgs, openPages := op.map fun g => (g, none), reserved := true })

/-! ## Ending a session (R323) -/

/-- Release what a session holds and take it out of the table. -/
def State.dropSession (s : State) (x : Session) : State :=
  let s := match x.adapter with
    | some e => s.dropRef e
    | none => s
  let s := x.nodes.reverse.foldl (fun s n => s.refNode x.part n false) s
  let s := { s with serve := { s.serve with
    sessions := s.serve.sessions.filter fun y => y.id != x.id
    xfers := s.serve.xfers.filter fun y => y.session != x.id } }
  (s.modServPart x.part fun q => { q with copies := q.copies.filter fun c => c.1 != x.id }).layBraid x.part

/-- What ending with a status raises (R365, R368). -/
def State.endEvent (s : State) (p : Nat) (id : Word) (status : Nat) : State :=
  let d := le4 id.toNat ++ le1 p
  match status with
  | 9 => (s.setBit Reg.srvStatus 0 2).raiseIn p 0x5003 4 d
  | 10 => s.raiseIn p 0x5005 4 d
  | 26 => s.raiseIn p 0x5004 4 d
  | _ => s

/-- End a session with a status reported in a notice, `op` being the request that ended it, or 0 (R354). -/
def State.endSession (s : State) (id : Word) (op status : Nat) : State :=
  match s.session id with
  | none => s
  | some x => ((s.dropSession x).notice x.part id x.rtag op status).endEvent x.part id status

/-- End a session at its next engine tick: now, while no step is in flight. -/
def State.endAtTick (s : State) (id : Word) (op status : Nat) : State :=
  match s.session id with
  | none => s
  | some x =>
    if s.tickable x.part then s.endSession id op status
    else s.modSession id fun y => { y with ending := some (y.ending.getD (op, status)) }

/-! ## Composing the batch (R330, R331, R366) -/

/-- Largest CTX_MAX: on LMX1-S0I1 no more than the slice tier holds (R4, R340). -/
def State.ctxLimit (s : State) (p : Nat) : Nat :=
  let n := s.fld Reg.srvCtxLimit p 23 0
  if s.variant = .s0i1 then min n (16 * s.slicePages p) else n
/-- The partition's fields break no rule of the chapter (R366). -/
def State.cfgSound (s : State) (p : Nat) : Bool :=
  let sl := s.slicePages p
  let b := blockLines (s.ctxDim p)
  let stores := s.ctxLayers p * s.ctxHeads p
  let (_, lines) := s.sliceWin p
  let perTile := (List.range (min stores 256)).map fun i =>
    ((List.range (min stores 256)).filter fun k => s.ctxHome p k == s.ctxHome p i).length
  let q := perTile.foldl max 0
  let area := s.reg Reg.srvBraidBase p + s.reg Reg.srvBraidLines p
  let stack := s.reg Reg.cfgPartStackLines p
  (sl == 0 || decide (stores ≤ 256)) &&
    (sl == 0 || decide (s.fld Reg.srvCtxSlice p 11 0 + q * sl * b ≤ lines)) &&
    (s.stackPages p == 0 || decide (s.reg Reg.srvCtxStackBase p + s.stackPages p * stores * b ≤ stack)) &&
    decide (area ≤ if s.variant = .s0i1 then lines else stack) && decide (0 < s.nodePool p) &&
    decide (s.fld Reg.srvSliceCtx p 23 0 ≤ s.ctxLimit p) &&
    s.inWindow p (s.fld Reg.srvRingCfg p 11 8) (s.reg64 Reg.srvRingAddrLo p) (2 ^ s.fld Reg.srvRingCfg p 4 0)

/-- The partition's model serves: READY (2), and no barrier on it. -/
def State.modelReady (s : State) (p : Nat) : Bool :=
  match s.modelOfPart p with
  | some m => (s.model m).st == 2
  | none => false

/-- The state of composing: entries so far, and the last session served. -/
structure Comp where
  es : List BatchE
  rr : Nat

/-- GEN sessions, round-robin in order of admission from after the last one served, whatever became of it (R330; log entry 111). -/
def State.genOrder (s : State) (p : Nat) : List Session :=
  let l := ((s.sessionsOf p).filter fun x => x.st == .gen && x.ending.isNone).mergeSort fun a b => decide (a.order ≤ b.order)
  let after (x : Session) : Bool := decide ((s.servPart p).rr ≤ x.order)
  l.filter after ++ l.filter fun x => !after x

/-- Chunk entries of a FEED session. -/
def feedChunks (x : Session) (pm e : Nat) : Nat → Nat → List Word → List BatchE → List BatchE
  | 0, _, _, acc => acc
  | k + 1, c, ts, acc =>
    if e ≤ acc.length ∨ ts.isEmpty ∨ x.ctxMax ≤ c then acc
    else
      let n := min ts.length (min pm (x.ctxMax - c))
      feedChunks x pm e k (c + n) (ts.drop n) (acc ++ [⟨x.id, c, n, true, x.adapter, ts.take n⟩])

/-- The next step's entries (R330). -/
def State.compose (s : State) (p : Nat) : Comp :=
  let e := s.batchMax p
  let pm := s.provMax p
  let gen := (s.genOrder p).foldl (fun (c : Comp) x =>
    if e ≤ c.es.length then c
    else
      let dr := match x.drafts with
        | some (_, ts) => ts
        | none => []
      let n := min (1 + dr.length) (min pm (x.ctxMax - x.clen))
      ⟨c.es ++ [⟨x.id, x.clen, n, false, x.adapter, (x.next :: dr).take n⟩], x.order + 1⟩) ⟨[], (s.servPart p).rr⟩
  let feed := (s.sessionsOf p).filter fun x => x.st == .feed && x.ending.isNone
  let feed := feed.mergeSort fun a b => decide (a.order ≤ b.order)
  ⟨feed.foldl (fun es x => feedChunks x pm e (s.feedEntries p) x.clen x.input es) gen.es, gen.rr⟩

/-- The partition could start a step now, but for the frame queue. -/
def State.mayStart (s : State) (p : Nat) : Bool :=
  s.tickable p && (s.part p).prog.isSome && s.modelReady p && s.cfgSound p && (s.part p).rerun.isNone
/-- The frame queue has room for a step of `n` entries (R356). -/
def State.queueRoom (s : State) (p n : Nat) : Bool :=
  decide (frameBound n + 8 * s.noticeWords p ≤ 8 * s.hankFree p) && !(s.hank p).overrun

/-- Publish the next step's batch table (R331); a step that the frame queue holds back sets RING_FULL (R356, R365). -/
def State.publish (s : State) (p : Nat) : State :=
  let c := s.compose p
  if s.mayStart p = true ∧ c.es ≠ [] ∧ s.queueRoom p c.es.length = false then s.setBit Reg.srvStatus 0 3
  else if s.mayStart p = true ∧ c.es ≠ [] ∧ s.queueRoom p c.es.length = true then
    let drafts := (c.es.map fun e => if e.feed then 0 else e.prov - 1).sum
    let s := s.modServPart p fun q => { q with next := c.es, rr := c.rr, fullRaised := false }
    let s := c.es.foldl (fun s e => if e.feed then s else s.modSession e.session fun x => { x with drafts := none }) s
    (s.bump Reg.srvDraftCnt p drafts).modPart p fun q => { q with published := true }
  else s

/-! ## Commit (R333, R334) -/

/-- What a session's section of the frame reports (R354). -/
structure Sect where
  id : Word
  rtag : Word
  status : Nat
  toks : List Word
  data : List Bytes
  final : Bool
  verified : Bool
  clen : Nat
  handle : Nat
  gen : Nat
  accept : Nat

/-- The bytes of a section. -/
def Sect.bytes (x : Sect) : Bytes :=
  padTo 32 (natLe x.id.toNat 4 ++ natLe x.status 1 ++ natLe x.toks.length 1 ++ natLe x.data.length 1 ++
    natLe ((if x.final then 1 else 0) + if x.verified then 2 else 0) 1 ++ natLe x.clen 4 ++ natLe x.handle 2 ++ natLe x.gen 1 ++
    natLe x.accept 1 ++ natLe x.rtag.toNat 4) ++
    padTo (8 * ((x.toks.length + 1) / 2)) (x.toks.flatMap fun t => natLe t.toNat 4) ++ (x.data.map (padTo 64)).flatten

/-- Where emitted tokens are cut (R333): the first stop token, MAX_NEW, or END at the last; with the status, 2 STOP or 3 LENGTH. -/
def cutAt (x : Session) (endFlag : Bool) (out : List Word) : Option (Nat × Nat) :=
  let n := out.length
  ((List.range n).findSome? fun k =>
    if x.stop.contains (out.getD k 0) && out.getD k 0 != 0xFFFFFFFF#32 then some (k, 2)
    else if endFlag && k + 1 == n then some (k, 2)
    else if x.maxNew ≠ 0 ∧ x.maxNew ≤ x.emitted + k + 1 then some (k, 3)
    else none)

/-- A session after an entry: the session, the tokens emitted, the status if it stops, the accepted drafts. -/
structure Commit where
  x : Session
  out : List Word
  status : Option Nat
  accept : Nat
  bad : Bool

/-- Commit a valid entry with its TOKEN record (R333). -/
def commitEntry (e : BatchE) (rec_ : Bytes) (x : Session) : Commit :=
  let out (j : Nat) : Word := BitVec.ofNat 32 (leNat rec_ (4 + 4 * j) 4)
  let endFlag := byteAt rec_ 1 % 2 == 1
  if e.feed then
    let x := { x with clen := x.clen + e.prov, toks := x.toks ++ e.toks, input := x.input.drop e.prov }
    if x.input.isEmpty then
      let t := out (e.prov - 1)
      let cut := cutAt x endFlag [t]
      ⟨{ x with next := t, emitted := x.emitted + 1, st := .gen }, [t], cut.map Prod.snd, 0, false⟩
    else ⟨x, [], none, 0, false⟩
  else
    let a := byteAt rec_ 0
    if e.prov ≤ a ∨ (List.range a).any (fun j => out j != e.toks.getD (j + 1) 0) then ⟨x, [], none, 0, true⟩
    else
      let all := (List.range (a + 1)).map out
      let cut := cutAt x endFlag all
      let n := match cut with
        | some (k, _) => k + 1
        | none => a + 1
      ⟨{ x with clen := x.clen + n, toks := x.toks ++ e.toks.take n, next := out (n - 1), emitted := x.emitted + n }, all.take n,
        cut.map Prod.snd, a, false⟩

end Sys2Proof.Machine
end

