-- ==== Sys2Proof/Machine/Serving.lean ====
section
/-! DEFINITION. The rows of the serving engine (09_serving_engine.md): requests, engine ticks, step boundaries and milestones,
frames, context transfers. -/

namespace Sys2Proof.Machine

/-! ## Requests (R324-R328) -/

/-- Fields of a request (R325). -/
def reqOp (m : Bytes) : Nat := byteAt m 0
def reqPart (m : Bytes) : Nat := byteAt m 1
def reqFlags (m : Bytes) : Nat := leNat m 2 2
def reqSession (m : Bytes) : Word := BitVec.ofNat 32 (leNat m 4 4)
def reqRtag (m : Bytes) : Word := BitVec.ofNat 32 (leNat m 8 4)
def reqNtok (m : Bytes) : Nat := leNat m 48 2
def reqToks (m : Bytes) : List Word := (List.range (reqNtok m)).map fun i => BitVec.ofNat 32 (leNat m (64 + 4 * i) 4)
def reqCtxMax (m : Bytes) : Nat := leNat m 28 4
/-- A flag of a request. -/
def reqFlag (m : Bytes) (k : Nat) : Bool := (reqFlags m).testBit k

/-- R324 or R325 is broken (check 1), but for what an OPEN alone must meet. -/
def State.badRequest (s : State) (m : Bytes) : Bool :=
  let p := reqPart m
  let zero (i n : Nat) : Bool := leNat m i n == 0
  decide (m.length < 64 ∨ m.length ≠ 64 + 4 * reqNtok m ∨ 1008 < reqNtok m ∨ 15 < p ∨ reqOp m = 0 ∨ 5 < reqOp m ∨
      128 ≤ reqFlags m) ||
    !(zero 21 3 && zero 50 2 && zero 59 5) ||
    (reqToks m).any (fun t => decide (2 ^ (32 - s.intakeShift p) ≤ t.toNat)) ||
    (reqOp m == 3 && decide (s.provMax p - 1 < reqNtok m)) ||
    ((reqOp m == 4 || reqOp m == 5) && reqNtok m != 0) ||
    (reqOp m == 5 && leNat m 24 4 % 8 != 0) ||
    (reqOp m == 1 && (decide (reqCtxMax m = 0 ∨ reqCtxMax m < reqNtok m) || (reqFlag m 3 && reqFlag m 4) ||
      (reqFlag m 4 && s.role p == 2) || (reqFlag m 3 && s.role p == 1) || (reqNtok m == 0 && !reqFlag m 3)))

/-- The LIVE or TRAINING entry of a handle in a partition (R156). -/
def State.handleEntry (s : State) (p h : Nat) : Option Nat :=
  (s.entries fun a => a.part == p && a.handle == h && (a.st == 2 || a.st == 4)).head?

/-- The first check of R326 that an OPEN fails, 0 for none. -/
def State.openStatus (s : State) (m : Bytes) : Nat :=
  let p := reqPart m
  let model := s.modelOfPart p
  let ms := model.map s.model
  let st := (ms.map ModelSt.st).getD 0
  let ep := leNat m 16 2
  let e := s.handleEntry p (leNat m 18 2)
  if s.badRequest m then 16
  else if (s.part p).prog.isNone = true ∨ s.role p = 0 then 17
  else if s.draining then 29
  else if st < 2 then 30
  else if leNat m 12 4 ≠ ((s.part p).prog.map Prog.model).getD 0 then 18
  else if ep ≠ 0xFFFF ∧ ep ≠ (ms.map ModelSt.epoch).getD 0 then 19
  else if (s.session (reqSession m)).isSome then 22
  else if 16384 ≤ s.serve.sessions.length then 24
  else if s.ctxLimit p < reqCtxMax m then 27
  else if reqFlag m 1 = true ∧ (match e with
      | some a => reqFlag m 6 && (s.adapter a).gen != byteAt m 20
      | none => true) = true then 20
  else if reqFlag m 1 = true ∧ (match e with
      | some a => decide (65535 ≤ (s.adapter a).refs)
      | none => false) = true then 21
  else if s.inputPool < s.inputUse + reqNtok m then 25
  else 0

/-- Refuse a request: counted, flagged, and one notice (R326, R354). A partition number that does not exist has no ring for it. -/
def State.refuse (s : State) (m : Bytes) (status : Nat) : State :=
  let s := (s.bump Reg.srvRefuseCnt).setBit Reg.srvStatus 0 0
  if reqPart m < 16 then s.notice (reqPart m) (reqSession m) (reqRtag m) (reqOp m) status else s

/-- The session that a valid OPEN makes: PENDING until its lookup and reservation are done. -/
def State.newSession (s : State) (m : Bytes) : Session :=
  let p := reqPart m
  let ms := (s.modelOfPart p).map s.model
  { id := reqSession m, part := p, st := .pending, prev := .pending, lookup := true, rtag := reqRtag m, flags := reqFlags m
    model := BitVec.ofNat 32 ((ms.map ModelSt.id).getD 0), epoch := (ms.map ModelSt.epoch).getD 0, adapter := none
    clen := 0, ctxMax := reqCtxMax m, maxNew := leNat m 24 4, emitted := 0
    stop := (List.range 4).map fun i => BitVec.ofNat 32 (leNat m (32 + 4 * i) 4)
    input := if reqFlag m 3 then [] else reqToks m, next := 0, append := [], drafts := none
    blocks := [], nodes := [], slice := decide (reqCtxMax m ≤ s.fld Reg.srvSliceCtx p 23 0) || s.variant == .s0i1
    openPages := [], toks := [], noBraid := false, order := 0, at_ := leNat m 52 4, device := leNat m 56 2, dpart := byteAt m 58
    ending := none, handle := if reqFlag m 1 then some (leNat m 18 2) else none
    exact := if reqFlag m 6 then some (byteAt m 20) else none, reserved := false }

/-- Appended tokens (R322): a HOLD session, or a GEN one with INTERRUPT, feeds; any other keeps them. -/
def State.appendToks (s : State) (x : Session) (interrupt : Bool) (ts : List Word) : State :=
  s.modSession x.id fun x =>
    if x.st = .hold then { x with st := .feed, input := x.next :: (x.append ++ ts), append := [], drafts := none }
    else if x.st = .gen ∧ interrupt = true then { x with st := .feed, input := x.next :: ts, drafts := none }
    else { x with append := x.append ++ ts }

/-- A request takes effect (R326, R328). A CLOSE of a SUSPENDED session has no transition (R322; log entry 112). -/
def State.takeRequest (s : State) (m : Bytes) : State :=
  let op := reqOp m
  let p := reqPart m
  if op = 1 then
    match s.openStatus m with
    | 0 => { s with serve := { s.serve with sessions := s.serve.sessions ++ [s.newSession m] } }
    | st => s.refuse m st
  else if s.badRequest m then s.refuse m 16
  else if op = 5 then
    let n := leNat m 24 4
    s.modServPart p fun q => { q with ringFree := min (q.ringFree + n) (2 ^ s.fld Reg.srvRingCfg p 4 0) }
  else match s.session (reqSession m) with
    | none => s.refuse m 23
    | some x =>
      if x.part ≠ p then s.refuse m 23
      else if op = 2 then
        if s.inputPool < s.inputUse + reqNtok m then s.refuse m 25 else s.appendToks x (reqFlag m 5) (reqToks m)
      else if op = 3 then
        if x.st = .gen ∧ leNat m 52 4 = x.clen + 1 then
          s.modSession x.id fun y => { y with drafts := some (leNat m 52 4, reqToks m) }
        else s.refuse m 28
      else if x.st = .suspended then s
      else s.endSession x.id 4 5

/-- A request arrives on a SERVING queue pair (R324): it waits for its partition's tick; with the pool of 1,024 receive buffers empty it
is answered receiver-not-ready and nothing is dropped. A request whose partition does not exist is refused at once. -/
def arriveReq (slot : BitVec 9) (m : Bytes) (s : State) : Host.Outcome State Fault Refusal :=
  let k := slot.toNat
  if slotOk k then
    .next (
      if k < 6 ∨ 262 ≤ k ∨ (s.qp k).st ≠ 2 then s
      else if 1024 ≤ (s.serve.parts.map fun e => e.2.reqs.length).sum then
        (s.bump Reg.ethQpRnrCnt k).send (.rnr k (s.fld Reg.ethRcCfg 0 12 8))
      else if 15 < reqPart m then s.refuse m 16
      else s.modServPart (reqPart m) fun q => { q with reqs := q.reqs ++ [⟨k, m⟩] })
  else .fault .noSuchUnit

/-- OPEN (R326). -/
def execOpenReq (slot : BitVec 9) (msg : Bytes) (s : State) : Host.Outcome State Fault Refusal := arriveReq slot msg s
/-- APPEND (R322). -/
def execAppendReq (slot : BitVec 9) (msg : Bytes) (s : State) : Host.Outcome State Fault Refusal := arriveReq slot msg s
/-- DRAFT (R328). -/
def execDraftReq (slot : BitVec 9) (msg : Bytes) (s : State) : Host.Outcome State Fault Refusal := arriveReq slot msg s
/-- CLOSE (R322). -/
def execCloseReq (slot : BitVec 9) (msg : Bytes) (s : State) : Host.Outcome State Fault Refusal := arriveReq slot msg s
/-- RING_CREDIT (R355). -/
def execRingCredit (slot : BitVec 9) (msg : Bytes) (s : State) : Host.Outcome State Fault Refusal := arriveReq slot msg s

/-- Requests of different queue pairs in round-robin order, those of one in arrival order (R328): the nth of every slot before the
next of any. -/
def roundRobin (l : List PendReq) : List PendReq :=
  let idx := l.mapIdx fun i r => (((l.take i).filter fun q => q.slot == r.slot).length, r)
  (List.range l.length).flatMap fun n =>
    ((idx.filter fun e => e.1 == n).map Prod.snd).mergeSort fun a b => decide (a.slot ≤ b.slot)

/-! ## Admission (R322, R328, R345) -/

/-- The Braid lookup of a prompt: shared pages and the length they commit (R345). -/
def State.lookup (s : State) (x : Session) : State :=
  let n := x.input.length
  let e := x.handle.bind fun h => s.handleEntry x.part h
  let root := match e with
    | some a => braidRoot x.model.toNat x.epoch (s.adapter a).handle (s.adapter a).gen x.part
    | none => braidRoot x.model.toNat x.epoch 0 0 x.part
  let (ns, s) := s.walkBraid x.part x.id none root x.input ((n - 1) / 16)
  let c := 16 * ns.length
  (s.bump Reg.srvBraidHitCnt x.part ns.length).modSession x.id fun y =>
    { y with lookup := false, nodes := ns, blocks := ns.filterMap fun k => (s.braidNode x.part k).map BraidNode.page
             clen := c, toks := x.input.take c, input := x.input.drop c }

/-- Reserve the pages of a PENDING session. -/
def State.tryReserve (s : State) (id : Word) : State :=
  match s.session id with
  | some x => if x.st = .pending ∧ x.lookup = false ∧ x.reserved = false then (s.reserve x).2 else s
  | none => s

/-- Admit a PENDING session whose pages are reserved (R320, R322): its bindings, then FEED or IMPORT. A partition that may not start a
step keeps it PENDING (R366, R371). -/
def State.tryAdmit (s : State) (id : Word) : State :=
  match s.session id with
  | none => s
  | some x =>
    if x.st ≠ .pending ∨ x.reserved = false ∨ s.modelReady x.part = false ∨ s.cfgSound x.part = false then s
    else
      let e := x.handle.bind fun h => s.handleEntry x.part h
      let lost := match x.handle, e with
        | some _, none => 20
        | some _, some a =>
          if 65535 ≤ (s.adapter a).refs then 21
          else if x.exact.isSome ∧ x.exact ≠ some (s.adapter a).gen then 20 else 0
        | none, _ => 0
      if lost ≠ 0 then s.endSession id 1 lost
      else
        let s := match e with
          | some a => s.modAdapter a fun y => { y with refs := y.refs + 1 }
          | none => s
        let ep := ((s.modelOfPart x.part).map fun m => (s.model m).epoch).getD x.epoch
        let s := s.modSession id fun y =>
          { y with st := if y.flags.testBit 3 then .imp else .feed, epoch := ep, adapter := e, order := s.serve.opened }
        ({ s with serve := { s.serve with opened := s.serve.opened + 1 } }).notice x.part id x.rtag 1 1

/-- OPEN_LOOKUP_DONE (R328): the lookup and the reservation are done; the session joins the first tick after. -/
def execOpenLookupDone (session : Word) (s : State) : Host.Outcome State Fault Refusal :=
  .next (match s.session session with
    | some x => if x.st = .pending ∧ x.lookup = true then ((s.lookup x).tryReserve session).layBraid x.part else s
    | none => s)

/-- PENDING_ADMIT (R322): pages have come free for a PENDING session. -/
def execPendingAdmit (session : Word) (s : State) : Host.Outcome State Fault Refusal :=
  .next (match s.session session with
    | some x =>
      let s := (s.tryReserve session).layBraid x.part
      if s.tickable x.part then s.tryAdmit session else s
    | none => s)

/-- PENDING_TIMEOUT (R322): NO_CONTEXT. -/
def execPendingTimeout (session : Word) (s : State) : Host.Outcome State Fault Refusal :=
  .next (match s.session session with
    | some x => if x.st = .pending then s.endAtTick session 1 26 else s
    | none => s)

/-- HOLD_IDLE_TIMEOUT (R322): IDLE_TIMEOUT, unless IDLE_S is 0. -/
def execHoldIdleTimeout (session : Word) (s : State) : Host.Outcome State Fault Refusal :=
  .next (match s.session session with
    | some x => if x.st = .hold ∧ bits (s.liveReg x.part Reg.srvAdmitCfg) 31 16 ≠ 0 then s.endAtTick session 0 11 else s
    | none => s)

/-- End every session of a partition that satisfies `q`, with a status. -/
def State.endAll (s : State) (p status : Nat) (q : Session → Bool) : State :=
  ((s.sessionsOf p).filter q).foldl (fun s x => s.endSession x.id 0 status) s

/-- SUSPEND_TIMEOUT (R322): PARTITION_FAULT for the partition's SUSPENDED sessions. -/
def execSuspendTimeout (p : BitVec 4) (s : State) : Host.Outcome State Fault Refusal :=
  .next (s.endAll p.toNat 8 fun x => x.st == .suspended)

/-! ## Context transfers, the sender's messages (R348-R351) -/

/-- Lines of a page: its token line and its stores' blocks. -/
def State.pageLines (s : State) (p : Nat) : Nat := 1 + s.ctxLayers p * s.ctxHeads p * blockLines (s.ctxDim p)
/-- Transfer blocks of `c` committed positions. -/
def State.xferBlocks (s : State) (p c : Nat) : Nat := ceilDiv (ceilDiv c 16 * s.pageLines p * 64) 4096
/-- One line of a session's transfer payload. -/
def State.xferLine (s : State) (x : Session) (l : Nat) : Bytes :=
  let n := s.pageLines x.part
  let b := blockLines (s.ctxDim x.part)
  let k := l / n
  let r := l % n
  if ceilDiv x.clen 16 ≤ k then List.replicate 64 0
  else if r = 0 then padTo 64 (((x.toks.drop (16 * k)).take 16).flatMap fun t => natLe t.toNat 4)
  else s.ctxRead (s.ctxAddr x.part (x.pageOf k) ((r - 1) / b)) (64 * ((r - 1) % b)) 64
/-- The head of a transfer body. -/
def xferHead (type dpart : Nat) (id : Word) : Bytes := natLe type 1 ++ natLe dpart 1 ++ natLe 0 2 ++ natLe id.toNat 4
def State.xfer (s : State) (id : Word) : Option Xfer := s.serve.xfers.find? fun y => y.session == id
def State.modXfer (s : State) (id : Word) (f : Xfer → Xfer) : State :=
  { s with serve := { s.serve with xfers := listUpdate (fun y => y.session == id) f s.serve.xfers } }
/-- Handle and generation of a session's adapter, 0 without one. -/
def State.adapterIds (s : State) (x : Session) : Nat × Nat :=
  match x.adapter with
  | some e => ((s.adapter e).handle, (s.adapter e).gen)
  | none => (0, 0)
/-- OFFER of a session that has entered EXPORT. -/
def State.sendOffer (s : State) (x : Session) : State :=
  let (h, g) := s.adapterIds x
  let n := s.xferBlocks x.part x.clen
  let body := xferHead 1 x.dpart x.id ++ natLe x.clen 4 ++ natLe x.model.toNat 4 ++ natLe x.epoch 2 ++ natLe h 2 ++ natLe g 1 ++
    natLe (s.ctxDim x.part) 1 ++ natLe (s.ctxHeads x.part) 2 ++ natLe (s.ctxLayers x.part) 2 ++ natLe 0 2 ++ natLe n 4
  let y : Xfer := ⟨x.id, true, x.device, x.dpart, false, n, x.clen, [], [], false, x.next, []⟩
  let s := { s with serve := { s.serve with xfers := s.serve.xfers ++ [y] } }
  s.sendContext x.device x.part x.dpart x.id body
/-- The engine reads one line of a session's transfer payload; a context line crosses the spines (R27). -/
def State.carryXfer (s : State) (x : Session) (l : Nat) : State :=
  let n := s.pageLines x.part
  let b := blockLines (s.ctxDim x.part)
  let r := l % n
  if ceilDiv x.clen 16 ≤ l / n ∨ r = 0 then s
  else s.carry x.part (s.ctxSrc (s.ctxAddr x.part (x.pageOf (l / n)) ((r - 1) / b)) (64 * ((r - 1) % b))) engineUnit
/-- DATA of one index. -/
def State.sendData (s : State) (x : Session) (y : Xfer) (i : Nat) : State :=
  let s := (List.range 64).foldl (fun s k => s.carryXfer x (64 * i + k)) s
  let blk := ((List.range 64).map fun k => s.xferLine x (64 * i + k)).flatten
  s.sendContext y.device x.part y.dpart x.id
    (xferHead 4 y.dpart x.id ++ natLe i 4 ++ natLe (crc32c (natLe i 4 ++ blk)) 4 ++ blk)

/-- A completed import (R351): GEN with C = TOKENS and next input NEXT, ADMITTED, its blocks inserted. -/
def State.finishImport (s : State) (id : Word) : State :=
  match s.session id, s.xfer id with
  | some x, some y =>
    if x.st = .imp ∧ y.sender = false ∧ y.ended = true ∧ y.blocks ≤ y.got.length then
      let ts := ((List.range (ceilDiv y.tokens 16)).flatMap fun k => s.tokenLine x.part (x.blocks.getD k 0)).take y.tokens
      let s := s.modSession id fun x => { x with st := .gen, clen := y.tokens, next := y.next, toks := ts }
      let s := { s with serve := { s.serve with xfers := s.serve.xfers.filter fun z => z.session != id } }
      (s.insertFrom id 0).notice x.part id x.rtag 1 1
    else s
  | _, _ => s

/-! ## The engine tick (R322, R328, R330) -/

/-- End the sessions for which a status of a list was decided while a step was in flight (R322). -/
def State.endDecided (s : State) (p : Nat) (statuses : List Nat) : State :=
  (s.sessionsOf p).foldl (fun s x => match x.ending with
    | some (op, st) => if statuses.contains st then s.endSession x.id op st else s
    | none => s) s
/-- A request of a kind for a session waits at this tick. -/
def asked (rs : List PendReq) (op : Nat) (x : Session) : Bool :=
  rs.any fun r => reqOp r.msg == op && reqSession r.msg == x.id && reqPart r.msg == x.part
/-- The transitions of R322's table above APPEND and CLOSE: NO_CONTEXT, the completed imports, XFER_FAIL, EXPORTED, and IDLE_TIMEOUT
where no APPEND takes the session out of HOLD. An import that a CLOSE meets at this tick is not completed (R363). -/
def State.tickFirst (s : State) (p : Nat) (rs : List PendReq) : State :=
  let s := s.endDecided p [26]
  let s := ((s.sessionsOf p).filter fun x => !asked rs 4 x).foldl (fun s x => s.finishImport x.id) s
  let s := s.endDecided p [9, 12]
  let s := (s.sessionsOf p).foldl (fun s x =>
    if x.ending = some (0, 11) ∧ asked rs 2 x = true then s.modSession x.id fun y => { y with ending := none } else s) s
  s.endDecided p [11]
/-- End what else was decided while a step was in flight, and sessions whose adapter entry FAILED (R322, R363). -/
def State.tickEnds (s : State) (p : Nat) : State :=
  let s := (s.sessionsOf p).foldl (fun s x => match x.ending with
    | some (op, st) => s.endSession x.id op st
    | none => s) s
  s.endAll p 7 fun x => match x.adapter with
    | some e => (s.adapter e).st == 5
    | none => false

/-- ENGINE_TICK (R322, R328, R330, R538): LIVE fields, admissions, requests and ends in the order of R322's table, offers, and the next
batch. -/
def execEngineTick (p : BitVec 4) (s : State) : Host.Outcome State Fault Refusal :=
  let p := p.toNat
  .next (if s.tickable p = false then s
    else
      let s := liveTick.foldl (fun s a => s.applyLive p a) s
      let s := (s.sessionsOf p).foldl (fun s x => s.tryAdmit x.id) s
      let rs := roundRobin (s.servPart p).reqs
      let s := s.tickFirst p rs
      let s := s.modServPart p fun q => { q with reqs := [] }
      let s := rs.foldl (fun s r => s.takeRequest r.msg) s
      let s := s.tickEnds p
      let s := ((s.sessionsOf p).filter fun x => x.st == .exp && (s.xfer x.id).isNone).foldl State.sendOffer s
      s.publish p)

/-! ## The step boundary (R279, R331, R340, R538) -/

/-- Assign a stack-tier session's open pages to the block that holds C and the one after (R340). A page that comes to serve a block takes
over what the block holds. -/
def State.assignOpen (s : State) (x : Session) : State :=
  let b := x.clen / 16
  let want := [b, b + 1].filter fun k => decide (k < x.blocks.length)
  let keep := x.openPages.map fun e => match e.2 with
    | some k => if want.contains k then e else (e.1, none)
    | none => e
  let stores := s.ctxLayers x.part * s.ctxHeads x.part
  let n := 64 * blockLines (s.ctxDim x.part)
  let (pages, s) := want.foldl (fun (a : List (Nat × Option Nat) × State) k =>
    if a.1.any fun e => e.2 == some k then a
    else match a.1.find? fun e => e.2 == none with
      | none => a
      | some e =>
        let s := (List.range stores).foldl (fun s i =>
          s.ctxWrite (s.ctxAddr x.part e.1 i) 0 (s.ctxRead (s.ctxAddr x.part (x.blocks.getD k 0) i) 0 n)) a.2
        (listUpdate (fun y => y.1 == e.1) (fun y => (y.1, some k)) a.1, s)) (keep, s)
  s.modSession x.id fun y => { y with openPages := pages }

/-- The words of the intake vector (R331). -/
def State.intakeWords (s : State) (p : Nat) : List Word :=
  let pm := s.provMax p
  (List.range (s.batchMax p)).flatMap fun e =>
    (List.range pm).map fun j => match s.entry p e with
      | some b => if j < b.prov then BitVec.ofNat 32 ((b.toks.getD j 0).toNat <<< s.intakeShift p) else 0xFFFFFFFF#32
      | none => 0xFFFFFFFF#32

/-- Send the intake vector on every channel whose sender is the partition's RoCEv2 engine unit (R331). -/
def State.sendIntake (s : State) (p : Nat) : State :=
  let bs := (s.intakeWords p).flatMap fun w => natLe w.toNat 4
  let fl := chunks 64 (bs.length / 64 + 1) bs
  let ks := (s.serve.unitCh.filter fun e => isIoUnit e.2.unit && bits e.2.unit 10 5 == 8 &&
    (s.spin (e.1 / 32)).part == some p).map Prod.fst
  ks.foldl (fun s k =>
    let u := s.unitSend k
    let q := fl.map fun b => (mkFlit p (k / 32) (k % 32) 0 0 u.tag u.unit b, (none : Option Orig))
    (s.modUnitSend k fun u => { u with queue := u.queue ++ q }).pumpUnit k) s

/-- The boundary may fall: a batch is published, the previous step has reached its milestone, and no copy of an open page and no
quantising write with a flip requested holds it (R151, R279, R340). -/
def State.boundaryReady (s : State) (p : Nat) : Bool :=
  let q := s.part p
  q.published && !q.inStep && q.stop == .run && q.prog.isSome && (s.servPart p).copies.isEmpty && !s.flipWaits p

/-- The LIVE registers of a step boundary come into force (R538); where sampling comes on, the half's Spindles start their counts
(R606). -/
def State.applyStepLive (s : State) (p : Nat) : State :=
  let on (s : State) (h : Nat) : Nat := bits (s.liveReg p (Reg.cntSampCfg + 32 * h)) 0 0
  let s' := liveStep.foldl (fun s a => s.applyLive p a) s
  (s.partTiles p).foldl (fun s'' t =>
    if on s (halfOf t) = 0 ∧ on s' (halfOf t) = 1 then s''.modSpin t fun sp => { sp with samp := 0 } else s'') s'

/-- A step boundary of a partition with tiles in both halves measures the skew between the halves' stamps, at most 20 ns (R72; log entry
131). -/
def State.measureSkew (s : State) (p : Nat) : State :=
  let hs := (s.partTiles p).map halfOf
  if hs.contains 0 && hs.contains 1 then
    let (n, s) := s.fresh
    s.setReg Reg.trnHalfSkew 0 (((Config.halfSkew n % 41 : Nat) - (20 : Int)) % 2 ^ 32).toNat
  else s

/-- STEP_BOUNDARY (R279). -/
def execStepBoundary (p : BitVec 4) (s : State) : Host.Outcome State Fault Refusal :=
  let p := p.toNat
  .next (if s.boundaryReady p = false then s
    else
      let s := s.applyStepLive p
      let s := s.boundaryAdapters p
      let s := (s.sessionsOf p).foldl (fun s x => if x.slice then s else s.assignOpen x) s
      let s := s.modServPart p fun q => { q with batch := q.next, next := [], prev := q.batch, records := [] }
      let s := s.modPart p fun q =>
        { q with published := false, inStep := true, begun := q.begun + 1, step := if q.begun = 0 then q.step else (q.step + 1) % 2 ^ 48
                 reruns := 0, runKind := .first, triggers := [], shadowDue := [], stepStandIns := [] }
      let s := (s.partTiles p).foldl (fun s t => s.modSpin t fun sp =>
        { sp with dirty := [], sync := { sp.sync with stepGo := true } }) s
      ((s.setReg64 Reg.trnStepStampLo p s.now).measureSkew p).sendIntake p)

/-! ## The milestone (R333, R441) -/

/-- Commit one session's entries of the step, report its section, and apply the transition (R322, R333). -/
def State.commitSession (s : State) (p : Nat) (id : Word) (es : List (Nat × BatchE)) : Option Sect × State :=
  match s.session id with
  | none => (none, s)
  | some x0 =>
    let recs := (s.servPart p).records
    let step (c : Commit × Nat) (e : Nat × BatchE) : Commit × Nat :=
      match recs.find? fun r => r.entry == e.1 && !r.data with
      | none => (c.1, c.2 + 1)
      | some r =>
        if c.1.bad then c
        else if e.2.clen ≠ c.1.x.clen then (c.1, c.2 + 1)
        else
          let d := commitEntry e.2 r.bytes c.1.x
          (⟨d.x, c.1.out ++ d.out, if d.status.isSome then d.status else c.1.status, c.1.accept + d.accept, d.bad⟩, c.2)
    let (c, missing) := es.foldl step (⟨x0, [], none, 0, false⟩, 0)
    let s := (s.bump Reg.srvBadrecCnt p (missing + if c.bad then 1 else 0)).bump Reg.srvAcceptCnt p c.accept
    let exporting := x0.st == .feed && c.x.st == .gen && s.role p == 1 && c.x.flags.testBit 4
    let full := c.x.st == .gen && decide (c.x.ctxMax ≤ c.x.clen)
    let keep := c.x.flags.testBit 2
    let status := if c.bad then 10 else if exporting then 0 else match c.status with
      | some st => if keep then 14 else st
      | none => if full then 4 else 0
    let (h, g) := s.adapterIds c.x
    let sect : Sect :=
      { id := id, rtag := x0.rtag, status := status, toks := c.out
        data := es.flatMap fun e => (recs.filter fun r => r.entry == e.1 && r.data).map ResRec.bytes
        final := status != 0, verified := es.any fun e => !e.2.feed && decide (1 < e.2.prov)
        clen := c.x.clen, handle := h, gen := g, accept := c.accept }
    let x := if exporting then { c.x with st := .exp }
      else if status = 14 then
        (if c.x.append.isEmpty then { c.x with st := .hold }
         else { c.x with st := .feed, input := c.x.next :: c.x.append, append := [] })
      else c.x
    let s := (s.modSession id fun y => { x with ending := y.ending }).insertFrom id x0.clen
    let s := match s.session id with
      | some y => s.modServPart p fun q =>
          { q with copies := q.copies ++ (y.openPages.filterMap fun e => match e.2 with
              | some k => if 16 * (k + 1) ≤ y.clen then some (id, k) else none
              | none => none) }
      | none => s
    let s := if status ≠ 0 ∧ status ≠ 14 then
        match s.session id with
        | some y => (s.dropSession y).endEvent p id (if status = 10 then 10 else 0)
        | none => s
      else s
    (some sect, s)

/-- Sessions of the batch in the order of their first entries. -/
def batchSessions (b : List BatchE) : List Word := b.foldl (fun l e => if l.contains e.session then l else l ++ [e.session]) []

/-- The serving engine commits the step and closes its frame (R333, R336, R354). -/
def State.commitStep (s : State) (p : Nat) (stamp : Nat) : State :=
  let b := (s.servPart p).batch
  let es := b.zipIdx.map fun e => (e.2, e.1)
  let m := s.modelOfPart p
  let step := (s.part p).step
  let (sects, s) := (batchSessions b).foldl (fun (a : List Sect × State) id =>
    let r := a.2.commitSession p id (es.filter fun e => e.2.session == id)
    (match r.1 with
      | some x => a.1 ++ [x]
      | none => a.1, r.2)) ([], s)
  let head := padTo 32 (natLe step 6 ++ natLe ((m.map fun k => (s.model k).epoch).getD 0) 2 ++ natLe stamp 8 ++ natLe sects.length 2 ++
    natLe 0 2 ++ natLe ((m.map fun k => (s.model k).id).getD 0) 4)
  let s := s.modServPart p fun q => { q with records := [] }
  s.pushFrame p 1 (head ++ (sects.map Sect.bytes).flatten)

/-- A quantising write is under way on a tile's Weft array. -/
def State.quantBusy (s : State) (t : Nat) : Bool :=
  let w := s.weft (s.physOf t)
  [w.slot0, w.slot1].any fun x => match x.write with
    | some q => q.quant
    | none => false
/-- The step may reach its milestone (R44, R280, R440): every Spindle has retired SYNC.MILE, its passes, landings and Weft writes have
ended, and the integrity engine has cleared every detection, replay and comparison. -/
def State.mileReady (s : State) (p : Nat) : Bool :=
  let q := s.part p
  q.inStep && q.stop == .run && q.rerun.isNone && q.detects.isEmpty && q.shadowDue.isEmpty &&
    (s.partTiles p).all fun t =>
      let sp := s.spin t
      sp.sync.miled && !sp.sync.stepGo && sp.replays.isEmpty && sp.passes.isEmpty && sp.lands.isEmpty && !s.quantBusy t

/-- A stand-in for one step ends (R431): the tile serves again, and takes back what its Weft slots hold. -/
def State.endStandIn (s : State) (t : Nat) : State :=
  let w := s.weft (32 * rowOf t + 24)
  let s := s.modWeft (s.sparedTile t) fun x => { x with slot0 := w.slot0, slot1 := w.slot1 }
  let s := s.modWeft (32 * rowOf t + 24) fun x => { x with slot0 := WeftSlot.init, slot1 := WeftSlot.init }
  s.modRow (rowOf t) fun r => { r with standIn := none }
/-- MILESTONE (R441): the stamp, the commit, the egress release, the hold records, INT_LAST_MILE, the words after SYNC.MILE. -/
def execMilestone (p : BitVec 4) (s : State) : Host.Outcome State Fault Refusal :=
  let p := p.toNat
  .next (if s.mileReady p = false then s
    else
      let step := (s.part p).step
      let s := s.commitStep p s.now
      let s := s.releaseEgress p step
      let s := (s.partTiles p).foldl (fun s t => s.modSpin t fun sp =>
        { sp with hold := [], sync := { sp.sync with miled := false } }) s
      let s := s.setReg64 Reg.intLastMileLo p step
      let s := (s.part p).stepStandIns.foldl State.endStandIn s
      s.modPart p fun q => { q with inStep := false, stepStandIns := [], runKind := .first, reruns := 0, triggers := [] })

/-- OPEN_PAGE_COPY_DONE (R340): the block's lines are in the session's stack page, and its translation switches. -/
def execOpenPageCopyDone (session : Word) (block : Nat) (s : State) : Host.Outcome State Fault Refusal :=
  .next (match s.session session with
    | none => s
    | some x =>
      let p := x.part
      if (s.servPart p).copies.contains (session, block) then
        let pg := x.pageOf block
        let n := blockLines (s.ctxDim p)
        let s := (List.range (s.ctxLayers p * s.ctxHeads p)).foldl (fun s i =>
          let a := s.ctxAddr p pg i
          let b := s.ctxAddr p (x.blocks.getD block 0) i
          let s := (List.range n).foldl (fun s k => s.carry p (s.ctxSrc a (64 * k)) (s.ctxSrc b (64 * k))) s
          s.ctxWrite b 0 (s.ctxRead a 0 (64 * n))) s
        let s := s.modServPart p fun q => { q with copies := q.copies.filter fun c => c != (session, block) }
        s.modSession session fun y =>
          { y with openPages := y.openPages.map fun e => if e.2 = some block then (e.1, none) else e }
      else s)

/-! ## Frames leave (R352-R358) -/

/-- Read the words of the frame queue's first message: false where one is uncorrectable; corrected words are counted (R357). -/
def State.readFrame (s : State) (p n : Nat) : Bool × State :=
  ((s.hank p).words.take n).foldl (fun (a : Bool × State) w =>
    match hamRead w.1 w.2 with
    | .ok _ => a
    | .corrected _ => (a.1, (a.2.bump Reg.srvHankCorrCnt).bump Reg.srvHankCorr p)
    | .bad => (false, (a.2.bump Reg.srvHankUncorrCnt).setBit Reg.srvStatus 0 1)) (true, s)

/-- Sessions of `n` sections of a frame from a byte on (R354). -/
def sectionIds (b : Bytes) : Nat → Nat → List Word
  | _, 0 => []
  | o, n + 1 =>
    BitVec.ofNat 32 (leNat b o 4) :: sectionIds b (o + 32 + 8 * ((byteAt b (o + 5) + 1) / 2) + 64 * byteAt b (o + 6)) n
/-- Sessions that a message of a frame queue names: a frame's sections, or a notice's entries (R354). -/
def messageIds (len : DWord) (b : Bytes) : List Word :=
  if bits len.toNat 39 36 = 1 then sectionIds b 32 (leNat b 16 2)
  else (List.range (leNat b 0 2)).map fun k => BitVec.ofNat 32 (leNat b (8 + 16 * k) 4)

/-- An uncorrectable frame (R358): rebuilt once from what the engine keeps; when the rebuilt message fails too, its sessions end. -/
def State.frameBad (s : State) (p n : Nat) (rebuilt : Bool) (len : DWord) (body : Bytes) : State :=
  let s := s.raiseIn p 0x5002 4 (le1 p)
  if rebuilt then
    let s := (s.modHank p fun h => { h with words := h.words.drop n }).modServPart p fun q => { q with kept := q.kept.drop 1 }
    (messageIds len body).foldl (fun s id => s.endAtTick id 0 10) s
  else
    let fresh := (len :: wordsOf body).map fun w => (w, hamCheck w)
    (s.modHank p fun h => { h with words := fresh ++ h.words.drop n }).modServPart p fun q =>
      { q with kept := (true, len, body) :: q.kept.drop 1 }

/-- Write a message at the ring's write offset (R352, R355): a PAD first where it does not fit before the ring's end, then the body and
the length word, as the partition's share of the port allows (R464). -/
def State.ringWrite (s : State) (p : Nat) (len : DWord) (body : Bytes) : State :=
  let q := s.servPart p
  let size := 2 ^ s.fld Reg.srvRingCfg p 4 0
  let win := s.fld Reg.srvRingCfg p 11 8
  let base := s.reg64 Reg.srvRingAddrLo p
  let n := body.length + 8
  let wr (s : State) (o : Nat) (bs : Bytes) : State :=
    s.send (.rdmaWrite (s.rdmaSlot p win) (BitVec.ofNat 64 (base + o)) (s.rdmaKey p win) bs)
  let pad := if size < q.ringOff + n then size - q.ringOff else 0
  let k := s.portPoint (s.rdmaSlot p win)
  if q.ringFree < pad + n ∨ s.rdmaOk p win base size = false ∨ s.admits k p [] = false then s
  else
    let s := if pad ≤ 8 then s else wr s (q.ringOff + 8) (List.replicate (pad - 8) 0)
    let s := if pad = 0 then s else wr s q.ringOff (natLe (lengthWord (pad - 8) p 2).toNat 8)
    let o := if pad = 0 then q.ringOff else 0
    let s := (wr (wr s (o + 8) body) o (natLe len.toNat 8)).usePort p (s.rdmaSlot p win) n
    (s.modHank p fun h => { h with words := h.words.drop (n / 8) }).modServPart p fun q =>
      { q with kept := q.kept.drop 1, ringOff := (o + n) % size, ringFree := q.ringFree - (pad + n) }

/-- FRAME_WRITE (R355): the frame queue's first message goes to the ring once its free bytes cover it. -/
def execFrameWrite (p : BitVec 4) (s : State) : Host.Outcome State Fault Refusal :=
  let p := p.toNat
  .next (match (s.servPart p).kept with
    | [] => s
    | (rebuilt, len, body) :: _ =>
      let n := 1 + body.length / 8
      let (ok, s) := s.readFrame p n
      if ok then s.ringWrite p len body else s.frameBad p n rebuilt len body)

/-- NOTICE_CLOSE (R354): 1 µs after its first entry, at the latest. -/
def execNoticeClose (p : BitVec 4) (s : State) : Host.Outcome State Fault Refusal := .next (s.closeNotice p.toNat)

/-- FRAME_RING_FULL (R356): steps have been held back for more than 10 ms; raised once while the wait lasts. -/
def execFrameRingFull (p : BitVec 4) (s : State) : Host.Outcome State Fault Refusal :=
  let p := p.toNat
  let c := s.compose p
  .next (if s.mayStart p = true ∧ c.es ≠ [] ∧ s.queueRoom p c.es.length = false ∧ (s.servPart p).fullRaised = false then
    ((s.modServPart p fun q => { q with fullRaised := true }).setBit Reg.srvStatus 0 3).raiseIn p 0x5001 4 (le1 p)
  else s)

/-! ## Context transfers (R350, R351) -/

/-- Take a transfer message: out of the transfer buffer where it waits there (R472). -/
def State.takeXfer (s : State) (m : Bytes) : State := { s with net := { s.net with transfer := s.net.transfer.erase m } }
/-- Body of a message. -/
def msgBody (m : Bytes) : Bytes := m.drop 64
/-- Session of a transfer body. -/
def xferSession (m : Bytes) : Word := BitVec.ofNat 32 (leNat (msgBody m) 4 4)
/-- A transfer row: a CONTEXT message of the row's type. -/
def xferRow (m : Bytes) (type : Nat) (f : State → State) (s : State) : Host.Outcome State Fault Refusal :=
  .next (if msgClass' m = 1 ∧ byteAt (msgBody m) 0 = type then f (s.takeXfer m) else s)
where
  /-- CLASS of the header. -/
  msgClass' (m : Bytes) : Nat := byteAt m 8 % 4

/-- A transfer fails: the session ends XFER_FAIL. -/
def State.xferFail (s : State) (id : Word) : State := s.endAtTick id 0 9

/-- REASON with which an OFFER is refused, 0 for none (R350). -/
def State.offerReason (s : State) (b : Bytes) : Nat :=
  match s.session (BitVec.ofNat 32 (leNat b 4 4)) with
  | none => 1
  | some x =>
    let (h, g) := s.adapterIds x
    if x.st ≠ .imp ∨ x.part ≠ byteAt b 1 then 1
    else if x.model.toNat ≠ leNat b 12 4 ∨ x.epoch ≠ leNat b 16 2 ∨ h ≠ leNat b 18 2 ∨ g ≠ byteAt b 20 then 2
    else if s.ctxDim x.part ≠ byteAt b 21 ∨ s.ctxHeads x.part ≠ leNat b 22 2 ∨ s.ctxLayers x.part ≠ leNat b 24 2 then 3
    else if x.at_ ≠ leNat b 8 4 then 4
    else 0

/-- XFER_OFFER (R350). -/
def execXferOffer (msg : Bytes) (s : State) : Host.Outcome State Fault Refusal :=
  xferRow msg 1 (fun s =>
    let b := msgBody msg
    let id := xferSession msg
    let dev := leNat msg 10 2
    let sp := byteAt msg 14 % 16
    match s.offerReason b with
    | 0 =>
      let z : Xfer := ⟨id, false, dev, sp, true, leNat b 28 4, leNat b 8 4, [], [], false, 0, []⟩
      let s := { s with serve := { s.serve with xfers := s.serve.xfers.filter (fun (y : Xfer) => y.session != id) ++ [z] } }
      s.sendContext dev (byteAt b 1 % 16) sp id (xferHead 2 sp id)
    | r =>
      let s := s.sendContext dev (byteAt b 1 % 16) sp id (xferHead 3 sp id ++ natLe r 1)
      if (s.session id).any fun x => x.st == .imp then s.xferFail id else s) s

/-- XFER_ACCEPT (R350): DATA for every index, then END. -/
def execXferAccept (msg : Bytes) (s : State) : Host.Outcome State Fault Refusal :=
  xferRow msg 2 (fun s =>
    let id := xferSession msg
    match s.session id, s.xfer id with
    | some x, some y =>
      if x.st = .exp ∧ y.sender = true ∧ y.accepted = false then
        let s := s.modXfer id fun y => { y with accepted := true }
        let s := (List.range y.blocks).foldl (fun s i => s.sendData x y i) s
        s.sendContext y.device x.part y.dpart id (xferHead 5 y.dpart id ++ natLe y.blocks 4 ++ natLe y.next.toNat 4)
      else s
    | _, _ => s) s

/-- XFER_REFUSE (R350, R351): the session ends XFER_FAIL. -/
def execXferRefuse (msg : Bytes) (s : State) : Host.Outcome State Fault Refusal :=
  xferRow msg 3 (fun s =>
    let id := xferSession msg
    if (s.xfer id).isSome then s.xferFail id else s) s

/-- Write a checked transfer block into the session's reserved pages (R351). -/
def State.storeXfer (s : State) (x : Session) (i : Nat) (blk : Bytes) : State :=
  let n := s.pageLines x.part
  let b := blockLines (s.ctxDim x.part)
  (List.range 64).foldl (fun s k =>
    let l := 64 * i + k
    let line := (blk.drop (64 * k)).take 64
    let pg := x.blocks[l / n]?
    match pg with
    | none => s
    | some g =>
      let r := l % n
      if r = 0 then s.ctxWrite (s.braidAddr x.part g) 0 line
      else s.ctxWrite (s.ctxAddr x.part g ((r - 1) / b)) (64 * ((r - 1) % b)) line) s

/-- When everything has arrived and checked, DONE goes back, and the session is admitted at its tick (R351). -/
def State.xferCheck (s : State) (id : Word) : State :=
  match s.session id, s.xfer id with
  | some x, some y =>
    if y.sender = false ∧ y.ended = true ∧ y.blocks ≤ y.got.length then
      let s := s.sendContext y.device x.part y.dpart id (xferHead 7 y.dpart id)
      if s.tickable x.part then s.finishImport id else s
    else s
  | _, _ => s

/-- XFER_DATA (R349, R351). -/
def execXferData (msg : Bytes) (s : State) : Host.Outcome State Fault Refusal :=
  xferRow msg 4 (fun s =>
    let id := xferSession msg
    let b := msgBody msg
    let i := leNat b 8 4
    let blk := (b.drop 16).take 4096
    match s.session id, s.xfer id with
    | some x, some y =>
      if x.st = .imp ∧ y.sender = false ∧ i < y.blocks ∧ y.got.contains i = false ∧
          leNat b 12 4 = crc32c (natLe i 4 ++ blk) then
        ((s.storeXfer x i blk).modXfer id fun y => { y with got := y.got ++ [i] }).xferCheck id
      else s
    | _, _ => s) s

/-- XFER_END (R351). -/
def execXferEnd (msg : Bytes) (s : State) : Host.Outcome State Fault Refusal :=
  xferRow msg 5 (fun s =>
    let id := xferSession msg
    let b := msgBody msg
    match s.xfer id with
    | some y =>
      if y.sender = false ∧ y.ended = false then
        (s.modXfer id fun y => { y with ended := true, next := BitVec.ofNat 32 (leNat b 12 4) }).xferCheck id
      else s
    | none => s) s

/-- XFER_NACK (R351): the named indices go again; one that has been resent three times fails the transfer, with REASON 5. -/
def execXferNack (msg : Bytes) (s : State) : Host.Outcome State Fault Refusal :=
  xferRow msg 6 (fun s =>
    let id := xferSession msg
    let b := msgBody msg
    let ix := (List.range (min (byteAt b 8) 64)).map fun k => leNat b (12 + 4 * k) 4
    match s.session id, s.xfer id with
    | some x, some y =>
      if x.st ≠ .exp ∨ y.sender = false ∨ y.accepted = false then s
      else if ix.any fun i => decide (3 ≤ SMap.get 0 y.resent i) then
        (s.sendContext y.device x.part y.dpart id (xferHead 3 y.dpart id ++ natLe 5 1)).xferFail id
      else
        ix.foldl (fun s i =>
          if i < y.blocks then
            (s.modXfer id fun y => { y with resent := SMap.set 0 y.resent i (SMap.get 0 y.resent i + 1) }).sendData x y i
          else s) s
    | _, _ => s) s

/-- XFER_DONE (R351): the export ends EXPORTED. -/
def execXferDone (msg : Bytes) (s : State) : Host.Outcome State Fault Refusal :=
  xferRow msg 7 (fun s =>
    let id := xferSession msg
    match s.session id, s.xfer id with
    | some x, some y => if x.st = .exp ∧ y.sender = true ∧ y.accepted = true then s.endAtTick id 0 12 else s
    | _, _ => s) s

/-- NACK of at most 64 indices (R348, R351). -/
def State.sendNack (s : State) (x : Session) (y : Xfer) (miss : List Nat) : State :=
  s.sendContext y.device x.part y.dpart x.id
    (xferHead 6 y.dpart x.id ++ natLe miss.length 1 ++ natLe 0 3 ++ miss.flatMap fun i => natLe i 4)
/-- XFER_WAIT_EXPIRY (R351): WAIT_MS after END, NACKs for the missing indices, up to 64 in each, or what is complete is admitted. An import
without END has timed out (R322; log entry 113). -/
def execXferWaitExpiry (session : Word) (s : State) : Host.Outcome State Fault Refusal :=
  .next (match s.session session, s.xfer session with
    | some x, some y =>
      if y.sender = true then s
      else if y.ended = false then s.xferFail session
      else
        let miss := (List.range y.blocks).filter fun i => !y.got.contains i
        if miss.isEmpty then s.xferCheck session
        else (chunks 64 (miss.length / 64 + 1) miss).foldl (fun s l => s.sendNack x y l) s
    | some x, none => if x.st = .imp then s.xferFail session else s
    | none, _ => s)

/-- OFFER_TIMEOUT (R351): no answer within WAIT_MS; XFER_FAIL. -/
def execOfferTimeout (session : Word) (s : State) : Host.Outcome State Fault Refusal :=
  .next (match s.xfer session with
    | some y => if y.sender = true ∧ y.accepted = false then s.xferFail session else s
    | none => s)

end Sys2Proof.Machine
end

