-- ==== Sys2Proof/Machine/Hank.lean ====
section
/-! DEFINITION. The Hank queues as a context sees them (09_serving_engine.md R357-R361): popping, staging and pushing words. The
register accesses of Regs.lean call these. -/

namespace Sys2Proof.Machine

/-- Count a corrected word of a queue (R357). -/
def State.hankCorr (s : State) (q : Nat) : State := (s.bump Reg.srvHankCorrCnt).bump Reg.srvHankCorr q
/-- An uncorrectable word has been read from a queue (R358, R368). -/
def State.hankUncorr (s : State) (q : Nat) : State :=
  ((s.bump Reg.srvHankUncorrCnt).setBit Reg.srvStatus 0 1).raise 0x5002 (le1 q)

/-- Follow the messages through the words popped. -/
def HankQ.popped (h : HankQ) (w : DWord) : HankQ :=
  { h with words := h.words.tail, last := w, popLeft := if h.popLeft = 0 then bits w.toNat 31 0 / 8 else h.popLeft - 1 }

/-- Words of the message in front of a context's event queue that go with an uncorrectable word: the rest of its message. Where the length
word itself is lost, the message's first record says whether a second follows (R358, R593). -/
def HankQ.lost (h : HankQ) : Nat :=
  if h.popLeft ≠ 0 then h.popLeft
  else match h.words.tail with
    | [] => 1
    | (w, _) :: _ => 1 + (if w.getLsbD 16 then 8 else 4)

/-- Pop a word (R359): an empty queue gives the last word popped and sets UNDERRUN; a frame queue reads 0 without effect (R360). An
uncorrectable word's value is free, and in the event queue its whole message is dropped (R358). -/
def State.popHank (s : State) (q : Nat) : DWord × State :=
  if q < 16 then (0, s)
  else
    let h := s.hank q
    match h.words with
    | [] => (h.last, s.modHank q fun h => { h with under := true })
    | (w, c) :: _ =>
      match hamRead w c with
      | .ok w => (w, s.modHank q fun h => h.popped w)
      | .corrected w => (w, (s.hankCorr q).modHank q fun h => h.popped w)
      | .bad =>
        let (k, s) := (s.hankUncorr q).fresh
        let v := Config.freeWord k ++ Config.freeWord (k + 1)
        let s := { s with freeCtr := s.freeCtr + 1 }
        (v, s.modHank q fun h =>
          if q = 16 then { h with words := h.words.drop h.lost, last := v, popLeft := 0 } else h.popped v)

/-- Stage a low half for the context's selected queue (R360). -/
def State.stageHank (s : State) (c q : Nat) (v : Word) : State :=
  s.modCtx c fun x => { x with stage := some (q, v) }

/-- A write of the high half by a context that has staged a low half for queue `q` (R360): the word goes into the context's own
mailbox command queue; the push of a command's last body word makes the command complete (R361). -/
def State.pushHank (s : State) (c q : Nat) (v : Word) : State :=
  match (s.ctx c).stage with
  | some (q', lo) =>
    if q' ≠ q then s
    else
      let s := s.modCtx c fun x => { x with stage := none }
      if c < 6 ∧ q = 17 + c then
        let n := (s.hank q).words.length
        let s := s.hankPush q (v ++ lo)
        let h := s.hank q
        if n < h.words.length ∧ h.good = true ∧ h.left = 0 then
          { s with serve := { s.serve with complete := s.serve.complete ++ [c] } }
        else s
      else s
  | none => s

/-- Clearing OVERFLOW discards the partial message that the dropped word belonged to (R360). -/
def State.clearOverflow (s : State) (q : Nat) : State :=
  s.modHank q fun h =>
    { h with overrun := false, words := h.words.take (h.words.length - h.opened), opened := 0, left := 0, good := false }

end Sys2Proof.Machine
end

