-- ==== Sys2Proof/Machine/Loader.lean ====
section
/-! DEFINITION. The loader (08_compiler_contract.md R289-R306, R650): mailbox commands and responses, the checks of a program image,
and its commit. -/

namespace Sys2Proof.Machine

/-! ## Commands and responses (R301, R302, R361) -/

/-- The words of the first complete command in the queue of context `c`, corrected, or none where one is uncorrectable. -/
def State.frontCommand (s : State) (c : Nat) : Option Bytes :=
  ((s.hank (17 + c)).words.drop 1).take 8 |>.foldl (fun a w =>
    match a, hamRead w.1 w.2 with
    | some b, .ok v => some (b ++ natLe v.toNat 8)
    | some b, .corrected v => some (b ++ natLe v.toNat 8)
    | _, _ => none) (some [])
/-- The length word at the front of a mailbox queue. -/
def State.frontLength (s : State) (c : Nat) : Option DWord :=
  match (s.hank (17 + c)).words with
  | [] => none
  | (w, k) :: _ =>
    match hamRead w k with
    | .ok v => some v
    | .corrected v => some v
    | .bad => some 0
/-- The length word at the front of a mailbox queue is uncorrectable: the command behind it has 8 body words (R358). -/
def State.frontBad (s : State) (c : Nat) : Bool :=
  match (s.hank (17 + c)).words with
  | [] => false
  | (w, k) :: _ => hamRead w k == .bad
/-- Take words off the front of a queue, counting what their check bits show (R357, R358). -/
def State.takeWords (s : State) (q n : Nat) : State :=
  let s := ((s.hank q).words.take n).foldl (fun s w =>
    match hamRead w.1 w.2 with
    | .ok _ => s
    | .corrected _ => s.hankCorr q
    | .bad => s.hankUncorr q) s
  s.modHank q fun h => { h with words := h.words.drop n }
/-- The loader's next command (R361): context and bytes. -/
def State.nextCommand (s : State) : Option (Nat × Bytes) :=
  match s.serve.complete with
  | [] => none
  | c :: _ =>
    match s.frontLength c with
    | some w => if commandWord w then (s.frontCommand c).map fun b => (c, b) else none
    | none => none
/-- Take that command out of its queue. -/
def State.takeCommand (s : State) (c : Nat) : State :=
  let s := s.takeWords (17 + c) 9
  { s with serve := { s.serve with complete := s.serve.complete.erase c } }

/-- Answer a command (R301). -/
def State.respond (s : State) (c : Nat) (head : Bytes) (result tile index sites : Nat) (detail : Bytes) : State :=
  s.pushMsg (23 + c) (byteAt head 1 % 16) 5 (padTo 32 (padTo 4 head ++ le2 result ++ le2 tile ++ le2 index ++ le2 0 ++ le4 sites ++ detail))
/-- A command row: the loader is free and its next command has this OP. -/
def loaderRow (op : Nat) (f : Nat → Bytes → State → State) (s : State) : Host.Outcome State Fault Refusal :=
  .next (match s.serve.loading, s.nextCommand with
    | none, some (c, b) => if byteAt b 0 = op then f c b (s.takeCommand c) else s
    | _, _ => s)

/-- MAILBOX_BAD_MESSAGE (R361, R358, R301): a length word that is not KIND 4 with BYTES 64 is answered HEADER and its words are
discarded as they arrive; so is a command with an uncorrectable word, its length word among them; another OP is answered HEADER too. -/
def execMailboxBadMessage (ctx : BitVec 3) (s : State) : Host.Outcome State Fault Refusal :=
  let c := ctx.toNat
  if 6 ≤ c then .fault .noSuchUnit
  else .next (match s.serve.loading, s.frontLength c with
    | none, some w =>
      if commandWord w then
        if s.serve.complete.head? = some c then
          match s.frontCommand c with
          | none => (s.takeCommand c).respond c [] 3 0xFFFF 0 0 []
          | some b => if 0x10 ≤ byteAt b 0 ∧ byteAt b 0 ≤ 0x12 then s else (s.takeCommand c).respond c b 3 0xFFFF 0 0 []
        else s
      else
        let n := if s.frontBad c then 8 else lengthWords 17 w
        let here := (s.hank (17 + c)).words.length - 1
        ((s.takeWords (17 + c) (1 + min n here)).modHank (17 + c) fun h => { h with discard := n - min n here }).respond c [] 3 0xFFFF 0 0 []
    | _, _ => s)

/-! ## The image (R289-R297) -/

/-- A tile table entry. -/
structure ImgTile where
  rel : Nat
  words : Nat
  restart : Nat
  grant : Nat
  at_ : Nat
  reserved : Nat
/-- A channel table entry. -/
structure ImgChan where
  sender : Nat
  sendCh : Nat
  recvCh : Nat
  receiver : Nat
  depth : Nat
  unitTag : Nat
  flags : Nat
  reserved : Nat
/-- The header fields that the checks and the commit use (R290). -/
structure ImgHead where
  tiles : Nat
  chans : Nat
  relocs : Nat
  patches : Nat
  tileOff : Nat
  chanOff : Nat
  regionOff : Nat
  relocOff : Nat
  patchOff : Nat

def imgHead (b : Bytes) : ImgHead :=
  ⟨leNat b 28 2, leNat b 48 4, leNat b 60 4, leNat b 68 4, leNat b 40 4, leNat b 44 4, leNat b 52 4, leNat b 56 4, leNat b 64 4⟩
/-- Entry `i` of the tile table (R293). -/
def imgTile (b : Bytes) (i : Nat) : ImgTile :=
  let o := (imgHead b).tileOff + 16 * i
  ⟨leNat b o 2, leNat b (o + 2) 2, leNat b (o + 4) 2, leNat b (o + 6) 2, leNat b (o + 8) 4, leNat b (o + 12) 4⟩
def imgTiles (b : Bytes) : List ImgTile := (List.range (imgHead b).tiles).map (imgTile b)
/-- Entry `i` of the channel table (R294). -/
def imgChan (b : Bytes) (i : Nat) : ImgChan :=
  let o := (imgHead b).chanOff + 16 * i
  ⟨leNat b o 2, byteAt b (o + 2), byteAt b (o + 3), leNat b (o + 4) 2, byteAt b (o + 6), byteAt b (o + 7), byteAt b (o + 8),
    leNat b (o + 9) 7⟩
def imgChans (b : Bytes) : List ImgChan := (List.range (imgHead b).chans).map (imgChan b)
/-- Region `n` (R295), its BASE as it stands in the image. -/
def imgRegion (b : Bytes) (n : Nat) : Region :=
  let o := (imgHead b).regionOff + 16 * n
  ⟨byteAt b o, byteAt b (o + 1), leNat b (o + 4) 4, leNat b (o + 8) 8⟩
/-- Relocation and patch records as 64-bit numbers (R296, R297). -/
def imgRelocs (b : Bytes) : List Nat := (List.range (imgHead b).relocs).map fun i => leNat b ((imgHead b).relocOff + 8 * i) 8
def imgPatches (b : Bytes) : List Nat := (List.range (imgHead b).patches).map fun i => leNat b ((imgHead b).patchOff + 8 * i) 8
/-- Words of a tile. -/
def imgWords (b : Bytes) (t : ImgTile) : List DWord := (List.range t.words).map fun k => BitVec.ofNat 64 (leNat b (t.at_ + 8 * k) 8)

/-- The sections of the image, (offset, length), the header and the digest with them (R289). -/
def imgSections (b : Bytes) : List (Nat × Nat) :=
  let h := imgHead b
  [(0, 128), (b.length - 64, 64), (h.tileOff, 16 * h.tiles), (h.chanOff, 16 * h.chans), (h.regionOff, 256),
    (h.relocOff, 8 * h.relocs), (h.patchOff, 8 * h.patches)] ++ (imgTiles b).map fun t => (t.at_, 8 * t.words)
/-- No two sections overlap. -/
def disjoint : List (Nat × Nat) → Bool
  | [] => true
  | x :: l => (l.all fun y => decide (x.2 = 0 ∨ y.2 = 0 ∨ x.1 + x.2 ≤ y.1 ∨ y.1 + y.2 ≤ x.1)) && disjoint l

/-- The header check of R303; `len` is the command's LEN. Reserved bytes of the header and of the tile, channel and region tables
must be 0. -/
def imgHeadOk (b : Bytes) (len : Nat) : Bool :=
  let h := imgHead b
  b.take 4 == [0x53#8, 0x50#8, 0x4E#8, 0x49#8] && byteAt b 5 == 1 && leNat b 32 4 == len && decide (192 ≤ b.length) &&
    decide (1 ≤ h.tiles ∧ h.tiles ≤ 3072) && decide (16 ≤ leNat b 30 2 ∧ leNat b 30 2 ≤ 1024) && leNat b 72 56 == 0 &&
    ((imgSections b).drop 2).all (fun x => decide (x.1 % 8 = 0 ∧ x.1 + x.2 ≤ b.length)) && disjoint (imgSections b) &&
    (imgTiles b).all (fun t => t.reserved == 0) && (imgChans b).all (fun c => c.reserved == 0 && bits c.flags 7 6 == 0) &&
    (List.range 16).all fun n => leNat b (h.regionOff + 16 * n + 2) 2 == 0

/-- Put zeros over a range of a byte string. -/
def zeroBytes (b : Bytes) (off n : Nat) : Bytes :=
  if off + n ≤ b.length then b.take off ++ List.replicate n 0 ++ b.drop (off + n) else b
/-- The field that a patch record names, as (offset, bytes) in the image (R297). -/
def patchField (b : Bytes) (r : Nat) : Option (Nat × Nat) :=
  let t := bits r 11 0
  let w := bits r 23 12
  match bits r 27 24 with
  | 1 => if t = 0xFFF ∧ w < 16 then some ((imgHead b).regionOff + 16 * w + 8, 8) else none
  | 2 => if t = 0xFFF ∧ w < 16 then some ((imgHead b).regionOff + 16 * w + 8, 8) else none
  | 3 => if t < (imgHead b).tiles ∧ w < (imgTile b t).words then some ((imgTile b t).at_ + 8 * w, 4) else none
  | 4 => if t < (imgHead b).tiles ∧ w < (imgTile b t).words then some ((imgTile b t).at_ + 8 * w, 4) else none
  | _ => none
/-- The bytes the digest covers (R291): every patched field and every FILLED bit read as 0. -/
def digestBytes (b : Bytes) : Bytes :=
  let h := imgHead b
  let b' := (imgPatches b).foldl (fun a r => match patchField b r with
    | some (o, n) => zeroBytes a o n
    | none => a) b
  let b' := (List.range h.patches).foldl (fun a i =>
    a.set (h.patchOff + 8 * i + 3) (BitVec.ofNat 8 (byteAt a (h.patchOff + 8 * i + 3) &&& 0xEF))) b'
  b'.take (b.length - 64)

/-! ## Structure (R270, R278, R283, R284) -/

/-- The registers that a CVT, MOV or CTX.ATTN word names stay in the file, and the counts of QW, LOOP and SKIP are in range (R264, R273,
R282). A WARP, WEFT or VEC word whose registers or array are out of range faults at issue instead (R256, R258, R260). -/
def wordRanges (w : DWord) : Bool :=
  let fits (hi lo n : Nat) : Bool := decide (wf w hi lo + n ≤ 32)
  match wCls w, wOp w with
  | 3, 5 => decide (1 ≤ wf w 27 21 ∧ wf w 27 21 ≤ 64)
  | 3, _ => fits 55 51 (wf w 50 48 + 1)
  | 4, 1 => fits 17 13 (wf w 12 8 + 1)
  | 4, 3 => fits 17 13 (wf w 12 8 + 1)
  | 4, 4 => fits 17 13 (wf w 12 8 + 1)
  | 6, 2 => fits 43 39 2
  | 8, 1 => decide (1 ≤ wf w 39 28)
  | 8, 2 => decide (1 ≤ wf w 48 41)
  | _, _ => true

/-- A word on its own keeps R270 and R278; `kinds` are the kinds of the image's regions. -/
def wordStructure (kinds : List Nat) (w : DWord) : Bool :=
  wordRanges w &&
    (match wCls w, wOp w with
    | 4, 3 => wf w 39 34 + 1 == ceilDiv (vectorBytes (wf w 42 40) (128 * (wf w 12 8 + 1))) 64
    | 4, 4 => wf w 39 34 + 1 == ceilDiv (vectorBytes (wf w 42 40) (128 * (wf w 12 8 + 1))) 64
    | 6, 3 => kinds.getD (wf w 55 52) 0 != 0
    | 6, 4 => kinds.getD (wf w 55 52) 0 != 0
    | _, _ => true)

/-- The first word that breaks the structure rules; `ends` are the last words of the open bodies, innermost first (R283, R284). -/
def structureFault (kinds : List Nat) (n : Nat) : Nat → List Nat → List DWord → Option Nat
  | _, _, [] => none
  | a, ends, w :: ws =>
    let ends := ends.filter fun e => decide (a ≤ e)
    let inside (e : Nat) : Bool := match ends with
      | [] => true
      | e' :: _ => decide (e ≤ e')
    if !wordStructure kinds w then some a
    else if wCls w = 8 ∧ wOp w = 1 then
      let e := a + wf w 39 28
      if n ≤ e ∨ !inside e ∨ 4 ≤ ends.length then some a else structureFault kinds n (a + 1) (e :: ends) ws
    else if wCls w = 8 ∧ wOp w = 2 then
      let k := wf w 48 41
      if !inside (a + k) ∨ (ws.take k).any (fun x => wCls x == 8 && wOp x == 1) then some a
      else structureFault kinds n (a + 1) ends ws
    else structureFault kinds n (a + 1) ends ws

/-! ## The checks (R303) -/

/-- Why a load fails: result, tile, index and detail. -/
structure LoadFail where
  result : Nat
  tile : Nat
  index : Nat
  detail : Bytes
  deriving DecidableEq, Repr

/-- The first failing item of a check. -/
def firstBad {α : Type} (result : Nat) (tile index : α → Nat) (bad : α → Bool) (l : List α) : Option LoadFail :=
  (l.find? bad).map fun x => ⟨result, tile x, index x, []⟩

/-- Absolute flit form of a relative tile or I/O-ring unit of the image (R292, R294). -/
def State.absDest (s : State) (p d : Nat) : Nat :=
  if isUnit d then 2048 * ((halfOf d + halfOf (s.partBase p)) % 2) + d % 2048 else s.relTile p d
/-- An I/O-ring unit that is fitted, in the half that the flit form names (R25, R211). -/
def State.unitFitted (s : State) (u : Nat) : Bool :=
  let k := bits u 10 5
  if isStackUnit u then stackFitted s.variant (k / 16) && k / 32 == halfOf u
  else if isIoUnit u then
    if k = 8 then halfOf u == 0 else s.linkFitted k && k / 4 == halfOf u
  else false
/-- A valid relative tile that lands on a tile of the partition (R292). -/
def State.relTileOk (s : State) (p d : Nat) : Bool := tileOk d && s.relOk p d && s.ownerOf (s.relTile p d) == some p

/-- Relocate one tile's words (R296), or name the record that fails. `recs` are (record number, record) of this tile. -/
def relocWords (base : Nat) : List (Nat × Nat) → List DWord → Except Nat (List DWord)
  | [], ws => .ok ws
  | (i, r) :: rs, ws =>
    if bits r 63 28 ≠ 0 then .error i
    else match ws[bits r 23 12]? with
    | none => .error i
    | some w =>
      match bits r 27 24, lineAt w with
      | 1, some lo =>
        let v := wf w (lo + 11) lo + base
        if 4095 < v then .error i
        else relocWords base rs (ws.set (bits r 23 12) (BitVec.ofNat 64 (w.toNat - wf w (lo + 11) lo * 2 ^ lo + v * 2 ^ lo)))
      | 2, _ =>
        if wCls w = 8 ∧ (wOp w = 3 ∨ wOp w = 4) then
          let v := (wf w 31 0 + base) % 2 ^ 32
          relocWords base rs (ws.set (bits r 23 12) (BitVec.ofNat 64 (w.toNat - wf w 31 0 + v)))
        else .error i
      | _, _ => .error i

/-- Records with their numbers. -/
def numbered {α : Type} (l : List α) : List (Nat × α) := l.zipIdx.map fun e => (e.2, e.1)

/-- The words of a tile after relocation, as the commit stores them. -/
def State.finalWords (s : State) (p : Nat) (b : Bytes) (i : Nat) (t : ImgTile) : List DWord :=
  match relocWords (s.sliceWin p).1 ((numbered (imgRelocs b)).filter fun e => bits e.2 11 0 == i) (imgWords b t) with
  | .ok ws => ws
  | .error _ => []
/-- A region as the commit stores it (R296). -/
def State.finalRegion (s : State) (p : Nat) (g : Region) : Region :=
  if g.kind = 1 then { g with base := g.base + s.reg Reg.cfgPartStackBase p } else g
/-- The region check (R303). -/
def State.regionFits (s : State) (p : Nat) (g : Region) : Bool :=
  match g.kind with
  | 0 => true
  | 1 => decide (s.reg Reg.cfgPartStackBase p ≤ g.base ∧ g.base + g.bound ≤ s.reg Reg.cfgPartStackBase p + s.reg Reg.cfgPartStackLines p)
  | 2 => decide (g.base % 64 = 0 ∧ g.win < 16) && s.rdmaValid p g.win
  | _ => false

/-- A patch record fails the load (R297). -/
def patchBad (b : Bytes) (r : Nat) : Bool :=
  bits r 28 28 == 0 || bits r 31 29 != 0 || bits r 63 48 != 0 ||
    (match patchField b r with
    | none => true
    | some (o, _) =>
      match bits r 27 24 with
      | 1 => byteAt b (o - 8) != 2
      | 2 => byteAt b (o - 8) != 1 || leNat b (o + 4) 4 != 0
      | 3 => byteAt b (o + 7) != 0x83 || byteAt b (o + 3) != 0
      | _ => byteAt b (o + 7) != 0x83)

/-- The draw of an image tile (R299): the larger of GRANT and its largest PWR.DECL. -/
def tileDrawOf (grant : Nat) (ws : List DWord) : Nat :=
  (ws.filter fun w => wCls w == 9 && wOp w == 0).foldl (fun m w => max m (wf w 55 44)) grant

/-- The channel check (R303). -/
def State.chanBad (s : State) (p : Nat) (rels : List Nat) (before : List ImgChan) (c : ImgChan) : Bool :=
  let bad (d : Nat) : Bool := if isUnit d then !s.unitFitted (s.absDest p d) else !rels.contains d
  decide (4096 ≤ c.sender ∨ 4096 ≤ c.receiver) || bad c.sender || bad c.receiver ||
    decide (32 ≤ c.sendCh ∨ 32 ≤ c.recvCh ∨ c.depth < 1 ∨ 8 < c.depth) ||
    before.any (fun x => (x.receiver == c.receiver && x.recvCh == c.recvCh) || (x.sender == c.sender && x.sendCh == c.sendCh)) ||
    (!isUnit c.sender && c.unitTag != 0) || (bits c.flags 0 0 == 1 && isUnit c.receiver) || isStackUnit c.receiver
/-- The first channel entry that fails. -/
def State.firstChan (s : State) (p : Nat) (rels : List Nat) : Nat → List ImgChan → List ImgChan → Option LoadFail
  | _, _, [] => none
  | i, before, c :: cs => if s.chanBad p rels before c then some ⟨11, 0xFFFF, i, []⟩ else s.firstChan p rels (i + 1) (c :: before) cs

/-- The first relocation record that fails, in ascending tile index and then record order (R303); a record of a tile that the image
does not have comes after those of its tiles. -/
def State.firstReloc (s : State) (p : Nat) (b : Bytes) : Option LoadFail :=
  let recs := numbered (imgRelocs b)
  ((numbered (imgTiles b)).findSome? fun t =>
    match relocWords (s.sliceWin p).1 (recs.filter fun e => bits e.2 11 0 == t.1) (imgWords b t.2) with
    | .ok _ => none
    | .error i => some ⟨12, t.1, i, []⟩).or
  ((recs.find? fun e => decide ((imgHead b).tiles ≤ bits e.2 11 0)).map fun e => ⟨12, bits e.2 11 0, e.1, []⟩)
/-- The tile index that a failing patch record reports: none for a record of the region table (R297, R301). -/
def patchTile (r : Nat) : Nat := if bits r 11 0 = 0xFFF then 0xFFFF else bits r 11 0
/-- The first patch record that fails, in ascending tile index and then record order (R303). -/
def firstPatch (b : Bytes) : Option LoadFail :=
  let recs := (numbered (imgPatches b)).filter fun x => patchBad b x.2
  let low := recs.foldl (fun m x => min m (patchTile x.2)) 0xFFFF
  firstBad 13 (fun (x : Nat × Nat) => patchTile x.2) Prod.fst (fun x => patchTile x.2 == low) recs

/-- Draws of the image by tile: logical tile and draw. -/
def State.imgDraws (s : State) (p : Nat) (b : Bytes) : List (Nat × Nat) :=
  (imgTiles b).map fun t => (s.relTile p t.rel, tileDrawOf t.grant (imgWords b t))
/-- The power check (R299). -/
def State.powerFault (s : State) (p : Nat) (b : Bytes) : Option LoadFail :=
  let ds := s.imgDraws p b
  (List.range 50).findSome? fun d =>
    let mine := ((ds.filter fun e => districtOf (s.physOf e.1) == d).map Prod.snd).sum
    let sum := mine + s.districtDraw d (some p)
    let alloc := s.fld Reg.pwrDistAlloc d 19 0
    if alloc < sum then some ⟨15, 0xFFFF, 0, le1 (d / 25) ++ le1 (d % 25) ++ le2 0 ++ le4 sum ++ le4 alloc⟩ else none

/-- The checks of R303 from HEADER on, in order. -/
def State.imageFault (s : State) (p len : Nat) (b : Bytes) : Option LoadFail :=
  let fail (r : Nat) : Option LoadFail := some ⟨r, 0xFFFF, 0, []⟩
  if !imgHeadOk b len then fail 3
  else if leNat b 6 2 ≠ s.fld Reg.cfgStepping 0 15 0 then fail 4
  else if leNat b 8 8 ≠ 0 ∧ leNat b 8 8 ≠ s.fprint then fail 5
  else if sha512 (digestBytes b) ≠ b.drop (b.length - 64) then fail 6
  else
    let ts := numbered (imgTiles b)
    let rels := (imgTiles b).map ImgTile.rel
    let words := ts.flatMap fun t => (numbered (imgWords b t.2)).map fun w => (t.1, w)
    let kinds := (List.range 16).map fun n => (imgRegion b n).kind
    [firstBad 7 Prod.fst (fun _ => 0) (fun t => decide (4096 ≤ t.2.rel) || !s.relTileOk p t.2.rel || (rels.take t.1).contains t.2.rel ||
        decide (t.2.words < 1 ∨ 4096 < t.2.words ∨ t.2.words ≤ t.2.restart)) ts,
      if (s.sliceWin p).2 < leNat b 36 4 then fail 8 else none,
      firstBad 9 (fun (x : Nat × Nat × DWord) => x.1) (fun x => x.2.1) (fun x => !wordLegal x.2.2) words,
      ts.findSome? fun t =>
        if 4095 < t.2.grant then some ⟨10, t.1, 0, []⟩
        else (structureFault kinds t.2.words 0 [] (imgWords b t.2)).map fun a => ⟨10, t.1, a, []⟩,
      s.firstChan p rels 0 [] (imgChans b),
      s.firstReloc p b,
      firstPatch b,
      firstBad 14 (fun _ => 0xFFFF) id (fun n => !s.regionFits p (s.finalRegion p (imgRegion b n))) (List.range 16),
      s.powerFault p b].findSome? id

/-! ## Commit (R304) -/

/-- A partition loses its program: its tiles issue nothing, and the channels that units hold towards them go. -/
def State.clearProgram (s : State) (p : Nat) : State :=
  let ts := s.partTiles p
  let queued := (s.serve.unitCh.filter fun e => ts.contains (e.1 / 32)).flatMap fun e => e.2.queue.filterMap Prod.snd
  let s := queued.foldl State.freeIngress s
  let s := ts.foldl (fun s t => s.modSpin t fun _ => Spindle.init) s
  let s := { s with flits := s.flits.filter fun f => !flitTo ts f
                    serve := { s.serve with unitCh := s.serve.unitCh.filter fun e => !ts.contains (e.1 / 32) } }
  let s := (s.modPart p fun _ => PartSt.init).modServPart p fun q => { q with batch := [], next := [], prev := [], records := [] }
  ((s.setReg Reg.trnPstate p 0).setReg Reg.trnWdg p 0)

/-- The parity a loaded word is stored with. -/
def parities (ws : List DWord) : SMap Byte := (numbered ws).foldl (fun m e => SMap.set 0 m e.1 (wordParity e.2)) []
/-- A loaded Spindle (R304): words with parity, registers and counts at their reset values, issue at word 0. -/
def loadedSpindle (p : Nat) (t : ImgTile) (ws : List DWord) : Spindle :=
  { Spindle.init with
    part := some p, words := (numbered ws).foldl (fun m e => SMap.set 0 m e.1 e.2) [], parity := parities ws, len := t.words,
    restart := t.restart, grant := t.grant, nextGrant := t.grant }

/-- Write one channel's descriptors; its sender holds a credit for every entry of its depth. -/
def State.loadChannel (s : State) (p : Nat) (c : ImgChan) : State :=
  let a := s.absDest p c.sender
  let d := s.absDest p c.receiver
  let spine := if bits c.flags 1 1 = 1 then some (bits c.flags 5 2) else none
  let s := if isUnit d then s
    else s.modRecv d c.recvCh fun _ => ⟨true, a, c.sendCh, c.depth, bits c.flags 0 0 == 1, [], 0, none⟩
  if isUnit a then
    if isUnit d then s else s.modUnitSend (32 * d + c.recvCh) fun _ => ⟨a, c.sendCh, c.unitTag, c.depth, spine, c.depth, []⟩
  else s.modSpin a fun sp => { sp with send := SMap.set SendCh.init sp.send c.sendCh ⟨true, d, c.recvCh, c.depth, spine, c.depth⟩ }

/-- Clear the partition's spill counters (R103, R304). -/
def State.clearSpills (s : State) (p : Nat) : State :=
  (List.range 256).foldl (fun s t => (s.setReg (Reg.wrpSpillCnt + 1024 * p + 4 * t) 0 0).setReg (Reg.wrpSpillMax + 1024 * p + 4 * t) 0 0) s

/-- After a commit, sessions of the partition that were SUSPENDED on the same MODEL go on; others end (R322, R363). -/
def State.resumeSessions (s : State) (p model : Nat) : State :=
  ((s.sessionsOf p).filter fun x => x.st == .suspended).foldl (fun s x =>
    if x.model.toNat = model then s.modSession x.id fun y => { y with st := y.prev } else s.endSession x.id 0 8) s

/-- Commit an image that passed every check (R304, R650). -/
def State.commitImage (s : State) (p ctag start : Nat) (b : Bytes) : State :=
  let ts := numbered (imgTiles b)
  let loaded := ts.map fun t => (s.relTile p t.2.rel, loadedSpindle p t.2 (s.finalWords p b t.1 t.2))
  let prog : Prog := { seed := BitVec.ofNat 64 (leNat b 16 8), model := leNat b 24 4,
                       regions := (List.range 16).map fun n => s.finalRegion p (imgRegion b n),
                       sites := (imgPatches b).map fun r => ⟨bits r 11 0, bits r 23 12, bits r 27 24, bits r 47 32⟩,
                       tiles := s.imgDraws p b }
  let s := s.clearProgram p
  let s := loaded.foldl (fun s e => s.modSpin e.1 fun _ => e.2) s
  let s := (imgChans b).foldl (fun s c => s.loadChannel p c) s
  let s := (s.modPart p fun _ => { PartSt.init with prog := some prog, step := start }).clearSpills p
  let s := ((s.setReg Reg.trnLead p (leNat b 30 2)).setReg Reg.trnPstate p 1)
  let s := (s.raiseIn p 0x1101 4 (le1 p ++ le2 ctag ++ le4 prog.model ++ le6 start)).layBraid p
  let s := if s.fld Reg.pwrState 0 2 0 = 2 then s.setPower 3 else s
  s.resumeSessions p prog.model

/-! ## The rows -/

/-- LOAD (R302, R303): for a quiescent partition, fetch the image on the command's queue pair. -/
def execLoad (s : State) : Host.Outcome State Fault Refusal :=
  loaderRow 0x10 (fun c b s =>
    let p := byteAt b 1
    if 16 ≤ p then s.respond c b 3 0xFFFF 0 0 []
    else if !s.quiescent p ∨ s.fld Reg.bstStatus 0 0 0 = 1 then s.respond c b 1 0xFFFF 0 0 []
    else
      let s := { s with serve := { s.serve with loading := some (c, b) } }
      s.send (.rdmaRead (s.ctx c).qp (BitVec.ofNat 64 (leNat b 8 8)) (BitVec.ofNat 32 (leNat b 16 4)) (leNat b 4 4))) s

/-- LOAD_IMAGE_ARRIVED (R303, R304): the checks in order; the image is committed or the load is rejected. -/
def execLoadImageArrived (image : Bytes) (s : State) : Host.Outcome State Fault Refusal :=
  .next (match s.serve.loading with
    | none => s
    | some (c, cmd) =>
      let p := byteAt cmd 1
      let len := leNat cmd 4 4
      if image.length ≠ len then s
      else
        let s := { s with serve := { s.serve with loading := none } }
        if !s.quiescent p then s.respond c cmd 1 0xFFFF 0 0 []
        else match s.imageFault p len image with
          | some f => s.respond c cmd f.result f.tile f.index 0 f.detail
          | none => (s.commitImage p (leNat cmd 2 2) (leNat cmd 20 6) image).respond c cmd 0 0xFFFF 0 0 [])

/-- LOAD_FETCH_TIMEOUT (R303): the fetch has failed, or has not completed within 1 s. -/
def execLoadFetchTimeout (s : State) : Host.Outcome State Fault Refusal :=
  .next (match s.serve.loading with
    | none => s
    | some (c, cmd) => { s with serve := { s.serve with loading := none } }.respond c cmd 2 0xFFFF 0 0 [])

/-- Region `r` of the loaded program. -/
def State.loadedRegion (s : State) (p r : Nat) : Region :=
  match (s.part p).prog with
  | some g => g.regions.getD r default
  | none => default
/-- Write a patch value into one site of a loaded program (R298). -/
def State.patchSite (s : State) (p : Nat) (v : Nat) (x : PatchSite) : State :=
  let region (f : Region → Region) : State := s.modPart p fun q =>
    { q with prog := q.prog.map fun g => { g with regions := g.regions.modify x.word f } }
  match x.type with
  | 1 => region fun g => { g with base := v }
  | 2 => region fun g => { g with base := v % 2 ^ 32 + s.reg Reg.cfgPartStackBase p }
  | _ =>
    let m := if x.type = 3 then 2 ^ 24 else 2 ^ 32
    match (s.partTiles p)[x.tile]? with
    | none => s
    | some t => s.modSpin t fun sp =>
      let w := SMap.get 0 sp.words x.word
      let w := BitVec.ofNat 64 (w.toNat - wf w 31 0 + v % m)
      { sp with words := SMap.set 0 sp.words x.word w, parity := SMap.set 0 sp.parity x.word (wordParity w) }

/-- PATCH (R298): one value into every site of a quiescent partition's program that carries the PATCH_ID. A patched region that
fails the region check rejects the whole command. -/
def execPatch (s : State) : Host.Outcome State Fault Refusal :=
  loaderRow 0x11 (fun c b s =>
    let p := byteAt b 1
    if 16 ≤ p then s.respond c b 3 0xFFFF 0 0 []
    else if !s.quiescent p then s.respond c b 1 0xFFFF 0 0 []
    else
      let xs : List PatchSite := match (s.part p).prog with
        | some g => g.sites.filter fun (x : PatchSite) => x.id == leNat b 26 2
        | none => []
      if xs.isEmpty then s.respond c b 16 0xFFFF 0 0 []
      else
        let t := xs.foldl (fun (s : State) x => s.patchSite p (leNat b 32 8) x) s
        match (xs.filter fun x => decide (x.type ≤ 2)).find? fun x => !t.regionFits p (t.loadedRegion p x.word) with
        | some x => s.respond c b 14 0xFFFF x.word 0 []
        | none => t.respond c b 0 0xFFFF 0 xs.length []) s

/-- UNLOAD (R302): a quiescent partition loses its program; its sessions end UNLOADED, and SUSPENDED ones PARTITION_FAULT (R322). -/
def execUnload (s : State) : Host.Outcome State Fault Refusal :=
  loaderRow 0x12 (fun c b s =>
    let p := byteAt b 1
    if 16 ≤ p then s.respond c b 3 0xFFFF 0 0 []
    else if !s.quiescent p then s.respond c b 1 0xFFFF 0 0 []
    else
      let s := (s.sessionsOf p).foldl (fun s x => s.endSession x.id 0 (if x.st = .suspended then 8 else 13)) (s.clearProgram p)
      let s := if s.noPrograms ∧ s.fld Reg.pwrState 0 2 0 = 3 then s.setPower 2 else s
      s.respond c b 0 0xFFFF 0 0 []) s

end Sys2Proof.Machine
end

