-- ==== Sys2Proof/Machine/WgtOps.lean ====
section
/-! DEFINITION. Shared operations of the weights (10_weights.md): the arrays of a model, the golden copy, shard requests, re-checks,
and sessions when a model's weights change or are lost. -/

namespace Sys2Proof.Machine

/-- A variant with stacks: it keeps a golden copy (R395, R396). -/
def State.stacked (s : State) : Bool := s.variant != .s0i1
/-- Physical array key of a target, 16 * logical tile + index (R377). -/
def State.targetKey (s : State) (t : Nat) : Nat := arrKey (s.sparedTile (t / 16)) (t % 16)
/-- The target whose weights an array of a physical tile holds: of the logical tile that the sparing map puts there, or of the slot
that its row's spare tile mirrors. -/
def State.targetOf (s : State) (phys idx : Nat) : Option Nat :=
  let r := s.row (rowOf phys)
  if phys % 32 = 24 then
    match r.failed, r.mirror with
    | some k, _ => if k < 24 then some (16 * (32 * rowOf phys + k) + idx) else none
    | none, some k => some (16 * (32 * rowOf phys + k) + idx)
    | none, none => none
  else if r.failed = some (phys % 32) then none else some (16 * phys + idx)

/-- Numbers with list elements, the numbers first. -/
def ModelSt.items (x : ModelSt) : List (Nat × Nat × ShardRes) :=
  (numbered x.layers).flatMap fun l => (numbered l.2.shards).map fun h => (l.1, h.1, h.2)
/-- The arrays of a model, in layer order and target order. -/
def ModelSt.arrays (x : ModelSt) : List Nat := x.items.flatMap fun e => e.2.2.targets
/-- Where a target belongs: model entry, layer, shard, position (R369). -/
def State.locate (s : State) (t : Nat) : Option (Nat × Nat × Nat × Nat) :=
  s.wgt.models.findSome? fun m => m.2.items.findSome? fun e =>
    (e.2.2.targets.idxOf? t).map fun k => (m.1, e.1, e.2.1, k)
/-- The shard of a model's layer. -/
def ModelSt.shardAt (x : ModelSt) (l h : Nat) : ShardRes := ((x.layers.getD l default).shards.getD h default)

/-! ## The golden copy (R395-R397) -/

/-- Image slots of the weight area. -/
def State.goldSlots (s : State) : Nat :=
  let n := s.fld Reg.wgtGoldSlots 0 23 0
  if s.variant = .s0i1 ∧ n = 49152 then 64 else n
/-- Weight images that running jobs have staged. -/
def State.stagedImages (s : State) : Nat :=
  (s.wgt.jobs.map fun j => if j.2.op = 4 then 0 else (j.2.staged.map fun e => e.2.images.length).sum).sum
/-- Free image slots. -/
def State.goldFree (s : State) : Nat := s.goldSlots - s.wgt.gold.length - s.stagedImages
/-- Slot images that the weight area holds for adapters, and the free ones (R412). -/
def State.adptFree (s : State) : Nat :=
  (if s.stacked then s.fld Reg.wgtAdptImages 0 15 0 else 0) - (s.adapters.map fun e => e.2.foot.length).sum
/-- Put a golden image. -/
def State.setGold (s : State) (t : Nat) (g : Gold) : State :=
  if s.stacked then { s with wgt := { s.wgt with gold := SMap.insert s.wgt.gold t g } } else s
def State.gold (s : State) (t : Nat) : Option Gold := (s.wgt.gold.find? fun e => e.1 == t).map Prod.snd
/-- Drop the golden images of some targets. -/
def State.dropGold (s : State) (ts : List Nat) : State :=
  { s with wgt := { s.wgt with gold := s.wgt.gold.filter fun e => !ts.contains e.1 } }
/-- ADIG of the array that serves a target. -/
def State.adigAt (s : State) (t : Nat) : Bytes := (s.warp (s.targetKey t)).adig
/-- The golden image of a target agrees with its array's ADIG. -/
def State.goldGood (s : State) (t : Nat) : Bool :=
  match s.gold t with
  | some g => adigOf g.image == s.adigAt t
  | none => false
/-- A verify read of intact cells agrees with ADIG (R394). -/
def State.cellsGood (s : State) (t : Nat) : Bool :=
  let a := s.warp (s.targetKey t)
  adigOf a.image == a.adig

/-! ## Shard requests (R401, R402) -/

/-- Requests that are outstanding and have not expired. -/
def State.reqPending (s : State) : Nat := (s.wgt.reqs.filter fun r => !r.lost).length
/-- Raise a shard request, unless the same one is outstanding or 64 are (R401). -/
def State.addRequest (s : State) (model epoch layer shard : Nat) (e : Option Nat) : State :=
  let same (r : ShardReq) : Bool := r.model == model && r.layer == layer && r.shard == shard && r.adapter == e && !r.lost
  if s.wgt.reqs.any same ∨ 64 ≤ s.reqPending then s
  else
    let n := s.wgt.nextReq
    let r : ShardReq := ⟨n, model, epoch, layer, shard, e, false, []⟩
    let s := { s with wgt := { s.wgt with reqs := s.wgt.reqs ++ [r], nextReq := (n + 1) % 65536 } }
    (s.setBit Reg.wgtStatus 0 2).raise 0x6004 (le2 n ++ le4 model ++ le2 epoch ++ le2 layer ++ le2 shard)
/-- Request the shard of a target. -/
def State.requestShard (s : State) (t : Nat) : State :=
  match s.locate t with
  | some (m, l, h, _) => s.addRequest (s.model m).id ((s.model m).layers.getD l default).epoch l h none
  | none => s
/-- Request the shard of a target that is to be rewritten once it is restored (R399). -/
def State.requestFix (s : State) (t : Nat) : State :=
  match s.locate t with
  | some (m, l, h, _) =>
    let s := s.requestShard t
    let mine (r : ShardReq) : Bool := r.model == (s.model m).id && r.layer == l && r.shard == h && r.adapter.isNone && !r.lost
    { s with wgt := { s.wgt with reqs := listUpdate mine (fun r => { r with fix := r.fix ++ [t] }) s.wgt.reqs } }
  | none => s
/-- Drop requests. -/
def State.dropRequests (s : State) (q : ShardReq → Bool) : State :=
  { s with wgt := { s.wgt with reqs := s.wgt.reqs.filter fun r => !q r } }

/-- End every session of a model's partitions, at its next engine tick. -/
def State.endModelSessions (s : State) (id status : Nat) (q : Session → Bool) : State :=
  (s.serve.sessions.filter fun x => x.model.toNat == id && q x).foldl (fun s x => s.endAtTick x.id 0 status) s

/-! ## Re-checks (R398, R399) -/

/-- Act on one array of a re-checked shard (R399): `v` the verify read matches, `g` the golden image matches. -/
def State.recheckArray (s : State) (t : Nat) (v g : Bool) : State :=
  match v, g with
  | true, true => s
  | false, true => s.svcRequest (s.targetKey t / 16) (t % 16) 2
  | true, false => if s.stacked then s.setGold t ⟨(s.warp (s.targetKey t)).image, true⟩ else s
  | false, false => s.requestFix t
/-- Judge a shard whose targets have all had a verify read: (target, its read matched). -/
def State.recheckShard (s : State) (m l h : Nat) (reads : List (Nat × Bool)) : State :=
  let s := s.bump Reg.wgtRecheckCnt
  let vOk := reads.all Prod.snd
  let gOk := if s.stacked then reads.all fun e => s.goldGood e.1 else true
  let row := match vOk, gOk with
    | true, true => 1
    | false, g => if g ∧ s.stacked then 2 else 4
    | true, false => 3
  if row = 1 then s
  else
    let s := (s.bump Reg.wgtRecheckFailCnt).setBit Reg.wgtStatus 0 1
    let s := s.raise 0x6005 (le4 (s.model m).id ++ le2 l ++ le2 h ++ le1 row)
    reads.foldl (fun s e => s.recheckArray e.1 e.2 (if s.stacked then s.goldGood e.1 else e.2)) s
/-- A verify read at the end of a margin scan (R398). -/
def State.recheck (s : State) (t : Nat) (ok : Bool) : State :=
  if s.fld Reg.wgtRecheckCfg 0 0 0 = 0 then s
  else match s.locate t with
    | none => s
    | some (m, l, h, _) =>
      let x := s.model m
      let mine (e : Nat × Nat × Nat × Bool) : Bool := e.1 == l && e.2.1 == h
      let l' := (x.verified.filter fun e => !(mine e && e.2.2.1 == t)) ++ [(l, h, t, ok && s.cellsGood t)]
      let reads := (l'.filter mine).map fun e => (e.2.2.1, e.2.2.2)
      if (x.shardAt l h).targets.all fun u => reads.any fun e => e.1 == u then
        (s.modModel m fun x => { x with verified := l'.filter fun e => !mine e }).recheckShard m l h reads
      else s.modModel m fun x => { x with verified := l' }

end Sys2Proof.Machine
end

