-- ==== Sys2Proof/Machine/Services.lean ====
section
/-! DEFINITION. Service of Warp arrays by the spare (03_warp_arrays.md R113-R130), with the calibration that a service runs
(14_calibration_and_thermal.md R556-R560). Tiles are packed physical tiles. -/

namespace Sys2Proof.Machine

/-- Detail items of a Warp event: the logical tile, or the physical one that serves none, and the array index (R130). -/
def State.arrItems (s : State) (phys idx : Nat) : Bytes := le2 ((s.logOf phys).getD phys) ++ le1 idx
/-- WRP_SVC_RESULT of an array. -/
def State.svcResult (s : State) (phys idx op r : Nat) : State := s.setReg Reg.wrpSvcResult (arrKey phys idx) (r + op * 256)

/-- A physical tile's requests wait: WRP_STATE of an array returns from QUEUED when no request names it. -/
def State.unqueue (s : State) (phys idx : Nat) : State :=
  let s := s.modTile phys fun q => { q with queue := q.queue.filter fun r => r.arr != idx }
  s.modWarp (arrKey phys idx) fun a => if a.code = 2 then { a with code := 1 } else a

/-- Count an array write, with its warnings (R113). The calibration epoch increments (R104). -/
def State.countWrite (s : State) (phys idx : Nat) : State :=
  let k := arrKey phys idx
  let n := s.fld Reg.wrpWriteCnt k 19 0 + 1
  let s := (s.bumpSat Reg.wrpWriteCnt k 19 0).bump Reg.wrpCalEpoch k
  let s := s.setReg Reg.wrpCalEpoch k (s.reg Reg.wrpCalEpoch k % 65536)
  if n = 900000 then (s.setBit Reg.wrpStatus 0 2).raiseIn 0 0x3004 (halfOf phys) (s.arrItems phys idx) else s
/-- At 1,000,000 writes the array refuses further writes (R113). -/
def State.worn (s : State) (phys idx : Nat) : Bool := decide (1000000 ≤ s.fld Reg.wrpWriteCnt (arrKey phys idx) 19 0)
/-- A refused write: WARP_WORN, and a suspect unit, because the array needed a rewrite. -/
def State.wornOut (s : State) (phys idx : Nat) : State :=
  let s := s.raiseIn 0 0x3005 (halfOf phys) (s.arrItems phys idx)
  s.suspect (if idx = 8 then 3 else 2) 5 phys ((s.logOf phys).getD 0xFFFF) idx 0xFF 0 0
/-- The same in a service, with result WORN. -/
def State.refuseWorn (s : State) (phys idx op : Nat) : State := (s.svcResult phys idx op 6).wornOut phys idx

/-! ## Periodic rounds (R116, R560)

A round asks for its services as firmware does (`State.svcRequest`). What it asks for may merge with a request that is queued already, or
give way to a later command for the same array; it is asked for again at the next boundary at which the array is free
(`State.roundBoundary`; log entry 118). -/

/-- The array can be taken into service (R117, R118): a primary array that serves its index, or the spare, on a Spindle that still accepts
requests (R124). -/
def State.canServe (s : State) (phys idx : Nat) : Bool :=
  let c := (s.warp (arrKey phys idx)).code
  !(s.tile phys).spareSuspect && (idx == 8 || c == 1 || c == 2 || c == 3)
/-- Ask for a service of a round, unless one of the array is under way. -/
def State.askFor (s : State) (phys idx op : Nat) : State := if s.svcPending phys idx then s else s.svcRequest phys idx op

/-- The margin scan round goes on with the first of the arrays that can be scanned, and ends with the last (R116). -/
def State.scanNext : List Nat → State → State
  | [], s =>
    let s := s.setFld Reg.wrpScanStat 0 31 16 s.cal.scanLow
    { (s.setFld Reg.wrpScanStat 0 0 0 0) with cal := { s.cal with scan := [], scanLow := 0 } }
  | k :: l, s =>
    if s.canServe (k / 16) (k % 16) then { s with cal := { s.cal with scan := k :: l } }.askFor (k / 16) (k % 16) 3
    else State.scanNext l s

def State.calHalf (s : State) (h : Nat) : CalHalf := if h = 0 then s.cal.east else s.cal.west
def State.setCalHalf (s : State) (h : Nat) (x : CalHalf) : State :=
  { s with cal := if h = 0 then { s.cal with east := x } else { s.cal with west := x } }
/-- Start array index `i` on every Spindle of the district that a half serves (R560). -/
def State.calIndex (s : State) (h i : Nat) : State :=
  let d := (s.calHalf h).d
  (districtTiles (25 * h + d)).foldl (fun s p =>
    if s.canServe p i then (s.modTile p fun q => { q with calLeft := [i] }).askFor p i 1 else s.modTile p fun q => { q with calLeft := [] })
    (s.setCalHalf h ⟨d, some i⟩)
/-- The half's district goes on, by fuel: once no Spindle has the index under way left, the next index starts; after index 8 the district
is done, and the round ends with the last district of both halves (R560). -/
def State.calOn : Nat → Nat → State → State
  | 0, _, s => s
  | n + 1, h, s =>
    let x := s.calHalf h
    match x.idx with
    | none => s
    | some i =>
      if (districtTiles (25 * h + x.d)).any fun p => !(s.tile p).calLeft.isEmpty then s
      else if i < 8 then State.calOn n h (s.calIndex h (i + 1))
      else
        let s := s.setCalHalf h ⟨x.d + 1, none⟩
        if s.cal.east.d = 25 ∧ s.cal.west.d = 25 then
          ((s.setCalHalf 0 ⟨0, none⟩).setCalHalf 1 ⟨0, none⟩).setFld Reg.calStatus 0 0 0 0
        else s
/-- The half that a physical tile lies in, 0 East. -/
def eastWest (phys : Nat) : Nat := districtOf phys / 25
/-- A CALIBRATE of the round has ended on a Spindle. -/
def State.calEnded (s : State) (phys idx : Nat) (done : Bool) : State :=
  if (s.tile phys).calLeft.head? = some idx then
    let s := s.modTile phys fun q => { q with calLeft := [] }
    let s := if done then s.setFld Reg.calRound 0 31 16 (s.fld Reg.calRound 0 31 16 + 1) else s
    State.calOn 10 (eastWest phys) s
  else s
/-- A service of an array has ended, `done` with its work done: the rounds go on. LOW_ARRAYS counts the arrays that the round's scans
found with low cells. -/
def State.svcEnded (s : State) (phys idx op : Nat) (done : Bool) : State :=
  let s := if op = 3 ∧ s.cal.scan.head? = some (arrKey phys idx) then
      let low := if done ∧ s.fld Reg.wrpMargin (arrKey phys idx) 27 8 ≠ 0 then 1 else 0
      State.scanNext s.cal.scan.tail { s with cal := { s.cal with scanLow := s.cal.scanLow + low } }
    else s
  if op = 1 then s.calEnded phys idx done else s
/-- At a district's window boundary the rounds ask again for what is not under way there. -/
def State.roundBoundary (s : State) (d : Nat) : State :=
  let s := match s.cal.scan with
    | k :: l => if districtOf (k / 16) = d then State.scanNext (k :: l) s else s
    | [] => s
  let ask (s : State) (p : Nat) : State := match (s.tile p).calLeft with
    | i :: _ => if s.canServe p i then s.askFor p i 1 else s.modTile p fun q => { q with calLeft := [] }
    | [] => s
  State.calOn 10 (d / 25) ((districtTiles d).foldl ask s)

/-- MARGIN_SCAN_ROUND (R116): once each PERIOD_H hours, with EN set, every primary array is scanned, district by district. -/
def execMarginScanRound (s : State) : Host.Outcome State Fault Refusal :=
  .next (if s.fld Reg.wrpScanCfg 0 0 0 = 0 ∨ s.fld Reg.wrpScanStat 0 0 0 = 1 then s
    else
      let keys := (List.range 50).flatMap fun d => (districtTiles d).flatMap fun p => (List.range 8).map (arrKey p)
      let s := s.setFld Reg.wrpScanStat 0 0 0 1
      State.scanNext keys { s with cal := { s.cal with scanLow := 0 } })

/-- CAL_ROUND_PERIODIC (R36, R560): the next district of a half's part of a periodic calibration round, indices 0 to 8 in turn on all of
its Spindles at once. Each half takes its districts in ascending order, the two halves in parallel. -/
def execCalRoundPeriodic (half : Bool) (d : Nat) (s : State) : Host.Outcome State Fault Refusal :=
  if 25 ≤ d then .fault .noSuchUnit
  else .next (
    let h := if half then 1 else 0
    if s.fld Reg.calWarpCfg 0 9 0 = 0 ∨ s.calHalf h ≠ ⟨d, none⟩ then s
    else
      let done := if s.fld Reg.calStatus 0 0 0 = 0 then 0 else s.fld Reg.calRound 0 31 16
      let s := (s.setFld Reg.calStatus 0 0 0 1).setReg Reg.calRound 0 (d + h * 32 + done * 65536)
      State.calOn 10 h (s.calIndex h 0))

/-- CAL_RETEMP (R560): the district maximum has stayed more than RETEMP °C from the array's Tc for 60 s. -/
def execCalRetemp (phys : BitVec 12) (arr : BitVec 4) (s : State) : Host.Outcome State Fault Refusal :=
  if physOk phys.toNat = true ∧ arr.toNat ≤ 8 then
    .next (
      let far := (signed12 (s.fld (Reg.thmDist + 4 * districtOf phys.toNat) 0 11 0) -
        signed12 (s.fld Reg.calTc (arrKey phys.toNat arr.toNat) 11 0)).natAbs
      let r := s.fld Reg.calWarpCfg 0 30 24
      if r = 0 ∨ far ≤ 4 * r then s else s.askFor phys.toNat arr.toNat 1)
  else .fault .noSuchUnit

/-! ## Commands (R118-R124, R128) -/

/-- Take an array's request out of the queue, with the spare's preparation for it: LOADING or READY returns to IDLE (R118). -/
def State.unqueueSpare (s : State) (phys idx : Nat) : State :=
  let s := (s.unqueue phys idx).modTile phys fun q => { q with stage := match q.stage with
    | .loading a o => if a = idx then .idle else .loading a o
    | .ready a o => if a = idx then .idle else .ready a o
    | y => y }
  if (s.tile phys).stage = .idle then s.modWarp (arrKey phys 8) fun a => { a with writing := none } else s

/-- A service command takes effect at its district's window boundary. A command that the rules leave without a service ends REFUSED: for
an EMPTY or FAILED array, on a Spindle with a suspect spare, or for want of room in the queue of 8, for which firmware's own request
waits instead (log entry 118). -/
def State.svcCommand (s : State) (phys idx op : Nat) (fw : Bool) : State :=
  let q := s.tile phys
  let k := arrKey phys idx
  if op = 4 then
    let before : Bool := match q.stage with
      | .standing a _ => a != idx
      | .handback a _ => a != idx
      | _ => true
    if before ∧ q.queue.any (fun r => r.arr == idx) then
      let o := ((q.queue.find? fun r => r.arr == idx).map SvcReq.op).getD 0
      ((s.unqueueSpare phys idx).svcResult phys idx o 4).svcEnded phys idx o false
    else s
  else if op = 0 ∨ 4 < op then s
  else if q.spareSuspect then s.svcResult phys idx op 5
  else if idx = 8 ∧ op ≠ 1 then s.svcResult phys idx op 5
  else if idx = 8 ∧ q.stage = .idle then s.modTile phys fun q => { q with stage := .inPlace }
  else if idx < 8 ∧ ((s.warp k).code = 0 ∨ (s.warp k).code = 4) then s.svcResult phys idx op 5
  else if op = 2 ∧ s.worn phys idx = true then s.refuseWorn phys idx op
  else if q.queue.length < 8 ∨ q.queue.any (fun r => r.arr == idx) then s.queueSvc phys idx op
  else if fw then s.svcWait k op true
  else s.svcResult phys idx op 5

/-! ## Loading the spare (R118, R121, R397, R400) -/

/-- The array lies under the layer-replacement barrier (R122). -/
def State.underBarrier (s : State) (t : Nat) : Bool :=
  match s.wgt.barrier with
  | some (j, _) => (s.job j).staged.any fun e => e.2.targets.contains t
  | none => false

/-- Before a REWRITE the golden image is checked, and rebuilt from a verify read where it fails (R400): whether an image stands. -/
def State.goldFor (s : State) (t op : Nat) : Bool × State :=
  match s.gold t with
  | none => (false, s)
  | some g =>
    if g.compared = false then (false, s)
    else if op ≠ 2 ∨ s.goldGood t = true then (true, s)
    else if s.cellsGood t then (true, s.setGold t ⟨(s.warp (s.targetKey t)).image, true⟩)
    else (false, s.requestShard t)

/-- An array of the Spindle is under write, or waits for its turn in a weight job's writes: the Spindle writes one array at a time
(R112). -/
def State.writingAt (s : State) (p : Nat) : Bool :=
  ((List.range 9).any fun i => (s.warp (arrKey p i)).writing.isSome) ||
    s.wgt.jobs.any fun j => j.2.writes.any fun t => s.targetKey t / 16 == p

/-- SPARE_LOAD_START (R118): the request at the head of the queue, with the spare IDLE, starts a write of the spare; a CALIBRATE of
the spare starts in place (R123). On LMX1-S0I1 the array's shard is requested from the host (R121). -/
def execSpareLoadStart (t : BitVec 12) (s : State) : Host.Outcome State Fault Refusal :=
  let p := t.toNat
  if physOk p then
    .next (let q := s.tile p
      match q.queue with
      | [] => s
      | r :: rest =>
        if q.stage ≠ .idle ∨ q.spareSuspect = true then s
        else if r.arr = 8 then s.modTile p fun q => { q with stage := .inPlace, queue := rest }
        else match s.targetOf p r.arr with
          | none => s
          | some u =>
            if s.underBarrier u then s
            else if s.worn p 8 then (((s.unqueue p r.arr).refuseWorn p 8 r.op).svcResult p r.arr r.op 6).svcEnded p r.arr r.op false
            else if r.op = 2 ∧ s.worn p r.arr = true then ((s.unqueue p r.arr).refuseWorn p r.arr r.op).svcEnded p r.arr r.op false
            else if s.writingAt p then s
            else if s.stacked then
              let g := s.goldFor u r.op
              if g.1 then
                let s := g.2.modTile p fun q => { q with stage := .loading r.arr r.op }
                s.modWarp (arrKey p 8) fun a => { a with writing := (s.gold u).map Gold.image }
              else g.2
            else ((s.modTile p fun q => { q with stage := .loading r.arr r.op }).modWarp (arrKey p 8) fun a =>
              { a with writing := none }).requestShard u)
  else .fault .noSuchUnit

/-- An end with ABORT_VERIFY (2) or ABORT_SHARD (3). -/
def State.abortSvc (s : State) (phys idx op r : Nat) : State :=
  let s := (s.unqueue phys idx).modTile phys fun q => { q with stage := .idle }
  let s := s.modWarp (arrKey phys 8) fun a => { a with writing := none }
  let s := (s.svcResult phys idx op r).raiseIn 0 0x3002 (halfOf phys) (s.arrItems phys idx)
  s.svcEnded phys idx op false

/-- SPARE_LOAD_DONE (R118, R124): the spare is READY, or aborts with ABORT_VERIFY; the second abort in a row makes it suspect. -/
def execSpareLoadDone (t : BitVec 12) (c : ArrayCheck) (s : State) : Host.Outcome State Fault Refusal :=
  let p := t.toNat
  if physOk p then
    .next (match (s.tile p).stage, (s.warp (arrKey p 8)).writing with
      | .loading a op, some img =>
        let s := s.countWrite p 8
        if c.writeOk ∧ c.passesOk then
          (s.modWarp (arrKey p 8) fun x => x.load img).modTile p fun q => { q with stage := .ready a op, aborts := 0 }
        else
          let n := (s.tile p).aborts + 1
          let s := (s.abortSvc p a op 2).modTile p fun q => { q with aborts := n }
          if n < 2 then s
          else
            let s := (s.modTile p fun q => { q with spareSuspect := true }).raiseIn 0 0x3007 (halfOf p) (s.arrItems p 8)
            s.suspect 3 6 p ((s.logOf p).getD 0xFFFF) 8 0xFF 0 0
      | _, _ => s)
  else .fault .noSuchUnit

/-- SPARE_SHARD_TIMEOUT (R121): on LMX1-S0I1 the shard for a spare load has not arrived within WRP_SVC_TIMEOUT. -/
def execSpareShardTimeout (t : BitVec 12) (s : State) : Host.Outcome State Fault Refusal :=
  let p := t.toNat
  if physOk p then
    .next (match (s.tile p).stage, (s.warp (arrKey p 8)).writing with
      | .loading a op, none => if s.stacked then s else s.abortSvc p a op 3
      | _, _ => s)
  else .fault .noSuchUnit

/-! ## Window boundaries and completion (R118, R120, R559) -/

/-- The new set in force keeps every field's range (R555). -/
def WarpArr.fitOk (a : WarpArr) (fit : List AgeFit) : Bool :=
  fit.all fun f =>
    let m := SMap.get CalCol.init a.man f.col
    let off (q : Quad) : Bool := [q.a, q.b, q.c, q.d].all fun v => decide (-128 ≤ v ∧ v ≤ 127)
    let gain (q : Quad) : Bool := [q.a, q.b, q.c, q.d].all fun v => decide (0 ≤ v ∧ v ≤ 65535)
    off (m.offN.shift f.offN) && off (m.offW.shift f.offW) && gain (m.gainN.times f.gainN) && gain (m.gainW.times f.gainW)
/-- A fit as a sparse map, by column. -/
def fitMap (fit : List AgeFit) : SMap AgeFit := fit.foldl (fun m f => SMap.insert m f.col f) []

/-- The output columns whose 512 weights are all 0: they give no gain information (R557). -/
def WarpArr.zeroCols (a : WarpArr) : List Nat := (List.range 512).filter fun j => !a.cells.any fun e => e.1 % 512 == j
/-- The worst fit residual of an output column and that column; a column without gain information is left out (R557, R558). -/
def worstResid (zero : List Nat) (resids : List Nat) : Nat × Nat :=
  (resids.zipIdx.filter fun e => e.2 < 512 && !zero.contains e.2).foldl (fun m e => if m.1 < e.1 then e else m) (0, 0)
/-- The new age corrections: a column without gain information keeps its manufacturing gains (R557). -/
def fitKept (zero : List Nat) (fit : List AgeFit) : List AgeFit :=
  fit.map fun f => if zero.contains f.col then { f with gainN := 0, gainW := 0 } else f
/-- LOW_CELLS of a scan (R115): none where the least margin stands at THRESH, else at least one. -/
def lowOf (thresh : Nat) (c : ArrayCheck) : Nat := if thresh ≤ c.minMargin then 0 else max 1 c.lowCells
/-- A margin scan's figures (R115): the minimum margin and the count of low cells. -/
def State.noteMargin (s : State) (k : Nat) (c : ArrayCheck) : State :=
  s.setReg Reg.wrpMargin k (c.minMargin % 32 + lowOf (s.fld Reg.wrpScanCfg 0 15 8) c % 2 ^ 20 * 256)

/-- A calibration comes into force (R559); it has written the reference pairs (R84). -/
def State.applyCal (s : State) (phys idx : Nat) (c : ArrayCheck) (again : Bool) : State :=
  let k := arrKey phys idx
  let zero := (s.warp k).zeroCols
  let worst := worstResid zero c.resids
  let s := s.modWarp k fun a => { a with age := fitMap (fitKept zero c.fit), ageDue := none }
  let s := s.setReg Reg.wrpCalEpoch k ((s.reg Reg.wrpCalEpoch k + 1) % 65536)
  let s := (s.setReg Reg.wrpQual k (worst.1 % 65536 + worst.2 % 512 * 65536)).setReg Reg.wrpRefDev k 0
  let s := s.setReg Reg.calTc k (c.tc % 4096 + (s.dist (districtOf phys)).band * 4096)
  let s := (s.setReg64 Reg.calStampLo k s.now).setReg Reg.calRms k (c.rms % 65536 + zero.length % 1024 * 65536)
  let s := s.setReg Reg.calAge k ((c.gainShift % 65536).toNat + (c.offShift % 256).toNat * 65536)
  s.setReg Reg.calResult k (if again then 2 else 1)

/-- A service that fails: the array is FAILED and suspect, and the spare stays STANDING (R118). -/
def State.failArray (s : State) (phys idx : Nat) : State :=
  let s := s.modWarp (arrKey phys idx) fun a => { a with code := 4, writing := none, ageDue := none }
  s.suspect (if idx = 8 then 3 else 2) 5 phys ((s.logOf phys).getD 0xFFFF) idx 0xFF 0 0

/-- Await hand-back. -/
def State.awaitHandback (s : State) (phys idx op : Nat) : State := s.modTile phys fun q => { q with stage := .handback idx op }

/-- The record row that a write of a target's present weights gives its array (R108, R391). -/
def State.recordOf (s : State) (t : Nat) (img : Bytes) : Option Bytes :=
  (s.locate t).map fun (m, l, h, k) =>
    epochRecord (s.model m).id ((s.model m).layers.getD l default).epoch l h k (adigOf img) s.time.cnt
/-- Write an array's present image once more (R108, R558): the image and the record row, and no valid record where the write fails. The
calibration set stays (log entry 122). -/
def State.rewriteArray (s : State) (phys idx : Nat) (img : Bytes) (ok : Bool) : State :=
  let s := s.countWrite phys idx
  let r := if ok then (s.targetOf phys idx).bind fun t => s.recordOf t img else none
  s.modWarp (arrKey phys idx) fun a => { a.load img with record := if idx = 8 then a.record else r }
/-- The golden image that a service of an array works from: of the golden copy, else, where the variant keeps none, of the array that holds
the same image, the spare that stands for it; of the spare itself, what it holds. -/
def State.imageFor (s : State) (phys idx : Nat) : Bytes :=
  match (s.targetOf phys idx).bind s.gold with
  | some g => if idx = 8 then (s.warp (arrKey phys 8)).image else g.image
  | none => (s.warp (arrKey phys 8)).image

/-- CALIBRATE completes (R556-R558): accepted, or accepted after a rewrite that a scan called for, or failed. An array that is worn
refuses the rewrite (R113). The calibration writes the reference pairs (R84). -/
def State.finishCal (s : State) (phys idx : Nat) (c : ArrayCheck) : State :=
  let k := arrKey phys idx
  let s := (s.bump Reg.calCnt k).modWarp k fun a => { a with refs := refPatterns }
  let zero := (s.warp k).zeroCols
  let fitOk := (s.warp k).fitOk (fitKept zero c.fit)
  let ok := c.passesOk && decide ((worstResid zero c.resids).1 ≤ s.fld Reg.calWarpCfg 0 23 16) && fitOk
  let (ok2, s) :=
    if ok then (true, s)
    else
      let low := lowOf (s.fld Reg.wrpScanCfg 0 15 8) c
      let s := s.noteMargin k c
      if low = 0 then (false, s)
      else if s.worn phys idx then (false, s.refuseWorn phys idx 1)
      else (c.writeOk && c.secondOk && fitOk, s.rewriteArray phys idx (s.imageFor phys idx) c.writeOk)
  let fail (s : State) : State :=
    ((s.bump Reg.calFailCnt).setReg Reg.calResult k 3).setBit Reg.calStatus 0 8 |>.raiseIn 0 0xA008 (halfOf phys) (le2 phys ++ le1 idx ++ le2 (worstResid zero c.resids).1)
  if idx = 8 then
    let s := s.modTile phys fun q => { q with stage := .idle }
    let s := if ok2 then (s.applyCal phys 8 c (!ok)).svcResult phys 8 1 1 else (fail s).failArray phys 8
    s.svcEnded phys 8 1 ok2
  else if ok2 then
    ((s.modWarp k fun a => { a with ageDue := some c }).setReg Reg.calResult k (if ok then 1 else 2)).awaitHandback phys idx 1
  else ((fail s).failArray phys idx).svcEnded phys idx 1 false

/-- SERVICE_COMPLETE (R118): the service on the array that is out of use ends, and its check passes have run. -/
def execServiceComplete (t : BitVec 12) (c : ArrayCheck) (s : State) : Host.Outcome State Fault Refusal :=
  let p := t.toNat
  if physOk p then
    .next (match (s.tile p).stage with
      | .inPlace => s.finishCal p 8 c
      | .standing a op =>
        let k := arrKey p a
        if (s.warp k).code ≠ 3 then s
        else match op with
          | 1 => s.finishCal p a c
          | 2 =>
            let s := s.rewriteArray p a ((s.warp k).writing.getD (s.imageFor p a)) c.writeOk
            if c.writeOk ∧ c.passesOk then s.awaitHandback p a op
            else (s.failArray p a).svcEnded p a op false
          | _ =>
            let low := lowOf (s.fld Reg.wrpScanCfg 0 15 8) c
            let s := s.noteMargin k c
            let s := if 0 < low then
                let s := s.raiseIn 0 0x3003 (halfOf p) (s.arrItems p a ++ le4 low)
                if s.fld Reg.wrpScanCfg 0 1 1 = 1 then s.svcRequest p a 2 else s
              else s
            let s := match s.targetOf p a with
              | some u => if p % 32 = 24 ∧ (s.row (rowOf p)).failed.isNone then s else s.recheck u c.verifyOk
              | none => s
            if c.passesOk then s.awaitHandback p a op else (s.failArray p a).svcEnded p a op true
      | _ => s)
  else .fault .noSuchUnit

/-- What the service machine of one Spindle does at its district's window boundary (R118, R120, R128). A rewrite clears the record row
before it starts (R108). After hand-back an array with another request in the queue is QUEUED, and one without a valid record is EMPTY
(log entry 118). -/
def State.svcBoundary (s : State) (p : Nat) : State :=
  match (s.tile p).stage with
  | .ready a op =>
    let s := s.modTile p fun q => { q with stage := .standing a op, queue := q.queue.filter fun r => r.arr != a }
    let s := s.bumpSat Reg.wrpSvcActive 0 11 0
    s.modWarp (arrKey p a) fun x =>
      if op = 2 then { x with code := 3, record := none, writing := some (s.imageFor p a) } else { x with code := 3, writing := none }
  | .handback a op =>
    let s := s.modTile p fun q => { q with stage := .idle }
    let s := s.setFld Reg.wrpSvcActive 0 11 0 (s.fld Reg.wrpSvcActive 0 11 0 - 1)
    let queued := (s.tile p).queue.any fun r => r.arr == a
    let s := match (s.warp (arrKey p a)).ageDue with
      | some c => s.applyCal p a c (s.fld Reg.calResult (arrKey p a) 1 0 == 2)
      | none => s
    let s := s.modWarp (arrKey p a) fun x => { x with code := if x.valid.isNone then 0 else if queued then 2 else 1 }
    let s := (s.svcResult p a op 1).raiseIn 0 0x3001 (halfOf p) (s.arrItems p a ++ le1 op)
    s.svcEnded p a op true
  | _ => s

end Sys2Proof.Machine
end

