-- ==== Sys2Proof/Machine/Weights.lean ====
section
/-! DEFINITION. Weight jobs (10_weights.md R369-R412): checks at GO, arrival of shards, array writes, the replacement barrier, RESTORE,
adapter loads, and the golden copy. -/

namespace Sys2Proof.Machine

/-! ## A job's parameters and its fetches -/

/-- The queue pair of a job's fetch of entry `i` (R413, R415): of the contexts that WGT_JOB_QPS names in round-robin order, else of the
writing context. -/
def State.jobQp (s : State) (j i : Nat) : Nat :=
  let q := s.fld Reg.wgtJobQps j 5 0
  let cs := (List.range 6).filter fun c => q.testBit c
  (s.ctx (if q = 0 then (s.job j).ctx else cs.getD (i % cs.length) 0)).qp
/-- Read `n` bytes of the shard list from entry `i` (R372). -/
def State.readList (s : State) (j i n : Nat) : State :=
  s.send (.rdmaRead (s.jobQp j i) (BitVec.ofNat 64 (s.reg64 Reg.wgtJobListLo j + 16 * i)) (BitVec.ofNat 32 (s.reg Reg.wgtJobListKey j)) n)
/-- The entry at a place of list bytes (R372). -/
def listEntry (b : Bytes) (i : Nat) : ListEntry := ⟨BitVec.ofNat 64 (leNat b (16 * i) 8), leNat b (16 * i + 8) 4, BitVec.ofNat 32 (leNat b (16 * i + 12) 4)⟩
/-- Fetch the shard of list index `i` by RDMA READ. -/
def State.fetchShard (s : State) (j i : Nat) (e : ListEntry) : State := s.send (.rdmaRead (s.jobQp j i) e.addr e.key e.len)
/-- EPOCH_MIN of a model in the configuration in force; none for a model that it does not list. -/
def State.epochMin (s : State) (id : Nat) : Option Nat := (s.wgt.conf.find? fun e => e.1 == id).map Prod.snd
/-- SHARDS and ARRAYS of WGT_JOB_PROGRESS. -/
def State.setProgress (s : State) (j shards arrays : Nat) : State :=
  s.setReg Reg.wgtJobProgress j (shards % 65536 + arrays % 65536 * 65536)
/-- An array write more. -/
def State.countArray (s : State) (j : Nat) : State := s.setFld Reg.wgtJobProgress j 31 16 (s.fld Reg.wgtJobProgress j 31 16 + 1)

/-- The image of a target, with its shard and position. -/
def Job.image (x : Job) (t : Nat) : Option (Staged × Nat × Bytes) :=
  x.staged.findSome? fun e => (e.2.targets.idxOf? t).map fun k => (e.2, k, e.2.images.getD k [])
/-- A waiting write of each Spindle that writes no array starts, in the job's order: its record row is cleared (R108, R112). -/
def State.startJobWrites (s : State) (j : Nat) : State :=
  let x := s.job j
  (numbered x.writes).foldl (fun s e =>
    let k := s.targetKey e.2
    if (x.writes.take e.1).any (fun t => s.targetKey t / 16 == k / 16) ∨
        (List.range 9).any (fun i => (s.warp (arrKey (k / 16) i)).writing.isSome) = true then s
    else s.modWarp k fun a => { a with record := none, writing := (x.image e.2).map fun q => q.2.2 }) s
/-- The jobs' waiting writes start where a Spindle is free. -/
def State.startWrites (s : State) : State := (s.wgt.jobs.map Prod.fst).foldl State.startJobWrites s

/-- A job stops before it has completed (R390, R409): its writes stop, arrays under way lose their record, and a LOAD leaves its model
NOT_READY with LOAD_FAILED. -/
def State.failJob (s : State) (j result index : Nat) : State :=
  let x := s.job j
  let s := x.writes.foldl (fun s t => s.modWarp (s.targetKey t) fun a => { a with writing := none }) s
  let s := (s.endJob j result index).startWrites
  if x.op = 1 then
    match s.modelEntry x.model with
    | some m => s.notReady m 9
    | none => s
  else s

/-! ## GO (R373, R374) -/

/-- Another job runs on the same model, or on the same partition. -/
def State.jobBusy (s : State) (j op id part : Nat) : Bool :=
  (List.range 16).any fun i => i != j && s.jobRuns i &&
    (let y := s.job i
     if op = 4 then y.op == 4 && y.part == part else y.op != 4 && y.model == id)
/-- The precondition of R373 on the model. -/
def State.jobPre (s : State) (op id : Nat) : Bool :=
  let st := match s.modelEntry id with
    | some m => (s.model m).st
    | none => 0
  let reason := match s.modelEntry id with
    | some m => (s.model m).reason
    | none => 0
  if op = 4 then true
  else if op = 3 ∧ id = 0 then s.wgt.reqs.any fun r => r.adapter.isSome
  else if id = 0 ∨ id = 0xFFFFFFFF then false
  else match op with
    | 1 => st ≤ 1
    | 2 => st == 2
    | 3 => st == 2 || (st == 1 && reason == 7)
    | _ => (st == 1 || st == 2) && !s.parts.any fun e => match e.2.prog with
      | some g => g.model == id
      | none => false
/-- The epoch rule of R373. -/
def State.jobEpochOk (s : State) (op id epoch : Nat) : Bool :=
  let x := match s.modelEntry id with
    | some m => s.model m
    | none => ModelSt.init
  match op with
  | 1 => match s.epochMin id with
    | some e => decide (e ≤ epoch ∧ epoch ≤ 0xFFFE)
    | none => false
  | 2 => match s.epochMin id with
    | some e => decide (e ≤ epoch ∧ x.epoch < epoch ∧ epoch ≤ 0xFFFE)
    | none => false
  | 3 => if id = 0 then s.wgt.reqs.any (fun r => r.adapter.isSome && r.epoch == epoch) else x.layers.any fun l => l.epoch == epoch
  | _ => true
/-- The lowest unused model table entry. -/
def State.freeModel (s : State) : Option Nat := (List.range 8).find? fun m => (s.model m).id == 0

/-- The result with which the checks at GO end the job, if any (R374, R403). -/
def State.goFault (s : State) (j : Nat) (x : Job) : Option Nat :=
  -- R540 allows none in BLANK (log entry 132); R636 ends every new job at an orderly shutdown, R374 all but a RESTORE in DRAIN
  if s.power.shut ≠ 0 ∨ (s.integ.drain = true ∧ x.op ≠ 3) then some 13
  else if s.fld Reg.bstStatus 0 0 0 = 1 then some 10
  else if s.jobBusy j x.op x.model x.part then some 10
  else if s.fld Reg.cfgLc 0 2 0 = 0 ∨ !s.jobPre x.op x.model then some 12
  else if !s.jobEpochOk x.op x.model x.epoch then some 6
  else if x.op = 1 ∧ s.modelEntry x.model = none ∧ s.freeModel = none then some 11
  else if x.op ≠ 5 ∧ (x.cnt < 1 ∨ 4096 < x.cnt ∨ s.reg Reg.wgtJobListLo j % 16 ≠ 0) then some 15
  else if x.op = 2 ∧ s.goldFree < x.cnt then some 7
  else none

/-- Drop an array's queued service request with a result, and the spare's preparation for it. -/
def State.dropSvc (s : State) (t r : Nat) : State :=
  let k := s.targetKey t
  match (s.tile (k / 16)).queue.find? fun q => q.arr == k % 16 with
  | some q => ((s.unqueueSpare (k / 16) (k % 16)).svcResult (k / 16) (k % 16) q.op r).svcEnded (k / 16) (k % 16) q.op (r == 1)
  | none => s
/-- Clear an array's record row: it is EMPTY (R409, R410); a FAILED array stays FAILED. -/
def State.emptyArray (s : State) (t : Nat) : State :=
  (s.dropSvc t 5).modWarp (s.targetKey t) fun a => { a with record := none, code := if a.code = 4 then 4 else 0 }
/-- Write a model's residence record (R392). -/
def State.putResid (s : State) (id : Nat) (r : Option ResidRec) : State :=
  { s with wgt := { s.wgt with flash := (s.wgt.flash.filter fun f => f.model != id) ++ r.toList } }

/-- UNLOAD_MODEL (R410). -/
def State.unloadModel (s : State) (j m : Nat) : State :=
  let x := s.model m
  let s := x.arrays.foldl State.emptyArray s
  let s := (s.dropGold x.arrays).putResid x.id none
  let s := (s.dropRequests fun r => r.model == x.id && r.adapter.isNone).modModel m fun _ => ModelSt.init
  s.endJob j 1 0

/-- GO is written (R374, R415): the checks, then the job starts with the READ of its shard list. -/
def State.goJob (s : State) (j ctx : Nat) : State :=
  let op := s.fld Reg.wgtJobCtl j 2 0
  if op = 0 ∨ 5 < op ∨ s.jobRuns j = true then s
  else
    let x : Job := { Job.init with
      op := op, model := s.reg Reg.wgtJobModel j, epoch := s.fld Reg.wgtJobEpoch j 15 0, layers := s.fld Reg.wgtJobEpoch j 28 16,
      cnt := s.fld Reg.wgtJobListCnt j 12 0, ctx := ctx, part := s.fld Reg.wgtJobPart j 3 0, adpt := s.reg Reg.wgtJobAdpt j }
    let s := ((s.setReg Reg.wgtJobStat j 0).setProgress j 0 0).modJob j fun _ => x
    match s.goFault j x with
    | some r => s.endJob j r 0
    | none =>
      if op = 5 then
        match s.modelEntry x.model with
        | some m => s.unloadModel j m
        | none => s.endJob j 12 0
      else
        (s.setFld Reg.wgtJobStat j 2 0 1).readList j 0 (16 * x.cnt)
/-- A LOAD that runs holds a model table entry, NOT_READY with LOADING. -/
def State.startLoad (s : State) (x : Job) : State :=
  match s.modelEntry x.model, s.freeModel with
  | some m, _ => s.notReady m 1
  | none, some m => (s.modModel m fun _ => { ModelSt.init with id := x.model, min := (s.epochMin x.model).getD 0 }).notReady m 1
  | none, none => s
/-- The READ of a job's shard list is answered (R372, R374): the shards are fetched; a list that cannot be read ends the job with FETCH and
changes nothing. -/
def State.takeList (s : State) (j op : Nat) (b : Option Bytes) : State :=
  let x := s.job j
  if s.jobState j ≠ 1 ∨ x.op ≠ op ∨ x.list.isSome = true then s
  else
    match b.filter fun b => b.length == 16 * x.cnt with
    | none => s.endJob j 15 0
    | some b =>
      let l := (List.range x.cnt).map (listEntry b)
      let s := s.modJob j fun y => { y with list := some l }
      let s := if op = 1 then s.startLoad x else s
      (numbered l).foldl (fun s e => s.fetchShard j e.1 e.2) s

/-! ## Shard checks (R386-R389) -/

/-- The transport public key. -/
def State.xportPub (s : State) : Bytes := (List.range 8).flatMap fun n => natLe (s.reg (Reg.wgtXportPub + 4 * n)) 4
/-- Encryption is required of a job's shards (R386). -/
def State.encRequired (s : State) (op : Nat) : Bool :=
  s.fld Reg.wgtLoadCfg 0 1 1 == 1 || (s.fld Reg.wgtLoadCfg 0 0 0 == 1 && (op == 1 || op == 3 || s.fld Reg.cfgLc 0 2 0 == 3))
/-- The header names what the job names. -/
def State.shardNamed (s : State) (x : Job) (h : Shard) : Bool :=
  if x.op = 4 then h.form == 5 && h.model == 0 && h.layer == x.adpt % 65536
  else if x.op = 3 ∧ x.model = 0 then h.form == 5 && h.model == 0 && s.wgt.reqs.any fun r => r.adapter.isSome && r.layer == h.layer
  else h.form != 5 && h.model == x.model
/-- The epoch of the header agrees with the job and, for RESTORE, with the layer. -/
def State.shardEpochOk (s : State) (x : Job) (h : Shard) : Bool :=
  if x.op = 4 then h.epoch == x.adpt / 65536 % 256
  else h.epoch == x.epoch && (x.op != 3 || (x.model == 0 || match s.modelEntry x.model with
    | some m => match (s.model m).layers[h.layer]? with
      | some l => l.epoch == h.epoch
      | none => true
    | none => true))

/-- A weight target is well formed, not FAILED and not worn, belongs to no other model, and stands in no other LOAD (R389). -/
def State.targetOk (s : State) (j : Nat) (x : Job) (t : Nat) : Bool :=
  let k := s.targetKey t
  decide (t < 65536) && tileOk (t / 16) && decide (t % 16 < 8) && (s.warp k).code != 4 && !s.worn (k / 16) (k % 16) &&
    (s.wgt.models.all fun m => m.2.id == x.model || !m.2.arrays.contains t) &&
    (s.wgt.jobs.all fun y => y.1 == j || y.2.op == 4 || y.2.staged.all fun e => !e.2.targets.contains t)
/-- The target checks of one shard as it arrives (R389). -/
def State.shardTargetsOk (s : State) (j : Nat) (x : Job) (h : Shard) (ts : List Nat) : Bool :=
  let once := ts.eraseDups.length == ts.length && x.staged.all fun e => e.2.targets.all fun t => !ts.contains t
  if x.op = 4 ∨ (x.op = 3 ∧ x.model = 0) then once && ts.all fun t => decide (t < 8192) && tileOk (t % 4096)
  else
    let ls : List LayerRes := match s.modelEntry x.model with
      | some m => (s.model m).layers
      | none => []
    once && ts.all (s.targetOk j x) && (x.staged.all fun e => e.2.layer != h.layer || e.2.count == h.count) &&
      (match x.op with
       | 1 => decide (h.layer < x.layers)
       | 2 => decide (h.layer < ls.length)
       | _ => match ls[h.layer]? with
         | some l => l.shards.length == h.count && (l.shards[h.shard]?).map ShardRes.targets == some ts
         | none => false)

/-- The staged shards of a layer, in shard order. -/
def Job.layerShards (x : Job) (l : Nat) : List Staged :=
  let xs := (x.staged.map Prod.snd).filter fun e => e.layer == l
  ((xs.map Staged.count).head?.getD 0 |> List.range).filterMap fun h => xs.find? fun e => e.shard == h
/-- Every shard of a layer is staged. -/
def Job.layerWhole (x : Job) (l : Nat) : Bool :=
  let ys := x.layerShards l
  !ys.isEmpty && (ys.map Staged.count).head? == some ys.length
/-- The targets of a layer, in shard order. -/
def Job.layerTargets (x : Job) (l : Nat) : List Nat := (x.layerShards l).flatMap Staged.targets
/-- The layers that a job's shards name, in ascending order. -/
def Job.named (x : Job) : List Nat := (List.range 8192).filter fun l => x.staged.any fun e => e.2.layer == l
/-- The checks once every shard is staged (R389): the layers of a LOAD are complete, those of a REPLACE keep their target sets. -/
def State.jobWhole (s : State) (x : Job) : Bool :=
  match x.op with
  | 1 => (List.range x.layers).all x.layerWhole
  | 2 => match s.modelEntry x.model with
    | some m => x.named.all fun l => x.layerWhole l &&
        x.layerTargets l == (((s.model m).layers.getD l default).shards.flatMap ShardRes.targets)
    | none => false
  | _ => true
/-- The list index of the shard that holds a target. -/
def Job.indexOf (x : Job) (t : Nat) : Nat := ((x.staged.find? fun e => e.2.targets.contains t).map Prod.fst).getD 0

/-! ## RESTORE (R401, R402) -/

/-- Complete what waited on a restored array. -/
def State.restoreArray (s : State) (t : Nat) (img : Bytes) (fix : List Nat) : State :=
  let s := s.setGold t ⟨img, true⟩
  let p := s.targetKey t / 16
  let i := s.targetKey t % 16
  let s := match (s.tile p).stage with
    | .loading a _ =>
      if a = i ∧ s.stacked = false ∧ (s.warp (arrKey p 8)).writing.isNone then s.modWarp (arrKey p 8) fun x => { x with writing := some img }
      else s
    | _ => s
  if fix.contains t then s.svcRequest p i 2 else s
/-- A restored shard. -/
def State.restoreShard (s : State) (id : Nat) (e : Staged) : State :=
  let mine (r : ShardReq) : Bool := r.model == id && r.layer == e.layer && r.shard == e.shard && r.adapter.isNone
  let fix := (s.wgt.reqs.filter mine).flatMap ShardReq.fix
  let s := (e.targets.zip e.images).foldl (fun s (x : Nat × Bytes) => s.restoreArray x.1 x.2 fix) s
  s.dropRequests mine
/-- Put a restored slot image into the entry's stored image (R412). -/
def State.restoreSlot (s : State) (e t : Nat) (img : Bytes) : State :=
  let put (a : Adapter) (f : FootTile) : FootTile :=
    if f.tile = s.relTile a.part (t % 4096) ∧ f.up = (t / 4096 == 1) then
      { f with cells := slotCells img a.rank f.up, scales := slotScales img }
    else f
  s.modAdapter e fun a => { a with foot := a.foot.map (put a) }
/-- A RESTORE has every shard (R401, R412): its images are checked, and what waited on them completes. -/
def State.finishRestore (s : State) (j : Nat) : State :=
  let x := s.job j
  if x.model = 0 then
    let s := x.staged.foldl (fun s e => (s.wgt.reqs.filter fun r => r.adapter.isSome && r.layer == e.2.layer && r.epoch == x.epoch).foldl
      (fun s r => (e.2.targets.zip e.2.images).foldl (fun s (q : Nat × Bytes) => s.restoreSlot (r.adapter.getD 0) q.1 q.2) s) s) s
    let s := s.dropRequests fun r => r.adapter.isSome && r.epoch == x.epoch && x.staged.any fun e => e.2.layer == r.layer
    s.endJob j 1 0
  else
    match x.staged.find? fun e => (e.2.targets.zip e.2.images).any fun q => adigOf q.2 != s.adigAt q.1 with
    | some e => s.failJob j 2 e.1
    | none =>
      let s := x.staged.foldl (fun s e => s.restoreShard x.model e.2) s
      let s := match s.modelEntry x.model with
        | some m =>
          if (s.model m).st = 1 ∧ (s.model m).reason = 7 ∧ !(s.wgt.reqs.any fun r => r.model == x.model && r.adapter.isNone) then
            s.modModel m fun y => { y with st := 2, reason := 0 }
          else s
        | none => s
      s.endJob j 1 0

/-! ## Adapter loads (R155, R411, R412) -/

/-- The lowest FREE slot of a Weft array. -/
def WeftArr.freeSlots (w : WeftArr) : List Bool :=
  (if w.slot0.st = .free then [false] else []) ++ (if w.slot1.st = .free then [true] else [])
/-- An ADAPTER job ends with a Weft outcome other than DONE. -/
def State.adapterEnds (s : State) (j e r : Nat) : State := (s.adptResult e r).failJob j 14 0

/-- Put the slots of one footprint array into LOADING, each with its image under write; a second write waits for the write port (R151). -/
def State.loadSlots (s : State) (e rank : Nat) (train : Bool) (f : FootTile) : State :=
  let x (queued : Bool) : WeftSlot := { WeftSlot.init with
    st := .loading, entry := some e, rank := rank, up := f.up, scales := f.scales, write := some ⟨f.cells, false, false, queued⟩ }
  s.modWeft (s.physOf f.tile) fun w =>
    if train then { w with slot0 := x false, slot1 := x true, master := none }
    else w.setSlot f.slot (x (w.slot (!f.slot)).write.isSome)

/-- Place an adapter load (R155): refuse it, let it wait, or allocate every slot at once. -/
def State.placeAdapter (s : State) (j : Nat) : State :=
  let x := s.job j
  let p := x.part
  let handle := x.adpt % 65536
  let gen := x.adpt / 65536 % 256
  let rank := x.adpt / 16777216 % 128
  let train := x.adpt / 2147483648 % 2 == 1
  let imgs := x.staged.flatMap fun e => e.2.targets.zip e.2.images
  let mine := s.entries fun a => a.st != 0 && a.part == p && a.handle == handle
  if imgs.any fun q => !(s.relOk p (q.1 % 4096) && s.ownerOf (s.relTile p (q.1 % 4096)) == some p) then s.adapterEnds j 0 5
  else if mine.any (fun e => let a := s.adapter e; a.gen == gen && (a.st == 2 || a.st == 3)) ∨ (train = true ∧ mine ≠ []) then
    s.adapterEnds j 0 4
  else
    match (List.range 1024).find? fun e => (s.adapter e).st == 0 with
    | none => s.adapterEnds j 0 6
    | some e =>
      -- 64 TRAINING entries, those on their way included; the manual names no result for one more (log entry 123)
      if train = true ∧ 64 ≤ (s.entries fun a => a.train && (a.st == 1 || a.st == 4)).length then s.adapterEnds j 0 6
      else if s.stacked = true ∧ s.adptFree < imgs.length then s.failJob j 7 0
      else
        let free (q : Nat × Bytes) : List Bool := (s.weft (s.physOf (s.relTile p (q.1 % 4096)))).freeSlots
        if imgs.any fun q => (free q).length < (if train then 2 else 1) then
          s.modJob j fun y => { y with waiting := true }
        else
          let foot := imgs.map fun q =>
            let up := q.1 / 4096 == 1
            let f : FootTile := ⟨s.relTile p (q.1 % 4096), up, (free q).headD false, slotCells q.2 rank up, slotScales q.2⟩
            f
          let s := s.modAdapter e fun _ => { Adapter.init with
            st := 1, handle := handle, gen := gen, part := p, rank := rank, train := train, foot := foot }
          let s := foot.foldl (fun s f => s.loadSlots e rank train f) s
          (s.modJob j fun y => { y with waiting := false, entry := some e }).setFld Reg.wgtJobStat j 2 0 3

/-! ## Arrival (R375, R387, R388) -/

/-- Every shard of a job is staged. -/
def State.allStaged (s : State) (j : Nat) : State :=
  let x := s.job j
  if x.op ≠ 4 ∧ !s.jobWhole x then s.failJob j 5 0
  else match x.op with
    | 1 => s.setFld Reg.wgtJobStat j 2 0 3
    | 3 => s.finishRestore j
    | 4 => s.placeAdapter j
    | _ => s

/-- A shard with a failed tag or digest (R387): refused, its list entry read again (R372), and fetched again; its third failure ends the
job. `again` is what the entry's READ gives; an entry that cannot be read leaves the shard missing (R388). -/
def State.refuseShard (s : State) (j index : Nat) (again : Bytes) : State :=
  let n := SMap.get 0 (s.job j).refused index + 1
  let s := s.modJob j fun x => { x with refused := SMap.set 0 x.refused index n }
  let s := (s.bump Reg.wgtShardRetryCnt).raise 0x6003 (le1 j ++ le2 index ++ le1 n)
  if 3 ≤ n then s.failJob j 2 index
  else
    let s := s.readList j index 16
    if again.length = 16 then
      let e := listEntry again 0
      (s.modJob j fun x => { x with list := x.list.map fun l => l.set index e }).fetchShard j index e
    else s.failJob j 3 index

/-- SHARD_ARRIVED (R375-R389): the checks of R387 in order; a shard that passes is staged. -/
def execShardArrived (job : BitVec 4) (index : Nat) (d : ShardRead) (s : State) : Host.Outcome State Fault Refusal :=
  let j := job.toNat
  let x := s.job j
  let h := shardOf d.shard
  .next (if s.jobState j ≠ 1 ∨ x.list.isNone ∨ x.cnt ≤ index ∨ x.staged.any (fun e => e.1 == index) ∨ x.waiting = true then s
    else if !shardHeadOk d.shard then s.failJob j 4 index
    else if s.encRequired x.op = true ∧ h.enc = false then s.failJob j 8 index
    else match shardBody d.shard s.xportPub (s.fld Reg.cfgDevice 0 15 0) with
      | none => s.refuseShard j index d.again
      | some body =>
        if !shardDigestOk d.shard body then s.refuseShard j index d.again
        else if !s.shardNamed x h then s.failJob j 4 index
        else if !s.shardEpochOk x h then s.failJob j 6 index
        else match shardImages h body with
          | none => s.failJob j 4 index
          | some imgs =>
            let ts := (List.range h.targets).map (shardTarget body)
            if !s.shardTargetsOk j x h ts then s.failJob j 5 index
            else if x.op ≠ 4 ∧ x.model ≠ 0 ∧ s.goldFree < imgs.length then s.failJob j 7 index
            else
              let e : Staged := ⟨h.layer, h.shard, h.count, ts, imgs, sha512 imgs.flatten⟩
              let s := s.modJob j fun y => { y with staged := SMap.insert y.staged index e }
              let n := (s.job j).staged.length
              let s := s.setFld Reg.wgtJobProgress j 15 0 n
              if n = x.cnt then s.allStaged j else s)

/-- SHARD_FETCH_TIMEOUT (R388): a fetch has failed or has not completed within WGT_SHARD_TIMEOUT.MS. -/
def execShardFetchTimeout (job : BitVec 4) (index : Nat) (s : State) : Host.Outcome State Fault Refusal :=
  let x := s.job job.toNat
  .next (if s.jobState job.toNat ≠ 1 ∨ x.list.isNone ∨ x.cnt ≤ index ∨ x.staged.any (fun e => e.1 == index) then s else s.failJob job.toNat 3 index)

/-! ## Array writes (R405, R409) -/

/-- The new layers of a model after a job. -/
def Job.newLayers (x : Job) (old : List LayerRes) : List LayerRes :=
  let fresh (l : Nat) : LayerRes := ⟨x.epoch, (x.layerShards l).map fun e => ⟨e.targets, e.digest⟩⟩
  if x.op = 1 then (List.range x.layers).map fresh
  else (numbered old).map fun e => if x.named.contains e.1 then fresh e.1 else e.2
/-- The staged images become the golden copy (R406). -/
def State.takeGold (s : State) (x : Job) : State :=
  (x.staged.flatMap fun e => e.2.targets.zip e.2.images).foldl (fun s q => s.setGold q.1 ⟨q.2, true⟩) s

/-- A LOAD whose layers are all written becomes resident (R409). -/
def State.finishLoad (s : State) (j : Nat) : State :=
  let x := s.job j
  match s.modelEntry x.model with
  | some m =>
    if s.jobState j = 3 ∧ x.writes = [] ∧ (List.range x.layers).all (fun l => x.written.contains l) then
      let ls := x.newLayers []
      let s := ((s.dropGold (s.model m).arrays).takeGold x).putResid x.model (some ⟨x.model, x.epoch, ls, none⟩)
      let s := s.dropRequests fun r => r.model == x.model && r.adapter.isNone
      let s := s.modModel m fun y => { y with st := 2, reason := 0, epoch := x.epoch, layers := ls, verified := [] }
      s.endJob j 1 0
    else s
  | none => s

/-- The record that a LOAD or REPLACE gives a target. -/
def State.recordFor (s : State) (x : Job) (t : Nat) : Option Bytes :=
  (x.image t).map fun q => epochRecord x.model x.epoch q.1.layer q.1.shard q.2.1 (adigOf q.2.2) s.time.cnt
/-- A valid record already says so: everything but STAMP and CRC agrees (R409). -/
def State.recordMatches (s : State) (x : Job) (t : Nat) : Bool :=
  match (s.warp (s.targetKey t)).valid, s.recordFor x t with
  | some r, some n => r.take 32 == n.take 32
  | _, _ => false

/-- LOAD_LAYER_WRITE (R409): every shard of the layer is staged; the arrays that differ are cleared and written. -/
def execLoadLayerWrite (job : BitVec 4) (layer : BitVec 12) (s : State) : Host.Outcome State Fault Refusal :=
  let j := job.toNat
  let l := layer.toNat
  let x := s.job j
  -- the spare's load or a service under way holds the Spindle's writes (R112); a preparation for one of the layer's arrays gives way
  let busy (t : Nat) : Bool :=
    let k := s.targetKey t
    match (s.tile (k / 16)).stage with
    | .idle => false
    | .loading a _ => a != k % 16
    | .ready a _ => a != k % 16
    | _ => true
  .next (if x.op ≠ 1 ∨ (s.jobState j ≠ 1 ∧ s.jobState j ≠ 3) ∨ !x.layerWhole l ∨ x.written.contains l ∨ (x.layerTargets l).any busy then s
    else
      let ts := (x.layerTargets l).filter fun t => !s.recordMatches x t
      let s := ts.foldl State.emptyArray s
      let s := s.modJob j fun y => { y with writes := y.writes ++ ts, written := y.written ++ [l], wrote := y.wrote || !ts.isEmpty }
      s.startWrites.finishLoad j)

/-- A write that ends well: the array holds the image and its record, and is ACTIVE or QUEUED. The new weights take the manufacturing
set without an age correction, as the last calibration measured other cells: the model's choice (log entry 122). -/
def State.writeGood (s : State) (j t phys idx : Nat) : State :=
  let x := s.job j
  let k := arrKey phys idx
  let rec' := s.recordFor x t
  let s := s.countWrite phys idx
  let s := if (s.tile phys).queue.any fun q => q.arr == idx && q.op == 2 then s.dropSvc t 1 else s
  let queued := (s.tile phys).queue.any fun q => q.arr == idx
  let s := s.modWarp k fun a => match a.writing with
    | some img => { a.load img with record := rec', code := if queued then 2 else 1, age := [], ageDue := none }
    | none => a
  let s := s.modJob j fun y => { y with writes := y.writes.erase t, wrote := true }
  -- a mirror of the old image takes no part in shadow runs until it is loaded again
  let s := s.modRow (rowOf (t / 16)) fun r => if r.mirror = some (t / 16 % 32) then { r with ready := false } else r
  (s.countArray j).startWrites
/-- On LMX1-S0I1 a layer's staging slots are free once its arrays are written (R396). -/
def State.freeStaged (s : State) (j : Nat) : State :=
  let x := s.job j
  if s.stacked = true ∨ x.op ≠ 1 then s
  else
    let done (e : Nat × Staged) : Nat × Staged :=
      if x.written.contains e.2.layer ∧ e.2.targets.all (fun t => !x.writes.contains t) then (e.1, { e.2 with images := [] }) else e
    s.modJob j fun y => { y with staged := y.staged.map done }

/-- ARRAY_WRITE_DONE (R107-R110, R405, R407, R409): a job's write of an array ends, after the one retry of R110. -/
def execArrayWriteDone (phys : BitVec 12) (arr : BitVec 4) (c : ArrayCheck) (s : State) : Host.Outcome State Fault Refusal :=
  let p := phys.toNat
  let i := arr.toNat
  if physOk p = true ∧ i ≤ 8 then
    .next (let k := arrKey p i
      if (s.warp k).writing.isNone then s
      else match s.wgt.jobs.findSome? fun y => (y.2.writes.find? fun t => s.targetKey t == k).map fun t => (y.1, t) with
        | none => s
        | some (j, t) =>
          let x := s.job j
          if c.writeOk then
            let s := s.writeGood j t p i
            if x.op = 1 then (s.freeStaged j).finishLoad j
            else s.setFld Reg.wgtBarrier 0 31 16 (s.fld Reg.wgtBarrier 0 31 16 - 1)
          else
            let s := (s.countWrite p i).failArray p i
            if x.op = 1 then s.failJob j 9 (x.indexOf t)
            else
              let s := (x.writes.erase t).foldl (fun s u => s.modWarp (s.targetKey u) fun a =>
                if a.writing.isSome then { a with writing := none, code := if a.code = 4 then 4 else 0 } else a) s
              (s.modJob j fun y => { y with writes := [], failed := true, refused := SMap.set 0 [] 0 (x.indexOf t) }).startWrites)
  else .fault .noSuchUnit

/-! ## The replacement barrier (R404-R408) -/

/-- BARRIER_RAISE (R404): every shard is staged; the intent is written and the barrier raised. -/
def execBarrierRaise (job : BitVec 4) (s : State) : Host.Outcome State Fault Refusal :=
  let j := job.toNat
  let x := s.job j
  .next (if x.op ≠ 2 ∨ s.jobState j ≠ 1 ∨ x.staged.length ≠ x.cnt ∨ s.wgt.barrier.isSome then s
    else match s.modelEntry x.model with
      | none => s
      | some m =>
        if (s.model m).st ≠ 2 then s.failJob j 12 0
        else
          let n := (x.named.flatMap x.layerTargets).length
          let s := { s with wgt := { s.wgt with
            flash := listUpdate (fun f => f.model == x.model) (fun f => { f with intent := some x.epoch }) s.wgt.flash
            barrier := some (j, m) } }
          let s := (s.modModel m fun y => { y with st := 3 }).setReg Reg.wgtBarrier 0 (1 + m * 16 + n % 65536 * 65536)
          s.setFld Reg.wgtJobStat j 2 0 2)

/-- The partition's steps have drained (R404, R408): none runs or is published. A step given up by a fault counts as drained at the
clear (R312). -/
def State.drained (s : State) (p : Nat) : Bool :=
  let q := s.part p
  q.prog.isNone || (!q.inStep && !q.published && q.stop == .run && q.rerun.isNone)

/-- BARRIER_DRAINED (R404, R405): the model's partitions have drained and no service is in progress on a target Spindle. -/
def execBarrierDrained (job : BitVec 4) (s : State) : Host.Outcome State Fault Refusal :=
  let j := job.toNat
  let x := s.job j
  let ts := x.named.flatMap x.layerTargets
  .next (if x.op ≠ 2 ∨ s.jobState j ≠ 2 then s
    else if (List.range 16).any (fun p => (match (s.part p).prog with
        | some g => g.model == x.model
        | none => false) && !s.drained p) then s
    else if ts.any fun t => (s.tile (s.targetKey t / 16)).stage != .idle then s
    else ((s.modJob j fun y => { y with writes := ts }).startWrites).setFld Reg.wgtJobStat j 2 0 3)

/-- REPLACE_COMMIT (R406): every write has passed; the residence record takes the new epoch, and the intent goes. -/
def execReplaceCommit (job : BitVec 4) (s : State) : Host.Outcome State Fault Refusal :=
  let j := job.toNat
  let x := s.job j
  .next (if x.op ≠ 2 ∨ s.jobState j ≠ 3 ∨ x.failed = true ∨ x.writes ≠ [] then s
    else match s.modelEntry x.model with
      | none => s
      | some m => s.putResid x.model (some ⟨x.model, x.epoch, x.newLayers (s.model m).layers, none⟩))

/-- The record in flash carries the job's epoch and no intent. -/
def State.committed (s : State) (x : Job) : Bool :=
  s.wgt.flash.any fun f => f.model == x.model && f.epoch == x.epoch && f.intent.isNone

/-- BARRIER_RELEASE (R362, R406, R407): the barrier goes at the engine tick after the commit, or after a failed write. -/
def execBarrierRelease (job : BitVec 4) (s : State) : Host.Outcome State Fault Refusal :=
  let j := job.toNat
  let x := s.job j
  .next (match s.wgt.barrier with
    | none => s
    | some (b, m) =>
      if b ≠ j ∨ s.jobState j ≠ 3 then s
      else
        let down (s : State) : State := { s with wgt := { s.wgt with barrier := none } }.setReg Reg.wgtBarrier 0 0
        if x.failed then
          (((down s).notReady m 8).endModelSessions x.model 8 fun _ => true).endJob j 9 (SMap.get 0 x.refused 0)
        else if !s.committed x then s
        else
          let old := (s.model m).epoch
          let s := (down s).takeGold x
          let s := s.dropRequests fun r => r.model == x.model && r.adapter.isNone && x.named.contains r.layer
          let s := s.modModel m fun y => { y with
            st := 2, epoch := x.epoch, layers := x.newLayers y.layers, switches := (y.switches + 1) % 2 ^ 32
            verified := y.verified.filter fun e => !x.named.contains e.1 }
          let s := s.raise 0x6007 (le4 x.model ++ le2 old ++ le2 x.epoch)
          let s := s.endModelSessions x.model 6 fun z => z.flags % 2 == 1
          let s := (s.serve.sessions.filter fun z => z.model.toNat == x.model && z.flags % 2 == 0).foldl (fun s z =>
            s.modSession z.id fun y => { y with epoch := x.epoch }) s
          s.endJob j 1 0)

/-! ## Requests and the golden copy -/

/-- SHARD_REQUEST_TIMEOUT (R402): WEIGHT_LOST, and the model's sessions end. -/
def execShardRequestTimeout (req : BitVec 16) (s : State) : Host.Outcome State Fault Refusal :=
  .next (match s.wgt.reqs.find? fun r => r.id == req.toNat && !r.lost && r.adapter.isNone with
    | none => s
    | some r =>
      let s := { s with wgt := { s.wgt with reqs := listUpdate (fun q => q.id == r.id && !q.lost) (fun q => { q with lost := true }) s.wgt.reqs } }
      let s := (s.setBit Reg.wgtStatus 0 3).raise 0x6006 (le2 r.id ++ le4 r.model ++ le2 r.epoch ++ le2 r.layer ++ le2 r.shard)
      match s.modelEntry r.model with
      | some m => (s.notReady m 7).endModelSessions r.model 8 fun _ => true
      | none => s)

/-- An array that a self-test found with cells below THRESH gets its REWRITE, once its golden image has been compared (R610). -/
def State.fixArray (s : State) (phys idx : Nat) : State :=
  let k := arrKey phys idx
  if s.boot.fix.contains k then
    let s := s.svcRequest phys idx 2
    { s with boot := { s.boot with fix := s.boot.fix.filter (· != k) } }
  else s

/-- GOLDEN_COMPARE (R397): a rebuilt golden image is compared with its ADIG; a mismatch counts as a re-check mismatch of the array. -/
def execGoldenCompare (phys : BitVec 12) (arr : BitVec 4) (verifyOk : Bool) (s : State) : Host.Outcome State Fault Refusal :=
  let p := phys.toNat
  if physOk p = true ∧ arr.toNat < 8 then
    .next (match s.targetOf p arr.toNat with
      | none => s
      | some t => match s.gold t, s.locate t with
        | some g, some (m, l, h, _) =>
          if g.compared then s
          else
            let good := s.goldGood t
            let s := s.setGold t { g with compared := true }
            let s := s.fixArray p arr.toNat
            if good then s
            else
              let v := verifyOk && s.cellsGood t
              let s := (s.bump Reg.wgtRecheckFailCnt).setBit Reg.wgtStatus 0 1
              let s := s.raise 0x6005 (le4 (s.model m).id ++ le2 l ++ le2 h ++ le1 (if v then 3 else 4))
              s.recheckArray t v false
        | _, _ => s)
  else .fault .noSuchUnit

end Sys2Proof.Machine
end

