-- ==== Sys2Proof/Machine/WeftRows.lean ====
section
/-! DEFINITION. What happens to Weft arrays and adapter entries outside a program's passes (04_weft_arrays.md R147-R155): slot writes,
scrub reads, restores, recalibrations, and adapter loads that wait. Tiles are packed physical tiles. -/

namespace Sys2Proof.Machine

/-- Change one slot of an array. -/
def State.modSlot (s : State) (p : Nat) (k : Bool) (f : WeftSlot → WeftSlot) : State :=
  s.modWeft p fun w => w.setSlot k (f (w.slot k))
/-- Detail item of a Weft array event (R165): the logical tile; of an array that serves none, its physical tile: the model's choice (log
entry 126). -/
def State.weftItem (s : State) (p : Nat) : Bytes := le2 ((s.logOf p).getD p)

/-- A slot write of 512 rows has ended (R162, WEFT_ROW of R599). -/
def State.slotWritten (s : State) (p : Nat) : State := (s.modTile p fun q => q.addCnt 34 512).bump Reg.wftWriteCnt p
/-- WEFT_SLOT_WRITE_DONE (R149-R152): the slot holds what was written, and a write that waits for the write port starts; a quantising write
clears a blocked flip, and blocks the next one when its partition stopped under it (R312). -/
def execWeftSlotWriteDone (t : BitVec 12) (slot : Bool) (s : State) : Host.Outcome State Fault Refusal :=
  let p := t.toNat
  if physOk p then
    .next (match ((s.weft p).slot slot).write with
      | none => s
      | some q =>
        if q.queued then s
        else
          let s := s.modSlot p slot fun x => { (x.store q.cells) with blocked := if q.quant then q.stopped else x.blocked }
          (s.modSlot p (!slot) fun x => { x with write := x.write.map fun q => { q with queued := false } }).slotWritten p)
  else .fault .noSuchUnit

/-- A slot enters RESTORE (R145, R152, R153): on LMX1-S0I1 the stored image of an entry that is not TRAINING is requested (R412). -/
def State.toRestore (s : State) (p : Nat) (slot : Bool) : State :=
  let x := (s.weft p).slot slot
  let s := s.modSlot p slot fun x => { x with st := .restore }
  match x.entry with
  | some e =>
    let a := s.adapter e
    if s.stacked = false ∧ a.st ≠ 4 then s.addRequest 0 a.gen a.handle 0 (some e) else s
  | none => s
/-- A parity error that a scrub finds in one slot (R152). A slot that is written for a LOADING entry enters RESTORE as a RESIDENT one does;
a FREE slot has no content in force and no entry to restore it from, and stays FREE (log entry 125). -/
def State.scrubError (s : State) (p row : Nat) (slot : Bool) : State :=
  let s := (s.bump Reg.wftScrubErrCnt p).setBit Reg.wftStatus 0 3
  let s := s.raiseIn 0 0x4007 (halfOf p) (s.weftItem p ++ le1 (if slot then 1 else 0) ++ le2 row)
  match ((s.weft p).slot slot).st with
  | .resident => s.toRestore p slot
  | .loading => s.toRestore p slot
  | .shadow => s.modSlot p slot fun x => { x with blocked := true }
  | .restore => s
  | .free => s

/-- WEFT_SCRUB_READ (R152): one row of both slots, while the write port is idle. -/
def execWeftScrubRead (t : BitVec 12) (bad0 bad1 : Bool) (s : State) : Host.Outcome State Fault Refusal :=
  let p := t.toNat
  if physOk p then
    .next (let w := s.weft p
      if w.slot0.write.isSome ∨ w.slot1.write.isSome then s
      else
        let s := s.modWeft p fun w => { w with scrubRow := (w.scrubRow + 1) % 512 }
        let s := if bad0 then s.scrubError p w.scrubRow false else s
        if bad1 then s.scrubError p w.scrubRow true else s)
  else .fault .noSuchUnit

/-- The cells of a restored slot of a TRAINING entry: quantised from a master copy that the manual does not place (R153). -/
def freeCells (n rank : Nat) (up : Bool) : SMap (BitVec 4) :=
  (sparse 4 ((List.range 32768).map fun i => (Config.freeCell n i).toNat)).filter fun e =>
    if up then decide (e.1 / 64 % 64 < rank) else decide (e.1 % 64 < rank)

/-- The cells of a quantising restore from the master copy of a TRAINING entry that the last quantising write of the array read (R153, R159);
the draws of its rounding are free (log entry 127). With them, the cells that clamp. -/
def State.masterCells (s : State) (p : Nat) (x : WeftSlot) (n : Nat) : SMap (BitVec 4) × Nat :=
  match (s.weft p).master, s.logOf p with
  | some line, some t =>
    let k := if x.up then 16 * x.rank else 512 * ceilDiv x.rank 32
    qwCells (fun i => .sr (Config.freeWord (32768 * n + i))) (s.readLines t line k) x.scales x.rank x.up
  | _, _ => (freeCells n x.rank x.up, 0)

/-- WEFT_RESTORE_DONE (R153): the slot is rewritten in place, once its image is there. -/
def execWeftRestoreDone (t : BitVec 12) (slot : Bool) (s : State) : Host.Outcome State Fault Refusal :=
  let p := t.toNat
  if physOk p then
    .next (let x := (s.weft p).slot slot
      match x.st, x.entry with
      | .restore, some e =>
        let a := s.adapter e
        if a.st = 4 then
          let c := s.masterCells p x s.freeCtr
          let s := (s.modSlot p slot fun x => { (x.store c.1) with st := .resident }).bump Reg.wftClampCnt p c.2
          let s := { s with freeCtr := s.freeCtr + 1 }
          (s.modAdapter e fun a => { a with gen := (a.gen + 1) % 256 }).slotWritten p
        else if a.st ≠ 2 ∧ a.st ≠ 3 then s
        else if s.wgt.reqs.any fun r => r.adapter == some e then s
        else match a.foot.find? fun f => s.physOf f.tile == p with
          | some f => (s.modSlot p slot fun x => { (x.store f.cells) with st := .resident, scales := f.scales }).slotWritten p
          | none => s
      | _, _ => s)
  else .fault .noSuchUnit

/-- ADAPTER_RESTORE_TIMEOUT (R153, R155): the image of an entry with a slot in RESTORE has not come within WFT_ADPT_WAIT. -/
def execAdapterRestoreTimeout (e : BitVec 10) (s : State) : Host.Outcome State Fault Refusal :=
  let n := e.toNat
  let a := s.adapter n
  let waits := a.foot.any fun f =>
    let w := s.weft (s.physOf f.tile)
    [w.slot0, w.slot1].any fun x => x.entry == some n && x.st == .restore
  .next (if (a.st ≠ 2 ∧ a.st ≠ 3 ∧ a.st ≠ 4) ∨ waits = false then s
    else
      let s := s.modAdapter n fun a => { a with st := 5 }
      let s := s.dropRequests fun r => r.adapter == some n
      let s := s.raiseIn a.part 0x4003 4 (s.entryItems n)
      let s := (s.serve.sessions.filter fun x => x.adapter == some n).foldl (fun s x => s.endAtTick x.id 0 7) s
      if (s.part a.part).inStep then s else s.freeUnused n)

/-- WEFT_RECAL_DONE (R147): every line's trim is set; back ONLINE, a second attempt, or FAILED. `margin` is the ratio margin measured
afterwards. The trims are those of a recalibration number that names them (log entry 128). -/
def execWeftRecalDone (t : BitVec 12) (margin : Nat) (s : State) : Host.Outcome State Fault Refusal :=
  let p := t.toNat
  if physOk p then
    .next (let w := s.weft p
      if w.st ≠ 1 then s
      else
        let (n, s) := s.fresh
        let s := s.modWeft p fun w => { w with trimSet := n + 1 }
        let left (s : State) : State := s.setFld Reg.wftRecalActive 0 11 0 (s.fld Reg.wftRecalActive 0 11 0 - 1)
        if s.fld Reg.wftQualCfg 0 5 0 + s.fld Reg.wftQualCfg 0 13 8 ≤ margin then
          let s := (left (s.modWeft p fun w => { w with st := 0, attempt := 0 })).setReg Reg.wftQual p 32
          s.raiseIn 0 0x4005 (halfOf p) (s.weftItem p ++ le1 margin)
        else if w.attempt = 0 then s.modWeft p fun w => { w with attempt := 1 }
        else
          let s := (left (s.modWeft p fun w => { w with st := 2 })).raiseIn 0 0x4006 (halfOf p) (s.weftItem p)
          s.suspect 4 7 p ((s.logOf p).getD 0xFFFF) 9 0xFF 0 0)
  else .fault .noSuchUnit

/-- WEFT_RECAL_PERIODIC (R148): the next ONLINE array of the district whose turn it is enters RECAL; the districts come in ascending order,
again and again, and one array of each is in RECAL at a time (log entry 129). -/
def execWeftRecalPeriodic (d : Nat) (s : State) : Host.Outcome State Fault Refusal :=
  if 50 ≤ d then .fault .noSuchUnit
  else .next (
    let ts := districtTiles d
    if s.fld Reg.wftQualCfg 0 25 16 = 0 ∨ d ≠ s.cal.weftD ∨ ts.any (fun p => (s.weft p).st == 1) = true then s
    else
      let s := { s with cal := { s.cal with weftD := (d + 1) % 50 } }
      let c := SMap.get 0 s.cal.weft d
      match ((List.range 64).map fun i => (c + i) % 64).find? fun r => (s.weft (ts.getD r 0)).st == 0 with
      | some r => ({ s with cal := { s.cal with weft := SMap.set 0 s.cal.weft d ((r + 1) % 64) } }).enterRecal (ts.getD r 0)
      | none => s)

/-! ## Loads that wait (R155) -/

/-- ADAPTER_ALLOC_RETRY (R155): a slot has come free, and the waiting load is placed again. -/
def execAdapterAllocRetry (job : BitVec 4) (s : State) : Host.Outcome State Fault Refusal :=
  .next (if (s.job job.toNat).waiting then s.placeAdapter job.toNat else s)

/-- ADAPTER_WAIT_TIMEOUT (R155): WFT_ADPT_WAIT has elapsed; no slot has changed. -/
def execAdapterWaitTimeout (job : BitVec 4) (s : State) : Host.Outcome State Fault Refusal :=
  let j := job.toNat
  let x := s.job j
  .next (if x.waiting then
      let s := (s.setBit Reg.wftStatus 0 2).raiseIn x.part 0x4002 4 (le2 0 ++ le2 (x.adpt % 65536) ++ le1 (x.adpt / 65536 % 256))
      s.adapterEnds j 0 2
    else s)

/-- ADAPTER_LOAD_VERIFIED (R155): every slot of a LOADING entry is written, and its image has been verified. -/
def execAdapterLoadVerified (e : BitVec 10) (ok : Bool) (s : State) : Host.Outcome State Fault Refusal :=
  let n := e.toNat
  let a := s.adapter n
  let writing := a.foot.any fun f =>
    let w := s.weft (s.physOf f.tile)
    [w.slot0, w.slot1].any fun x => x.entry == some n && x.write.isSome
  .next (if a.st ≠ 1 ∨ a.ready = true then s
    else if ok then if writing then s else s.modAdapter n fun a => { a with ready := true }
    else
      let items := s.entryItems n
      let s := (s.modFoot n fun _ _ => WeftSlot.init).modAdapter n fun _ => Adapter.init
      let s := (s.raiseIn a.part 0x4003 4 items).adptResult n 3
      match s.wgt.jobs.find? fun j => j.2.entry == some n with
      | some (j, _) => s.endJob j 14 0
      | none => s)

end Sys2Proof.Machine
end

