-- ==== Sys2Proof/Machine/Dark.lean ====
section
/-! DEFINITION. The module without power (R506, R633): what stays in flash, fuses and non-volatile cells, and how the rails go off. -/

namespace Sys2Proof.Machine

/-- A register instance that is kept in flash or fuses: array write counts (R113), the last accepted calibration of an array (R588),
identity and transport keys (R504, R546), serial, stepping and module revision, MAC addresses, sensor trims (R591), life counters
(R622), trips (R647). -/
def persistentReg (a : Nat) : Bool :=
  [Reg.wrpWriteCnt, Reg.calTc, Reg.calStampLo, Reg.calStampHi, Reg.calRms, Reg.calAge, Reg.cfgSerialLo, Reg.cfgSerialHi, Reg.cfgStepping,
    Reg.ethMacLo, Reg.ethMacHi, Reg.thmSensTrim, Reg.cntEventSeq, Reg.cntLifeStarts, Reg.cntLifeShutdowns,
    Reg.cntLifeLatches, Reg.pwrTripCnt].contains a ||
  decide ((Reg.cfgIdPub ≤ a ∧ a < Reg.cfgIdPub + 32) ∨ (Reg.cfgIdCert ≤ a ∧ a < Reg.cfgIdCert + 128) ∨
    (Reg.wgtXportPub ≤ a ∧ a < Reg.wgtXportPub + 32))

/-- The cells of an array whose write a power loss cuts off (R109): the manual gives none. -/
def cutCells (n : Nat) : SMap (BitVec 4) := sparse 4 ((List.range 262144).map fun i => (Config.freeCell n i).toNat)
/-- What an array keeps without power: cells, tail, calibration set, record row. -/
def WarpArr.cold (a : WarpArr) (n : Nat) : WarpArr :=
  { a with cells := if a.writing.isSome then cutCells n else a.cells, record := if a.writing.isSome then none else a.record,
           ageDue := none, code := 0, writing := none, mark := none, disputes := [], shadowCol := 0, shadow := [] }

/-- Reset values that depend on the variant (R396, R395, R498): of the weight area and of the links for CONTEXT messages. -/
def State.variantRegs (s : State) : State :=
  let s := s.setReg Reg.sknCtxLinks 0 (2 ^ linksOf s.variant - 1)
  if s.variant = .s0i1 then (s.setReg Reg.wgtGoldSlots 0 64).setReg Reg.wgtAdptImages 0 0 else s

/-- The module with every rail off, and everything that needs power at its reset value. -/
def State.off (s : State) : State :=
  let r := State.reset
  State.variantRegs { r with
    variant := s.variant, pending := s.pending, freeCtr := s.freeCtr + 1, out := s.out
    regs := s.regs.filter fun e => persistentReg (e.1 % 16777216)
    warps := (s.warps.map fun e => (e.1, e.2.cold s.freeCtr)).filter fun e => e.2 != WarpArr.init
    integ := { r.integ with suspects := s.integ.suspects }
    events := { r.events with seq := s.events.seq, log := s.events.log }
    wgt := { r.wgt with flash := s.wgt.flash }
    power := { r.power with good := s.power.good, fault := s.power.fault, held := s.power.held, shut := if s.power.shut = 3 then 3 else 0 }
    boot := { BootSt.init with fuse := s.boot.fuse, flash := s.boot.flash } }

/-- Contacts S4 PWR_GOOD_OUT and S5 FAULT_OUT (R639). -/
def pinGood : Nat := 4
def pinFault : Nat := 5
/-- Drive an output contact. -/
def State.setPin (s : State) (n : Nat) (b : Bool) : State :=
  { s with power := if n = pinGood then { s.power with good := b } else { s.power with fault := b } }.send (.pin n b)

/-- Rails off into a power state, 0 OFF or 7 THERMAL-LATCH: PWR_GOOD_OUT is released (R634, R636, R639). -/
def State.dark (s : State) (state : Nat) : State :=
  let s := { s with power := { s.power with shut := 0, held := state == 0 } }
  let s := ((s.setPower state).setPin pinGood false).off
  s.setFld Reg.pwrState 0 2 0 state

/-- Input lost or a trip (R627, R630): the POWER_LOSS record, then OFF. Causes 2 to 4 are trips and assert FAULT_OUT. -/
def State.powerLoss (s : State) (cause : Nat) : State :=
  let s := (s.raise 0xC006 (le1 cause)).bump Reg.pwrTripCnt
  let s := if 2 ≤ cause ∧ cause ≤ 4 then s.setPin pinFault true else s
  s.dark 0

/-- THERMAL-LATCH (R581): the record, the count, FAULT_OUT and the rails; the sensor and reading stay in flash. -/
def State.thermalLatch (s : State) (sensor reading : Nat) : State :=
  let s := (s.raise 0xA005 (le2 sensor ++ le2 reading)).bump Reg.cntLifeLatches
  let s := { s with boot := { s.boot with flash := { s.boot.flash with latch := some (sensor, reading), latched := true } } }
  (s.setPin pinFault true).dark 7

/-- The power state (R633). -/
def State.powerState (s : State) : Nat := s.fld Reg.pwrState 0 2 0

end Sys2Proof.Machine
end

