-- ==== Sys2Proof/Machine/Gauge.lean ====
section
/-! DEFINITION. The Gauge converter (14_calibration_and_thermal.md R566-R573, R583-R585). -/

namespace Sys2Proof.Machine

/-- A channel that exists (R568): of a stack or an I/O die, when it is fitted. -/
def gaugeFitted (v : Variant) (c : Nat) : Bool :=
  if 52 ≤ c ∧ c < 56 then stackFitted v (c - 52)
  else if c = 56 ∨ c = 57 then decide (c - 56 < ioDiesOf v)
  else decide (c < 72)

def State.modGauge (s : State) (f : GaugeSt → GaugeSt) : State := { s with cal := { s.cal with gauge := f s.cal.gauge } }
/-- First channel and channel count of a sequence entry (R569); `base` is GAU_REG_ENTRY or GAU_INJ_ENTRY. -/
def State.gaugeEntry (s : State) (base n : Nat) : Nat × Nat := (s.fld (base + 4 * n) 0 6 0, s.fld (base + 4 * n) 0 14 8 + 1)
/-- The position after the channel that has been converted; none at the end of the sequence of `len` entries. -/
def State.gaugeNext (s : State) (base len : Nat) (p : Nat × Nat) : Option (Nat × Nat) :=
  if p.2 + 1 < (s.gaugeEntry base p.1).2 then some (p.1, p.2 + 1)
  else if p.1 + 1 < len then some (p.1 + 1, 0)
  else none

/-- Start the next conversion when none runs and the buffer is settled (R571, R573): the injected sequence before the regular one. -/
def State.gaugeKick (s : State) : State :=
  let g := s.cal.gauge
  if g.run ≠ 0 ∨ s.fld Reg.gauStatus 0 0 0 = 0 then s
  else if s.fld Reg.gauStatus 0 2 2 = 1 then s.modGauge fun g => { g with run := 2 }
  else if s.fld Reg.gauStatus 0 3 3 = 1 then
    ((s.clrBit Reg.gauStatus 0 3).setBit Reg.gauStatus 0 2).modGauge fun g => { g with run := 2, inj := (0, 0) }
  else if s.fld Reg.gauStatus 0 1 1 = 1 ∧ g.gap = false then s.modGauge fun g => { g with run := 1 }
  else s

/-- A source triggers the injected sequence (R571): 0 thermal alarm, 1 overcurrent, 2 calibration step. A trigger that finds it
running or pending is merged. -/
def State.gaugeTrigger (s : State) (src : Nat) : State :=
  if 2 < src ∨ s.fld Reg.gauInjCfg 0 (4 + src) (4 + src) = 0 then s
  else if s.fld Reg.gauStatus 0 3 2 ≠ 0 then (s.bump Reg.gauInjMergeCnt).setBit Reg.gauStatus 0 8
  else (s.setBit Reg.gauStatus 0 3).gaugeKick

/-- GAUGE_INJECTED_TRIGGER (R571). -/
def execGaugeInjectedTrigger (source : BitVec 2) (s : State) : Host.Outcome State Fault Refusal := .next (s.gaugeTrigger source.toNat)

/-- The regular sequence starts (R570); while it runs a START has no effect. -/
def State.gaugeStartReg (s : State) : State :=
  if s.fld Reg.gauStatus 0 1 1 = 1 then s
  else ((s.setBit Reg.gauStatus 0 1).modGauge fun g => { g with reg := (0, 0), gap := false, stop := false }).gaugeKick
/-- The regular sequence ends. -/
def State.gaugeEndReg (s : State) : State :=
  (s.clrBit Reg.gauStatus 0 1).modGauge fun g => { g with reg := (0, 0), gap := false, stop := false }
/-- The regular sequence is to stop (R570): with the running conversion, or at once when none runs. -/
def State.gaugeStopReg (s : State) : State :=
  if s.fld Reg.gauStatus 0 1 1 = 0 then s
  else if s.cal.gauge.run = 0 then s.gaugeEndReg
  else s.modGauge fun g => { g with stop := true }

/-- A result of a conversion (R572): registers, time stamp, NEW, and the district current of a rail channel (R648). -/
def State.gaugeResult (s : State) (c : Nat) (code : Int) (injected : Bool) : State :=
  let bad := s.fld Reg.gauStatus 0 9 9
  let s := s.setReg Reg.gauChRes c ((code % 2 ^ 24).toNat + (if injected then 2 ^ 24 else 0) + bad * 2 ^ 25 + 2 ^ 31)
  let s := (s.setReg64 Reg.gauChStampLo c s.now).bump Reg.gauChCnt c
  if 2 ≤ c ∧ c < 52 then s.setFld Reg.pwrDistI (c - 2) 15 0 ((code / 1024).toNat) else s

/-- The regular sequence moves on after a conversion of its own (R570). -/
def State.gaugeAdvance (s : State) : State :=
  match s.gaugeNext Reg.gauRegEntry (s.fld Reg.gauRegCfg 0 3 0 + 1) s.cal.gauge.reg with
  | some p => s.modGauge fun g => { g with reg := p }
  | none =>
    let s := s.bump Reg.gauRegPassCnt
    if s.fld Reg.gauRegCfg 0 8 8 = 0 then s.gaugeEndReg
    else s.modGauge fun g => { g with reg := (0, 0), gap := s.fld Reg.gauRegCfg 0 31 16 != 0 }

/-- The injected sequence moves on. -/
def State.injectAdvance (s : State) : State :=
  match s.gaugeNext Reg.gauInjEntry (s.fld Reg.gauInjCfg 0 1 0 + 1) s.cal.gauge.inj with
  | some p => s.modGauge fun g => { g with inj := p }
  | none => s.clrBit Reg.gauStatus 0 2

/-- GAUGE_CONVERSION_DONE (R570-R572): the running conversion completes with a code; the next one starts. -/
def execGaugeConversionDone (code : Int) (s : State) : Host.Outcome State Fault Refusal :=
  let g := s.cal.gauge
  .next (if g.run = 0 then s
    else
      let c := if g.run = 1 then (s.gaugeEntry Reg.gauRegEntry g.reg.1).1 + g.reg.2 else (s.gaugeEntry Reg.gauInjEntry g.inj.1).1 + g.inj.2
      let s := (s.gaugeResult c code (g.run == 2)).modGauge fun g => { g with run := 0 }
      let s := if g.run = 1 then s.gaugeAdvance else s.injectAdvance
      (if g.stop then s.gaugeEndReg else s).gaugeKick)

/-- GAUGE_PASS_GAP (R570): the gap between two passes is over. -/
def execGaugePassGap (s : State) : Host.Outcome State Fault Refusal :=
  .next (if s.cal.gauge.gap then (s.modGauge fun g => { g with gap := false }).gaugeKick else s)

/-- GAUGE_REF_READY (R573): the buffer has settled, 2 ms after EN was set; sequences that wait begin. -/
def execGaugeRefReady (s : State) : Host.Outcome State Fault Refusal :=
  .next (if s.fld Reg.gauRefEn 0 0 0 = 0 then s else (s.setBit Reg.gauStatus 0 0).gaugeKick)

/-- GAUGE_REF_CHECK (R566): the readings of channels 64, 65, 66, 70 and 71, the corrections taken from them, and the three checks: the
buffer output (of the divider by two) against its input times 1.7067, ground, half scale. The event carries 1, 2 or 3 for the
check. -/
def execGaugeRefCheck (bandgap bufIn bufOut ground half : Int) (s : State) : Host.Outcome State Fault Refusal :=
  .next (if s.fld Reg.gauStatus 0 0 0 = 0 then s
    else
      let rs : List (Nat × Int) := [(64, bandgap), (65, bufIn), (66, bufOut), (70, ground), (71, half)]
      let s := rs.foldl (fun s r => s.gaugeResult r.1 r.2 false) s
      let s := (s.setFld Reg.calBg 0 23 0 (bandgap % 2 ^ 24).toNat).modGauge fun g => { g with ground := ground, half := half }
      let bad1 := decide (17067 * bufIn < (20000 * bufOut - 17067 * bufIn).natAbs * 1000)
      let bad2 := decide (16 < ground.natAbs)
      let bad3 := decide (4194304 < (half - 4194304).natAbs * 2000)
      [(1, bad1), (2, bad2), (3, bad3)].foldl (fun s e =>
        if e.2 then (s.setBit Reg.gauStatus 0 9).raise 0xA009 (le1 e.1) else s) s)

end Sys2Proof.Machine
end

