-- ==== Sys2Proof/Machine/Windows.lean ====
section
/-! DEFINITION. District windows (02_turns_and_time.md R59-R63, 14_calibration_and_thermal.md R579) and partitions that stop: the
no-progress watchdog (R51, R74, R78) and the clear of a faulted partition (R310, R311). -/

namespace Sys2Proof.Machine

/-! ## District windows -/

/-- Where a band is entered from below, and under which it falls, in 0.25 °C (R579). -/
def bandRise (b : Nat) : Int := match b with | 1 => 160 | 2 => 240 | 3 => 320 | _ => 380
def bandFall (b : Nat) : Int := match b with | 1 => 148 | 2 => 228 | 3 => 308 | _ => 368
/-- The band after a window boundary: one band up or down, B4 for a blind district (R578, R579). -/
def nextBand (b : Nat) (max : Int) (blind : Bool) : Nat :=
  if blind then 4
  else if b < 4 ∧ bandRise (b + 1) ≤ max then b + 1
  else if 0 < b ∧ max < bandFall b then b - 1
  else b
/-- Core set point of a band, mV (R57). -/
def setPoint (b : Nat) : Nat := match b with | 0 => 720 | 1 => 740 | 2 => 750 | 3 => 770 | _ => 780

/-- The district, 25 * half + district, whose rail segment feeds a unit without a spare (log entry 109). -/
def bareDistrict (n : Nat) : Nat := Config.railOf n % 50
/-- Steps of 25 mV in force on a district's rail segment: of a spine or lane group at most three (R449, R629). A stack PHY has its own
supply. -/
def State.railRaise (s : State) (d : Nat) : Nat :=
  s.integ.bare.foldl (fun m e => if 4096 ≤ e.1 ∧ bareDistrict e.1 = d then max m (min 3 e.2.margin) else m) 0
/-- The band change (R59, R61) and the set point in force (R57, R629). -/
def State.windowBand (s : State) (d : Nat) : State :=
  let r := Reg.thmDist + 4 * d
  let b := nextBand (s.dist d).band (signed12 (s.fld r 0 11 0)) (s.fld r 0 20 20 == 1)
  let s := (s.modDist d fun x => { x with band := b }).setFld r 0 14 12 b
  s.setReg Reg.pwrDistV d (setPoint b + 25 * s.railRaise d)

/-- LIVE power and thermal fields that wait for the district's boundary (R538, R600, R128). -/
def State.windowLive (s : State) (d : Nat) : State :=
  let s := livePower.foldl (fun s a => (s.applyLive (16 + d) a).applyLive 16 a) s
  let ts := districtTiles d
  let s := ts.foldl (fun s p => s.modTile p fun q =>
    { q with level := q.levelDue.foldl (fun m e => SMap.set (levelReset e.1) m e.1 e.2) q.level, levelDue := [] }) s
  let due := s.svcDue.filter fun e => ts.contains (e.key / 16)
  let s := { s with svcDue := s.svcDue.filter fun e => !ts.contains (e.key / 16) }
  due.foldl (fun s e => s.svcCommand (e.key / 16) (e.key % 16) e.op e.fw) s

/-- The cap factors that come into force (R63, R626, R628, R630). -/
def State.windowCaps (s : State) (d : Nat) : State :=
  let h := s.fld Reg.pwrDistHold d 4 0
  let s := s.modDist d fun x => { x with
    thr := s.fld Reg.thmStatus 0 1 1 == 1, uv := s.fld Reg.pwrStatus 0 0 0 == 1, op := s.fld Reg.pwrStatus 0 2 1, hold := h != 0 }
  s.setFld Reg.pwrDistHold d 4 0 (h - 1)

/-- Grant one Spindle its tokens; what was left over lapses (R61, R286, R287). -/
def State.grantTokens (s : State) (d t : Nat) : State :=
  let f := (s.dist d).factor
  s.modSpin t fun sp => { sp with
    grant := sp.nextGrant, granted := true, tokens := sp.nextGrant * f / 32
    sync := { sp.sync with win := if sp.sync.win = 1 then 2 else sp.sync.win } }

/-- The margin steps that wait for the district's boundary take effect (R60). -/
def State.windowMargins (s : State) (d : Nat) : State :=
  let put (e : Nat × BareSt) : Nat × BareSt :=
    if bareDistrict e.1 = d then (e.1, { e.2 with margin := e.2.margin + e.2.pend, pend := 0 }) else e
  { s with integ := { s.integ with bare := s.integ.bare.map put } }

/-- DISTRICT_WINDOW_BOUNDARY (R61): the band, the LIVE fields, then the grants; margin steps take effect (R60); the services of the
district's Spindles take over or hand back (R120); firmware's rounds ask again for what is not under way. -/
def execDistrictWindowBoundary (d : Nat) (s : State) : Host.Outcome State Fault Refusal :=
  if 50 ≤ d then .fault .noSuchUnit
  else .next (
    let s := (((s.windowMargins d).windowBand d).windowLive d).windowCaps d
    let loaded := (s.spindles.filter fun e => e.2.part.isSome && districtOf (s.physOf e.1) == d).map Prod.fst
    let s := loaded.foldl (fun s t => s.grantTokens d t) s
    ((districtTiles d).foldl (fun s p => (s.svcBoundary p).countO p 58 1) s).roundBoundary d)

/-! ## Partitions that make no progress -/

/-- The loaded tile with the lowest retired Turn, the lowest packed tile among equals (R78, R309). -/
def State.slowestTile (s : State) (p : Nat) : Nat :=
  match s.partTiles p with
  | [] => 0
  | t :: ts => ts.foldl (fun a u =>
      let x := (s.spin a).turn.toNat
      let y := (s.spin u).turn.toNat
      if y < x ∨ (y = x ∧ u < a) then u else a) t
/-- The first loaded tile in the order of R7. -/
def State.firstTile (s : State) (p : Nat) : Nat := match s.partTiles p with
  | [] => 0
  | t :: ts => ts.foldl min t

/-- PARTITION_STOP_ENTER (R51): 64 slots without a retired instruction. -/
def execPartitionStopEnter (p : BitVec 4) (s : State) : Host.Outcome State Fault Refusal :=
  let p := p.toNat
  .next (if (s.part p).prog.isNone ∨ (s.part p).stopped = true ∨ s.fld Reg.trnWdg p 20 0 < 64 then s
    else (s.modPart p fun q => { q with stopped := true }).bump Reg.trnFullstallCnt p)

/-- A flit of a send channel of tile `t` waits at an arbitration point for share admission (R229). -/
def State.shareHeld (s : State) (t : Nat) (c : SendCh) : Bool :=
  s.flits.any fun f =>
    f.chan == c.chan && ((f.src == t && f.dest == c.dest) || (f.src == c.dest && f.dest == t)) &&
      (s.heldAt f.part (routePoints f.src f.dest (s.flitRoute f))).isSome
/-- The wait code of a record or event (R309): a wait on a credit is one on the share while a flit of the credit's channel waits there. -/
def State.waitCode (s : State) (t : Nat) : Nat :=
  let w := (s.spin t).wait
  match w.ch with
  | some ch => if w.code = 2 ∧ s.shareHeld t ((s.spin t).sendCh ch) = true then 5 else w.code
  | none => w.code

/-- PARTITION_STOPPED (R78): the partition has stayed in STATE 2 for more than 2^16 slots; raised once in each stay. -/
def execPartitionStopped (p : BitVec 4) (s : State) : Host.Outcome State Fault Refusal :=
  let p := p.toNat
  .next (if (s.part p).prog.isNone ∨ (s.part p).stopped = false ∨ (s.part p).told = true ∨
      s.fld Reg.trnWdg p 20 0 ≤ 64 + 65536 then s
    else
      let t := s.slowestTile p
      (s.modPart p fun q => { q with told := true }).raiseIn p 0x2005 (halfOf t) (le1 p ++ le2 t ++ le1 (s.waitCode t)))

/-- The last Turn that a Spindle has retired; 0 while it has retired none (R76). -/
def Spindle.retiredTurn (sp : Spindle) : Nat := sp.turn.toNat - 1

/-- WATCHDOG_EXPIRY (R74, R309): 2^20 slots without a retired instruction; FAULT_WATCHDOG stops the partition. -/
def execWatchdogExpiry (p : BitVec 4) (s : State) : Host.Outcome State Fault Refusal :=
  let p := p.toNat
  .next (if (s.part p).prog.isNone ∨ (s.part p).stop ≠ .run ∨ s.fld Reg.trnWdg p 20 0 < 2 ^ 20 then s
    else
      let t := s.slowestTile p
      let w := (s.spin t).wait
      let f := s.firstTile p
      let sp := s.spin f
      let detail := t + s.waitCode t * 2 ^ 12 + w.ch.getD 0 * 2 ^ 16 + (if w.ch.isSome then 2 ^ 21 else 0) +
        (s.spin t).retiredTurn % 2 ^ 32 * 2 ^ 32
      s.recordFault p f (faultRecord 0x1009 f p sp.pc (wCls (SMap.get 0 sp.words sp.pc)) sp.turn.toNat (s.stepOf p f)
        (SMap.get 0 sp.occ sp.pc) detail))

/-! ## The clear of a faulted partition -/

/-- A record comes before another in its episode: by TURN, then by packed logical tile (R311). -/
def recordBefore (a b : Bytes) : Bool :=
  let x := leNat a 8 8
  let y := leNat b 8 8
  decide (x < y ∨ (x = y ∧ leNat a 2 2 % 4096 ≤ leNat b 2 2 % 4096))
/-- Put a record into an ordered episode. -/
def insertRecord (r : Bytes) : List Bytes → List Bytes
  | [] => [r]
  | a :: l => if recordBefore r a then r :: a :: l else a :: insertRecord r l
/-- The episode's records (R311): at most 16 in order, each with its position; PRIMARY on the first, MORE on the 16th when there are
more. -/
def episode (rs : List Bytes) : List Bytes :=
  let l := rs.foldr insertRecord []
  (l.take 16).zipIdx.map fun e =>
    let flags := (if e.2 = 0 then 1 else 0) + (if e.2 = 15 ∧ 16 < l.length then 2 else 0)
    (e.1.set 6 (BitVec.ofNat 8 e.2)).set 7 (BitVec.ofNat 8 flags)

/-- The engine suspends the partition's sessions (R322). -/
def State.suspendSessions (s : State) (p : Nat) : State :=
  let xs := (s.sessionsOf p).filter fun x => x.st != .suspended
  if xs.isEmpty then s
  else
    let s := xs.foldl (fun s x => s.modSession x.id fun y => { y with prev := y.st, st := .suspended }) s
    s.raiseIn p 0x5006 4 (le4 xs.length)

/-- PARTITION_FAULT_CLEAR (R310, R311): the records are raised, the step is abandoned, the program cleared and the sessions suspended. -/
def execPartitionFaultClear (p : BitVec 4) (s : State) : Host.Outcome State Fault Refusal :=
  let p := p.toNat
  .next (if (s.part p).prog.isNone ∨ (s.part p).stop ≠ .fault then s
    else
      let rs := episode (s.part p).faults
      let s := rs.foldl (fun s r => s.raiseIn p (leNat r 0 2) (halfOf (leNat r 2 2 % 4096)) r) s
      let s := ((s.clearProgram p).freeEntries p).suspendSessions p
      if s.noPrograms ∧ s.fld Reg.pwrState 0 2 0 = 3 then s.setPower 2 else s)

end Sys2Proof.Machine
end

