-- ==== Sys2Proof/Machine/Thermal.lean ====
section
/-! DEFINITION. The thermal scan (14_calibration_and_thermal.md R574-R581). Readings are in 0.25 °C. -/

namespace Sys2Proof.Machine

/-! ## Sensors (R574) -/

/-- A sensor that is fitted. -/
def sensorFitted (v : Variant) (i : Nat) : Bool :=
  if i < 400 then true else if i < 408 then decide ((i - 400) / 4 < ioDiesOf v) else decide (i < 412) && stackFitted v (i - 408)
/-- The sensors of the module. -/
def State.sensors (s : State) : List Nat := (List.range 412).filter (sensorFitted s.variant)
/-- Neither excluded in a scan nor at the start check (R576, R577). -/
def State.sensorValid (s : State) (i : Nat) : Bool := sensorFitted s.variant i && s.fld Reg.thmSens i 17 16 == 0
/-- The last reading of a sensor. -/
def State.sensor (s : State) (i : Nat) : Int := signed12 (s.fld Reg.thmSens i 11 0)
/-- Neighbours of a sensor, valid or not (R577). -/
def neighbours (i : Nat) : List Nat :=
  if i < 400 then
    let h := 200 * (i / 200)
    let d := i % 200 / 8
    let k := i % 8
    (if 0 < d then [h + 8 * (d - 1) + k] else []) ++ (if d < 24 then [h + 8 * (d + 1) + k] else []) ++
      (if 0 < k then [i - 1] else []) ++ (if k < 7 then [i + 1] else [])
  else if i < 408 then (List.range 4).map (400 + 4 * ((i - 400) / 4) + ·) |>.filter (· != i)
  else []
/-- Put a number into a rising list. -/
def insertInt (x : Int) : List Int → List Int
  | [] => [x]
  | y :: l => if x ≤ y then x :: y :: l else y :: insertInt x l
/-- The median; of an even count, the mean of the two in the middle, rounded down. -/
def median (l : List Int) : Int :=
  let r := l.foldr insertInt []
  let n := r.length
  if n % 2 = 1 then r.getD (n / 2) 0 else (r.getD (n / 2 - 1) 0 + r.getD (n / 2) 0) / 2

/-! ## One scan -/

/-- Exclude a sensor (R577). -/
def State.excludeSensor (s : State) (i : Nat) (dev : Int) : State :=
  let s := ((s.setBit Reg.thmSens i 16).bump Reg.thmExcluded).setBit Reg.thmStatus 0 8
  s.raise 0xA006 (le2 i ++ le2 (dev % 65536).toNat) (if i < 400 then i / 200 else if i < 408 then 2 + (i - 400) / 4 else 4)
/-- Cross-check one sensor against the sensors `valid` before the scan (R577). -/
def State.checkSensor (s : State) (valid : List Nat) (i : Nat) : State :=
  if i < 408 then
    let ns := (neighbours i).filter valid.contains
    if ns.length < 2 then s.setReg Reg.thmSensDev i 0
    else
      let dev := s.sensor i - median (ns.map s.sensor)
      let streak := if 32 < dev.natAbs then min 3 (s.fld Reg.thmSensDev i 17 16 + 1) else 0
      let s := s.setReg Reg.thmSensDev i (word12 dev + streak * 65536)
      if streak = 3 then s.excludeSensor i dev else s
  else if s.sensor i < -40 ∨ 520 < s.sensor i then s.excludeSensor i 0 else s

/-- The largest reading of some sensors, with the first sensor that has it. -/
def State.hottest (s : State) (l : List Nat) : Option (Nat × Int) :=
  l.foldl (fun (a : Option (Nat × Int)) i => match a with
    | some (j, x) => if x < s.sensor i then some (i, s.sensor i) else some (j, x)
    | none => some (i, s.sensor i)) none
/-- The valid sensors of a district, 25 * half + district. -/
def State.districtSensors (s : State) (d : Nat) : List Nat := ((List.range 8).map (8 * d + ·)).filter s.sensorValid
/-- The districts beside one of the same half. -/
def besideDistricts (d : Nat) : List Nat := (if 0 < d % 25 then [d - 1] else []) ++ (if d % 25 < 24 then [d + 1] else [])

/-- Maximum, valid count and blindness of one district (R575, R578): a blind district also takes its neighbours' maxima. -/
def State.districtMax (s : State) (d : Nat) : State :=
  let own := s.districtSensors d
  let blind := decide (own.length < 4)
  let all := own ++ (if blind then (besideDistricts d).flatMap s.districtSensors else [])
  let r := Reg.thmDist + 4 * d
  let was := s.fld r 0 20 20
  let s := match s.hottest all with
    | some (_, x) => s.setFld r 0 11 0 (word12 x)
    | none => s
  let s := (s.setFld r 0 19 16 own.length).setFld r 0 20 20 (if blind then 1 else 0)
  if blind ∧ was = 0 then (s.setBit Reg.thmStatus 0 9).raise 0xA007 [] (d / 25) else s

/-- Half, I/O-die and module maxima (R575). -/
def State.scanMaxima (s : State) : State :=
  let put (s : State) (a hi lo : Nat) (l : List Nat) : State := match s.hottest (l.filter s.sensorValid) with
    | some (_, x) => s.setFld a 0 hi lo (word12 x)
    | none => s
  let s := put s Reg.thmHalfMax 11 0 (List.range 200)
  let s := put s Reg.thmHalfMax 27 16 ((List.range 200).map (200 + ·))
  let s := put s Reg.thmIodMax 11 0 ((List.range 4).map (400 + ·))
  let s := put s (Reg.thmIodMax + 4) 11 0 ((List.range 4).map (404 + ·))
  match s.hottest (s.sensors.filter s.sensorValid) with
  | some (i, x) => s.setReg Reg.thmModuleMax 0 (word12 x + i * 65536)
  | none => s

/-- Read every fitted sensor, cross-check it and form the maxima: all of a scan but its thresholds. -/
def State.readSensors (s : State) (readings : List Int) : State :=
  let s := s.sensors.foldl (fun s i => s.setFld Reg.thmSens i 11 0 (word12 (readings.getD i 0))) s
  let valid := s.sensors.filter s.sensorValid
  let s := valid.foldl (fun s i => s.checkSensor valid i) s
  let s := (List.range 50).foldl State.districtMax s
  s.scanMaxima.bump Reg.thmScanCnt

/-- Sensor and reading of the module maximum, as detail items. -/
def State.maxItems (s : State) : Bytes := le2 (s.fld Reg.thmModuleMax 0 24 16) ++ le2 (signed12 (s.fld Reg.thmModuleMax 0 11 0) % 65536).toNat

/-- Warning (R581). -/
def State.thermWarn (s : State) : State :=
  let m := signed12 (s.fld Reg.thmModuleMax 0 11 0)
  let w : Int := 4 * s.fld Reg.thmWarn 0 7 0
  if s.fld Reg.thmStatus 0 0 0 = 0 then
    if w ≤ m then ((s.setBit Reg.thmStatus 0 0).raise 0xA001 s.maxItems).gaugeTrigger 0 else s
  else if m < w - 12 then (s.clrBit Reg.thmStatus 0 0).raise 0xA002 [] else s
/-- Throttle (R581): districts take its cap at their own window boundaries (R63). -/
def State.thermThrottle (s : State) : State :=
  let m := signed12 (s.fld Reg.thmModuleMax 0 11 0)
  let cool (s : State) (n : Nat) : State := { s with cal := { s.cal with cool := n } }
  if s.fld Reg.thmStatus 0 1 1 = 0 then
    if 420 ≤ m then ((cool ((s.setBit Reg.thmStatus 0 1).bump Reg.thmThrottleCnt) 0).raise 0xA003 s.maxItems).gaugeTrigger 0 else s
  else
    let n := if m < 400 then s.cal.cool + 1 else 0
    if 100 ≤ n then (cool (s.clrBit Reg.thmStatus 0 1) 0).raise 0xA004 [] else cool s n

/-- THERMAL_SCAN (R575-R581): one scan of every fitted sensor, 1 ms after the last. A sensor that is valid after the scan and reads
115 °C or more for the second time in a row latches the module. -/
def execThermalScan (readings : List Int) (s : State) : Host.Outcome State Fault Refusal :=
  .next (if s.powerState = 0 ∨ s.powerState = 7 then s
    else
      let hot := (s.sensors.filter fun i => decide (460 ≤ s.sensor i))
      let s := ((s.readSensors readings).thermWarn).thermThrottle
      match hot.find? fun i => s.sensorValid i && decide (460 ≤ s.sensor i) with
      | some i => s.thermalLatch i (word12 (s.sensor i))
      | none => s)

end Sys2Proof.Machine
end

