-- ==== Sys2Proof/Machine/SelfTest.lean ====
section
/-! DEFINITION. Self-test runs and their records (15_selftest_and_counters.md R609-R617), the shutdown self-test, counter samples
(R602-R605), sample buffers (R608) and the event log's budget (R596). -/

namespace Sys2Proof.Machine

/-! ## Result records (R610, R611) -/

/-- Life-cycle state code (R540). -/
def State.lifeCycle (s : State) : Nat := s.fld Reg.cfgLc 0 2 0
def State.modFlash (s : State) (f : FlashSt → FlashSt) : State := { s with boot := { s.boot with flash := f s.boot.flash } }

/-- Coverage of a class in per mille. -/
def coverage (c : Nat) : Nat := [0, 990, 990, 985, 970, 1000, 950, 920, 960, 960, 990, 980, 1000].getD c 0
/-- The classes of a predefined set (R614). -/
def setClasses (n : Nat) : List Nat :=
  match n with
  | 1 => [1, 2, 3]
  | 2 => [4]
  | 3 => [5, 6]
  | 4 => [7]
  | 5 => [8, 9]
  | 6 => [11]
  | 7 => [1, 2, 3, 4, 5, 6, 7, 8, 9, 11]
  | _ => []

/-- A class entry from its numbers: class, units tested, units failed, duration. -/
def classEntry (c : List Nat) : Bytes :=
  le1 (c.getD 0 0) ++ le1 0 ++ le2 (coverage (c.getD 0 0)) ++ le4 (c.getD 1 0) ++ le4 (c.getD 2 0) ++ le4 (c.getD 3 0)
/-- A failure entry from its numbers: class, unit KIND, PHYS, location, syndrome (and the array index of a class 5 failure). -/
def failEntry (f : List Nat) : Bytes :=
  le1 (f.getD 0 0) ++ le1 (f.getD 1 0) ++ le2 (f.getD 2 0) ++ le4 (f.getD 3 0) ++ le4 (f.getD 4 0) ++ le4 0
/-- The result record. -/
def testRecord (kind set lc startNo us : Nat) (complete : Bool) (stamp : DWord) (classes fails : List (List Nat)) : Bytes :=
  let b := [0x4C#8, 0x53#8, 0x54#8, 0x52#8] ++ le1 kind ++ le1 set ++ le1 lc ++
    le1 ((if complete then 1 else 0) + (if fails.isEmpty then 0 else 2)) ++ le4 startNo ++ le4 us ++ le8 stamp.toNat ++
    le2 classes.length ++ le2 (min 1024 fails.length) ++ le4 fails.length ++ classes.flatMap classEntry ++ (fails.take 1024).flatMap failEntry
  b ++ le4 (crc32c b)
/-- The record's CRC matches. -/
def testRecordValid (r : Bytes) : Bool := decide (36 ≤ r.length) && crc32c (r.take (r.length - 4)) == leNat r (r.length - 4) 4
/-- Detail of SELFTEST_DONE. -/
def doneItems (r : Bytes) : Bytes := r.take 6 |>.drop 4 |>.append (le1 (byteAt r 7 % 2) ++ (r.drop 12).take 4 ++ (r.drop 28).take 4)
/-- The failure entries a record stores. -/
def recordFails (r : Bytes) : List Bytes :=
  (List.range (leNat r 26 2)).map fun i => (r.drop (32 + 16 * leNat r 24 2 + 16 * i)).take 16

/-- Write a record to the self-test region, which holds the eight newest; failures of classes 1 to 4, 6 and 7 wait for the sparing map
of the next start (R613), the arrays of class 5 for their REWRITE after the next READY (R610). -/
def State.writeRecord (s : State) (r : Bytes) (fails : List (List Nat)) : State :=
  let spare := (fails.filter fun f => [1, 2, 3, 4, 6, 7].contains (f.getD 0 0)).map fun f => f.getD 2 0
  let redo := (fails.filter fun f => f.getD 0 0 == 5).map fun f => arrKey (f.getD 2 0) (f.getD 5 0)
  s.modFlash fun x => { x with results := (r :: x.results).take 8, failed := x.failed ++ spare, rewrite := x.rewrite ++ redo }
/-- Raise SELFTEST_DONE and a SELFTEST_FAIL for each stored failure of a record (R613, R624). -/
def State.reportRecord (s : State) (r : Bytes) : State :=
  (recordFails r).foldl (fun s f => s.raise 0xB002 f) (s.raise 0xB001 (doneItems r))
/-- The newest record of one of the kinds. -/
def State.newest (s : State) (kinds : List Nat) : Option Bytes := s.boot.flash.results.find? fun r => kinds.contains (byteAt r 4)

/-! ## What a test destroys (R610) -/

/-- Rebuild the golden copy from the arrays of every READY model; each image is still to be compared (R397). -/
def State.rebuildGold (s : State) : State :=
  if s.stacked then
    let ts := (s.wgt.models.filter fun e => e.2.st == 2).flatMap fun e => e.2.arrays
    ts.foldl (fun s t => s.setGold t ⟨(s.warp (s.targetKey t)).image, false⟩) s
  else s

/-- The destroyed contents of one class, of every unit or of one; what memory holds afterwards reads as memory that nothing has
written (log entry 3), and a destroyed Warp array is EMPTY with cells that the manual does not give (R616). -/
def State.destroy (s : State) (cls : Nat) (unit : Option Nat) : State :=
  let on (k : Nat) : Bool := match unit with
    | some u => u == k
    | none => true
  match cls with
  | 1 => { s with slices := s.slices.filter fun e => !on (s.sparedTile (e.1 / Config.sliceBytes)) }
  | 4 => { s with wefts := (s.wefts.map fun e => if on e.1 then (e.1, { e.2 with slot0 := .init, slot1 := .init }) else e).filter fun e => e.2 != WeftArr.init }
  | 10 => { s with serve := { s.serve with queues := s.serve.queues.filter fun e => !on e.1 } }
  | 11 =>
    let fitted := (List.range 4).filter (stackFitted s.variant)
    { s with stackMem := s.stackMem.filter fun e => !on (fitted.getD (e.1 / Config.stackBytes) 0),
             wgt := { s.wgt with gold := [] } }
  | 12 =>
    let ps := ((List.range 4096).filter physOk).filter on
    ps.foldl (fun s p => (List.range 9).foldl (fun s i =>
      let (k, s) := s.fresh
      (s.bumpSat Reg.wrpWriteCnt (arrKey p i) 19 0).modWarp (arrKey p i) fun a => { a with cells := cutCells k, record := none, code := 0 }) s) s
  | _ => s

/-! ## Test sets and the raw engine (R614-R616) -/

/-- A run begins. -/
def State.beginTest (s : State) (t : TestRun) : State :=
  ({ s with boot := { s.boot with test := some t } }.setReg Reg.bstResult 0 0).setFld Reg.bstStatus 0 0 0 1
/-- BST_CMD RUN_SET is written (R614). A SET that is none of 1 to 7 has no effect (R619). -/
def State.runTestSet (s : State) (set : Nat) : State :=
  let free := s.noPrograms && (s.wgt.jobs.all fun e => !s.jobRuns e.1) && (s.adapters.all fun e => e.2.st == 0)
  if set < 1 ∨ 7 < set then s
  else if (s.lifeCycle = 1 ∨ s.lifeCycle = 3 ∨ s.lifeCycle = 4) ∧ free = true then s.beginTest ⟨3, set, 0, 0, true, s.time.cnt⟩
  else s.setReg Reg.bstResult 0 3
/-- BST_RAW_CMD GO is written where the raw engine answers (R616); class 12 runs only in RETURNED. -/
def State.rawRun (s : State) : State :=
  let c := s.fld Reg.bstRawUnit 0 3 0
  if c < 1 ∨ 12 < c ∨ (c = 12 ∧ s.lifeCycle ≠ 4) then s.setReg Reg.bstResult 0 3
  else s.beginTest ⟨4, 0, c, s.fld Reg.bstRawUnit 0 31 16, s.fld Reg.bstRawUnit 0 15 15 == 1, s.time.cnt⟩

/-- SET_DONE (R614-R616): the run ends with its class entries and failures; its record is written and reported, and after sets 6 and 7
the golden copy is rebuilt. -/
def execSetDone (classes fails : List (List Nat)) (us : Nat) (s : State) : Host.Outcome State Fault Refusal :=
  .next (match s.boot.test with
    | none => s
    | some t =>
      if t.kind < 3 then s
      else
        let ran := if t.kind = 3 then setClasses t.set else [t.cls]
        let s := { s with boot := { s.boot with test := none } }
        let s := ran.foldl (fun s c => s.destroy c (if t.all then none else some t.unit)) s
        let s := if t.kind = 3 ∧ ran.contains 11 = true then s.rebuildGold else s
        let r := testRecord t.kind t.set s.lifeCycle (s.reg Reg.cntLifeStarts) us true t.stamp classes fails
        let s := (s.writeRecord r fails).setFld Reg.bstStatus 0 0 0 0
        let s := if fails.isEmpty then s.setReg Reg.bstResult 0 1 else (s.setReg Reg.bstResult 0 2).setBit Reg.bstStatus 0 8
        s.reportRecord r)

/-! ## The shutdown self-test (R609, R636) -/

/-- The orderly shutdown ends: the count, then rails off. -/
def State.shutOff (s : State) : State := (s.bump Reg.cntLifeShutdowns).dark 0

/-- SHUTDOWN_TEST (R609): once every partition is unloaded and no job runs, SHUTDOWN-TEST begins and clears START_CNT (R512); where R609
runs no test the rails go off. -/
def execShutdownTest (s : State) : Host.Outcome State Fault Refusal :=
  .next (if s.power.shut ≠ 2 ∨ s.boot.test.isSome ∨ s.noPrograms = false ∨ s.wgt.jobs.any (fun e => s.jobRuns e.1) then s
    else if s.fld Reg.bstCfg 0 0 0 = 1 ∧ (s.lifeCycle = 2 ∨ s.lifeCycle = 3) then
      let s := (s.setPower 6).modFlash fun x => { x with startCnt := 0, inProgress := false }
      ({ s with boot := { s.boot with test := some ⟨1, 0, 0, 0, true, s.time.cnt⟩ } }).setFld Reg.cfgStatus 0 15 8 0
    else s.shutOff)

/-- SHUTDOWN_TEST_DONE (R609): the SHUTDOWN record with COMPLETE set, then rails off. -/
def execShutdownTestDone (classes fails : List (List Nat)) (us : Nat) (s : State) : Host.Outcome State Fault Refusal :=
  .next (match s.boot.test with
    | none => s
    | some t =>
      if t.kind ≠ 1 ∨ s.powerState ≠ 6 then s
      else (s.writeRecord (testRecord 1 0 s.lifeCycle (s.reg Reg.cntLifeStarts) us true t.stamp classes fails) fails).shutOff)

/-! ## Counter samples (R602-R605), sample buffers (R608), log budget (R596) -/

/-- The context may read counters of the tile (R22, R605). -/
def State.mayCount (s : State) (ctx t : Nat) : Bool :=
  let b := s.reg Reg.cntCtxBind ctx
  if bits b 4 4 = 0 then true
  else s.ownerOf t == some (bits b 3 0) && s.fld Reg.cfgPartDef (bits b 3 0) 1 1 == 1
/-- Take a sample of counter `n` of a logical tile for a context (R602, R604). -/
def State.takeSample (s : State) (ctx t n : Nat) : State :=
  let p := s.physOf t
  let c := (s.tile p).cnt
  let seen := SMap.get 0 (s.ctx ctx).seen t
  let turn : DWord := if (s.spin t).part.isSome then (s.spin t).turn else 0
  let x : CntSample := ⟨SMap.get 0 c n, turn, SMap.get 0 c 15, s.time.cnt, seen != 0 && seen != p + 1, p⟩
  s.modCtx ctx fun y => { y with sample := x, seen := SMap.set 0 y.seen t (p + 1) }

/-- Records a half's sample buffer holds. -/
def State.sampleBuf (s : State) (half : Nat) : List Bytes := if half = 0 then s.events.samples0 else s.events.samples1
/-- Remove the oldest record of a half (R608). -/
def State.sampleDrop (s : State) (half : Nat) : State :=
  if half = 0 then { s with events := { s.events with samples0 := s.events.samples0.tail } }
  else { s with events := { s.events with samples1 := s.events.samples1.tail } }

/-- LOG_BUDGET_REFILL (R596): one record every 50 µs, up to 20,000. -/
def execLogBudgetRefill (s : State) : Host.Outcome State Fault Refusal :=
  .next { s with events := { s.events with budget := min 20000 (s.events.budget + 1) } }

end Sys2Proof.Machine
end

