-- ==== Sys2Proof/Machine/Trust.lean ====
section
/-! DEFINITION. Signed images and configuration images (13_start_and_configuration.md R507, R508, R522-R531): their checks, their
sections and the fingerprint. -/

namespace Sys2Proof.Machine

/-- `n` bytes from byte `i`. -/
def slice (b : Bytes) (i n : Nat) : Bytes := (b.drop i).take n
/-- All of `n` bytes from byte `i` are 0. -/
def zeros (b : Bytes) (i n : Nat) : Bool := (slice b i n).all (· == 0)

/-! ## Boot code and firmware (R507, R508) -/

/-- The image's bytes in its region: header, body and signature. -/
def imageBytes (r : Bytes) : Bytes := r.take (192 + leNat r 12 4)
/-- Security version, and whether COMMIT_SVN is set. -/
def imageSvn (r : Bytes) : Nat := leNat r 6 2
def imageCommit (r : Bytes) : Bool := byteAt r 10 % 2 == 1
/-- The first check of R508 that fails: 1 format, 2 stepping, 3 signature, 4 digest, 5 SVN. `fw` tells firmware from boot code. -/
def signedFault (f : FuseSt) (fw : Bool) (r : Bytes) : Option Nat :=
  let magic : Bytes := if fw then [0x4C, 0x46, 0x57, 0x49] else [0x4C, 0x42, 0x4F, 0x54]
  let cap := if fw then 33554432 - 192 else 4194304 - 192
  let n := leNat r 12 4
  if r.take 4 ≠ magic ∨ leNat r 4 2 ≠ 0x0100 ∨ cap < n ∨ r.length < 192 + n then some 1
  else if leNat r 8 2 ≠ 0x00A1 then some 2
  else if Config.ed25519Verify f.root (r.take 128) (slice r (128 + n) 64) = false then some 3
  else if sha512 (slice r 128 n) ≠ slice r 64 64 then some 4
  else if imageSvn r < (if fw then f.fwMin else f.bootMin) then some 5
  else none
/-- SHA-512 of header and body. -/
def imageDigest (r : Bytes) : Bytes := sha512 (r.take (128 + leNat r 12 4))

/-! ## The checks of a configuration copy (R526) -/

/-- Base state code (R540) of the fuses. -/
def FuseSt.baseState (f : FuseSt) : Nat := match f.base with
  | 0 => 0
  | 1 => 1
  | 2 => 2
  | 3 => 4
  | _ => 5
/-- The key of an owner slot that is programmed and not revoked. -/
def FuseSt.owner (f : FuseSt) (slot : Nat) : Option Bytes :=
  if f.revoked.testBit slot then none else f.owners.getD slot none

def cfgLen (c : Bytes) : Nat := leNat c 8 4
def cfgSeq (c : Bytes) : Nat := leNat c 12 4
/-- Check 1: MAGIC, VERSION and LEN. -/
def cfgHeadOk (c : Bytes) : Bool :=
  let n := cfgLen c
  c.take 4 == [0x4C#8, 0x43#8, 0x46#8, 0x47#8] && leNat c 4 2 == 0x0100 && n % 8 == 0 && decide (192 ≤ n ∧ n ≤ 8388608 ∧ n ≤ c.length)
def cfgDigest (c : Bytes) : Bytes := slice c (cfgLen c - 128) 64
/-- The signature verifies under a key. -/
def cfgSigned (c key : Bytes) : Bool := Config.ed25519Verify key (cfgDigest c) (slice c (cfgLen c - 64) 64)
/-- The signer that the life-cycle state asks for (R540, R544): check 2 finds it in force, and check 4 its signature good. -/
def cfgSigner (f : FuseSt) (lc : Nat) (c : Bytes) : Bool × Bool :=
  let root := cfgSigned c f.root
  match f.owner (byteAt c 6) with
  | some k => if lc = 0 then (true, false) else if 4 ≤ lc then (true, root) else (true, cfgSigned c k || (lc == 1 && root))
  | none => if lc = 1 then (root, root) else if 4 ≤ lc then (true, root) else (false, false)
/-- The first check of R526 that fails, 1 to 5. -/
def cfgFault (f : FuseSt) (lc seqMin : Nat) (c : Bytes) : Option Nat :=
  if !cfgHeadOk c then some 1
  else
    let g := cfgSigner f lc c
    if !g.1 then some 2
    else if sha512 (c.take (cfgLen c - 128)) ≠ cfgDigest c then some 3
    else if !g.2 then some 4
    else if cfgSeq c < seqMin then some 5
    else none
/-- Reason code of a failed check (R515). -/
def cfgReason (n : Nat) : Nat := match n with
  | 1 => 0x10
  | 2 => 0x16
  | 3 => 0x11
  | 4 => 0x12
  | _ => 0x15

/-! ## Sections (R523-R525) -/

/-- A section: TYPE, INST and its value. -/
structure Section where
  type : Nat
  inst : Nat
  value : Bytes

/-- A length rounded up to 8. -/
def pad8 (n : Nat) : Nat := (n + 7) / 8 * 8
/-- Read `n` sections from a position up to `limit`; none when they break R523's form. -/
def readSections (c : Bytes) (limit : Nat) : Nat → Nat → Option (List Section)
  | 0, at_ => if at_ = limit then some [] else none
  | n + 1, at_ =>
    let len := leNat c (at_ + 4) 4
    if limit < at_ + 8 + pad8 len ∨ zeros c (at_ + 8 + len) (pad8 len - len) = false then none
    else (readSections c limit n (at_ + 8 + pad8 len)).map fun l => ⟨leNat c at_ 2, leNat c (at_ + 2) 2, slice c (at_ + 8) len⟩ :: l
/-- Strictly ascending numbers. -/
def ascending : List Nat → Bool
  | a :: b :: l => decide (a < b) && ascending (b :: l)
  | _ => true
/-- Fixed-size pieces of a value. -/
def pieces (n : Nat) (v : Bytes) : List Bytes := chunks n (v.length / n) v

/-- Registers that another section sets (R524). -/
def setElsewhere (a : Nat) : Bool :=
  [Reg.sknMode, Reg.sknGroups, Reg.sknRoute, Reg.sknRetryCfg, Reg.sknCtxLinks, Reg.sknExpect, Reg.ethIpv4, Reg.ethVlan, Reg.pwrHeadroom,
    Reg.pwrDistAlloc].contains a ||
  decide ((Reg.ixcShare ≤ a ∧ a < Reg.ixcShare + 512) ∨ (Reg.intEgress ≤ a ∧ a < Reg.intEgress + 128) ∨
    (Reg.sknIngress ≤ a ∧ a < Reg.sknIngress + 128) ∨ (Reg.ethIpv6 ≤ a ∧ a < Reg.ethIpv6 + 16))
/-- A register that REGISTERS may name: BOOT-class, outside the CFG block, set by no other section. -/
def nameable (a : Nat) : Bool :=
  decide (0x100000 ≤ a) && !setElsewhere a && match regDesc? a with
    | some d => d.fields.any fun f => f.cls == .boot
    | none => false

/-- One RDMA window of a PARTITION value has its reserved bytes 0. -/
def windowClean (w : Bytes) : Bool := zeros w 14 18
/-- The form of a section's value (R524, R525, R631). -/
def sectionOk (x : Section) : Bool :=
  let v := x.value
  let n := v.length
  match x.type with
  | 1 => x.inst == 0 && n == 16 && zeros v 10 6
  | 2 => decide (x.inst ≤ 3) && n == 24
  | 3 => x.inst == 0 && n % 16 == 0 && decide (16 ≤ n ∧ n ≤ 1024)
  | 4 => x.inst == 0 && n % 20 == 0 && decide (n ≤ 5120) && (pieces 20 v).all (fun e => zeros e 2 2) &&
      ascending ((pieces 20 v).map fun e => leNat e 0 2)
  | 5 => x.inst == 0 && n == 16 && zeros v 5 1 && zeros v 10 6
  | 6 => x.inst == 0 && n == 40 && zeros v 3 5
  | 7 => decide (x.inst ≤ 15) && n == 560 && zeros v 3 1 && zeros v 26 2 && zeros v 44 4 && decide (byteAt v 1 ≤ 1 ∧ byteAt v 2 ≤ 63) &&
      (pieces 32 (v.drop 48)).all windowClean
  | 8 => x.inst == 0 && n == 3072
  | 9 => x.inst == 0 && n == 208 && zeros v 204 4 && (pieces 4 (v.take 200)).all fun e => decide (leNat e 0 4 < 2 ^ 20)
  | 10 => x.inst == 0 && n % 8 == 0 && decide (n ≤ 64) && (pieces 8 v).all (fun e => zeros e 6 2) && ascending ((pieces 8 v).map fun e => leNat e 0 4)
  | 11 => x.inst == 0 && n % 8 == 0 && decide (n ≤ 8192) && (pieces 8 v).all (fun e => nameable (leNat e 0 4)) &&
      ascending ((pieces 8 v).map fun e => leNat e 0 4)
  | 12 => x.inst == 0 && n == 8 && zeros v 1 7
  | _ => false

/-- The sections of a copy that the module applies, or none for CFG_FORMAT: reserved header bytes, the sections' form and order, and
the sections that must stand (R522-R525). -/
def cfgSections (c : Bytes) : Option (List Section) :=
  if !zeros c 7 1 || !zeros c 18 46 then none
  else match readSections c (cfgLen c - 128) (leNat c 16 2) 64 with
    | none => none
    | some l =>
      let mine := l.filter fun x => decide (x.type < 0x8000)
      let has (t : Nat) : Bool := mine.any fun x => x.type == t
      if ascending (l.map fun x => 65536 * x.type + x.inst) && mine.all sectionOk && has 1 && has 3 && has 9 then some mine else none

/-- The value of a section, `[]` where it is absent. -/
def valueOf (l : List Section) (type inst : Nat) : Bytes := ((l.find? fun x => x.type == type && x.inst == inst).map Section.value).getD []
/-- A section stands. -/
def present (l : List Section) (type inst : Nat) : Bool := l.any fun x => x.type == type && x.inst == inst

/-! ## The applied value of a register and the fingerprint (R530) -/

/-- All addresses of a repeated register. -/
def instances : List (Nat × Nat) → Nat → List Nat
  | [], a => [a]
  | (stride, n) :: ds, a => (List.range n).flatMap fun k => instances ds (a + stride * k)
/-- Every register that REGISTERS may name, in ascending order. -/
def nameables : List Nat :=
  ((List.range 16).flatMap fun b => (regsOf b).flatMap fun d => instances d.dims (0x100000 * b + d.off)).filter nameable
/-- A register value with reserved bits 0 and values that map to others mapped (R653). -/
def cleanValue (d : RegDesc) (v : Nat) : Nat :=
  (d.fields.filter fun f => f.cls != .ro && f.cls != .w1c).foldl (fun w f => f.put w (match f.rng with
    | .map01 _ => if f.get v = 0 then 1 else f.get v
    | _ => f.get v)) 0
/-- Whether each field of the value obeys its range rule. -/
def valueInRange (d : RegDesc) (v : Nat) : Bool :=
  d.fields.all fun f => match f.rng with
    | .any => true
    | .within lo hi => decide (lo ≤ f.get v ∧ f.get v ≤ hi)
    | .map01 hi => decide (f.get v ≤ hi)
    | .zeroLow n => f.get v % 2 ^ n == 0
/-- The value the configuration gives a register that REGISTERS may name, or its reset value. -/
def appliedValue (l : List Section) (a : Nat) : Nat :=
  match (pieces 8 (valueOf l 11 0)).find? fun e => leNat e 0 4 == a, regDesc? a with
  | some e, some d => cleanValue d (leNat e 4 4)
  | _, _ => (regReset a).toNat

/-- A section as written: header, value, padding. -/
def sectionBytes (type inst : Nat) (v : Bytes) : Bytes := le2 type ++ le2 inst ++ le4 v.length ++ padTo (pad8 v.length) v
/-- SKEIN_DOMAIN at its default values; `mask` are the fitted links. -/
def domainDefault (mask : Nat) : Bytes := [0, 0, 1, 0, 0, 0, 64, 0, 8] ++ le1 mask ++ List.replicate 6 0
/-- The canonical form of a configuration (R530). -/
def canonical (mask : Nat) (l : List Section) : Bytes :=
  let written (t : Nat) : Bytes := (l.filter fun x => x.type == t).flatMap fun x => sectionBytes t x.inst x.value
  let orElse (t : Nat) (v : Bytes) : Bytes := if present l t 0 then written t else sectionBytes t 0 v
  [0x4C#8, 0x43#8, 0x46#8, 0x50#8, 0#8, 1#8, 0#8, 0#8] ++ written 3 ++ orElse 4 [] ++ orElse 5 (domainDefault mask) ++ written 7 ++
    orElse 8 (List.replicate 3072 0) ++ written 9 ++ orElse 10 [] ++
    sectionBytes 11 0 (nameables.flatMap fun a => le4 a ++ le4 (appliedValue l a))
/-- The fingerprint; 0 is replaced by 1. -/
def fingerprint (mask : Nat) (l : List Section) : Nat :=
  let v := leNat (sha512 (canonical mask l)) 0 8
  if v = 0 then 1 else v

end Sys2Proof.Machine
end

