-- ==== Sys2Proof/Machine/Start.lean ====
section
/-! DEFINITION. The start sequence (13_start_and_configuration.md R510-R517): its eight steps, failed starts, fallback mode. A step ends
well, or fails with a reason of R515 and a detail. -/

namespace Sys2Proof.Machine

/-- A reason and its detail. -/
abbrev StartFail := Option (Nat × Nat)
/-- Go on with the next work unless a failure stands. -/
def andThen (r : State × StartFail) (f : State → State × StartFail) : State × StartFail := if r.2.isSome then r else f r.1
/-- Fail with a reason unless a condition holds. -/
def need (ok : Bool) (reason detail : Nat) (s : State) : State × StartFail := (s, if ok then none else some (reason, detail))

/-! ## What CFG shows -/

/-- Show the start record in CFG_STATUS and CFG_REASON. -/
def State.showStart (s : State) : State :=
  let f := s.boot.flash
  let s := s.setReg Reg.cfgReason 0 (f.reason + f.step * 2 ^ 8 + f.detail * 2 ^ 16)
  (s.setFld Reg.cfgStatus 0 15 8 f.startCnt).setFld Reg.cfgStatus 0 16 16 (if f.pendTok.isSome then 1 else 0)
def State.setStep (s : State) (n : Nat) : State := s.setFld Reg.cfgStatus 0 3 0 n
/-- Step `n` reads the flash: FLASH_ERROR where a read fails (R515). -/
def State.flashRead (s : State) (i : StartIn) (n : Nat) : State × StartFail := need (i.flashFail != n) 0x03 0 (s.setStep n)
/-- The life-cycle state: SERVICE is FIELD with a service token (R540). -/
def BootSt.life (b : BootSt) : Nat := if b.fuse.base = 2 ∧ b.flash.token.isSome then 3 else b.fuse.baseState
/-- Show the life-cycle state, the owner slots and the fused minimums. -/
def State.showLife (s : State) : State :=
  let b := s.boot
  let slots := ((List.range 4).filter fun k => (b.fuse.owners.getD k none).isSome).map (2 ^ ·) |>.sum
  let s := s.setReg Reg.cfgLc 0 (b.life + (if b.life = 3 then b.flash.starts else 0) * 2 ^ 8 + slots * 2 ^ 16 + b.fuse.revoked % 16 * 2 ^ 20)
  (s.setFld Reg.cfgSvn 0 23 16 b.fuse.bootMin).setFld Reg.cfgSvn 0 31 24 b.fuse.fwMin
def State.modFuse (s : State) (f : FuseSt → FuseSt) : State := { s with boot := { s.boot with fuse := f s.boot.fuse } }

/-! ## Step 2: ROM (R508, R512) -/

/-- Draw the life-cycle nonce of this start (R542). -/
def State.drawNonce (s : State) : State :=
  (List.range 8).foldl (fun s n =>
    let (k, s) := s.fresh
    s.setReg (Reg.cfgLcNonce + 4 * n) 0 (Config.freeNonce k).toNat) s
/-- Count the start; an unfinished one before it is recorded. -/
def State.countStart (s : State) : State :=
  (s.modFlash fun f =>
    let f := if f.inProgress then { f with reason := 0x51, step := 0, detail := 0 } else f
    { f with startCnt := min 255 (f.startCnt + 1), inProgress := true }).showStart
/-- Step 2. -/
def State.stepRom (s : State) (i : StartIn) : State × StartFail :=
  let s := (((s.setStep 2).countStart).drawNonce).showLife
  if !i.flashOk then (s, some (0x03, 0))
  else
    let r := s.boot.flash.boot
    match signedFault s.boot.fuse false r with
    | some 5 => ({ s with boot := { s.boot with rom := true } }, some (0x02, 0))
    | some n => ({ s with boot := { s.boot with rom := true } }, some (0x01, n))
    | none =>
      let s := (s.setRegBytes Reg.cfgBootDig (imageDigest r)).setFld Reg.cfgSvn 0 7 0 (imageSvn r)
      ({ s with boot := { s.boot with commitBoot := imageCommit r } }, none)

/-! ## Step 3: CONFIG (R526-R529, R541-R547) -/

/-- The copy to apply among two with their first failing checks (R527): false is A; or the reason. -/
def chooseCopy (a b : Bytes) (fa fb : Option Nat) : Bool ⊕ Nat :=
  match fa, fb with
  | none, none => .inl (decide (cfgSeq a < cfgSeq b))
  | none, some _ => .inl false
  | some _, none => .inl true
  | some 1, some 1 => .inr 0x10
  | some 1, some n => .inr (cfgReason n)
  | some n, some 1 => .inr (cfgReason n)
  | some n, some m => .inr (cfgReason (if cfgSeq a < cfgSeq b then m else n))

/-- The token names an owner slot whose key signed it, or the root key did (R541, R542). -/
def tokenSigned (f : FuseSt) (tok : Bytes) : Bool :=
  let kind := byteAt tok 4
  let key := if kind = 2 ∨ kind = 3 then f.owner (byteAt tok 5) else some f.root
  match key with
  | some k => Config.ed25519Verify k (tok.take 64) (slice tok 64 64)
  | none => false
/-- The token's KIND fits a life-cycle state (R541). -/
def tokenFits (kind lc : Nat) : Bool :=
  match kind with
  | 1 => lc == 1
  | 2 => lc == 2
  | 3 => lc == 3
  | 4 => lc == 2 || lc == 3
  | 5 => lc == 4
  | _ => false

/-- A change of the life-cycle state is raised (R552). -/
def State.lifeChanged (s : State) (old : Nat) : State := s.raise 0x9006 (le1 old ++ le1 s.boot.life)
/-- SERVICE at a start (R543): a token that fails its signature is discarded; at STARTS 0 the module returns to FIELD; otherwise the
start uses one. -/
def State.serviceStart (s : State) : State :=
  match s.boot.flash.token with
  | none => s
  | some tok =>
    if tokenSigned s.boot.fuse tok = false then s.modFlash fun f => { f with token := none, starts := 0 }
    else if s.boot.flash.starts = 0 then (s.modFlash fun f => { f with token := none }).lifeChanged 3
    else s.modFlash fun f => { f with starts := f.starts - 1 }
/-- Enter RETURNED (R544): level 0 into every cell of every Warp array, both configuration copies and the residence records erased. -/
def State.wipe (s : State) : State :=
  let s := ((List.range 4096).filter physOk).foldl (fun s p => (List.range 9).foldl (fun s k => s.bumpSat Reg.wrpWriteCnt (arrKey p k) 19 0) s) s
  let blank (e : Nat × WarpArr) : Nat × WarpArr := (e.1, { e.2 with cells := [], record := none, code := 0 })
  let ws := (s.warps.map blank).filter fun e => e.2 != WarpArr.init
  let s := { s with warps := ws, wgt := { s.wgt with flash := [] } }
  s.modFlash fun f => { f with copyA := [], copyB := [] }
/-- Apply the pending token, or discard it (R541, R542, R548). -/
def State.applyToken (s : State) : State :=
  match s.boot.flash.pendTok with
  | none => s
  | some tok =>
    let old := s.boot.life
    let kind := byteAt tok 4
    let s := s.modFlash fun f => { f with pendTok := none }
    if tokenFits kind old = false ∨ tokenSigned s.boot.fuse tok = false then s
    else
      let s := match kind with
        | 1 => s.modFuse fun f => { f with base := 2 }
        | 2 => s.modFlash fun f => { f with token := some tok, starts := byteAt tok 6 }
        | 3 => s.modFlash fun f => { f with token := none, starts := 0 }
        | 4 => ((s.modFuse fun f => { f with base := 3 }).modFlash fun f => { f with token := none, starts := 0 }).wipe
        | _ => s.modFuse fun f => { f with base := 4 }
      s.lifeChanged old
/-- Burn the revocations of the configuration (R529). -/
def State.revoke (s : State) (mask : Nat) : State :=
  let fresh := mask &&& (15 - s.boot.fuse.revoked % 16)
  if fresh = 0 then s else (s.modFuse fun f => { f with revoked := f.revoked ||| mask }).raise 0x9007 (le1 fresh)
/-- Raise the fused minimums that are pending (R509). -/
def State.commitSvn (s : State) : State :=
  let f := s.boot.flash
  let s := if s.boot.fuse.bootMin < f.svnBoot then (s.modFuse fun x => { x with bootMin := f.svnBoot }).raise 0x9008 (le1 1 ++ le2 f.svnBoot) else s
  let s := if s.boot.fuse.fwMin < f.svnFw then (s.modFuse fun x => { x with fwMin := f.svnFw }).raise 0x9008 (le1 2 ++ le2 f.svnFw) else s
  s.modFlash fun f => { f with svnBoot := 0, svnFw := 0 }
/-- The base state lets the start go on (R515). -/
def lifeOk (f : FuseSt) (equip : Bool) : Bool := f.baseState != 5 && (f.baseState != 0 || equip)

/-- The sections of the configuration in force. -/
def State.sections (s : State) : List Section := (cfgSections s.boot.applied).getD []
/-- Step 3 with the chosen copy. -/
def State.takeConfig (s : State) (i : StartIn) (b : Bool) : State × StartFail :=
  let c := if b then s.boot.flash.copyB else s.boot.flash.copyA
  match cfgSections c with
  | none => (s, some (0x13, 0))
  | some l =>
    let id := valueOf l 1 0
    let mask := byteAt (valueOf l 12 0) 0 % 16
    if leNat id 0 8 ≠ s.boot.fuse.serial.toNat then (s, some (0x14, 0))
    else if present l 12 0 = true ∧ mask.testBit (byteAt c 6) = true then (s, some (0x13, 0))
    else
      let s := { s with boot := { s.boot with copy := b, applied := c.take (cfgLen c) } }
      let s := (((s.revoke mask).serviceStart).applyToken).commitSvn
      let sig := Config.ed25519Sign (s.xportPub ++ le2 (leNat id 8 2))
      ((s.setRegBytes Reg.wgtXportSig sig).showLife).showStart |> need (lifeOk s.boot.fuse i.mfgEquip) 0x60 0
/-- Step 3. -/
def State.stepConfig (s : State) (i : StartIn) : State × StartFail :=
  let s := (s.setStep 3).bump Reg.cntLifeStarts
  let f := s.boot.flash
  if lifeOk s.boot.fuse i.mfgEquip = false then (s, some (0x60, 0))
  else
    match chooseCopy f.copyA f.copyB (cfgFault s.boot.fuse s.boot.life f.seqMin f.copyA) (cfgFault s.boot.fuse s.boot.life f.seqMin f.copyB) with
    | .inr r => (s, some (r, 0))
    | .inl b => s.takeConfig i b

/-! ## Step 4: DIES (R32, R33, R576, R579, R632) -/

/-- The start check of the sensors, the first scan and the first bands (R576, R579). -/
def State.firstScan (s : State) (i : StartIn) : State :=
  let s := (s.sensors.filter i.startExcl.contains).foldl (fun s k => (s.setBit Reg.thmSens k 17).bump Reg.thmExcluded) s
  let s := s.readSensors i.readings
  (List.range 50).foldl (fun s d => (((s.windowBand d).windowBand d).windowBand d).windowBand d) s
/-- Rails, the Gauge reference, links, stack PHYs and bands; a sensor at the shutdown level ends the start with THERMAL. -/
def State.diesUp (s : State) (i : StartIn) : State × StartFail :=
  let s := (s.setReg Reg.gauRefEn 0 1).setBit Reg.gauStatus 0 0
  andThen (need i.railsOk 0x20 0 s) fun s =>
  andThen (need (!i.thermal) 0x52 0 (s.firstScan i)) fun s =>
  andThen (need i.linksOk 0x21 0 s) fun s => need i.physOk 0x22 0 (s.setReg Reg.ixcCwUp 0 0xFFFF)
/-- Failed positions of every row, of manufacturing, self-tests and suspect records (R32, R447, R613). -/
def State.failedTiles (s : State) : List Nat :=
  (s.boot.flash.failed ++ (s.integ.suspects.filter fun r => decide (byteAt r 0 ≤ 6)).map fun r => leNat r 2 2).eraseDups
/-- Build the sparing map (R32, R33): one failed position per row at most. -/
def State.sparing (s : State) : State × StartFail :=
  let ts := s.failedTiles
  let of (r : Nat) : List Nat := (ts.filter fun t => rowOf t == r).map (· % 32)
  let s' := (List.range 128).foldl (fun s r => s.modRow r fun x => { x with failed := (of r).head? }) s
  need ((List.range 128).all fun r => decide ((of r).length ≤ 1)) 0x30 0 s'
/-- Allocations of the POWER section, their check (R30, R39, R632) in exact arithmetic, and its two allowances. -/
def allocOk (alloc : List Nat) (headroom static : Nat) : Bool :=
  let fixed := 50 * headroom + static
  decide (8 ≤ headroom ∧ 450 ≤ static ∧ static ≤ 1200 ∧ fixed ≤ 1450 ∧ 39655 * alloc.sum ≤ (1450 - fixed) * 83968000) &&
    (alloc.take 24).all (fun a => decide (a ≤ alloc.getD 24 0)) && ((alloc.drop 25).take 24).all fun a => decide (a ≤ alloc.getD 49 0)
def State.allocate (s : State) : State × StartFail :=
  let v := valueOf s.sections 9 0
  let alloc := (pieces 4 (v.take 200)).map fun e => leNat e 0 4
  let s := (List.range 50).foldl (fun s d => s.setReg Reg.pwrDistAlloc d (alloc.getD d 0)) s
  let s := s.setReg Reg.pwrHeadroom 0 (leNat v 200 2 % 256 + leNat v 202 2 % 2048 * 2 ^ 16)
  need (allocOk alloc (leNat v 200 2) (leNat v 202 2)) 0x31 0 s
/-- Step 4. -/
def State.stepDies (s : State) (i : StartIn) : State × StartFail :=
  let f := s.boot.flash
  let s := s.setStep 4
  let s := match f.latch with
    | some (k, t) => s.setReg Reg.thmLatchTemp 0 (t % 4096 + k * 65536)
    | none => s
  let s := s.setFld Reg.thmStatus 0 2 2 (if f.latched then 1 else 0)
  andThen (s.diesUp i) fun s => andThen s.sparing fun s => s.allocate

/-! ## Step 5: PROTECT (R525, R532, R533) -/

/-- One field of a BOOT register that boot code writes. -/
structure BootField where
  addr : Nat
  inst : Nat
  hi : Nat
  lo : Nat
  v : Nat
/-- Write it; none when the value does not fit or breaks its range rule (R653). -/
def State.bootField (s : State) (w : BootField) : Option State :=
  match (regDesc? w.addr).bind fun d => d.fields.find? fun f => f.hi == w.hi && f.lo == w.lo with
  | none => none
  | some f =>
    let ok := match f.rng with
      | .any => true
      | .within lo hi => decide (lo ≤ w.v ∧ w.v ≤ hi)
      | .map01 hi => decide (w.v ≤ hi)
      | .zeroLow n => w.v % 2 ^ n == 0
    let v := match f.rng with
      | .map01 _ => if w.v = 0 then 1 else w.v
      | _ => w.v
    if ok = true ∧ v < 2 ^ (w.hi + 1 - w.lo) then some (s.setFld w.addr w.inst w.hi w.lo v) else none

/-- The words of an address, four from byte `i`. -/
def wordFields (addr inst : Nat) (v : Bytes) (i n : Nat) : List BootField :=
  (List.range n).map fun k => ⟨addr + 4 * k, inst, 31, 0, leNat v (i + 4 * k) 4⟩
/-- One RDMA window. -/
def windowFields (p w : Nat) (v : Bytes) : List BootField :=
  let i := 48 + 32 * w
  wordFields (Reg.cfgRdmaBaseLo + 16 * w) p v i 3 ++
    [⟨Reg.cfgRdmaHost + 16 * w, p, 5, 0, byteAt v (i + 12) % 64⟩, ⟨Reg.cfgRdmaHost + 16 * w, p, 31, 31, byteAt v (i + 13) % 2⟩]
/-- The fields of a PARTITION section (R525). -/
def partFields (p : Nat) (v : Bytes) : List BootField :=
  [⟨Reg.cfgPartDef, p, 0, 0, 1⟩, ⟨Reg.cfgPartDef, p, 1, 1, byteAt v 0 % 2⟩, ⟨Reg.cfgPartDef, p, 2, 2, byteAt v 1⟩,
    ⟨Reg.cfgPartDef, p, 8, 3, byteAt v 2⟩, ⟨Reg.cfgPartSlice, p, 11, 0, leNat v 4 2⟩, ⟨Reg.cfgPartSlice, p, 28, 16, leNat v 6 2⟩] ++
  wordFields Reg.cfgPartStackBase p v 8 2 ++
  ((List.range 5).flatMap fun c =>
    let a := Reg.ixcShare + 32 * p + 4 * c
    [(⟨a, 0, 8, 0, leNat v (16 + 2 * c) 2 % 512⟩ : BootField), ⟨a, 0, 16, 16, leNat v (16 + 2 * c) 2 / 2 ^ 15⟩]) ++
  ((List.range 2).flatMap fun d =>
    [(⟨Reg.intEgress + 8 * p + 4 * d, 0, 16, 0, leNat v (28 + 4 * d) 4⟩ : BootField), ⟨Reg.sknIngress + 8 * p + 4 * d, 0, 16, 0, leNat v (36 + 4 * d) 4⟩]) ++
  (List.range 16).flatMap fun w => windowFields p w v
/-- The fields of SKEIN_DOMAIN, SKEIN_PLACE and a PORT section. -/
def domainFields (v : Bytes) : List BootField :=
  [⟨Reg.sknMode, 0, 0, 0, byteAt v 0⟩, ⟨Reg.sknMode, 0, 1, 1, byteAt v 1⟩, ⟨Reg.sknGroups, 0, 9, 0, leNat v 2 2⟩,
    ⟨Reg.sknRoute, 0, 0, 0, byteAt v 4 % 2⟩, ⟨Reg.sknRoute, 0, 1, 1, byteAt v 4 / 2 % 2⟩, ⟨Reg.sknRetryCfg, 0, 11, 0, leNat v 6 2⟩,
    ⟨Reg.sknRetryCfg, 0, 23, 16, byteAt v 8⟩, ⟨Reg.sknCtxLinks, 0, 7, 0, byteAt v 9⟩]
def placeFields (v : Bytes) : List BootField :=
  [⟨Reg.sknMode, 0, 24, 16, leNat v 0 2⟩, ⟨Reg.sknMode, 0, 14, 8, byteAt v 2⟩] ++ (List.range 8).flatMap fun l =>
    let w := leNat v (8 + 4 * l) 4
    [(⟨Reg.sknExpect, l, 15, 0, bits w 15 0⟩ : BootField), ⟨Reg.sknExpect, l, 25, 16, bits w 25 16⟩, ⟨Reg.sknExpect, l, 28, 28, bits w 28 28⟩,
      ⟨Reg.sknExpect, l, 29, 29, bits w 29 29⟩]
def portFields (p : Nat) (v : Bytes) : List BootField :=
  wordFields Reg.ethIpv4 p v 0 1 ++ wordFields Reg.ethIpv6 p v 4 4 ++
    [⟨Reg.ethVlan, p, 11, 0, leNat v 20 2⟩, ⟨Reg.ethVlan, p, 14, 12, byteAt v 22⟩, ⟨Reg.ethVlan, p, 16, 16, byteAt v 23 % 2⟩]
def hostFields (v : Bytes) : List BootField := wordFields Reg.cfgHost 0 v 0 (v.length / 4)
/-- TILES: one byte per logical tile in the order of R7. -/
def tileFields (v : Bytes) : List BootField :=
  (allTiles.zip v).flatMap fun e =>
    [(⟨Reg.cfgTileOwner + 4 * e.1, 0, 3, 0, e.2.toNat % 16⟩ : BootField), ⟨Reg.cfgTileOwner + 4 * e.1, 0, 4, 4, e.2.toNat / 128⟩]
/-- Every field that the sections but REGISTERS and POWER set. -/
def configFields (fp seq : Nat) (l : List Section) : List BootField :=
  [⟨Reg.cfgDevice, 0, 15, 0, leNat (valueOf l 1 0) 8 2⟩, ⟨Reg.cfgSeq, 0, 31, 0, seq⟩, ⟨Reg.cfgFprintLo, 0, 31, 0, fp % 2 ^ 32⟩,
    ⟨Reg.cfgFprintHi, 0, 31, 0, fp / 2 ^ 32⟩] ++
  l.flatMap fun x => match x.type with
    | 2 => portFields x.inst x.value
    | 3 => hostFields x.value
    | 5 => domainFields x.value
    | 6 => placeFields x.value
    | 7 => partFields x.inst x.value
    | 8 => tileFields x.value
    | _ => []
/-- One entry of REGISTERS: the whole register, of every district where it is a district's; a LIVE field comes into force at once. -/
def State.bootReg (s : State) (e : Bytes) : Option State :=
  let a := leNat e 0 4
  match regDesc? a with
  | none => none
  | some d =>
    if valueInRange d (leNat e 4 4) = false then none
    else
      let v := cleanValue d (leNat e 4 4)
      let n := if a = Reg.pwrDistOc then 50 else 1
      let s := (List.range n).foldl (fun s k => s.setReg a k v) s
      some (if d.fields.any fun f => f.cls == .live then (List.range 16).foldl (fun s p => s.applyLive p a) s else s)
/-- Write fields or entries in order until one is rejected. -/
def writeAll {α : Type} (f : State → α → Option State) : List α → State → Option State
  | [], s => some s
  | a :: l, s => match f s a with
    | none => none
    | some s' => writeAll f l s'

/-- Lines of the stack line space below the weight area (R532). -/
def State.stackSpace (s : State) : Nat :=
  if s.stacked then stacksOf s.variant * Config.stackLines - (s.goldSlots * 2065 + s.fld Reg.wgtAdptImages 0 15 0 * 272) else 0
def State.stackWin (s : State) (p : Nat) : Nat × Nat := (s.reg Reg.cfgPartStackBase p, s.reg Reg.cfgPartStackLines p)
/-- An RDMA window of the set-up is sound. -/
def State.rdmaWindowOk (s : State) (hosts p w : Nat) : Bool :=
  !s.rdmaValid p w || (s.rdmaBase p w % 64 == 0 && s.rdmaLines p w != 0 && decide (s.fld (Reg.cfgRdmaHost + 16 * w) p 5 0 < hosts))
/-- The windows of a defined partition are sound (R532). -/
def State.windowsOk (s : State) (hosts : Nat) (ps : List Nat) (p : Nat) : Bool :=
  let (b, n) := s.sliceWin p
  let (sb, sn) := s.stackWin p
  let golden := (allTiles.take s.goldSlots).any fun t => s.ownerOf t == some p
  decide (b + n ≤ 4096) && (s.stacked || !golden || decide (b + n ≤ 2031)) &&
    (sn == 0 || decide (sb + sn ≤ s.stackSpace)) &&
    (ps.all fun q => q == p || sn == 0 || (s.stackWin q).2 == 0 || decide (sb + sn ≤ (s.stackWin q).1 ∨ (s.stackWin q).1 + (s.stackWin q).2 ≤ sb)) &&
    (List.range 16).all fun w => s.rdmaWindowOk hosts p w
/-- Every check of the protection set-up. -/
def State.setupOk (s : State) (hosts : Nat) : Bool :=
  let ps := (List.range 16).filter s.partDefined
  (ps.all fun p => s.windowsOk hosts ps p) && allTiles.all fun t => match s.ownerOf t with
    | some p => s.partDefined p
    | none => true
/-- The sum of a register's low field over the partitions. -/
def State.sumParts (s : State) (addr stride hi : Nat) : Nat := ((List.range 16).map fun p => s.fld (addr + stride * p) 0 hi 0).sum

/-- Write everything that the configuration sets. -/
def State.writeConfig (s : State) (fp : Nat) (l : List Section) (c : Bytes) : Option State :=
  match writeAll State.bootField (configFields fp (cfgSeq c) l) s with
  | none => none
  | some s => writeAll State.bootReg (pieces 8 (valueOf l 11 0)) s
/-- PEERS, MODELS and the digest. -/
def State.takeLists (s : State) (l : List Section) (c : Bytes) : State :=
  let peers : List (Nat × List Word) := (pieces 20 (valueOf l 4 0)).map fun (e : Bytes) =>
    (leNat e 0 2, (List.range 4).map fun k => BitVec.ofNat 32 (leNat e (4 + 4 * k) 4))
  let conf : List (Nat × Nat) := (pieces 8 (valueOf l 10 0)).map fun (e : Bytes) => (leNat e 0 4, leNat e 4 2)
  let s := s.setRegBytes Reg.cfgCfgDig (cfgDigest c)
  { s with net := { s.net with peers := peers }, wgt := { s.wgt with conf := conf } }
/-- The checks of the set-up: 0x32, 0x33, 0x34, 0x35 or none. -/
def State.checkSetup (s : State) (hosts : Nat) : StartFail :=
  let dies (a : Nat) : Bool := (List.range 2).all fun d => decide (s.sumParts (a + 4 * d) 8 16 ≤ 65536)
  let shares := (List.range 5).all fun c => decide (s.sumParts (Reg.ixcShare + 4 * c) 32 8 ≤ 256)
  if dies Reg.intEgress = false then some (0x32, 0)
  else if dies Reg.sknIngress = false then some (0x33, 0)
  else if shares = false then some (0x34, 0)
  else if s.setupOk hosts = false then some (0x35, 0)
  else none

/-- Step 5. -/
def State.stepProtect (s : State) : State × StartFail :=
  let l := s.sections
  let fp := fingerprint (2 ^ linksOf s.variant - 1) l
  match (s.setStep 5).writeConfig fp l s.boot.applied with
  | none => (s.setStep 5, some (0x36, 0))
  | some t =>
    let t := t.takeLists l s.boot.applied
    let r := t.checkSetup ((valueOf l 3 0).length / 16)
    (if r.isNone then t.setBit Reg.cfgStatus 0 4 else t, r)

/-! ## Step 6: FIRMWARE (R508, R511, R612, R613) -/

/-- The start's number, and its predecessor's records. -/
def State.startNo (s : State) : Nat := s.reg Reg.cntLifeStarts
def State.lastRecords (s : State) : List Bytes := s.boot.flash.results.filter fun r => testRecordValid r && leNat r 8 4 + 1 == s.startNo
/-- The memory test may be skipped (R612). -/
def State.cleanShutdown (s : State) : Bool := match s.newest [1] with
  | some r => testRecordValid r && byteAt r 7 % 2 == 1 && leNat r 8 4 + 1 == s.startNo
  | none => false
/-- Units of the memory test's classes. -/
def memtestUnits (v : Variant) (c : Nat) : Nat := if c = 10 then 29 else if c = 11 then stacksOf v else 3200
/-- Run the memory test and write its record, the durations free (R611, R612). -/
def State.memtest (s : State) (fail : Option (Nat × Nat × Nat)) : State :=
  let s := ((s.setBit Reg.cfgStatus 0 6).setBit Reg.bstStatus 0 9).raise 0xB003 (le4 s.startNo)
  let (k, s) := s.fresh
  let dur (c : Nat) : Nat := (Config.freeWord (16 * k + c)).toNat
  let fails : List (List Nat) := match fail with
    | some (c, kind, phys) => [[c, kind, phys, dur 13, dur 14, 0]]
    | none => []
  let classes := [1, 2, 3, 4, 10, 11].map fun c => [c, memtestUnits s.variant c, (fails.filter fun f => f.getD 0 0 == c).length, dur c]
  let s := s.writeRecord (testRecord 2 0 s.lifeCycle s.startNo (dur 0) true s.time.cnt classes fails) fails
  match fail with
  | some (_, kind, phys) =>
    let r := suspectRecord kind 0 phys 0xFFFF 0xFF 0xFF 0 0 s.time.cnt
    let s := s.setBit Reg.bstStatus 0 8
    { s with integ := { s.integ with suspects := (s.integ.suspects ++ [r]).take 64 } }.raise 0x7005 r
  | none => s
/-- A failure that ends step 6: of the memory test, of classes 8 to 10 of the last start's records, or of a stack beyond repair. -/
def State.testFailure (s : State) (ran : Bool) (fail : Option (Nat × Nat × Nat)) : Option Nat :=
  match fail with
  | some (c, _) => if ran ∨ c = 11 then some c else none
  | none => ((s.lastRecords.flatMap recordFails).find? fun f => decide (8 ≤ byteAt f 0 ∧ byteAt f 0 ≤ 10)).map fun f => byteAt f 0
/-- Step 6, once the cores run: the memory test. -/
def State.testMemory (s : State) (i : StartIn) : State × StartFail :=
  let run := !s.cleanShutdown
  let bad := s.testFailure run i.memtestFail
  let s := if run then s.memtest i.memtestFail else s
  match bad with
  | some c => (s, some (0x43, c))
  | none => (s, none)
/-- Step 6 up to the start of the firmware. -/
def State.stepFirmware (s : State) : State × StartFail :=
  let s := s.setStep 6
  let r := s.boot.flash.fw
  match signedFault s.boot.fuse true r with
  | some 5 => (s, some (0x41, 0))
  | some n => (s, some (0x40, n))
  | none =>
    let s := (s.setRegBytes Reg.cfgFwDig (imageDigest r)).setFld Reg.cfgSvn 0 15 8 (imageSvn r)
    ({ s with boot := { s.boot with commitFw := imageCommit r } }, none)

/-! ## Step 7: WEIGHTS (R393, R394, R397) -/

/-- An array's record row fits its place in the residence record. -/
def State.recordFits (s : State) (id epoch l h k t : Nat) : Bool := match (s.warp (s.targetKey t)).valid with
  | some r => leNat r 0 4 == id && leNat r 4 2 == epoch && leNat r 6 2 == l && leNat r 8 2 == h && leNat r 10 2 == k
  | none => false
/-- The arrays that the start check reads, at even steps. -/
def sampleOf (n : Nat) (l : List Nat) : List Nat :=
  let m := min n l.length
  (List.range m).map fun k => l.getD (k * l.length / m) 0
/-- REASON of R393's first row that applies, 0 for READY. -/
def State.startCheck (s : State) (bad : List Nat) (f : ResidRec) (x : ModelSt) : Nat :=
  if f.intent.isSome then 4
  else match s.epochMin f.model with
    | none => 6
    | some e =>
      if f.epoch < e then 5
      else if !(x.items.all fun y => (numbered y.2.2.targets).all fun k =>
          s.recordFits f.model (x.layers.getD y.1 default).epoch y.1 y.2.1 k.1 k.2) then 2
      else if (sampleOf (s.fld Reg.wgtRecheckCfg 0 31 16) x.arrays).any fun t => !s.cellsGood t || bad.contains (s.targetKey t) then 3
      else 0
/-- The state of one model from its residence record. -/
def State.startModel (s : State) (bad : List Nat) (e : Nat × ResidRec) : State :=
  let f := e.2
  let x : ModelSt := { ModelSt.init with id := f.model, epoch := f.epoch, layers := f.layers, min := (s.epochMin f.model).getD 0 }
  let r := s.startCheck bad f x
  if r = 0 then s.modModel e.1 fun _ => { x with st := 2 }
  else (s.modModel e.1 fun _ => { x with st := 1, reason := r }).raise 0x6008 (le4 f.model ++ le1 r)
/-- State codes of the arrays: ACTIVE with a valid record, else EMPTY (R117). -/
def State.startArrays (s : State) : State :=
  let put (e : Nat × WarpArr) : Nat × WarpArr := (e.1, { e.2 with code := if e.1 % 16 < 8 ∧ e.2.valid.isSome then 1 else 0 })
  { s with warps := (s.warps.map put).filter fun e => e.2 != WarpArr.init }
/-- Step 7. -/
def State.stepWeights (s : State) (i : StartIn) : State :=
  let s := s.startArrays
  let s := { s with wgt := { s.wgt with models := [] } }
  ((numbered (s.wgt.flash.take 8)).foldl (fun s e => s.startModel i.sampleBad e) s).rebuildGold

/-! ## Step 8: READY -/

/-- Push what the start raised, in SEQ order (R597). -/
def State.flushEarly (s : State) : State :=
  let l := s.events.early
  let s := { s with events := { s.events with running := true, early := [] } }
  l.foldl (fun s b => s.pushEvent (byteAt b 0) [b.drop 1]) s
/-- Step 8: READY; suspect records and test results that this start has applied become sparing results; REWRITEs of R610 are due once
their images are compared, or at once without a golden copy. -/
def State.stepReady (s : State) (ms : Nat) : State :=
  let s := ((s.setStep 8).setReg Reg.cfgStartMs 0 (min 65535 ms)).setPower 2
  let s := s.raise 0x9001 (le2 (min 65535 ms) ++ le1 (s.fld Reg.cfgStatus 0 6 6) ++ le4 (s.reg Reg.cfgSeq))
  let s := (s.lastRecords.filter fun r => byteAt r 4 == 1).foldl State.reportRecord s
  let s := if s.fld Reg.cfgStatus 0 6 6 = 1 then (s.newest [2]).toList.foldl State.reportRecord s else s
  let s := if s.power.shut = 3 then { s with power := { s.power with shut := 1 } } else s
  let failed := s.failedTiles
  let redo := s.boot.flash.rewrite
  let s := s.modFlash fun f => { f with failed := failed, rewrite := [], latched := false }
  let s := { s with integ := { s.integ with suspects := [] }, boot := { s.boot with waits := none, fix := if s.stacked then redo else [] } }
  let s := if s.stacked then s else redo.foldl (fun s k => s.svcRequest (k / 16) (k % 16) 2) s
  s.flushEarly

/-! ## Failed starts and fallback (R513-R517) -/

/-- The copy that fallback uses (R517). -/
def State.fallbackCopy (s : State) : Option Bytes :=
  let f := s.boot.flash
  let ok (c : Bytes) : Bool := match cfgFault s.boot.fuse s.boot.life f.seqMin c with
    | none => true
    | some n => n == 5
  match ok f.copyA, ok f.copyB with
  | true, true => some (if cfgSeq f.copyA < cfgSeq f.copyB then f.copyB else f.copyA)
  | true, false => some f.copyA
  | false, true => some f.copyB
  | false, false => none
/-- E0 in fallback: the copy's PORT 0 and HOSTS, or the IPv6 link-local address of its MAC address. -/
def State.fallbackNet (s : State) : State :=
  let clear := (wordFields Reg.ethIpv4 0 [] 0 1 ++ wordFields Reg.ethIpv6 0 [] 0 4 ++ wordFields Reg.cfgHost 0 [] 0 256).foldl
    (fun s w => s.setReg w.addr 0 0) s
  match s.fallbackCopy with
  | some c =>
    let l := (cfgSections c).getD []
    let ws := (if present l 2 0 then portFields 0 (valueOf l 2 0) else []) ++ hostFields (valueOf l 3 0)
    ws.foldl (fun s w => s.setFld w.addr w.inst w.hi w.lo w.v) clear
  | none =>
    let m := natLe (s.reg Reg.ethMacLo 0 + s.fld Reg.ethMacHi 0 15 0 * 2 ^ 32) 6
    let id : Bytes := [BitVec.ofNat 8 (byteAt m 0 ^^^ 2)] ++ slice m 1 2 ++ [0xFF, 0xFE] ++ slice m 3 3
    (wordFields Reg.ethIpv6 0 ([0xFE, 0x80, 0, 0, 0, 0, 0, 0] ++ id) 0 4).foldl (fun s w => s.setReg w.addr 0 w.v) clear
/-- Enter fallback mode (R513, R514, R516, R639). -/
def State.enterFallback (s : State) : State :=
  let s := { s with boot := { s.boot with waits := none, restart := 0 } }
  let s := ((s.setPower 5).setBit Reg.cfgStatus 0 5).setPin pinFault true
  let s := s.raise 0x9003 (le2 s.boot.flash.reason ++ le1 s.boot.flash.startCnt)
  s.fallbackNet.showLife
/-- A reset one second later, or fallback from the third failure on. -/
def State.afterFail (s : State) : State :=
  if s.boot.flash.startCnt < 3 then ({ s with boot := { s.boot with restart := 1 } }).setPower 0 else s.enterFallback
/-- The start fails (R513): the record, START_FAILED, and the rails off, and then a reset one second later
or fallback; THERMAL latches. -/
def State.failStart (s : State) (reason detail : Nat) : State :=
  let step := s.fld Reg.cfgStatus 0 3 0
  let s := (s.modFlash fun f => { f with reason := reason, step := step, detail := detail, inProgress := false }).showStart
  let s := s.raise 0x9002 (le2 reason ++ le1 step ++ le1 detail ++ le1 s.boot.flash.startCnt)
  let s := { s with boot := { s.boot with waits := none } }
  if reason = 0x52 then s.thermalLatch (s.fld Reg.thmModuleMax 0 24 16) (s.fld Reg.thmModuleMax 0 11 0)
  else s.railsOff.afterFail
/-- The end of a part of the start. -/
def finish (r : State × StartFail) (f : State → State) : State := match r.2 with
  | some (reason, detail) => r.1.failStart reason detail
  | none => f r.1

/-- Steps 3 to 6, up to the start of the firmware, each after its flash reads. -/
def State.earlySteps (s : State) (i : StartIn) : State × StartFail :=
  let step (n : Nat) (f : State → State × StartFail) (s : State) : State × StartFail := andThen (s.flashRead i n) f
  andThen (step 3 (fun s => s.stepConfig i) s) fun s => andThen (step 4 (fun s => s.stepDies i) s) fun s =>
    andThen (step 5 State.stepProtect s) (step 6 State.stepFirmware)
/-- A start from step 2 (R510). The firmware's cores that do not report, or a READY later than 10 s, leave it waiting in step 6 or 7,
where FW_START_TIMEOUT or START_TIMEOUT ends it. -/
def State.startUp (s : State) (i : StartIn) : State :=
  finish ((s.setPin pinGood true).stepRom i) fun s =>
  if 3 < s.boot.flash.startCnt then s.enterFallback
  else finish (s.earlySteps i) fun s =>
  if i.coresOk = false then { s with boot := { s.boot with waits := some 6 } }
  else finish (andThen (s.testMemory i) fun s => s.flashRead i 7) fun s =>
    let s := (s.setStep 7).stepWeights i
    if 10000 < i.ms then { s with boot := { s.boot with waits := some 7 } } else s.stepReady i.ms

/-! ## The rows -/

/-- Nothing is under way: OFF, no start waits and no restart is due. -/
def State.darkNow (s : State) : Bool := s.powerState == 0 && s.boot.waits.isNone && s.boot.restart == 0
/-- POWER_GOOD (R65, R510): the first start after the input and ENABLE are good, where R637 lets the module start;
FAULT_OUT is released (R639). -/
def execPowerGood (i : StartIn) (s : State) : Host.Outcome State Fault Refusal :=
  .next (if s.darkNow = false ∨ s.power.held = true then s else (s.off.setPin pinFault false).startUp i)
/-- START_TIMEOUT (R513). -/
def execStartTimeout (s : State) : Host.Outcome State Fault Refusal := .next (if s.boot.waits.isSome then s.failStart 0x50 0 else s)
/-- FW_START_TIMEOUT (R515). -/
def execFwStartTimeout (s : State) : Host.Outcome State Fault Refusal := .next (if s.boot.waits = some 6 then s.failStart 0x42 0 else s)
/-- START_RETRY_RESET (R513): a reset, one second after a failed start. -/
def execStartRetryReset (i : StartIn) (s : State) : Host.Outcome State Fault Refusal :=
  .next (if s.boot.restart = 1 then s.off.startUp i else s)
/-- DELAYED_RESTART (R521, R550): a reset, one second after RETRY, REVERT or a push in fallback. -/
def execDelayedRestart (i : StartIn) (s : State) : Host.Outcome State Fault Refusal :=
  .next (if s.boot.restart = 2 then (s.off.setPin pinFault false).startUp i else s)
/-- READY_60S (R509, R512, R528): 60 s in READY, ACTIVE or DRAIN without a break. -/
def execReady60s (s : State) : Host.Outcome State Fault Refusal :=
  let p := s.powerState
  .next (if (p = 2 ∨ p = 3 ∨ p = 4) ∧ s.boot.flash.inProgress = true then
    let b := s.boot
    (s.modFlash fun f => { f with
      startCnt := 0, inProgress := false, seqMin := max f.seqMin (s.reg Reg.cfgSeq)
      svnBoot := if b.commitBoot then s.fld Reg.cfgSvn 0 7 0 else f.svnBoot
      svnFw := if b.commitFw then s.fld Reg.cfgSvn 0 15 8 else f.svnFw }).showStart
  else s)

end Sys2Proof.Machine
end

