-- ==== Sys2Proof/Machine/CfgCmd.lean ====
section
/-! DEFINITION. The commands of the CFG block: pushes and staging (R520, R521, R528), life-cycle tokens (R542), attestation (R545), RETRY
and REVERT (R550); and the fallback responder (R518). -/

namespace Sys2Proof.Machine

/-! ## Results (R550) -/

/-- In fallback mode. -/
def State.inFallback (s : State) : Bool := s.fld Reg.cfgStatus 0 5 5 == 1
/-- CFG_CMD_RESULT.BUSY with the operation. -/
def State.cfgRuns (s : State) : Option Nat := if s.fld Reg.cfgCmdResult 0 7 7 = 1 then some (s.fld Reg.cfgCmdResult 0 11 8) else none
/-- A command is running. -/
def State.cfgBegin (s : State) (op : Nat) : State := s.setReg Reg.cfgCmdResult 0 (2 ^ 7 + op * 2 ^ 8)
/-- A command ends with a result. -/
def State.cfgEnd (s : State) (op r : Nat) : State := s.setReg Reg.cfgCmdResult 0 (r + op * 2 ^ 8)

/-! ## Pushes (R520, R521) -/

/-- The first 64 KiB of a copy are erased. -/
def eraseSector (c : Bytes) : Bytes := List.replicate (min 65536 c.length) 0xFF ++ c.drop 65536
/-- The wrapper's form: MAGIC, VERSION, KIND of the operation, length, reserved bytes (R520). -/
def wrapperOk (op : Nat) (b : Bytes) : Bool :=
  let enc := byteAt b 7 % 2 == 1
  b.take 4 == [0x4C#8, 0x50#8, 0x53#8, 0x48#8] && leNat b 4 2 == 0x0100 && byteAt b 6 == 4 - op && byteAt b 7 / 2 == 0 &&
    b.length == 64 + (if enc then 128 else 0) + leNat b 16 4 && zeros b 20 44
/-- The body of a push in plaintext (R385, R520). -/
def pushBody (serial : DWord) (pub b : Bytes) : Option Bytes :=
  if byteAt b 7 % 2 = 0 then some (b.drop 64)
  else
    let e := b.drop 64
    let epk := e.take 32
    let info : Bytes := [0x4C, 0x4D, 0x58, 0x31, 0x2D, 0x50, 0x55, 0x53, 0x48] ++ natLe serial.toNat 8
    let kek := Config.hkdf (Config.x25519 epk) (epk ++ pub) info 32
    match Config.aesGcmOpen kek (slice b 8 12) (b.take 64) (slice e 32 48) with
    | none => none
    | some key => Config.aesGcmOpen key (slice e 80 12) (b.take 64) (e.drop 128 ++ slice e 92 16)
/-- Result of the check of a boot code or firmware body, 1 when it passes. -/
def signedResult (f : FuseSt) (fw : Bool) (body : Bytes) : Nat := match signedFault f fw body with
  | none => 1
  | some 3 => 5
  | some 4 => 4
  | some 5 => 6
  | some _ => 3
/-- Result of the check of a configuration body. -/
def State.configResult (s : State) (body : Bytes) : Nat :=
  match cfgFault s.boot.fuse s.boot.life s.boot.flash.seqMin body with
  | some 1 => 3
  | some 2 => 11
  | some 3 => 4
  | some 4 => 5
  | some _ => 6
  | none => match cfgSections body with
    | none => 3
    | some l =>
      if leNat (valueOf l 1 0) 0 8 ≠ s.boot.fuse.serial.toNat then 7
      else if s.inFallback = false ∧ cfgSeq body ≤ s.reg Reg.cfgSeq then 6
      else 1
/-- The checks of R521 in order: a result, and the body. -/
def State.pushResult (s : State) (op : Nat) (b : Bytes) : Nat × Bytes :=
  if b.length ≠ s.reg Reg.cfgCmdLen then (2, [])
  else if wrapperOk op b = false then (3, [])
  else if leNat b 8 8 ≠ 0 ∧ leNat b 8 8 ≠ s.boot.fuse.serial.toNat then (7, [])
  else if s.inFallback = true ∧ byteAt b 7 % 2 = 0 then (12, [])
  else match pushBody s.boot.fuse.serial s.xportPub b with
    | none => (9, [])
    | some body => (match op with
      | 1 => s.configResult body
      | 2 => signedResult s.boot.fuse true body
      | _ => signedResult s.boot.fuse false body, body)

/-- The copy a configuration push is written to: not the applied one; in fallback an invalid one, or the one with the lower SEQ. -/
def State.stageCopy (s : State) : Bool :=
  if s.inFallback then
    let f := s.boot.flash
    let bad (c : Bytes) : Bool := (cfgFault s.boot.fuse s.boot.life f.seqMin c).isSome
    if bad f.copyA then false else if bad f.copyB then true else decide (cfgSeq f.copyB ≤ cfgSeq f.copyA)
  else !s.boot.copy
/-- Write a region of the configuration flash. -/
def State.writeRegion (s : State) (op : Nat) (v : Bytes) : State :=
  let copy := s.stageCopy
  s.modFlash fun f => match op with
    | 1 => if copy then { f with copyB := v } else { f with copyA := v }
    | 2 => { f with fw := v }
    | _ => { f with boot := v }
/-- Clear START_CNT and restart one second later (R512, R550). -/
def State.restartSoon (s : State) : State :=
  let s := (s.modFlash fun f => { f with startCnt := 0, inProgress := false }).showStart
  { s with boot := { s.boot with restart := 2 } }
/-- A configuration is staged: CFG_STAGED_FP and CFG_STAGED_SEQ (R531). -/
def State.showStaged (s : State) (body : Bytes) : State :=
  let fp := fingerprint (2 ^ linksOf s.variant - 1) ((cfgSections body).getD [])
  ((s.setReg64 Reg.cfgStagedFpLo 0 fp).setReg Reg.cfgStagedSeq 0 (cfgSeq body)).setBit Reg.cfgStatus 0 7
/-- No configuration is staged. -/
def State.clearStaged (s : State) : State :=
  ((s.setReg64 Reg.cfgStagedFpLo 0 0).setReg Reg.cfgStagedSeq 0 0).clrBit Reg.cfgStatus 0 7

/-- PUSH_FETCHED (R521): the push has arrived; it is checked, written and read back (`flashOk`), and takes effect at the next start. -/
def execPushFetched (push : Bytes) (flashOk : Bool) (s : State) : Host.Outcome State Fault Refusal :=
  .next (match s.cfgRuns with
    | none => s
    | some op =>
      if op < 1 ∨ 3 < op then s
      else
        let (r, body) := s.pushResult op push
        if r ≠ 1 then s.cfgEnd op r
        else if flashOk = false then
          let s := s.writeRegion op []
          (if op = 1 then s.clearStaged else s).cfgEnd op 10
        else
          let s := s.writeRegion op body
          let s := s.raise 0x9004 (le1 op ++ (if op = 1 then le4 (cfgSeq body) else le2 (imageSvn body)))
          let s := s.cfgEnd op 1
          if s.inFallback then s.restartSoon else if op = 1 then s.showStaged body else s)

/-! ## Tokens, attestation, staging (R542, R545, R550) -/

/-- The token's checks: a result. -/
def State.tokenResult (s : State) (t : Bytes) : Nat :=
  let kind := byteAt t 4
  if t.length ≠ 128 ∨ t.take 4 ≠ [0x4C#8, 0x4C#8, 0x43#8, 0x54#8] ∨ zeros t 7 1 = false ∨ zeros t 48 16 = false ∨
      (kind = 2 ∧ byteAt t 6 = 0) then 3
  else if tokenFits kind s.boot.life = false then 8
  else if leNat t 8 8 ≠ s.boot.fuse.serial.toNat then 7
  else if slice t 16 32 ≠ (List.range 8).flatMap (fun n => natLe (s.reg (Reg.cfgLcNonce + 4 * n)) 4) then 6
  else if (kind = 2 ∨ kind = 3) ∧ (s.boot.fuse.owner (byteAt t 5)).isNone then 11
  else if tokenSigned s.boot.fuse t = false then 5
  else 1
/-- A token that LC_TOKEN has fetched; none when the fetch failed. -/
def State.takeToken (s : State) (t : Option Bytes) : State :=
  match t with
  | none => s.cfgEnd 4 2
  | some t =>
    let r := s.tokenResult t
    if r ≠ 1 then s.cfgEnd 4 r
    else (((s.modFlash fun f => { f with pendTok := some t }).showStart).raise 0x9005 (le1 (byteAt t 4))).cfgEnd 4 1

/-- Words of consecutive registers as bytes. -/
def State.regBytes (s : State) (addr n : Nat) : Bytes := (List.range n).flatMap fun k => natLe (s.reg (addr + 4 * k)) 4
/-- The attestation report of R545, signed. -/
def State.report_ (s : State) : Bytes :=
  let flags := (if s.inFallback then 1 else 0) + (if s.integ.drain then 2 else 0) + s.fld Reg.cfgStatus 0 4 4 * 4
  let b := [0x4C#8, 0x41#8, 0x54#8, 0x54#8] ++ le2 0x0100 ++ le2 (s.fld Reg.cfgStepping 0 15 0) ++ le1 (s.fld Reg.cfgStepping 0 23 16) ++
    le1 s.boot.life ++ le1 flags ++ le1 0 ++ le2 (s.fld Reg.cfgDevice 0 15 0) ++ le2 0 ++ le8 s.boot.fuse.serial.toNat ++
    le8 (s.reg64 Reg.cfgFprintLo) ++ le4 (s.reg Reg.cfgSeq) ++ le2 (s.fld Reg.cfgSvn 0 7 0) ++ le2 (s.fld Reg.cfgSvn 0 15 8) ++ le8 s.now ++
    s.regBytes Reg.cfgAttNonce 8 ++ s.regBytes Reg.cfgBootDig 16 ++ s.regBytes Reg.cfgFwDig 16 ++ s.regBytes Reg.cfgCfgDig 16
  b ++ padTo 64 (Config.ed25519Sign b)

/-- DISCARD_STAGED. -/
def State.discard (s : State) : State :=
  if s.fld Reg.cfgStatus 0 7 7 = 0 then s.cfgEnd 6 8
  else
    let copy := s.stageCopy
    let c := if copy then s.boot.flash.copyB else s.boot.flash.copyA
    ((s.writeRegion 1 (eraseSector c)).clearStaged).cfgEnd 6 1
/-- REVERT: the first sector of the copy with the higher SEQ is erased, unless no copy passing R526 would be left. -/
def State.revertCopy (s : State) : State :=
  let f := s.boot.flash
  let b := decide (cfgSeq f.copyA < cfgSeq f.copyB)
  let left := if b then f.copyA else f.copyB
  if (cfgFault s.boot.fuse s.boot.life f.seqMin left).isSome then s.cfgEnd 8 8
  else
    let s := s.modFlash fun f => if b then { f with copyB := eraseSector f.copyB } else { f with copyA := eraseSector f.copyA }
    (s.cfgEnd 8 1).restartSoon

/-- CFG_CMD is written with an operation (R519, R521, R550), by a context whose queue pair the fetch uses. -/
def State.cfgCommand (s : State) (ctx op : Nat) : State :=
  let fetch (s : State) : State :=
    (s.cfgBegin op).send (.rdmaRead (s.ctx ctx).qp (BitVec.ofNat 64 (s.reg64 Reg.cfgCmdAddrLo)) (BitVec.ofNat 32 (s.reg Reg.cfgCmdKey)) (s.reg Reg.cfgCmdLen))
  if op = 0 ∨ 8 < op then s
  else if s.boot.life = 5 then s.cfgEnd op 8
  else if s.inFallback = true ∧ (op = 4 ∨ op = 6) then s.cfgEnd op 8
  else if s.inFallback = false ∧ (op = 7 ∨ op = 8) then s.cfgEnd op 8
  else match op with
    | 4 => fetch s
    | 5 => (s.setRegBytes Reg.cfgAttReport s.report_).cfgEnd 5 1
    | 6 => s.discard
    | 7 => (s.cfgEnd 7 1).restartSoon
    | 8 => s.revertCopy
    | _ => if 33554432 + 192 < s.reg Reg.cfgCmdLen then s.cfgEnd op 3 else fetch s

/-! ## The fallback responder (R518) -/

/-- The request's form. -/
def udpOk (op : Nat) (req : Bytes) : Bool := req.length == 16 && req.take 4 == [0x4C#8, 0x46#8, 0x42#8, 0x51#8] && byteAt req 4 == op
/-- Answer a datagram in fallback, at most 100 in a second of the time counter. -/
def State.answer (s : State) (op : Nat) (req body : Bytes) : State :=
  let sec := s.now / 1000000000
  let n := if s.boot.udpSec = sec then s.boot.udpCnt else 0
  if s.inFallback = false ∨ udpOk op req = false ∨ 100 ≤ n then s
  else { s with boot := { s.boot with udpSec := sec, udpCnt := n + 1 } }.send (.udp body)
/-- The STATUS answer. -/
def State.statusAnswer (s : State) (req : Bytes) : Bytes :=
  let f := s.boot.flash
  let svn (fw : Bool) (r : Bytes) : Nat := match signedFault s.boot.fuse fw r with
    | none => imageSvn r
    | some 5 => imageSvn r
    | some _ => 0
  let c := s.fallbackCopy
  let l := (c.bind cfgSections).getD []
  let fp := if c.isSome then fingerprint (2 ^ linksOf s.variant - 1) l else 0
  [0x4C#8, 0x46#8, 0x42#8, 0x52#8] ++ le1 1 ++ le1 f.reason ++ le1 f.step ++ le1 f.startCnt ++ slice req 8 8 ++ le8 s.boot.fuse.serial.toNat ++
    le2 (leNat (valueOf l 1 0) 8 2) ++ le2 (s.fld Reg.cfgStepping 0 15 0) ++ le1 (s.fld Reg.cfgStepping 0 23 16) ++ le1 s.boot.life ++
    le1 ((if c.isSome then 1 else 0) + if s.boot.rom then 2 else 0) ++ le1 0 ++ le2 (svn false f.boot) ++ le2 (svn true f.fw) ++
    le4 ((c.map cfgSeq).getD 0) ++ le8 fp ++ le4 f.detail ++ List.replicate 12 0
/-- FALLBACK_STATUS. -/
def execFallbackStatus (req : Bytes) (s : State) : Host.Outcome State Fault Refusal := .next (s.answer 1 req (s.statusAnswer req))
/-- The LOG answer: 32 records from a page of the event log, newest first. -/
def State.logAnswer (s : State) (req : Bytes) : Bytes :=
  let rs := (s.events.log.drop (32 * leNat req 6 2)).take 32
  [0x4C#8, 0x46#8, 0x42#8, 0x52#8] ++ le1 2 ++ le1 rs.length ++ slice req 6 2 ++ slice req 8 8 ++ rs.flatten
/-- FALLBACK_LOG. -/
def execFallbackLog (req : Bytes) (s : State) : Host.Outcome State Fault Refusal := .next (s.answer 2 req (s.logAnswer req))

end Sys2Proof.Machine
end

