-- ==== Sys2Proof/Machine/Ctl.lean ====
section
/-! DEFINITION. CTL, PWR and SYNC instructions (R279-R287, R332, R432). -/

namespace Sys2Proof.Machine

/-- CTL.NOP (R246, R282): takes N logical Turns, each in a slot; where the lead limit leaves fewer, it takes those and waits. -/
def execCtlNop (t : BitVec 12) (n : BitVec 12) (s : State) : Host.Outcome State Fault Refusal :=
  instr s t (encNop n) fun s p t =>
    let left := n.toNat + 1 - (s.spin t).done
    let k := match s.leadRoom p t (n.toNat + 1) with
      | some r => min left r
      | none => left
    let part (s : State) : State :=
      if k = 0 then s
      else ((s.slotsOf t [0] k).progress p).modSpin t fun sp => { sp with turn := sp.turn + BitVec.ofNat 64 k, done := sp.done + k }
    { wait := if k < left then some (⟨6, none, false⟩, part) else none, turns := left, eff := id }

/-- CTL.LOOP (R283): open a loop over the next BODY words. -/
def execCtlLoop (t : BitVec 12) (count : BitVec 16) (body : BitVec 12) (s : State) : Host.Outcome State Fault Refusal :=
  instr s t (encLoop count body) fun _ _ t =>
    { eff := fun s => s.modSpin t fun sp =>
        { sp with frames := ⟨sp.pc + 1, sp.pc + body.toNat, count.toNat⟩ :: sp.frames } }

/-- Whether a SKIP condition holds (R282, R284): COND on X[XA] against the sign-extended IMM, signed. -/
def skipHolds (cond : Nat) (x : Word) (imm : BitVec 16) : Bool :=
  let a := x.toInt
  let b := imm.toInt
  match cond with
  | 0 => a == b
  | 1 => a != b
  | 2 => decide (a < b)
  | _ => decide (b ≤ a)

/-- A Spindle after SKIP has retired: the next N words are squashed when the condition holds (R284). -/
def Spindle.skip (sp : Spindle) (f : SkipF) : Spindle :=
  if skipHolds f.cond.toNat (BitVec.ofNat 32 (sp.xr f.xa.toNat)) f.imm then { sp with squash := max sp.squash f.n.toNat } else sp

/-- CTL.SKIP (R284): squash among the next N words when the condition holds. -/
def execCtlSkip (t : BitVec 12) (f : SkipF) (s : State) : Host.Outcome State Fault Refusal :=
  instr s t (encSkip f) fun _ _ t =>
    { eff := id
      post := fun s => s.modSpin t fun sp => sp.skip f }

/-- CTL.XSET (R282). -/
def execCtlXset (t : BitVec 12) (xd : BitVec 4) (imm : Word) (s : State) : Host.Outcome State Fault Refusal :=
  instr s t (encXset xd imm) fun _ _ t => { eff := fun s => s.modSpin t fun sp => sp.setX xd.toNat imm.toNat }

/-- CTL.XADD (R282): X[XA] + IMM modulo 2^32. -/
def execCtlXadd (t : BitVec 12) (xd xa : BitVec 4) (imm : Word) (s : State) : Host.Outcome State Fault Refusal :=
  instr s t (encXadd xd xa imm) fun _ _ t =>
    { eff := fun s => s.modSpin t fun sp => sp.setX xd.toNat (sp.xr xa.toNat + imm.toNat) }

/-- CTL.XLD (R282): a 32-bit word of a slice line. -/
def execCtlXld (t : BitVec 12) (xd : BitVec 4) (lop : Lop) (word : BitVec 4) (s : State) : Host.Outcome State Fault Refusal :=
  instr s t (encXld xd lop word) fun s p t =>
    let line := (s.spin t).lop lop
    { lines := (line, 1)
      fault := s.linesFault p line 1
      eff := fun s =>
        let v := leNat (s.sliceRead t (64 * line + 4 * word.toNat) 4) 0 4
        (s.countO (s.physOf t) 47 1).modSpin t fun sp => sp.setX xd.toNat v }

/-- A field of the batch table (R285): VALID, CLEN, CBLK, PROV, ADPT; 0 for an entry that is not valid. -/
def State.xent (s : State) (p t e field : Nat) : Nat :=
  match s.entryAt p t e with
  | none => 0
  | some b =>
    match field with
    | 0 => 1
    | 1 => b.clen
    | 2 => b.clen / 16
    | 3 => b.prov
    | _ => match b.adapter with
      | some a => if ((s.weft (s.physOf t)).residentOf a).isSome then 1 else 0
      | none => 0

/-- CTL.XENT (R285). -/
def execCtlXent (t : BitVec 12) (xd : BitVec 4) (ent : Ent) (field : BitVec 4) (s : State) : Host.Outcome State Fault Refusal :=
  instr s t (encXent xd ent field) fun s p t =>
    let e := (s.spin t).ent ent
    { fault := entFault e
      eff := fun s => s.modSpin t fun sp => sp.setX xd.toNat (s.xent p t e field.toNat) }

/-- PWR.DECL (R286): the declared grant from the next district window boundary. -/
def execPwrDecl (t : BitVec 12) (tokens : BitVec 12) (s : State) : Host.Outcome State Fault Refusal :=
  instr s t (encDecl tokens) fun _ _ t => { eff := fun s => s.modSpin t fun sp => { sp with nextGrant := tokens.toNat } }

/-- PWR.WAITWIN (R287): retires at the next window boundary of the district. -/
def execPwrWaitwin (t : BitVec 12) (s : State) : Host.Outcome State Fault Refusal :=
  instr s t encWaitwin fun s _ t =>
    let win (k : Nat) (s : State) : State := s.modSpin t fun sp => { sp with sync := { sp.sync with win := k } }
    { wait := if (s.spin t).sync.win = 2 then none else some (⟨3, none, false⟩, win 1)
      eff := win 0 }

/-- SYNC.STEP (R279, R432): retires at the step boundary; the occurrence counts start again and the step snapshot is taken. -/
def execSyncStep (t : BitVec 12) (s : State) : Host.Outcome State Fault Refusal :=
  instr s t (encSync 0) fun s _ t =>
    { wait := if (s.spin t).sync.stepGo then none else some (⟨1, none, true⟩, id)
      eff := fun s => (s.countO (s.physOf t) 62 1).modSpin t fun sp => { sp with sync := { sp.sync with stepGo := false } }
      post := fun s => s.modSpin t fun sp =>
        { sp with occ := [], snap := ⟨(List.range 16).map fun i => SMap.get 0 sp.x i, [], sp.pc, sp.turn, sp.frames, sp.squash⟩ } }

/-- Detections and replays of tile `t` that the integrity engine has not cleared (R280). -/
def State.undecided (s : State) (p t : Nat) : Bool :=
  (s.part p).detects.any (fun d => d.tile == t) || !(s.spin t).replays.isEmpty

/-- SYNC.MILE (R280): retires once no detection on this Spindle is undecided. -/
def execSyncMile (t : BitVec 12) (s : State) : Host.Outcome State Fault Refusal :=
  instr s t (encSync 1) fun s p t =>
    { wait := if s.undecided p t then waits 8 else none
      eff := fun s => s.modSpin t fun sp => { sp with sync := { sp.sync with miled := true } } }

/-- A result record reaches the serving engine (R332): at most one TOKEN and two DATA records per entry and step; it drops
any other and counts it. -/
def State.emitRecord (s : State) (p e rkind : Nat) (bs : Bytes) : State :=
  let had (d : Bool) : Nat := ((s.servPart p).records.filter fun r => r.entry == e && r.data == d).length
  let ok := (rkind == 1 && had false == 0) || (rkind == 2 && decide (had true < 2))
  if ok then s.modServPart p fun q => { q with records := q.records ++ [⟨e, rkind == 2, bs⟩] }
  else s.bump Reg.srvBadrecCnt p

/-- SYNC.EMIT (R281): one 64-byte result record from a slice line, over the Interchange to the engine (R27); nothing for an entry that is
not valid. The engine drops and counts a record of a step that has committed already (R332; log entry 114). -/
def execSyncEmit (t : BitVec 12) (f : EmitF) (s : State) : Host.Outcome State Fault Refusal :=
  instr s t (encEmit f) fun s p t =>
    let sp := s.spin t
    let e := sp.ent f.ent
    let line := sp.lop f.lop
    { lines := (line, 1)
      fault := firstFault [entFault e, s.linesFault p line 1]
      wait := if (s.entryAt p t e).isSome then s.shareWait p t [engineUnit] else none
      eff := fun s =>
        if (s.entryAt p t e).isNone then s
        else
          let bs := s.readLines t line 1
          let s := (s.countO (s.physOf t) 49 1).carry p t engineUnit
          if (s.part p).inStep = true ∧ (s.spin t).sync.stepGo = false then s.emitRecord p e f.rkind.toNat bs
          else s.bump Reg.srvBadrecCnt p }

end Sys2Proof.Machine
end

