-- ==== Sys2Proof/Machine/Ctx.lean ====
section
/-! DEFINITION. CTX instructions and the landing of lines (R273-R278, R337). -/

namespace Sys2Proof.Machine

/-- The entry's committed length and session (R276). -/
def State.ctxEntry (s : State) (p t e : Nat) : Nat × Session :=
  match s.entryAt p t e with
  | some b => (b.clen, (s.session b.session).getD default)
  | none => (0, default)

/-- The two tests of R337: LAYER and HEAD within the map, and DIM the map's. -/
def State.mapFault (s : State) (p layer head : Nat) (dim : Bool) : Option FaultP :=
  let l := s.ctxLayers p
  let h := s.ctxHeads p
  if l ≤ layer ∨ h ≤ head then faultBound 4 0 (layer * 256 + head) (l * 256 + h) else
  let d := if dim then 128 else 64
  if d ≠ s.ctxDim p then faultBound 5 0 d (s.ctxDim p) else none

/-- A partition's stack-channel channel towards tile `t` by its unit (R651). -/
def State.stackChan (s : State) (t unit : Nat) : Option (Nat × RecvCh) :=
  (s.spin t).recv.find? fun e => e.2.valid && e.2.sender == unit && isStackUnit unit

/-- CTX.PUT (R276): key and value of position C + POS. -/
def execCtxPut (t : BitVec 12) (f : PutF) (s : State) : Host.Outcome State Fault Refusal :=
  instr s t (encPut f) fun s p t =>
    let sp := s.spin t
    let e := sp.ent f.ent
    let d := if f.dim then 128 else 64
    let n := if f.dim then 5 else 3
    let line := sp.lop f.lop
    let (c, x) := s.ctxEntry p t e
    let pos := c + f.pos.toNat
    let store := f.layer.toNat * s.ctxHeads p + f.head.toNat
    let a := s.ctxAddr p (x.pageOf (pos / 16)) store
    let to' := List.replicate n (s.ctxSrc a 0)
    { lines := (line, n)
      fault := firstFault [entFault e, s.linesFault p line n, s.mapFault p f.layer.toNat f.head.toNat f.dim,
        if x.ctxMax ≤ pos then faultBound 1 0 pos x.ctxMax else none]
      wait := s.shareWait p t to'
      eff := fun s =>
        let s := ((s.countO (s.physOf t) 49 n).countO (s.physOf t) 54 1).carryAll p t to'
        s.putToken a d (pos % 16) (s.readLines t line n) }

/-- A request with 4 outstanding waits (R275). -/
def Spindle.ctxWait (sp : Spindle) : Option (SpWait × (State → State)) := if 4 ≤ sp.lands.length then waits 9 else none

/-- Send a request for lines that land later from a line on, each from its unit or tile (R275). The request is one flit, to where the
first line comes from (R211, R242). -/
def State.request (s : State) (p t line : Nat) (bs : Bytes) (src : List Nat) : State :=
  let us := route t (src.headD t) none
  let s := ((s.bump Reg.ixcTxCnt (ixcTile t)).countRoute us).passPoints p (routePoints t (src.headD t) us)
  (s.countO (s.physOf t) 52 1).modSpin t fun sp => { sp with lands := sp.lands ++ [⟨line, bs, src⟩] }

/-- CTX.GET (R275, R276): NB blocks of one store land from LOP on. -/
def execCtxGet (t : BitVec 12) (f : GetF) (s : State) : Host.Outcome State Fault Refusal :=
  instr s t (encGet f) fun s p t =>
    let sp := s.spin t
    let e := sp.ent f.ent
    let nb := f.nb.toNat + 1
    let b := blockLines (if f.dim then 128 else 64)
    let line := sp.lop f.lop
    let first := sp.xr f.xf.toNat
    let x := (s.ctxEntry p t e).2
    let lim := ceilDiv x.ctxMax 16
    let store := f.layer.toNat * s.ctxHeads p + f.head.toNat
    { lines := (line, nb * b)
      fault := firstFault [entFault e, s.linesFault p line (nb * b), s.mapFault p f.layer.toNat f.head.toNat f.dim,
        if lim < first + nb then faultBound 2 0 (max first lim) lim else none]
      wait := sp.ctxWait
      eff := fun s =>
        let blks := (List.range nb).map fun k => s.ctxAddr p (x.pageOf (first + k)) store
        s.request p t line (blks.flatMap fun a => s.ctxRead a 0 (64 * b))
          (blks.flatMap fun a => (List.range b).map fun k => s.ctxSrc a (64 * k)) }

/-- fmaxf of C: the number where one operand is NaN. -/
def fmaxNum (a b : Word) : Word :=
  if ofFP32 a = .nan then b else if ofFP32 b = .nan then a else fpMax a b

/-- The state of one attention: output lanes, running maximum and sum. -/
structure AttnSt where
  o : List Word
  m : Word
  l : Word

/-- One token of R277. -/
def attnToken (q : List Word) (a : AttnSt) (key val : List Word) : AttnSt :=
  let s := reduceLanes fpAdd (padWords (List.zipWith fpMul q key))
  let m2 := fmaxNum a.m s
  let x := fpExp (ofFP32 (fpSub a.m m2))
  let b := fpExp (ofFP32 (fpSub s m2))
  { o := List.zipWith (fun o v => fpAdd (fpMul o x) (fpMul b v)) a.o val
    m := m2
    l := fpAdd (fpMul a.l x) b }
where
  /-- 128 lanes, those past the head dimension +0. -/
  padWords (l : List Word) : List Word := l ++ List.replicate (128 - l.length) 0

/-- CTX.ATTN (R277): tokens of NB blocks in the slice in ascending position, masked past C + POS + 1. -/
def execCtxAttn (t : BitVec 12) (f : AttnF) (s : State) : Host.Outcome State Fault Refusal :=
  instr s t (encAttn f) fun s p t =>
    let sp := s.spin t
    let e := sp.ent f.ent
    let nb := f.nb.toNat + 1
    let d := if f.dim then 128 else 64
    let b := blockLines d
    let line := sp.lop f.lop
    let vd := f.vd.toNat
    let va := f.va.toNat
    let c := (s.ctxEntry p t e).1
    { reads := (va, 1) :: if f.acc then [(vd, 2)] else []
      writes := [(vd, 2)]
      lines := (line, nb * b)
      fault := firstFault [entFault e, rangeFault vd 2, sp.tagFault2 va 1 6 5 1,
        if f.acc then sp.tagFault vd 2 6 0 else none, s.linesFault p line (nb * b),
        if d ≠ s.ctxDim p then faultBound 5 0 d (s.ctxDim p) else none]
      eff := fun s =>
        let q := ((sp.vr va).all.take d).map fun w => toFP32 (laneNum (sp.vr va).tag w)
        let init : AttnSt := if f.acc then ⟨(sp.vr vd).all.take d, (sp.vr (vd + 1)).lane 0, (sp.vr (vd + 1)).lane 1⟩
          else ⟨List.replicate d 0, toFP32 (.inf true), 0⟩
        let r := (List.range nb).foldl (fun a k =>
          let blk := s.readLines t (line + b * k) b
          (List.range 16).foldl (fun a i =>
            if c + f.pos.toNat + 1 ≤ 16 * (sp.xr f.xf.toNat + k) + i then a
            else attnToken q a ((List.range d).map fun j => toFP32 (vecValue 3 blk (i * d + j)))
              ((List.range d).map fun j => toFP32 (vecValue 3 blk ((16 + i) * d + j)))) a) init
        let s := (s.countO (s.physOf t) 47 (nb * b)).countO (s.physOf t) 55 nb
        s.modSpin t fun sp =>
          let sp := sp.setV vd (mkVReg 6 (r.o ++ (sp.vr vd).all.drop d))
          sp.setV (vd + 1) (mkVReg 6 (r.m :: r.l :: (sp.vr (vd + 1)).all.drop 2)) }

/-! ## Regions (R278, R295) -/

/-- A region of the partition's loaded image. -/
def State.region (s : State) (p r : Nat) : Region :=
  match (s.part p).prog with
  | some g => g.regions.getD r default
  | none => default

/-- A STACK region's span must lie inside the partition's stack window, a HOST region's inside its RDMA window under R534. -/
def State.regionOk (s : State) (p : Nat) (g : Region) : Bool :=
  match g.kind with
  | 1 => decide (s.reg Reg.cfgPartStackBase p ≤ g.base ∧
      g.base + g.bound ≤ s.reg Reg.cfgPartStackBase p + s.reg Reg.cfgPartStackLines p)
  | 2 => s.rdmaOk p g.win g.base (64 * g.bound)
  | _ => false

/-- The offset of an XGET or XPUT, and its faults (R278): access before bound (R307). -/
def State.xferFault (s : State) (p t : Nat) (f : XferF) (get : Bool) : Option FaultP :=
  let sp := s.spin t
  let r := f.region.toNat
  let g := s.region p r
  let n := f.n.toNat + 1
  let off := (f.off.toNat + sp.xr f.xo.toNat) % 2 ^ 32
  firstFault [s.linesFault p (sp.lop f.lop) n,
    if get ∧ g.kind = 2 then faultAccess 4 r else if s.regionOk p g then none else faultAccess 5 r,
    if g.bound < off + n then faultBound 3 r off g.bound else none]

/-- CTX.XGET (R278): N lines of a STACK region land from LOP on. -/
def execCtxXget (t : BitVec 12) (f : XferF) (s : State) : Host.Outcome State Fault Refusal :=
  instr s t (encXfer 3 f) fun s p t =>
    let sp := s.spin t
    let g := s.region p f.region.toNat
    let n := f.n.toNat + 1
    let off := (f.off.toNat + sp.xr f.xo.toNat) % 2 ^ 32
    let line := sp.lop f.lop
    { lines := (line, n)
      fault := s.xferFault p t f true
      wait := sp.ctxWait
      eff := fun s => s.request p t line (s.stackRead (64 * (g.base + off)) (64 * n))
        ((List.range n).map fun k => s.stackUnit (g.base + off + k)) }

/-- CTX.XPUT (R278): N slice lines to a STACK region, or by RDMA WRITE to a HOST region. -/
def execCtxXput (t : BitVec 12) (f : XferF) (s : State) : Host.Outcome State Fault Refusal :=
  instr s t (encXfer 4 f) fun s p t =>
    let sp := s.spin t
    let g := s.region p f.region.toNat
    let n := f.n.toNat + 1
    let off := (f.off.toNat + sp.xr f.xo.toNat) % 2 ^ 32
    let line := sp.lop f.lop
    let to' := (List.range n).map fun k => if g.kind = 1 then s.stackUnit (g.base + off + k) else engineUnit
    { lines := (line, n)
      fault := s.xferFault p t f false
      wait := if g.kind = 2 ∧ s.admits (s.portPoint (s.rdmaSlot p g.win)) p [] = false then waits 5 else s.shareWait p t to'
      eff := fun s =>
        let bs := s.readLines t line n
        let s := (s.countO (s.physOf t) 49 n).carryAll p t to'
        if g.kind = 1 then s.stackWrite (64 * (g.base + off)) bs
        else
          (s.usePort p (s.rdmaSlot p g.win) bs.length).send
            (.rdmaWrite (s.rdmaSlot p g.win) (BitVec.ofNat 64 (g.base + 64 * off)) (s.rdmaKey p g.win) bs) }

/-- The unit or tile that a request's next line comes from. -/
def LandP.next (l : LandP) : Nat := l.src.headD 0
/-- A channel of the image from a stack-channel unit carries the line: the unit spends a credit, and the landed line is the consume of
its entry, whose credit returns (R207, R651). -/
def State.landOn (s : State) (t unit : Nat) : State :=
  match s.stackChan t unit with
  | none => s
  | some (ch, _) => (s.modUnitSend (32 * t + ch) fun u => { u with credit := u.credit - 1 }).modSpin t fun sp =>
      { sp with credDue := addDue ch 1 sp.credDue }
/-- The unit holds no credit for the channel that would carry the line (R207, R275). -/
def State.landBlocked (s : State) (t unit : Nat) : Bool :=
  match s.stackChan t unit with
  | some (ch, _) => (s.unitSend (32 * t + ch)).credit == 0
  | none => false
/-- The next line of a request lands. -/
def State.land (s : State) (p t : Nat) (l : LandP) (ls : List LandP) : State :=
  let s := ((s.carry p l.next t).landOn t l.next).writeLines t l.line (l.data.take 64)
  let s := (s.countO (s.physOf t) 50 1).countO (s.physOf t) 53 1
  let rest := l.data.drop 64
  s.modSpin t fun sp => { sp with lands := if rest.isEmpty then ls else ⟨l.line + 1, rest, l.src.drop 1⟩ :: ls }

/-- CTX_LANDING (R275): the next line of the Spindle's oldest outstanding request lands in its slice, where the unit that answers has a
credit for it (R207) and every point on its way admits it (R229). -/
def execCtxLanding (t : BitVec 12) (s : State) : Host.Outcome State Fault Refusal :=
  if tileOk t.toNat then
    .next (match (s.spin t.toNat).lands, (s.spin t.toNat).part with
      | l :: ls, some p =>
        if s.landBlocked t.toNat l.next = true then s
        else match s.carryHeld p l.next t.toNat with
          | some e => s.countShareWait e
          | none => s.land p t.toNat l ls
      | _, _ => s)
  else .fault .noSuchUnit

end Sys2Proof.Machine
end

