-- ==== Sys2Proof/Machine/Integrity.lean ====
section
/-! DEFINITION. The integrity engine's rows (11_integrity_and_replay.md R418-R449): detections, immediate replays, re-runs, stand-ins,
mirrors and shadow runs, and units without a spare. -/

namespace Sys2Proof

/-- Mechanism code of a detection: its place in R418. -/
def Detection.mech : Detection → Nat
  | .warpResidue _ => 1
  | .vecResidue => 2
  | .parity _ => 3
  | .flitCrc _ _ => 4
  | .warpChecksum _ _ _ => 5
  | .weft => 6
/-- DETAIL of a suspect record (R446). -/
def Detection.detail : Detection → Nat
  | .parity line => line.toNat
  | .warpChecksum _ g p => g.toNat + 8 * p.toNat + 256 * 5
  | d => 256 * d.mech
/-- The unit that a detection names: the slice, the Interchange port or the Spindle (R446). -/
def Detection.kind : Detection → Nat
  | .parity _ => 5
  | .flitCrc _ _ => 6
  | _ => 1
/-- What must recur in an in-place re-run (R428): the SRC of a CRC error, the line of a parity error, the pass. -/
def Detection.key (d : Detection) (addr occ : Nat) : Nat :=
  match d with
  | .vecResidue => 0
  | .parity line => line.toNat
  | .flitCrc src _ => src.toNat
  | _ => addr + 4096 * occ
/-- The magnitude of a value. -/
def Num.abs (v : Num) : Num := if v.sign then v.neg else v
/-- The IXC_SEL index of a spine or lane group; the number of a stack. -/
def BareUnit.index : BareUnit → Nat
  | .spine h k => 0x3000 + (if h then 16 else 0) + k.toNat
  | .group k => 0x4000 + k.toNat
  | .phy k => k.toNat
/-- KIND of a suspect record, and the last margin step. -/
def BareUnit.kind : BareUnit → Nat
  | .spine .. => 7
  | .group _ => 8
  | .phy _ => 9
def BareUnit.lastStep : BareUnit → Nat
  | .phy _ => 3
  | _ => 4
end Sys2Proof

namespace Sys2Proof.Machine

/-! ## Detections (R418, R419) -/

/-- The hold record's pass is one that the detection can name. -/
def HoldRec.fits (r : HoldRec) (d : Detection) : Bool :=
  match r.kind, d with
  | .warp arr _ _ _ _ _ _ _, .warpResidue a => arr == a.toNat
  | .warp arr _ _ _ _ _ _ _, .warpChecksum a _ _ => arr == a.toNat
  | .weft _ _, .weft => true
  | _, _ => false

/-- A detection that leads to a re-run in place (R428): its first occurrence in the step does; a recurrence in an in-place re-run leads
to a stand-in and a suspect; in a second re-run, or one with stand-in, the step is abandoned. -/
def State.inPlace (s : State) (p t : Nat) (tr : Trigger) (kind detail : Nat) : State :=
  let q := s.part p
  if q.runKind = .standIn ∨ q.runKind = .forced ∨ 2 ≤ q.reruns then s.abandonStep p t detail
  else if q.runKind = .inPlace ∧ q.triggers.contains tr then
    (s.beginRerun p t true detail).suspect kind 2 (s.physOf t) t 0xFF p q.step detail
  else (s.beginRerun p t false detail).modPart p fun q => { q with triggers := q.triggers ++ [tr] }

/-- Replay a pass from its hold record (R421, R422): a fifth replay leads to a re-run in place, and no pass is replayed twice. -/
def State.addReplay (s : State) (p t : Nat) (r : HoldRec) (shadow : Option (List Word)) (detail : Nat) : State :=
  let sp := s.spin t
  if sp.replays.any fun x => x.addr == r.addr && x.occ == r.occ then s
  else if 4 ≤ sp.replays.length then s.inPlace p t ⟨detail / 256, t, r.addr + 4096 * r.occ⟩ 1 detail
  else s.modSpin t fun sp => { sp with replays := sp.replays ++ [⟨r.addr, r.occ, shadow, detail, false⟩] }

/-- A detection on a pass (R419): an immediate replay, or a re-run in place without a hold record. -/
def State.passDetected (s : State) (p t : Nat) (d : Detection) (r : Option HoldRec) (addr occ : Nat) : State :=
  let q := s.part p
  if q.runKind ≠ .forced ∧ (q.runKind = .standIn ∨ 2 ≤ q.reruns) then s.abandonStep p t d.detail
  else match r with
    | some h => s.addReplay p t h none d.detail
    | none => (s.bump Reg.intNoholdCnt p).inPlace p t ⟨d.mech, t, d.key addr occ⟩ 1 d.detail

/-- Slice parity (R419, R420): a line written in the step is recomputed by a re-run; any other is lost. -/
def State.parityDetected (s : State) (p t line : Nat) : State :=
  if (s.spin t).dirty.contains line then s.inPlace p t ⟨3, t, line⟩ 5 line
  else (s.raiseIn p 0x7008 (halfOf t) (le1 p ++ le2 t ++ le2 line)).abandonStep p t line

/-- INTEGRITY_DETECTION (R419): the engine takes a detection of a tile and starts its first action. In a faulted step it is counted and
its unit is made suspect (R312; log entry 26); while a re-run is prepared it is counted only (R444). -/
def execIntegrityDetection (t : BitVec 12) (d : Detection) (s : State) : Host.Outcome State Fault Refusal :=
  let t := t.toNat
  if tileOk t then
    .next (match (s.spin t).part with
      | none => s
      | some p =>
        let rep := (s.part p).detects.find? fun x => x.tile == t && x.det == d
        let sp := s.spin t
        let bare : Option (Nat × Nat) := match d with
          | .warpResidue a => (sp.bare.find? fun e => e.1 == a.toNat).map Prod.snd
          | _ => none
        let r := match rep with
          | some x => sp.hold.find? fun h => h.addr == x.addr && h.occ == x.occ
          | none => if bare.isSome then none else sp.hold.reverse.find? fun h => h.fits d
        let place : Nat × Nat := match rep with
          | some x => (x.addr, x.occ)
          | none => bare.getD ((r.map HoldRec.addr).getD sp.pc, (r.map HoldRec.occ).getD 0)
        let addr := place.1
        let occ := place.2
        let gone (x : DetRec) : Bool := x.tile == t && (match d with
          | .warpChecksum .. => x.addr == addr && x.occ == occ
          | .weft => x.addr == addr && x.occ == occ
          | _ => x.det == d)
        let s := (s.modPart p fun q => { q with detects := q.detects.filter fun x => !gone x }).setBit Reg.intStatus 0 1
        let s := match d with
          | .warpResidue _ => s.bump Reg.intResidueCnt p
          | .vecResidue => s.bump Reg.intResidueCnt p
          | .parity _ => (s.bump Reg.intParityCnt p).countO (s.physOf t) 51 1
          | _ => s
        if (s.part p).prog.isNone ∨ (s.part p).stop = .integrity then s
        else if (s.part p).stop = .fault then s.suspect d.kind 3 (s.physOf t) t 0xFF p (s.part p).step d.detail
        else match d with
          | .warpChecksum .. => s.passDetected p t d r addr occ
          | .warpResidue _ => s.passDetected p t d r addr occ
          | .weft => s.passDetected p t d r addr occ
          | .parity line => s.parityDetected p t line.toNat
          | .flitCrc .. => s.inPlace p t ⟨4, t, d.key 0 0⟩ 6 d.detail
          | .vecResidue => s.inPlace p t ⟨2, t, 0⟩ 1 d.detail)
  else .fault .noSuchUnit

/-! ## Comparison (R425-R427) -/

/-- The pass LSB of a column (R425). -/
def passLsb (a : WarpArr) (k gs j : Nat) : Num :=
  (fBF16.decode (SMap.get 0 a.colScale j).toNat).scale ((k : Int) + gs - 127)
/-- The form factor F (R426). -/
def formFactor (form k ko : Nat) : Num :=
  match form with
  | 0 => Num.ofInt 1 0
  | 1 => (Num.ofInt 1 0).add (Num.ofInt 16 ((ko : Int) - k))
  | _ => Num.ofInt 17 0
/-- One column within its bound; equal results and two NaN agree, NaN and a number do not. -/
def columnAgrees (y y' : Word) (diff bound : Num) : Bool :=
  if y = y' then true
  else match ofFP32 y, ofFP32 y' with
    | .nan, .nan => true
    | .nan, _ => false
    | _, .nan => false
    | _, _ => !bound.abs.lt diff.abs
/-- Compare two Warp results (R426): on the same array under SAME, else under CROSS. -/
def warpAgrees (a : WarpArr) (same : Bool) (tol form k ko gs band : Nat) (ys ys' : List Word) : Bool :=
  (List.range 512).all fun j =>
    let y := ys.getD j 0
    let y' := ys'.getD j 0
    let lsb := (passLsb a k gs j).mul (formFactor form k ko)
    if same then
      let gain := Num.ofInt (8 * 98304 + (a.col j).gainN.at8 band) (-20)
      columnAgrees y y' ((ofFP32 y).add (ofFP32 y').neg) ((lsb.mul gain).mul (Num.ofInt (15 * tol) 0))
    else columnAgrees y y' (ofFP32 (fpSub y y')) (lsb.mul (Num.ofInt tol 0))

/-- INT_TOL in force for a partition. -/
def State.tolSame (s : State) (p : Nat) : Nat := bits (s.liveReg p Reg.intTol) 3 0
def State.tolCross (s : State) (p : Nat) : Nat := bits (s.liveReg p Reg.intTol) 15 8

/-- What running a held pass again gives: its results, whether it raised a detection, and whether it ran as the original did. -/
structure Again where
  results : List Word
  bad : Bool
  same : Bool

/-- Run a held Warp pass of tile `t` again on an array of a physical tile (R103, R421, R435): it counts there as every pass does. -/
def State.warpAgain (s : State) (p t phys idx : Nat) (r : HoldRec) (an : WarpAnalog) (key0 cap epoch band0 : Nat) : Again × State :=
  let key := arrKey phys idx
  let a := s.warp key
  let band := (s.dist (districtOf phys)).band
  let tol := max 1 (bits (s.liveReg p Reg.wrpCsumTol) 7 0)
  let o := warpRun a an (s.warpBase key band r.gscale r.operand) band tol cap r.gscale (s.reg Reg.wrpPassCnt key) r.operand
  let same := key == key0 && band == band0 && s.fld Reg.wrpCalEpoch key 15 0 == epoch
  let tag := wf (SMap.get 0 (s.spin t).words r.addr) 24 17
  let s := s.warpRan p t phys idx tag o
  let s := if o.bad.isEmpty then s else (s.bump Reg.wrpCsumErrCnt key o.bad.length).setBit Reg.wrpStatus 0 1
  (⟨o.results, !o.bad.isEmpty, same⟩, s)

/-- Replay a hold record on the array that serves its index now (R120, R421). -/
def State.runAgain (s : State) (p t : Nat) (r : HoldRec) (an : WarpAnalog) (wn : WeftAnalog) : Again × State :=
  let phys := s.physOf t
  match r.kind with
  | .warp arr key _ _ cap epoch band _ => s.warpAgain p t phys (s.servingIdx phys arr) r an key cap epoch band
  | .weft slot up =>
    let j := (s.bump Reg.wftPassCnt phys).weftRan phys slot up r.gscale r.operand wn
    (⟨j.1.results, j.1.bad, true⟩, j.2)

/-- Two results of a held pass agree, under the tolerance that applies (R425-R427). -/
def State.agrees (s : State) (p : Nat) (r : HoldRec) (same : Bool) (ys ys' : List Word) : Bool :=
  match r.kind with
  | .warp _ key k ko cap _ band _ =>
    warpAgrees (s.warp key) same (if same then s.tolSame p else s.tolCross p) (passForm (outlierRows r.operand) cap) k ko r.gscale band ys ys'
  | .weft _ _ => ys == ys'

/-! ## Immediate replay (R421-R424) -/

/-- The hold record of a replay. -/
def Spindle.heldOf (sp : Spindle) (x : ReplayP) : Option HoldRec := sp.hold.find? fun h => h.addr == x.addr && h.occ == x.occ
/-- The array that a held pass ran on, as a unit of its Spindle, and the Turns of a replay of the pass: the full length of its form
(R252, R421). -/
def HoldRec.unit (r : HoldRec) : SpUnit := match r.kind with
  | .warp arr _ _ _ _ _ _ _ => .warp arr
  | .weft _ _ => .weft
def HoldRec.len (r : HoldRec) : Nat := match r.kind with
  | .warp _ _ _ _ cap _ _ _ => match passForm (outlierRows r.operand) cap with
    | 0 => 64
    | 1 => 96
    | _ => 128
  | .weft _ _ => 48
/-- The Weft slot that a held pass selected. -/
def HoldRec.slotIn (r : HoldRec) : Option Bool := match r.kind with
  | .warp _ _ _ _ _ _ _ _ => none
  | .weft slot _ => slot
/-- The array of a held pass is free for a replay: no pass has reached its Turn 0 on it (R421); a Weft array is ONLINE and its slot not
in RESTORE (R145). -/
def State.replayFree (s : State) (t : Nat) (r : HoldRec) : Bool :=
  let sp := s.spin t
  !sp.holdsNow (· == r.unit) && (match r.kind with
  | .warp arr _ _ _ _ _ _ _ => !sp.passes.any (fun q => q.arr == arr) || sp.holds.any fun h => h.unit == .warp arr
  | .weft slot _ =>
    let w := s.weft (s.physOf t)
    w.st == 0 && (match slot with
      | some k => (w.slot k).st != .restore
      | none => true))
/-- A replay takes its array, ahead of a pass that has not reached its Turn 0 there (R421). -/
def Spindle.takeArray (sp : Spindle) (u : SpUnit) (len : Nat) : Spindle :=
  { sp with holds := ⟨u, 0, len⟩ :: sp.holds.map fun h => if h.unit = u then { h with wait := max h.wait len } else h }

/-- REPLAY_START (R421, R422): the next replay in hold-record order starts, once its array is free. It occupies one issue slot (R49; log
entry 110). Before a Weft replay the slot's rows are read: a parity error sends the slot to RESTORE, and the replay follows (R145). -/
def execReplayStart (r : ReplayBegin) (s : State) : Host.Outcome State Fault Refusal :=
  let t := r.t.toNat
  if tileOk t then
    .next (match (s.spin t).part with
      | none => s
      | some p =>
        let sp := s.spin t
        if sp.replays.any ReplayP.running then s
        else match sp.hold.find? fun h => sp.replays.any fun x => x.addr == h.addr && x.occ == h.occ with
          | none => s
          | some h =>
            if !s.replayFree t h then s
            else if r.parityBad && h.slotIn.isSome then s.toRestore (s.physOf t) (h.slotIn.getD false)
            else
              let s := ((s.bump Reg.intReplayCnt p).countO (s.physOf t) 60 1).wasteSlot p t
              s.modSpin t fun sp => { (sp.takeArray h.unit h.len) with
                replays := listUpdate (fun x => x.addr == h.addr && x.occ == h.occ) (fun x => { x with running := true }) sp.replays })
  else .fault .noSuchUnit

/-- Take the running replay out; its array is free. -/
def Spindle.dropReplay (sp : Spindle) : Spindle :=
  let ran := sp.replays.filter ReplayP.running
  { sp with replays := sp.replays.filter fun x => !x.running
            holds := ran.foldl (fun hs x => match sp.heldOf x with
              | some h => dropHold h.unit hs
              | none => hs) sp.holds }

/-- REPLAY_DECIDE (R423): the replay's result is compared. `clean`: the replay raised no other detection. -/
def execReplayDecide (t : BitVec 12) (clean : Bool) (a : WarpAnalog) (w : WeftAnalog) (s : State) : Host.Outcome State Fault Refusal :=
  let t := t.toNat
  if tileOk t then
    .next (match (s.spin t).part, (s.spin t).replays.find? fun x => x.running && x.shadow.isNone with
      | some p, some x =>
        match (s.spin t).heldOf x with
        | none => s.modSpin t Spindle.dropReplay
        | some h =>
          let r := s.runAgain p t h a w
          let s := r.2.modSpin t Spindle.dropReplay
          if clean = true ∧ r.1.bad = false ∧ s.agrees p h r.1.same h.orig r.1.results = true then s.bump Reg.intReplayAgreeCnt p
          else s.replayDisagree p t h.arr (x.detail / 256) x.detail
      | _, _ => s)
  else .fault .noSuchUnit

/-! ## Shadow runs (R435-R439) -/

/-- SHADOW_PASS (R435, R437): the next pass of the sampled step runs on the mirror and is compared under CROSS. -/
def execShadowPass (t : BitVec 12) (a : WarpAnalog) (s : State) : Host.Outcome State Fault Refusal :=
  let t := t.toNat
  if tileOk t then
    .next (match (s.spin t).part with
      | none => s
      | some p =>
        match (s.part p).shadowDue.find? fun e => e.1 == t with
        | none => s
        | some e =>
          let s := s.modPart p fun q => { q with shadowDue := q.shadowDue.erase e }
          let row := s.row (rowOf t)
          match (s.spin t).hold.find? fun h => h.addr == e.2.1 && h.occ == e.2.2 with
          | none => s
          | some h =>
            match h.kind with
            | .weft _ _ => s
            | .warp arr key _ _ cap epoch band _ =>
              if row.ready = false ∨ row.mirror ≠ some (t % 32) ∨ row.standIn.isSome then s
              else
                let r := s.warpAgain p t (32 * rowOf t + 24) arr h a key cap epoch band
                let s := r.2.bump Reg.intShadowCnt p
                if s.agrees p h false h.orig r.1.results then
                  s.modWarp key fun x => { x with mark := x.mark.bind fun n => if n + 1 = 8 then none else some (n + 1) }
                else
                  let s := (s.bump Reg.intDisputeCnt p).setBit Reg.intStatus 0 5
                  let s := s.modWarp key fun x => { x with mark := x.mark.map fun _ => 0 }
                  s.addReplay p t h (some r.1.results) 0)
  else .fault .noSuchUnit

/-- Case (b) of a dispute (R438, R439): both arrays are calibrated, the original is marked, and a repetition makes a suspect. -/
def State.disputeB (s : State) (p t key : Nat) : State :=
  let phys := key / 16
  let idx := key % 16
  let slot := t % 32
  let spare := 32 * rowOf t + 24
  let mk := arrKey spare idx
  let marked := (s.warp key).mark.isSome
  let before := (s.warp mk).disputes.any fun x => x != slot
  let step := (s.part p).step
  let s := (s.svcRequest phys idx 1).svcRequest spare idx 1
  let s := (s.modWarp key fun x => { x with mark := some 0 }).modWarp mk fun x => { x with disputes := x.disputes ++ [slot] }
  let s := s.beginRerun p t true 0 true
  if before then s.suspect 2 10 spare t idx p step 0
  else if marked then s.suspect 2 10 phys t idx p step 0
  else s

/-- SHADOW_DISPUTE (R438): the replay on the original array decides the dispute. -/
def execShadowDispute (t : BitVec 12) (clean : Bool) (a : WarpAnalog) (s : State) : Host.Outcome State Fault Refusal :=
  let t := t.toNat
  if tileOk t then
    .next (match (s.spin t).part, (s.spin t).replays.find? fun x => x.running && x.shadow.isSome with
      | some p, some x =>
        match (s.spin t).heldOf x with
        | none => s.modSpin t Spindle.dropReplay
        | some h =>
          let r := s.runAgain p t h a default
          let s := r.2.modSpin t Spindle.dropReplay
          let case (n : Nat) (s : State) : State := s.raiseIn p 0x7004 (halfOf t) (le1 p ++ le2 t ++ le1 n)
          let key := match h.kind with
            | .warp _ key _ _ _ _ _ _ => key
            | .weft _ _ => 0
          if clean = false ∨ r.1.bad = true then (case 3 s).replayDisagree p t h.arr (x.detail / 256) x.detail
          else if s.agrees p h false (x.shadow.getD []) r.1.results then (case 1 s).beginRerun p t false 0
          else if s.agrees p h true h.orig r.1.results then (case 2 s).disputeB p t key
          else (case 3 s).replayDisagree p t h.arr (x.detail / 256) x.detail
      | _, _ => s)
  else .fault .noSuchUnit

/-- The image of a slot's array that a verify read gives: of an array with a record, checked against its ADIG; on a mismatch the golden
image, or none, and its shard is requested (R431). -/
def State.copyImage (s : State) (src i : Nat) (c : CopyCheck) : Option Bytes × State :=
  let a := s.warp (arrKey src i)
  if a.valid.isNone ∨ (c.verifyOk = true ∧ adigOf a.image = a.adig) then (some a.image, s)
  else match s.targetOf src i with
    | none => (none, s)
    | some t => if s.stacked ∧ s.goldGood t then ((s.gold t).map Gold.image, s) else (none, s.requestFix t)
/-- Write one image into the spare tile's array of the same index: refused by a worn array, FAILED where a cell misses its window (R110,
R113). Whether the array holds it. -/
def State.copyWrite (s : State) (src spare i : Nat) (img : Bytes) (ok : Bool) : Bool × State :=
  let a := s.warp (arrKey src i)
  let k := arrKey spare i
  if s.worn spare i then (false, s.wornOut spare i)
  else
    let s := s.countWrite spare i
    if ok then (true, s.modWarp k fun x => { x.load img with record := a.record, code := if a.valid.isSome then 1 else 0 })
    else (false, (s.modWarp k fun x => { x with record := none }).failArray spare i)
/-- Load a spare tile's arrays 0 to 7 with a slot's images (R431 orders 1 and 2, R436). Whether every array holds its image. -/
def State.copyImages (s : State) (src spare : Nat) (cs : List CopyCheck) : Bool × State :=
  (List.range 8).foldl (fun r i =>
    let c := cs.getD i ⟨true, true⟩
    match r.2.copyImage src i c with
    | (some img, s) => let w := s.copyWrite src spare i img c.writeOk; (r.1 && w.1, w.2)
    | (none, s) => (false, s)) (true, s)

/-- The next owned slot of a row after `k`, in the order s0 to s23 (R436). -/
def State.nextMirror (s : State) (row : Nat) (k : Option Nat) : Option Nat :=
  let first := match k with
    | some k => k + 1
    | none => 0
  ((List.range 24).map fun i => (first + i) % 24).find? fun i => (s.ownerOf (32 * row + i)).isSome

/-- MIRROR_ADVANCE (R436): the row's mirror moves to the next owned slot and is loaded; a mirror that is not whole takes no part in shadow
runs. -/
def execMirrorAdvance (half : Bool) (c : MirrorCopy) (s : State) : Host.Outcome State Fault Refusal :=
  let r := (if half then 64 else 0) + c.row.toNat
  .next (if s.hasSpare r = false ∨ (s.row r).standIn.isSome then s
    else match s.nextMirror r (s.row r).mirror with
      | none => s.modRow r fun x => { x with mirror := none, ready := false }
      | some k =>
        let spare := 32 * r + 24
        let wraps := match (s.row r).mirror with
          | some j => decide (k ≤ j)
          | none => false
        let s := if wraps then
            (List.range 8).foldl (fun s i => s.modWarp (arrKey spare i) fun x => { x with disputes := [] }) s
          else s
        let u := s.copyImages (s.sparedTile (32 * r + k)) spare c.cs
        u.2.modRow r fun x => { x with mirror := some k, ready := u.1 })

/-! ## Re-runs (R428-R432) -/

/-- A Spindle restores its snapshot (R430 order 3); one that has not retired the step's SYNC.STEP waits there still. -/
def Spindle.restore (sp : Spindle) : Spindle :=
  let sp := { sp.stopped with
    hold := [], dirty := [], waited := [], holds := [], uses := [], lineUses := [], minSeen := [], bare := []
    send := sp.send.map fun (e : Nat × SendCh) => (e.1, { e.2 with credit := e.2.depth })
    recv := sp.recv.map fun (e : Nat × RecvCh) => (e.1, { e.2 with entries := [], heldCnt := 0 }) }
  if sp.sync.stepGo then sp
  else { sp with
    x := sp.snap.x.zipIdx.foldl (fun (m : SMap Word) (e : Word × Nat) => SMap.set 0 m e.2 e.1) [], occ := sp.snap.occ, pc := sp.snap.pc, turn := sp.snap.turn
    frames := sp.snap.frames, squash := sp.snap.squash, sync := ⟨false, false, 0⟩ }

/-- The I/O-ring units' channels towards a tile start the step again: nothing queued, every credit (R430 order 3). -/
def State.resetUnits (s : State) (ts : List Nat) : State :=
  let mine := s.serve.unitCh.filter fun e => ts.contains (e.1 / 32)
  let s := (mine.flatMap fun e => e.2.queue.filterMap Prod.snd).foldl State.freeIngress s
  mine.foldl (fun s e => s.modUnitSend e.1 fun u => { u with queue := [], credit := u.depth }) s

/-- Orders 3 to 5 of a re-run (R430): the snapshots are restored, the intake is sent again, and the Spindles resume. -/
def State.resume (s : State) (p : Nat) (r : Rerun) : State :=
  let ts := s.partTiles p
  let step := (s.part p).step
  let with' := r.standIn.isSome
  let s := (s.bump Reg.intRerunCnt p).setBit Reg.intStatus 0 2
  let s := if with' then s.bump Reg.intStandinCnt p else s
  let s := s.raiseIn p 0x7002 (halfOf r.tile) (le1 p ++ le2 r.tile ++ le6 step ++ le1 (if with' then 1 else 0))
  let s := ts.foldl (fun s t => (s.modSpin t Spindle.restore).countO (s.physOf t) 63 1) s
  let s := { s with flits := s.flits.filter fun f => !flitTo ts f }
  let s := (s.resetUnits ts).modServPart p fun q => { q with records := [] }
  let kind : RunKind := if with' then .standIn else if r.forced then .forced else .inPlace
  let s := s.modPart p fun q => { q with
    stop := .run, rerun := none, late := [], runKind := kind, egress := [], shadowDue := [], detects := [] }
  (s.setReg Reg.trnWdg p 0).sendIntake p

/-- RERUN_DRAINED (R430): every Spindle has stopped and every unit has finished; an in-place re-run resumes, and one with stand-in is
prepared. -/
def execRerunDrained (p : BitVec 4) (s : State) : Host.Outcome State Fault Refusal :=
  let p := p.toNat
  .next (match (s.part p).rerun with
    | none => s
    | some r =>
      if r.drained then s
      else if r.standIn.isNone then s.resume p r
      else
        let s := (s.partTiles p).foldl (fun s t => s.modSpin t Spindle.stopped) s
        s.modPart p fun q => { q with late := [], rerun := some { r with drained := true } })

/-- Prepare the spare tile from tile `t` (R431): images, Weft slots, the stand-in entry. Whether it is ready. -/
def State.prepareStandIn (s : State) (t : Nat) (cs : List CopyCheck) : Bool × State :=
  let r := rowOf t
  let spare := 32 * r + 24
  let src := s.physOf t
  let held := (s.row r).mirror == some (t % 32) && (s.row r).ready
  let c := if held then (true, s) else s.copyImages src spare cs
  if c.1 then
    let s := c.2
    let w := s.weft src
    let s := s.modWeft spare fun x => { x with slot0 := w.slot0, slot1 := w.slot1 }
    (true, s.modRow r fun x => { x with standIn := some (t % 32), mirror := none, ready := false })
  else (false, c.2.modRow r fun x => { x with mirror := none, ready := false })

/-- STANDIN_READY (R431): preparation is complete, and the re-run resumes with the stand-in. Where an image waits for its shard, the
partition stays stopped; where the spare tile has become suspect, the re-run runs in place (R429). -/
def execStandinReady (c : StandInCopy) (s : State) : Host.Outcome State Fault Refusal :=
  let p := c.part.toNat
  .next (match (s.part p).rerun with
    | some r =>
      match r.drained, r.standIn with
      | true, some t =>
        let u := s.prepareStandIn t c.cs
        if u.1 = false then if u.2.hasSpare (rowOf t) then u.2 else u.2.resume p { r with standIn := none, forced := true }
        else
        let s := u.2.resume p r
        if r.stepOnly then s.modPart p fun q => { q with stepStandIns := q.stepStandIns ++ [t] } else s
      | _, _ => s
    | none => s)

/-! ## Units without a spare (R221, R226, R448, R449) -/

/-- The unit is on the module. -/
def bareFitted (v : Variant) : BareUnit → Bool
  | .phy k => stackFitted v k.toNat
  | _ => true

/-- Retries or errors of a unit that its limit allows within 2^20 slots; 0 acts as 1 (R221, R226, R241, R448). -/
def State.bareLimit (s : State) (u : BareUnit) : Nat :=
  max 1 (match u with
    | .spine .. => s.fld Reg.ixcRetryLimit 0 7 0
    | .group _ => s.fld Reg.ixcRetryLimit 0 15 8
    | .phy _ => s.fld Reg.intPhyLimit 0 7 0)
/-- The unit has exceeded its limit within the last 2^20 slots, counted as nanoseconds (log entry 107). -/
def State.exceeds (s : State) (u : BareUnit) : Bool :=
  decide (s.bareLimit u < ((s.bareUnit u.index).errs.filter fun e => decide (s.now < e.toNat + 2 ^ 20)).length)
/-- The unit exceeds its limit (R449): its next margin step, which takes effect at a window boundary (R60), or suspect after the last. -/
def State.takeMargin (s : State) (u : BareUnit) : State :=
  let n := u.index
  let x := s.bareUnit n
  let m := x.margin + x.pend
  let s := s.modBare n fun x => { x with errs := [] }
  if m < u.lastStep then
    (s.modBare n fun x => { x with pend := x.pend + 1, overLimit := true }).raise 0x7006 (le2 n ++ le1 (m + 1))
  else
    (s.modBare n fun x => { x with overLimit := false, suspect := true }).suspect u.kind 11 n 0xFFFF 0xFF 0xFF 0
      (min m 3 + if 4 ≤ m then 4 else 0)

/-- IXC_RETRY_LIMIT (R221, R226): a spine or a lane group exceeds its limit and starts the margin-raise path. -/
def execIxcRetryLimit (u : BareUnit) (s : State) : Host.Outcome State Fault Refusal :=
  if bareFitted s.variant u then
    .next (match u with
      | .phy _ => s
      | _ =>
        let x := s.bareUnit u.index
        if x.overLimit = true ∨ x.suspect = true ∨ s.exceeds u = false then s
        else ((s.setBit Reg.ixcStatus 0 1).raise 0x0001 (le2 u.index)).takeMargin u)
  else .fault .noSuchUnit

/-- MARGIN_RAISE_OBSERVED (R449): the 2^20 slots of a margin step in effect have been observed. -/
def execMarginRaiseObserved (u : BareUnit) (exceeded : Bool) (s : State) : Host.Outcome State Fault Refusal :=
  if bareFitted s.variant u then
    .next (if (s.bareUnit u.index).overLimit = false ∨ (s.bareUnit u.index).pend ≠ 0 ∨ exceeded ≠ s.exceeds u then s
      else if exceeded then s.takeMargin u
      else s.modBare u.index fun x => { x with overLimit := false })
  else .fault .noSuchUnit

/-- STACK_PHY_PARITY_ERROR (R448): the access is retried and the error counted; above INT_PHY_LIMIT within 2^20 slots the margin-raise
path starts. -/
def execStackPhyParityError (stack : BitVec 2) (s : State) : Host.Outcome State Fault Refusal :=
  let u : BareUnit := .phy stack
  if bareFitted s.variant u then
    .next (let n := u.index
      let s := s.modBare n fun x => { x with errs := (x.errs.filter fun e => decide (s.now < e.toNat + 2 ^ 20)) ++ [s.time.cnt] }
      let x := s.bareUnit n
      if s.exceeds u = true ∧ x.overLimit = false ∧ x.suspect = false then s.takeMargin u else s)
  else .fault .noSuchUnit

end Sys2Proof.Machine
end

