-- ==== Sys2Proof/Machine/Mov.lean ====
section
/-! DEFINITION. MOV and TOK instructions, and flits in flight: delivery, credits, retries and foreign drops (R204-R220, R225,
R267-R272). -/

namespace Sys2Proof.Machine

/-! ## Sends (R268, R442) -/

/-- Flits or tokens of a MOV or TOK word. -/
def movN (f : MovF) : Nat := f.n.toNat + 1
/-- Registers of a MOV word. -/
def movCnt (f : MovF) : Nat := f.cnt.toNat + 1

/-- A send's channel must have a descriptor and a destination that the partition owns (R220, R268). -/
def State.sendFault (s : State) (p t ch : Nat) : Option FaultP :=
  let c := (s.spin t).sendCh ch
  if c.valid = false then faultAccess 3 ch
  else if !isUnit c.dest && s.ownerOf c.dest != some p then faultAccess 2 c.dest
  else none

/-- The arbitration points between tile `t` and the unit or tile of a send channel. -/
def sendPoints (t : Nat) (c : SendCh) : List (Nat × Nat) := routePoints t c.dest (route t c.dest c.spine)
/-- A send to an I/O-die unit waits for share admission on its way (R229, R231). -/
def State.sendHeld (s : State) (p t : Nat) (c : SendCh) : Bool := isIoUnit c.dest && (s.heldAt p (sendPoints t c)).isSome
/-- Flits that a send may put out now: limited by its credits and, towards an I/O-die unit, by share admission and by the egress
hold (R48, R229, R442). -/
def State.sendRoom (s : State) (p t ch : Nat) : Nat :=
  let c := (s.spin t).sendCh ch
  if isIoUnit c.dest then
    if s.sendHeld p t c then 0 else min c.credit (s.egressSize p (dieOf c.dest) - s.egressUse p (dieOf c.dest))
  else c.credit

/-- Send one flit on a channel: one credit, PART, DEST, CHAN and SRC from the descriptor (R268). -/
def State.sendFlit (s : State) (p t ch kind fmt tag : Nat) (payload : Bytes) : State :=
  let c := (s.spin t).sendCh ch
  let s := s.modSpin t fun sp => { sp with send := SMap.set SendCh.init sp.send ch { c with credit := c.credit - 1 } }
  let f := mkFlit p c.dest c.chan kind fmt tag t payload
  if isIoUnit c.dest then s.holdEgress p f c.spine else s.launch f c.spine

/-- Send flits of a list, one after the other. -/
def State.sendAll (s : State) (p t ch kind fmt tag : Nat) (ps : List Bytes) : State :=
  ps.foldl (fun s b => s.sendFlit p t ch kind fmt tag b) s

/-- A send of the payloads `ps` (R268): as many flits as credits and egress space allow go now, and the rest waits. -/
def State.sendIssue (s : State) (p t : Nat) (f : MovF) (kind fmt : Nat) (ps : List Bytes) (i : Issue) : Issue :=
  let ch := f.ch.toNat
  let sp := s.spin t
  let left := ps.drop sp.done
  let k := min left.length (s.sendRoom p t ch)
  let c := sp.sendCh ch
  let code := if s.sendHeld p t c then 5 else if k < c.credit then 10 else 2
  let part (s : State) : State :=
    (s.sendAll p t ch kind fmt f.tag.toNat (left.take k)).modSpin t fun sp => { sp with done := sp.done + k }
  { i with
    wait := if k < left.length then some (⟨code, if code = 10 then none else some ch, false⟩, part) else none
    eff := fun s => i.eff (s.sendAll p t ch kind fmt f.tag.toNat left) }

/-- MOV.SEND (R268): N lines from LOP. -/
def execMovSend (t : BitVec 12) (f : MovF) (s : State) : Host.Outcome State Fault Refusal :=
  instr s t (encMov 4 0 f) fun s p t =>
    let line := (s.spin t).lop f.lop
    let n := movN f
    s.sendIssue p t f 0 f.fmt.toNat ((List.range n).map fun k => s.readLines t (line + k) 1)
      { lines := (line, n)
        fault := firstFault [s.linesFault p line n, s.sendFault p t f.ch.toNat]
        eff := fun s => s.countO (s.physOf t) 49 n }

/-- The bytes of consecutive registers in their tag's format (R268). -/
def Spindle.vecBytes (sp : Spindle) (first n fmt : Nat) : Bytes :=
  (sp.lanesOf first n).flatMap fun w => if fmt = 5 then natLe (w.toNat / 65536) 2 else natLe w.toNat 4

/-- MOV.SENDV (R268): registers in their tag's format, FP32 or BF16. -/
def execMovSendv (t : BitVec 12) (f : MovF) (s : State) : Host.Outcome State Fault Refusal :=
  instr s t (encMov 4 1 f) fun s p t =>
    let sp := s.spin t
    let v := f.vreg.toNat
    let c := movCnt f
    let fmt := f.fmt.toNat
    let bs := sp.vecBytes v c fmt
    s.sendIssue p t f 0 fmt ((List.range (movN f)).map fun k => padTo 64 (bs.drop (64 * k)))
      { reads := [(v, c)]
        fault := firstFault [rangeFault v c, if fmt = 5 ∨ fmt = 6 then sp.tagFault v c fmt 1 else faultFormat 6 fmt 1,
          s.sendFault p t f.ch.toNat]
        eff := id }

/-- TOK.POST (R272): N TOKEN flits without payload. -/
def execTokPost (t : BitVec 12) (f : MovF) (s : State) : Host.Outcome State Fault Refusal :=
  instr s t (encMov 5 0 f) fun s p t =>
    s.sendIssue p t f 1 0 (List.replicate (movN f) []) { fault := s.sendFault p t f.ch.toNat, eff := id }

/-! ## Receives (R269-R272) -/

/-- A receive's channel must have a descriptor (R269); a held channel must have room for the entries named (R271). -/
def Spindle.recvFault (sp : Spindle) (ch n : Nat) : Option FaultP :=
  let c := sp.recvCh ch
  if c.valid = false then faultAccess 3 ch
  else if c.held = true ∧ c.depth - c.heldCnt < n then
    some (0x1003, ch + n * 2 ^ 8 + c.heldCnt * 2 ^ 16 + c.depth * 2 ^ 20 + 2 ^ 24)
  else none

/-- The test of one consumed flit for KIND and TAG, then for the format of a DATA flit (R269). -/
def flitFault (ch kind tag fmt : Nat) (f : Flit) : Option FaultP :=
  if f.kind ≠ kind ∨ f.tag ≠ tag then
    some (0x1002, ch + tag * 2 ^ 8 + f.tag * 2 ^ 16 + kind * 2 ^ 24 + f.kind * 2 ^ 27 + f.src * 2 ^ 32)
  else if kind = 0 ∧ f.fmt ≠ fmt then faultFormat fmt f.fmt 4
  else none

/-- Deliver the elements of a finished vector receive to its registers (R270): written, or added in ascending order. -/
def Spindle.landVector (sp : Spindle) (v cnt fmt : Nat) (add : Bool) (bs : Bytes) : Spindle :=
  (List.range cnt).foldl (fun sp r =>
    let new := (List.range 128).map fun j => toFP32 (vecValue fmt bs (128 * r + j))
    let old := (sp.vr (v + r)).all
    sp.setV (v + r) (mkVReg 6 (if add then List.zipWith fpAdd old new else new))) sp

/-- Replace the receive at position `k`, or remove it when nothing is left. -/
def putRecv (k : Nat) (r : RecvP) (l : List RecvP) : List RecvP := if r.left = 0 then l.eraseIdx k else l.set k r

/-- One flit into the receive at position `k` of the tile's list. -/
def State.takeFlit (s : State) (p t k : Nat) (r : RecvP) (f : Flit) : State :=
  let s := s.consume t r.ch 1
  match r.dest with
  | .lines line =>
    let s := (s.countO (s.physOf t) 50 1).writeLines t line f.payload
    s.modSpin t fun sp => { sp with recvs := putRecv k { r with left := r.left - 1, dest := .lines (line + 1) } sp.recvs }
  | .regs v c add got =>
    let got := got ++ f.payload
    let s := s.modSpin t fun sp =>
      { sp with recvs := putRecv k { r with left := r.left - 1, dest := .regs v c add got } sp.recvs }
    if r.left = 1 then
      s.modSpin t fun sp => { (sp.landVector v c r.fmt add got) with uses := sp.uses ++ [⟨v, c, 1, true⟩] }
    else s

/-- The first receive, in issue order, whose channel holds an entry and on whose channel no earlier receive waits. -/
def readyRecv (sp : Spindle) : List Nat → Nat → List RecvP → Option (Nat × RecvP × Flit)
  | _, _, [] => none
  | seen, k, r :: l =>
    match (sp.recvCh r.ch).ready with
    | f :: _ => if seen.contains r.ch then readyRecv sp (r.ch :: seen) (k + 1) l else some (k, r, f)
    | [] => readyRecv sp (r.ch :: seen) (k + 1) l

/-- Let waiting receives consume the entries that have arrived, in order, up to `fuel` flits; a flit that fails its test is a
fault of the receive's instruction and is not written. -/
def State.pumpRecv (s : State) (p t : Nat) : Nat → State
  | 0 => s
  | fuel + 1 =>
    match readyRecv (s.spin t) [] 0 (s.spin t).recvs with
    | none => s
    | some (k, r, f) =>
      match flitFault r.ch 0 r.tag r.fmt f with
      | some e => s.takeFaultAt p t r.site e
      | none => (s.takeFlit p t k r f).pumpRecv p t fuel

/-- Entries in a tile's channel buffer pool, at most 256 (R205). -/
def poolSize : Nat := 256

/-- Start a receive: what has arrived is consumed at once, and the rest as it arrives. -/
def State.startRecv (s : State) (t cls : Nat) (f : MovF) (dest : RecvTo) : State :=
  let sp := s.spin t
  let r : RecvP := ⟨⟨sp.pc, cls, sp.turn, SMap.get 0 sp.occ sp.pc⟩, f.ch.toNat, f.tag.toNat, f.fmt.toNat, movN f, dest⟩
  s.modSpin t fun sp => { sp with recvs := sp.recvs ++ [r] }

/-- The entries of a channel that a receive may consume now: none while an earlier receive on the channel waits (R204). -/
def Spindle.hereOn (sp : Spindle) (ch : Nat) : List Flit := if sp.recvs.any fun r => r.ch == ch then [] else (sp.recvCh ch).ready
/-- A MOV receive issues once its first flit has arrived; the others land as they arrive (R47 condition 1, R239, R252; log entry 16). -/
def Spindle.recvWait (sp : Spindle) (ch : Nat) : Option (SpWait × (State → State)) :=
  if (sp.hereOn ch).isEmpty then waits 1 (some ch) else none
/-- The test of the first flit, for a receive that finds it. -/
def Spindle.headFault (sp : Spindle) (ch tag fmt : Nat) : Option FaultP := (sp.hereOn ch).head?.bind (flitFault ch 0 tag fmt)

/-- MOV.RECV (R269): N flits to N consecutive lines. -/
def execMovRecv (t : BitVec 12) (f : MovF) (s : State) : Host.Outcome State Fault Refusal :=
  instr s t (encMov 4 2 f) fun s p t =>
    let sp := s.spin t
    let line := sp.lop f.lop
    let ch := f.ch.toNat
    { lines := (line, movN f)
      fault := firstFault [s.linesFault p line (movN f), sp.recvFault ch (movN f), sp.headFault ch f.tag.toNat f.fmt.toNat]
      wait := sp.recvWait ch
      eff := fun s => s.startRecv t 4 f (.lines line)
      post := fun s => s.pumpRecv p t poolSize }

/-- MOV.RECVV (3) and MOV.RECVA (4): one vector of 128 × CNT elements into registers (R270). -/
def recvVector (t : BitVec 12) (op : Nat) (f : MovF) (s : State) : Host.Outcome State Fault Refusal :=
  instr s t (encMov 4 op f) fun s p t =>
    let sp := s.spin t
    let v := f.vreg.toNat
    let c := movCnt f
    let ch := f.ch.toNat
    { reads := if op = 4 then [(v, c)] else []
      writes := [(v, c)]
      fault := firstFault [rangeFault v c, if 1 ≤ f.fmt.toNat ∧ f.fmt.toNat ≤ 6 then none else faultFormat 6 f.fmt.toNat 4,
        if op = 4 then sp.tagFault v c 6 0 else none, sp.recvFault ch (movN f), sp.headFault ch f.tag.toNat f.fmt.toNat]
      wait := sp.recvWait ch
      eff := fun s => s.startRecv t 4 f (.regs v c (op == 4) [])
      post := fun s => s.pumpRecv p t poolSize }

/-- MOV.RECVV. -/
def execMovRecvv (t : BitVec 12) (f : MovF) (s : State) : Host.Outcome State Fault Refusal := recvVector t 3 f s
/-- MOV.RECVA. -/
def execMovRecva (t : BitVec 12) (f : MovF) (s : State) : Host.Outcome State Fault Refusal := recvVector t 4 f s

/-- TOK.WAIT (R272): consumes N tokens; it waits for those that have not come. -/
def execTokWait (t : BitVec 12) (f : MovF) (s : State) : Host.Outcome State Fault Refusal :=
  instr s t (encMov 5 1 f) fun s _ t =>
    let sp := s.spin t
    let ch := f.ch.toNat
    let left := movN f - sp.done
    let here := (sp.hereOn ch).take left
    let k := here.length
    { fault := firstFault [if sp.done = 0 then sp.recvFault ch (movN f) else none,
        firstFault (here.map (flitFault ch 1 f.tag.toNat 0))]
      wait := if k < left then some (⟨1, some ch, false⟩, fun s =>
          (s.consume t ch k).modSpin t fun sp => { sp with done := sp.done + k }) else none
      eff := fun s => s.consume t ch k }

/-- TOK.CRED (R271): returns N credits of a held channel in one CREDIT flit. -/
def execTokCred (t : BitVec 12) (f : MovF) (s : State) : Host.Outcome State Fault Refusal :=
  instr s t (encMov 5 2 f) fun s p t =>
    let ch := f.ch.toNat
    let n := movN f
    let c := (s.spin t).recvCh ch
    { fault := if c.heldCnt < n then some (0x1003, ch + n * 2 ^ 8 + c.heldCnt * 2 ^ 16 + c.depth * 2 ^ 20) else none
      eff := fun s => (s.modRecv t ch fun r => { r with heldCnt := r.heldCnt - n }).sendCredit p t ch n }

/-! ## Flits in flight (R204, R218-R220, R225) -/

/-- The first flit in flight towards a receive channel: flits of one channel arrive in the order sent (R48). -/
def State.firstFlit (s : State) (dest chan : Nat) : Option Flit :=
  s.flits.find? fun g => g.dest == dest && g.chan == chan && g.kind != 2

/-- A flit in flight comes to the end of its route: it has a place in the receive buffer of the lane group that it crosses (R224), the
destination belongs to its partition (R220), and every arbitration point admits it (R229). Where a point does not, it waits there. -/
def State.arrives (s : State) (g : Flit) : Bool × State :=
  if s.crossed g = false ∨ (!isUnit g.dest && s.ownerOf g.dest != some g.part) = true then (false, s)
  else match s.heldAt g.part (routePoints g.src g.dest (s.flitRoute g)) with
    | some e => (false, s.countShareWait e)
    | none => (true, { (s.passRoute g) with flits := dropFirst (· == g) s.flits })

/-- The tile has stopped with its partition: flits bound for it are discarded (R310, R430). -/
def State.tileStopped (s : State) (t : Nat) : Bool :=
  match (s.spin t).part with
  | some p => (s.part p).stop != .run && !(s.part p).late.any fun e => e.1 == t
  | none => false

/-- FLIT_DELIVER (R204, R219): the first flit in flight on its channel arrives at its tile; corrupted bits show in its CRC. -/
def execFlitDeliver (f : Flit) (s : State) : Host.Outcome State Fault Refusal :=
  if tileOk f.dest then
    .next (match s.firstFlit f.dest f.chan with
      | none => s
      | some g =>
        if f.crcGood = true ∧ f ≠ g then s
        else
          let (come, s) := s.arrives g
          if come = false ∨ s.tileStopped f.dest = true then s
          else if f.crcGood then
            let s := s.acceptFlit f
            match (s.spin f.dest).part with
            | some p => s.pumpRecv p f.dest poolSize
            | none => s
          else s.crcDetect f)
  else .fault .noSuchUnit

/-- The credits that a CREDIT flit carries have been freed and not sent yet: its Turn has come, and they go (R206). -/
def State.sendAwaited (s : State) (f : Flit) : State :=
  match (s.spin f.src).part with
  | none => s
  | some p =>
    match (s.spin f.src).credDue.find? fun e => e.1 == f.chan with
    | none => s
    | some (ch, n) =>
      if mkFlit p ((s.spin f.src).recvCh ch).sender ch 2 0 0 f.src (natLe n 64) = f then
        (s.modSpin f.src fun sp => { sp with credDue := sp.credDue.filter fun e => e.1 != ch }).sendCredit p f.src ch n
      else s
/-- A channel's sender regains credits (R206, R207). -/
def State.regain (s : State) (f : Flit) (n : Nat) : State :=
  if isUnit f.dest then
    let k := 32 * f.src + f.chan
    (s.modUnitSend k fun u => { u with credit := min u.depth (u.credit + n) }).pumpUnit k
  else
    let s := (s.bump Reg.ixcRxCnt (ixcTile f.dest)).countO (s.physOf f.dest) 42 1
    s.modSpin f.dest fun sp =>
      match sp.send.find? fun e => e.2.valid && e.2.dest == f.src && e.2.chan == f.chan with
      | some (ch, c) => { sp with send := SMap.set SendCh.init sp.send ch { c with credit := min c.depth (c.credit + n) } }
      | none => sp

/-- CREDIT_RETURN (R206, R207, R219): a CREDIT flit reaches the channel's sender, a Spindle or an I/O-ring unit, which regains its
credits; a Spindle checks its CRC, and corrupted bits show there. -/
def execCreditReturn (f : Flit) (s : State) : Host.Outcome State Fault Refusal :=
  .next (if f.kind ≠ 2 then s
    else
      let s := if s.flits.contains f then s else s.sendAwaited f
      let g := if f.crcGood then s.flits.find? (· == f)
        else s.flits.find? fun g => g.kind == 2 && g.dest == f.dest && g.src == f.src && g.chan == f.chan && !isUnit g.dest
      match g with
      | none => s
      | some g =>
        let (come, s) := s.arrives g
        if come = false then s else if f.crcGood then s.regain f (byteAt f.payload 0) else s.crcDetect f)

/-- Valid IXC_SEL index (R240). -/
def ixcOk (u : Nat) : Bool :=
  let i := u % 4096
  match u / 4096 with
  | 1 => tileOk i
  | 2 => decide (i < 128)
  | 3 => decide (i < 32)
  | 4 => decide (i < 16)
  | _ => false

/-- The unit of a route from which a leaf or spine receives. -/
def prevUnit (u : Nat) : List Nat → Option Nat
  | a :: b :: l => if b = u then some a else prevUnit u (b :: l)
  | _ => none
/-- A unit's retry is counted where it is requested, and stamped for the limit of the unit without a spare that it belongs to (R218, R221,
R225, R226). Slots of the limit are nanoseconds, a slot's length at nominal (R74; log entry 107). -/
def State.countRetry (s : State) (unit bare : Nat) : State :=
  ((s.bump Reg.ixcCrcCnt unit).bump Reg.ixcRetryCnt unit).modBare bare fun x =>
    { x with errs := (x.errs.filter fun e => decide (s.now < e.toNat + 2 ^ 20)) ++ [s.time.cnt] }

/-- HOP_CRC_MISMATCH (R218): a leaf or spine finds a mismatch on a leaf-to-spine or spine-to-leaf link and asks for the flit again; the
sender resends it from its retry buffer. The row names no flit: it is the newest in flight on such a link (log entry 107). -/
def execHopCrcMismatch (unit : Word) (s : State) : Host.Outcome State Fault Refusal :=
  let u := unit.toNat
  if ixcOk u = true ∧ (ixcKind u = 2 ∨ ixcKind u = 3) then
    .next (
      let from' (f : Flit) : Option Nat := (prevUnit u (s.flitRoute f)).filter fun a => ixcKind a == 2 || ixcKind a == 3
      match (s.flits.filterMap from').getLast? with
      | none => s
      | some a => (s.countRetry u (if ixcKind u = 3 then u else a)).bump Reg.ixcTxCnt a)
  else .fault .noSuchUnit

/-- CAUSEWAY_NAK (R225): the far spine asks for a flit of a lane group again; the near spine resends it and every later one of its retry
buffer, in order. A number that no flit in the buffer has is none that the far spine can ask for. -/
def execCausewayNak (group : BitVec 4) (seq : BitVec 10) (s : State) : Host.Outcome State Fault Refusal :=
  let g := group.toNat
  let again (lane : Nat) : Nat :=
    let sent := min laneDepth (s.laneFlits lane).length
    sent - (seq.toNat + 1024 - s.laneFirst lane) % 1024
  .next (match [2 * g, 2 * g + 1].find? fun l => 0 < again l with
    | none => s
    | some l =>
      let n := again l
      ((s.countRetry (ixcGroup g) (ixcGroup g)).bump Reg.ixcTxCnt (ixcGroup g) n).bump Reg.ixcTxCnt (ixcSpine (l % 2) g) n)

/-- IXC_FOREIGN_DROP (R220, R243): a leaf drops a flit whose PART does not own its destination tile; the source is made suspect. -/
def execIxcForeignDrop (f : Flit) (s : State) : Host.Outcome State Fault Refusal :=
  if tileOk f.dest then
    .next (if s.ownerOf f.dest = some f.part then s
      else
        let leaf := ixcLeaf (rowOf f.dest)
        let s := (if s.flits.contains f then s.countRoute (s.flitRoute f).dropLast else s).bump Reg.ixcRxCnt leaf
        let s := { s with flits := dropFirst (· == f) s.flits }
        let s := (s.bump Reg.ixcForeignCnt leaf).setBit Reg.ixcStatus 0 2
        let s := s.raiseIn f.part 0x0003 (halfOf f.dest) (le1 f.part ++ le2 f.dest ++ le2 f.src)
        if isUnit f.src then s else s.suspect 1 8 (s.physOf f.src) f.src 0xFF f.part 0 0)
  else .fault .noSuchUnit

end Sys2Proof.Machine
end

