-- ==== Sys2Proof/Machine/Power.lean ====
section
/-! DEFINITION. Input power, rails, power states and the orderly shutdown (16_power_and_mechanical.md R626-R637). -/

namespace Sys2Proof.Machine

/-- Something runs from the input: a power state other than OFF and THERMAL-LATCH, or a start that is under way or due. -/
def State.lit (s : State) : Bool := (s.powerState != 0 && s.powerState != 7) || s.boot.waits.isSome || s.boot.restart != 0

/-! ## The input (R626-R628) -/

/-- INPUT_UNDERVOLT (R626): below 50 V for 10 ms; the voltage in 10 mV. Districts halve their caps at their next window boundaries. -/
def execInputUndervolt (mv10 : BitVec 16) (s : State) : Host.Outcome State Fault Refusal :=
  .next (if s.lit = false ∨ 5000 ≤ mv10.toNat ∨ s.fld Reg.pwrStatus 0 0 0 = 1 then s
    else (s.setBit Reg.pwrStatus 0 0).raise 0xC003 (le2 mv10.toNat))
/-- UNDERVOLT_CLEAR (R626): at or above 50 V for 100 ms. -/
def execUndervoltClear (s : State) : Host.Outcome State Fault Refusal := .next (s.clrBit Reg.pwrStatus 0 0)

/-- The input fails with a cause of POWER_LOSS; without power nothing is recorded, and only the removal of the input (cause 1) clears a
thermal latch (R581, R627, R637). After the removal of the input or the release of ENABLE the module may start again (R637). -/
def State.inputFails (s : State) (cause : Nat) : State :=
  let s := if s.lit then s.powerLoss cause
    else if s.powerState = 7 ∧ cause = 1 then (s.setFld Reg.pwrState 0 2 0 0).setPin pinFault false
    else s
  if cause = 1 ∨ cause = 5 then { s with power := { s.power with held := false } } else s
/-- POWER_LOSS (R627): the input falls below 46 V. -/
def execPowerLoss (s : State) : Host.Outcome State Fault Refusal := .next (s.inputFails 1)
/-- OVERVOLTAGE_TRIP (R625, R627). -/
def execOvervoltageTrip (s : State) : Host.Outcome State Fault Refusal := .next (s.inputFails 2)
/-- INPUT_OVERCURRENT_TRIP (R625, R627). -/
def execInputOvercurrentTrip (s : State) : Host.Outcome State Fault Refusal := .next (s.inputFails 3)
/-- ENABLE_RELEASE (R637, R645). -/
def execEnableRelease (s : State) : Host.Outcome State Fault Refusal := .next (s.inputFails 5)

/-- The limit in force, W (R538, R647). -/
def State.powerLimit (s : State) : Nat := bits (s.liveReg 16 Reg.pwrOpLimit) 10 0
/-- The over-power factor changes (R628). -/
def State.setOpFactor (s : State) (f : Nat) : State :=
  let s := { s.setFld Reg.pwrStatus 0 2 1 f with power := { s.power with above := 0, below := 0 } }
  if f = 0 then s
  else (s.setBit Reg.pwrStatus 0 8).raise 0xC002 (le2 (s.fld Reg.pwrInP 0 15 0) ++ le1 f)
/-- INPUT_POWER_SAMPLE (R628): the codes of channels 0 and 1, averaged over 1 ms. Their product is 2^24 / 1000 / 2^46 W a code. The
factor falls to 3/4 above the limit, to 1/2 after ten averages more than 5 % above it, and returns to 1 after a hundred below 95 %. -/
def execInputPowerSample (volt cur : BitVec 24) (s : State) : Host.Outcome State Fault Refusal :=
  let v := volt.toNat
  let c := cur.toNat
  .next (if s.lit = false then s
    else
      let s := s.setFld Reg.pwrInV 0 15 0 (min 65535 (v / 1024))
      let s := s.setFld Reg.pwrInI 0 15 0 (min 65535 (c * 5 / 2048))
      let s := s.setFld Reg.pwrInP 0 15 0 (min 65535 (v * c / (100 * 2 ^ 22)))
      let one := s.powerLimit * 1000 * 2 ^ 22
      let f := s.fld Reg.pwrStatus 0 2 1
      if f = 0 then if one < v * c then s.setOpFactor 1 else s
      else
        let above := if f = 1 ∧ one * 105 < v * c * 100 then s.power.above + 1 else 0
        let below := if v * c * 100 < one * 95 then s.power.below + 1 else 0
        if 10 ≤ above then s.setOpFactor 2
        else if 100 ≤ below then s.setOpFactor 0
        else { s with power := { s.power with above := above, below := below } })

/-! ## District rails (R630) -/

/-- RAIL_OVERCURRENT (R571, R630): a district's comparator fires above PWR_DIST_OC; the current in 10 mA. -/
def execRailOvercurrent (d : Nat) (ma10 : BitVec 16) (s : State) : Host.Outcome State Fault Refusal :=
  if 50 ≤ d then .fault .noSuchUnit
  else .next (if s.lit = false ∨ ma10.toNat ≤ 100 * s.fld Reg.pwrDistOc d 5 0 then s
    else
      let s := ((s.bump Reg.pwrDistOcCnt d).setBit Reg.pwrStatus 0 9).setFld Reg.pwrDistHold d 4 0 16
      (s.raise 0xC004 (le1 d ++ le2 ma10.toNat)).gaugeTrigger 1)
/-- RAIL_TRIP (R630): a segment's hard trip; the record with the district, then as an input trip with cause 4. -/
def execRailTrip (d : Nat) (s : State) : Host.Outcome State Fault Refusal :=
  if 50 ≤ d then .fault .noSuchUnit
  else .next (if s.lit then (s.raise 0xC005 (le1 d)).powerLoss 4 else s)

/-! ## STANDBY and WAKE (R634, R635) -/

/-- What PWR_CMD ends with: 1 DONE, 2 STATE. -/
def State.pwrResult (s : State) (r : Nat) : State := s.setReg Reg.pwrCmdResult 0 r
/-- STANDBY is allowed: READY with no session, no weight job, no adapter entry and no set running. -/
def State.standbyOk (s : State) : Bool :=
  s.powerState == 2 && s.power.shut == 0 && s.serve.sessions.isEmpty && (s.wgt.jobs.all fun e => !s.jobRuns e.1) &&
    (s.adapters.all fun e => e.2.st == 0) && s.boot.test.isNone
/-- PWR_CMD STANDBY. -/
def State.goStandby (s : State) : State := if s.standbyOk then ((s.railsOff).setPower 1).pwrResult 1 else s.pwrResult 2
/-- The work of WAKE: rails, start steps 4 and 7 without the configuration and the map; a failure there is one of a start (R513). -/
def State.wakeWork (s : State) (i : StartIn) : State :=
  finish ((s.setStep 4).diesUp i) fun s =>
    ((((s.setStep 7).stepWeights i).setStep 8).setPower 2).pwrResult 1
/-- PWR_CMD WAKE is written: from STANDBY it runs, otherwise it ends with STATE. -/
def State.beginWake (s : State) : State := if s.powerState = 1 then s.setReg Reg.pwrCmdResult 0 (2 ^ 7) else s.pwrResult 2

/-! ## Orderly shutdown (R636) -/

/-- An orderly shutdown begins: from STANDBY straight to OFF; from READY, ACTIVE or DRAIN admissions and new jobs are refused;
during a start it is honoured once READY is reached (R645). -/
def State.beginShutdown (s : State) : State :=
  let p := s.powerState
  if p = 1 then s.shutOff
  else if (p = 2 ∨ p = 3 ∨ p = 4) ∧ s.power.shut = 0 then { s with power := { s.power with shut := 1 } }
  else if p = 0 ∧ s.lit = true then { s with power := { s.power with shut := 3 } }
  else s
/-- PWR_CMD with an operation (R634, R636, R647). -/
def State.pwrCommand (s : State) (op : Nat) : State :=
  match op with
  | 1 => s.goStandby
  | 2 => s.beginWake
  | 3 => if 1 ≤ s.powerState ∧ s.powerState ≤ 4 then (s.pwrResult 1).beginShutdown else s.pwrResult 2
  | _ => s
/-- SHDN_REQ (R636): asserted for 10 ms. -/
def execShdnReq (s : State) : Host.Outcome State Fault Refusal := .next s.beginShutdown
/-- Unload one partition: its sessions end UNLOADED, SUSPENDED ones PARTITION_FAULT (R322). -/
def State.unloadPart (s : State) (p : Nat) : State :=
  (s.sessionsOf p).foldl (fun s x => s.endSession x.id 0 (if x.st = .suspended then 8 else 13)) (s.clearProgram p)
/-- SHUTDOWN_DRAIN_EXPIRY (R636): at DRAIN_MS the sessions that remain end as every partition is unloaded. -/
def execShutdownDrainExpiry (s : State) : Host.Outcome State Fault Refusal :=
  .next (if s.power.shut ≠ 1 then s
    else
      let s := (List.range 16).foldl (fun s p => if (s.part p).prog.isSome ∨ !(s.sessionsOf p).isEmpty then s.unloadPart p else s) s
      let s := if s.powerState = 3 then s.setPower 2 else s
      { s with power := { s.power with shut := 2 } })

end Sys2Proof.Machine
end

