-- ==== Sys2Proof/Machine/RegRead.lean ====
section
/-! DEFINITION. Access contexts and reads of the register space (01_module.md R9-R22): select registers, the instance a channel register
acts on, registers that the module's state gives, latches, and what a read does. -/

namespace Sys2Proof.Machine

/-! ## Contexts and instances (R16-R21) -/

/-- The context can make accesses: a host context while a queue pair is bound to it, a management cluster while its firmware runs
(R16, R510, R519). -/
def State.ctxLive (s : State) (c : Nat) : Bool :=
  if c < 6 then (s.ctx c).bound else s.fld Reg.cfgStatus 0 4 4 == 1 && !s.inFallback

/-- Bits of the index that the block's selection rule names; others select nothing (R20). -/
def selBits (blk : Nat) : Nat :=
  match blk with
  | 2 => 0xFFFF
  | 3 => 0xFFF
  | 5 => 0xF03F
  | 6 => 0xF01F
  | 7 => 0x77
  | 8 => 0xF1FF
  | 11 => 0xFFFF
  | 12 => 0xF0F
  | 13 => 0x3F0FFF
  | 15 => 0xFFFF
  | _ => 0x7FFFFFFF
/-- A queue that the context may select (R361, R364). -/
def State.queueOk (s : State) (c q : Nat) : Bool :=
  if q < 16 then true
  else if q = 16 then decide (6 ≤ c) || s.fld Reg.srvEvqBind 0 2 0 == c
  else decide (q < 29) && (q - 17) % 6 == c
/-- The result record that RECORD names (R618). -/
def State.testRec (s : State) (r : Nat) : Option Bytes :=
  match r with
  | 0 => s.newest [1]
  | 1 => (s.newest [2]).filter fun b => leNat b 8 4 == s.reg Reg.cntLifeStarts
  | 2 => s.newest [3, 4]
  | _ => none
/-- An index names a valid instance of a block for a context (R20 and each block's rule). -/
def State.selOk (s : State) (c blk idx : Nat) : Bool :=
  let k := idx / 4096
  idx &&& selBits blk == idx && match blk with
  | 0 => decide (idx < 16)
  | 1 => decide (idx < 16) && s.partDefined idx
  | 2 => tileOk (idx / 16) && decide (idx % 16 ≤ 8)
  | 3 => tileOk idx
  | 4 => decide (idx < 16) && s.partDefined idx
  | 5 => k == 1 && decide (idx % 64 < 16) || k == 2 && s.queueOk c (idx % 64)
  | 6 => k == 1 && decide (idx % 32 < 16) || k == 2 && decide (idx % 32 < 8)
  | 7 => s.linkFitted (idx % 8) && decide (idx / 16 ≤ 4)
  | 8 => k == 1 && decide (idx % 512 < 4) || k == 2 && slotOk (idx % 512)
  | 9 => gaugeFitted s.variant idx
  | 10 => sensorFitted s.variant idx
  | 11 => physOk (idx % 4096) && decide (k ≤ 8)
  | 12 => (s.testRec (idx % 16)).isSome
  | 13 => tileOk (idx % 4096)
  | 14 => decide (idx < 50)
  | _ => ixcOk idx

/-- The select register's word: the index, with SEL_ERR in bit 31; a context that has written none since its reset selects index 0
(R20). -/
def State.selWord (s : State) (c blk : Nat) : Nat :=
  let w := (SMap.get (0 : Word) (s.ctx c).sel blk).toNat
  if w = 0 then (if s.selOk c blk 0 then 0 else 2 ^ 31) else w
/-- The selected index, none while SEL_ERR is set. -/
def State.selected (s : State) (c blk : Nat) : Option Nat :=
  let w := s.selWord c blk
  if w < 2 ^ 31 then some w else none

/-- The register of a block belongs to a selected instance of the other kind (R364, R413, R500). -/
def otherKind (blk idx off : Nat) : Bool :=
  (blk == 5 || blk == 6 || blk == 8) && (idx / 4096 == 1) != decide (off < 0x80100)
/-- The store's instance number of a selected index. -/
def State.instOf (s : State) (blk idx off : Nat) : Nat :=
  match blk with
  | 2 => arrKey (s.sparedTile (idx / 16)) (idx % 16)
  | 3 => s.sparedTile idx
  | 5 => idx % 64
  | 6 => idx % 32
  | 7 => if 0x80080 ≤ off ∧ off < 0x80090 then idx % 8 + 16 * (idx / 16) else idx % 8
  | 8 => idx % 512
  | 11 => arrKey (idx % 4096) (idx / 4096)
  | _ => idx
/-- Registers kept per access context (R550, R622). -/
def perContext (addr : Nat) : Bool := [Reg.cfgWstat, Reg.cfgWaddr, Reg.cfgWrejCnt, Reg.cntCtxBind].contains addr
/-- BST_RAW_* outside MANUFACTURE and RETURNED answer as reserved addresses (R616). -/
def State.rawShut (s : State) (addr : Nat) : Bool :=
  (addr == Reg.bstRawUnit || addr == Reg.bstRawCmd) && s.lifeCycle != 1 && s.lifeCycle != 4

/-! ## 64-bit registers (R13) -/

/-- First addresses of 64-bit registers; CFG_RDMA_BASE stands for its sixteen. -/
def lowWords : List Nat :=
  [Reg.trnTimeLo, Reg.trnTodSecLo, Reg.trnPturnLo, Reg.trnStepStampLo, Reg.srvRingAddrLo, Reg.srvHankDataLo, Reg.wgtJobListLo,
   Reg.intLastMileLo, Reg.sknPeerFpLo, Reg.ethMacLo, Reg.cfgSerialLo, Reg.cfgFprintLo, Reg.cfgStagedFpLo, Reg.cfgCmdAddrLo,
   Reg.gauChStampLo, Reg.calStampLo, Reg.cntValLo, Reg.cntSmpTurnLo, Reg.cntSmpSlotLo, Reg.cntSmpTimeLo]
/-- A _LO word. -/
def isLow (addr : Nat) : Bool :=
  lowWords.contains addr || decide (Reg.cfgRdmaBaseLo ≤ addr ∧ addr < Reg.cfgRdmaBaseLo + 256) && addr % 16 == 0
/-- A _HI word. -/
def isHigh (addr : Nat) : Bool := decide (4 ≤ addr) && isLow (addr - 4)

/-! ## Registers that the state gives -/

/-- Minimum retired logical Turn of a partition (R76). -/
def State.partTurn (s : State) (p : Nat) : Nat :=
  match s.partTiles p with
  | [] => 0
  | t :: ts => ts.foldl (fun m u => min m (s.spin u).turn.toNat) (s.spin t).turn.toNat - 1
/-- TRN_PSTATE (R76, R77). -/
def State.pstate (s : State) (p : Nat) : Nat :=
  if (s.part p).prog.isNone then 0 else if (s.part p).stopped then 2 else if s.quiescent p then 3 else 1
/-- TRN registers. -/
def State.trnWord (s : State) (addr inst : Nat) : Nat :=
  if addr = Reg.trnTimeLo then s.now % 2 ^ 32
  else if addr = Reg.trnTimeHi then s.now / 2 ^ 32
  else if addr = Reg.trnPturnLo then s.partTurn inst % 2 ^ 32
  else if addr = Reg.trnPturnHi then s.partTurn inst / 2 ^ 32
  else if addr = Reg.trnPstate then s.pstate inst
  else s.reg addr inst

/-- WRP_STATE (R117, R127): array key. -/
def State.wrpStateWord (s : State) (k : Nat) : Nat :=
  let q := s.tile (k / 16)
  let n := q.queue.length * 2 ^ 8
  if k % 16 = 8 then
    match q.stage with
    | .loading a _ => 9 + a * 16 + n
    | .ready a _ => 10 + a * 16 + n
    | .standing a _ => 11 + a * 16 + n
    | .handback a _ => 11 + a * 16 + n
    | _ => 8 + n
  else (s.warp k).code + n
/-- WRP registers. -/
def State.wrpWord (s : State) (addr inst : Nat) : Nat :=
  let a := s.warp inst
  if addr = Reg.wrpState then s.wrpStateWord inst
  else if addr = Reg.wrpWeightEpoch then
    match a.valid with
    | some r => leNat r 4 2 + 2 ^ 16
    | none => match a.record with
      | some r => leNat r 4 2
      | none => 0
  else if addr = Reg.wrpRange then a.k + a.ko * 16
  else s.reg addr inst

/-- Slot state code (R154). -/
def SlotState.code : SlotState → Nat
  | .free => 0 | .loading => 1 | .resident => 2 | .shadow => 3 | .restore => 4
/-- WFT_SLOTx_ENT. -/
def WeftSlot.word (x : WeftSlot) : Nat :=
  match x.entry with
  | some e => e + 2 ^ 15 + x.rank * 2 ^ 16
  | none => 0
/-- Words of an adapter-table entry (R162). -/
def Adapter.word (a : Adapter) (k : Nat) : Nat :=
  match k with
  | 0 => a.handle % 2 ^ 16 + a.gen * 2 ^ 16 + a.part * 2 ^ 24 + a.st * 2 ^ 28
  | 1 => a.refs % 2 ^ 16 + a.foot.length * 2 ^ 16
  | 2 => a.rank + (if a.train then 2 ^ 8 else 0)
  | _ => a.flips
/-- WFT registers. -/
def State.wftWord (s : State) (addr inst : Nat) : Nat :=
  let w := s.weft inst
  let up (x : WeftSlot) : Nat := if x.up then 1 else 0
  if Reg.wftEntId ≤ addr ∧ addr < Reg.wftEntId + 16384 then (s.adapter ((addr - Reg.wftEntId) / 16)).word (addr % 16 / 4)
  else if addr = Reg.wftState then
    w.st + w.slot0.st.code * 16 + w.slot1.st.code * 256 + up w.slot0 * 2 ^ 12 + up w.slot1 * 2 ^ 13
  else if addr = Reg.wftSlot0Ent then w.slot0.word
  else if addr = Reg.wftSlot1Ent then w.slot1.word
  else s.reg addr inst

/-- Rows of the Waymark table (R235): minimum and maximum. -/
def waymark : List (Nat × Nat) :=
  [(3, 3), (7, 7), (52, 52), (2, 2), (58, 234), (148, 324), (37, 155), (127, 245), (11, 31), (56, 76), (12, 34), (57, 79), (40, 40)]
/-- IXC registers. -/
def State.ixcWord (s : State) (addr inst : Nat) : Nat :=
  if Reg.ixcWaymark ≤ addr ∧ addr < Reg.ixcWaymark + 52 then
    let r := waymark.getD ((addr - Reg.ixcWaymark) / 4) (0, 0)
    r.1 + r.2 * 2 ^ 16
  else if addr = Reg.ixcState then
    let b := s.bareUnit inst
    (if b.suspect then 2 else if b.overLimit then 1 else 0) + min 3 b.margin * 16
  else s.reg addr inst

/-- SRV_HANK_STAT (R367). -/
def State.hankStat (s : State) (q : Nat) : Nat :=
  let h := s.hank q
  let n := h.words.length
  n + (if n = 0 then 2 ^ 16 else 0) + (if hankSize q ≤ n then 2 ^ 17 else 0) + (if h.under then 2 ^ 24 else 0) + (if h.overrun then 2 ^ 25 else 0)
/-- SRV registers. -/
def State.srvWord (s : State) (addr inst : Nat) : Nat :=
  if addr = Reg.srvSessions then s.serve.sessions.length
  else if addr = Reg.srvInputFree then s.inputPool - s.inputUse
  else if addr = Reg.srvRingFree then (s.servPart inst).ringFree
  else if addr = Reg.srvPstat then
    let xs := s.sessionsOf inst
    let g := (xs.filter fun x => x.st == .gen).length
    g + (xs.length - g) * 2 ^ 16
  else if addr = Reg.srvPagesFree then (s.freePages inst 0 (s.slicePages inst + s.stackPages inst)).length
  else if addr = Reg.srvBraidNodes then (s.servPart inst).nodes.length
  else if addr = Reg.srvCtxLimit then s.ctxLimit inst
  else if addr = Reg.srvHankStat then s.hankStat inst
  else if addr = Reg.srvHankDataLo ∨ addr = Reg.srvHankDataHi then 0
  else s.reg addr inst

/-- WGT registers. -/
def State.wgtWord (s : State) (addr inst : Nat) : Nat :=
  let x := s.model inst
  if addr = Reg.wgtGoldFree then s.goldFree
  else if addr = Reg.wgtReqPending then s.reqPending
  else if addr = Reg.wgtModelId then x.id
  else if addr = Reg.wgtModelStat then x.st + x.reason * 2 ^ 8 + x.epoch * 2 ^ 16
  else if addr = Reg.wgtModelSize then x.layers.length + x.arrays.length * 2 ^ 16
  else if addr = Reg.wgtModelMin then x.min
  else if addr = Reg.wgtModelSwitchCnt then x.switches
  else s.reg addr inst

/-- BST registers (R619, R620): the record and class entry that BST_SEL names. -/
def State.bstWord (s : State) (addr inst : Nat) : Nat :=
  let r := (s.testRec (inst % 16)).getD []
  let e := 32 + 16 * (inst / 256)
  let cls (at_ n : Nat) : Nat := if inst / 256 < leNat r 24 2 then leNat r (e + at_) n else 0
  if addr = Reg.bstStatus then
    s.reg addr + if s.lifeCycle = 1 ∨ s.lifeCycle = 4 then 2 else 0
  else if addr = Reg.bstRecInfo then
    byteAt r 4 + byteAt r 6 * 2 ^ 4 + byteAt r 5 * 2 ^ 8 + byteAt r 7 % 2 * 2 ^ 16 + if testRecordValid r then 2 ^ 17 else 0
  else if addr = Reg.bstRecStart then leNat r 8 4
  else if addr = Reg.bstRecDur then leNat r 12 4
  else if addr = Reg.bstRecFails then leNat r 26 2 + min 65535 (leNat r 28 4) * 2 ^ 16
  else if addr = Reg.bstClsId then cls 0 1 + cls 2 2 * 2 ^ 16
  else if addr = Reg.bstClsUnits then min 65535 (cls 4 4) + min 65535 (cls 8 4) * 2 ^ 16
  else if addr = Reg.bstClsDur then cls 12 4
  else if Reg.bstFail ≤ addr then leNat ((recordFails r).getD ((addr - Reg.bstFail) / 16) []) (addr % 16) 4
  else s.reg addr inst

/-- The mode of counter `n` of a logical tile as CNT_MODE reads: what waits for the window boundary, else the mode in force. -/
def State.modeShadow (s : State) (t n : Nat) : Nat :=
  let q := s.tile (s.physOf t)
  match q.levelDue.find? fun e => e.1 == n with
  | some e => e.2
  | none => q.mode n
/-- A bound context may read what the counter sample and the sample records of a tile hold (R605). -/
def State.sampleOk (s : State) (c t : Nat) : Bool :=
  match s.logOf (s.ctx c).sample.phys with
  | some u => s.mayCount c t && s.mayCount c u
  | none => s.mayCount c t
/-- CNT registers: `c` the reading context, `inst` the index of CNT_SEL. -/
def State.cntWord (s : State) (c addr inst : Nat) : Nat :=
  let t := inst % 4096
  let x := (s.ctx c).sample
  let half := (addr - Reg.cntSampCfg) % 64 / 32
  if addr = Reg.cntCtxBind then if c < 6 then s.reg addr c else 0
  else if addr = Reg.cntMode then s.modeShadow t (inst / 2 ^ 16)
  else if Reg.cntValLo ≤ addr then
    if s.sampleOk c t = false then 0
    else if addr = Reg.cntValLo then x.value % 2 ^ 32
    else if addr = Reg.cntValHi then x.value / 2 ^ 32
    else if addr = Reg.cntSmpTurnLo then x.turn.toNat % 2 ^ 32
    else if addr = Reg.cntSmpTurnHi then x.turn.toNat / 2 ^ 32
    else if addr = Reg.cntSmpSlotLo then x.slot % 2 ^ 32
    else if addr = Reg.cntSmpSlotHi then x.slot / 2 ^ 32
    else if addr = Reg.cntSmpTimeLo then x.time.toNat % 2 ^ 32
    else if addr = Reg.cntSmpTimeHi then x.time.toNat / 2 ^ 32
    else x.phys + if x.moved then 2 ^ 16 else 0
  else if Reg.cntSampRec ≤ addr then
    let r := (s.sampleBuf half).headD []
    if s.mayCount c (leNat r 0 2 % 4096) then leNat r (addr % 32) 4 else 0
  else if addr = Reg.cntLifeHours then s.boot.flash.upCycles / 360000000000 % 2 ^ 32
  else if addr = Reg.cntSampStat ∨ addr = Reg.cntSampStat + 32 then s.reg addr + (s.sampleBuf half).length
  else s.reg addr inst

/-- The word of a register instance as a read sees it, without what a read does. -/
def State.word (s : State) (c addr inst : Nat) : Nat :=
  match addr / 0x100000 with
  | 1 => s.trnWord addr inst
  | 2 => s.wrpWord addr inst
  | 3 => s.wftWord addr inst
  | 4 => if addr = Reg.intMirrors then (s.integ.rows.filter fun e => e.2.ready).length else s.reg addr inst
  | 5 => s.srvWord addr inst
  | 6 => s.wgtWord addr inst
  | 12 => s.bstWord addr inst
  | 13 => s.cntWord c addr inst
  | 14 =>
    if addr = Reg.pwrDistCap then
      let f := (s.dist inst).factor
      s.fld Reg.pwrDistAlloc inst 19 0 * f / 32 + f * 2 ^ 20
    else s.reg addr inst
  | 15 => s.ixcWord addr inst
  | _ => s.reg addr inst

/-! ## Reads (R10-R13) -/

/-- Where an access of a context lands: the instance, none where the address is reserved or its channel registers read 0. -/
def State.place (s : State) (c addr : Nat) : Option Nat :=
  let blk := addr / 0x100000
  let off := addr % 0x100000
  if (regDesc? addr).isNone ∨ s.rawShut addr = true then none
  else if off < 0x80000 then some (if perContext addr then c else 0)
  else match s.selected c blk with
    | some idx => if otherKind blk idx off then none else some (s.instOf blk idx off)
    | none => none

/-- What the read of a register with a side effect leaves: a pop (R359), a counter sample (R602). -/
def State.readEffect (s : State) (c addr inst : Nat) : Nat × Nat × State :=
  if addr = Reg.srvHankDataLo then
    let (w, s) := s.popHank inst
    (w.toNat % 2 ^ 32, w.toNat / 2 ^ 32, s)
  else if addr = Reg.cntValLo then
    let t := inst % 4096
    if s.mayCount c t then
      let s := s.takeSample c t (inst / 2 ^ 16)
      (s.word c addr inst, s.word c (addr + 4) inst, s)
    else (0, 0, s)
  else (s.word c addr inst, s.word c (addr + 4) inst, s)

/-- One 32-bit read at an aligned address by a context: the word, and the state it leaves (R12, R13, R20, R519). -/
def State.readWord (s : State) (c addr : Nat) : Nat × State :=
  let blk := addr / 0x100000
  if s.inFallback = true ∧ blk ≠ 0 then (0, s)
  else if addr % 0x100000 = 0 then (s.selWord c blk, s)
  else match s.place c addr with
    | none => (0, s)
    | some inst =>
      if isHigh addr then ((SMap.get (0 : Word) (s.ctx c).latch blk).toNat, s)
      else if isLow addr then
        let (lo, hi, s) := s.readEffect c addr inst
        (lo, s.modCtx c fun x => { x with latch := SMap.set 0 x.latch blk (BitVec.ofNat 32 hi) })
      else (s.word c addr inst, s)

/-- An address of the register window (R9, R10). -/
def regAddr (a : Nat) : Bool := decide (a < 16777216) && a % 4 == 0

/-- How a context's access of one word completes (R10). -/
def State.completed (s : State) (c : Nat) (err : Bool) : State := s.modCtx c fun x => { x with err := err }
/-- A context reads one word; the state keeps what it read. A misaligned access, or one outside the window, completes with an error,
reads nothing and touches no register (R10). -/
def State.coreRead (s : State) (c addr : Nat) : State :=
  if s.ctxLive c = false then s
  else if regAddr addr = true then
    let (w, s) := s.readWord c addr
    (s.modCtx c fun x => { x with read := [BitVec.ofNat 32 w] }).completed c false
  else (s.modCtx c fun x => { x with read := [] }).completed c true

end Sys2Proof.Machine
end

