-- ==== Sys2Proof/Machine/RegWrite.lean ====
section
/-! DEFINITION. Writes of the register space (01_module.md R12-R20, 13_start_and_configuration.md R535-R539, R653): the outcome of a write,
quiescence, and what an accepted write does. -/

namespace Sys2Proof.Machine

/-! ## Quiescence (R537) -/

/-- A register with HELD fields is quiescent for the instance that the write names. -/
def State.quiet (s : State) (addr inst : Nat) : Bool :=
  let off := addr % 0x100000
  match addr / 0x100000 with
  | 0 => if 0x80000 ≤ off then s.quiescent inst else s.cfgRuns.isNone
  | 1 => if addr = Reg.trnLead then s.quiescent inst else s.time.armed.isNone
  | 2 => s.fld Reg.wrpScanStat 0 0 0 == 0
  | 5 => s.quiescent (if off < 0x80000 then (off - 0x20000) / 1024 else inst)
  | 6 => if addr = Reg.wgtRecheckCfg then s.fld Reg.wrpScanStat 0 0 0 == 0 else !s.jobRuns inst
  | 7 =>
    if off < 0x80000 then s.fld Reg.sknPathResult 0 7 7 == 0
    else if addr = Reg.sknCmd then s.linkState inst != 1
    else if addr = Reg.sknLaneCmd then (s.link (inst % 16)).before.isNone
    else s.quiescent ((addr - Reg.sknRdescDst) / 512)
  | 8 => if Reg.ethRdescDst ≤ addr then s.quiescent ((addr - Reg.ethRdescDst) / 256) else s.qps.all fun e => e.2.st != 1
  | 9 =>
    let inj := s.fld Reg.gauStatus 0 3 2 == 0
    let reg := s.fld Reg.gauStatus 0 1 1 == 0
    if addr = Reg.gauRefEn then inj && reg else if addr = Reg.gauInjCfg ∨ Reg.gauInjEntry ≤ addr then inj else reg
  | 11 => s.fld Reg.calStatus 0 0 0 == 0
  | 12 => s.fld Reg.bstStatus 0 0 0 == 0
  | 13 => if addr = Reg.cntCtxBind then s.fld addr inst 4 4 == 0 else s.fld addr 0 0 0 == 0
  | 14 => s.fld Reg.pwrCmdResult 0 7 7 == 0
  | _ => true

/-! ## The outcome (R535, R653) -/

/-- The value a field takes when `v` is written to its register (R653: the value its entry maps 0 to). -/
def fieldValue (f : RegField) (v : Nat) : Nat :=
  match f.rng with
  | .map01 _ => max 1 (f.get v)
  | _ => f.get v
/-- A value within the field's range rule. -/
def fieldFits (f : RegField) (x : Nat) : Bool :=
  match f.rng with
  | .any => true
  | .within lo hi => decide (lo ≤ x ∧ x ≤ hi)
  | .map01 hi => decide (x ≤ hi)
  | .zeroLow n => x % 2 ^ n == 0
/-- A field of class BOOT, HELD or LIVE that the write would change. -/
def fieldChanges (f : RegField) (old v : Nat) : Bool :=
  (f.cls == .boot || f.cls == .held || f.cls == .live) && f.get old != fieldValue f v

/-- A Gauge sequence entry names channels that exist, up to channel 71 (R569). -/
def gaugeEntryOk (var : Variant) (w : Nat) : Bool :=
  (List.range (bits w 14 8 + 1)).all fun i => decide (bits w 6 0 + i < 72) && gaugeFitted var (bits w 6 0 + i)
/-- The UNIT of a raw run is one of its class: a tile's position is 0 to 24 (R7, R446, R610). -/
def rawUnitOk (v : Nat) : Bool :=
  let c := bits v 3 0
  bits v 15 15 == 1 || !(decide (1 ≤ c ∧ c ≤ 7) || c == 12) || physOk (bits v 27 16)
/-- Range rules over more than one field (R7, R70, R366, R489, R569): a Gauge entry; an armed seconds value whose nanoseconds pass 2^64;
stack-tier pages where no stack is fitted; a home tile or a raw unit that is no tile; VALID of a descriptor whose link no path holds for
its job and peer. -/
def State.wordFits (s : State) (addr inst v : Nat) : Bool :=
  if Reg.srvCtxHome ≤ addr ∧ addr < Reg.srvCtxHome + 16384 then tileOk (v % 4096)
  else if addr = Reg.bstRawUnit then rawUnitOk v
  else if Reg.gauRegEntry ≤ addr ∧ addr < Reg.gauInjEntry + 16 then gaugeEntryOk s.variant v
  else if addr = Reg.trnTodCtl then
    s.time.armed.isSome || bits v 1 0 != 1 || decide (s.reg64 Reg.trnTodSecLo * 1000000000 < 2 ^ 64)
  else if addr = Reg.srvCtxStack then s.variant != .s0i1 || bits v 23 0 == 0
  else if Reg.sknRdescDst ≤ addr ∧ addr < Reg.sknRdescDst + 8192 ∧ addr % 16 = 0 then
    let n := (addr - Reg.sknRdescDst) / 16
    !s.descRejected inst (n / 32) (n % 32) v
  else true

/-- The word whose fields a write is compared with: the shadow of a LIVE field. -/
def State.shadow (s : State) (addr inst : Nat) : Nat := if addr = Reg.cntMode then s.modeShadow (inst % 4096) (inst / 2 ^ 16) else s.reg addr inst

/-- Outcome of a write to a register instance that exists (R535): 0 OK, 1 CFG_BUSY, 2 LOCKED, 3 RANGE, 5 READ_ONLY. -/
def State.fieldOutcome (s : State) (d : RegDesc) (addr inst v : Nat) : Nat :=
  let ch := d.fields.filter fun f => fieldChanges f (s.shadow addr inst) v
  if d.fields.all fun f => f.cls == .ro then 5
  else if ch.any fun f => f.cls == .boot then 2
  else if addr = Reg.cfgCmd ∧ s.quiet addr inst = false then 1
  else if (ch.any fun f => f.cls == .held) = true ∧ s.quiet addr inst = false then 1
  else if (ch.any fun f => !fieldFits f (fieldValue f v)) = true then 3
  else if (!ch.isEmpty || addr == Reg.trnTodCtl) = true ∧ s.wordFits addr inst v = false then 3
  else 0

/-- Record a write's outcome for its context (R535). -/
def State.record (s : State) (c addr o : Nat) : State :=
  let s := s.setReg Reg.cfgWstat c o
  if o = 0 then s else (s.setReg Reg.cfgWaddr c addr).bump Reg.cfgWrejCnt c

/-! ## What an accepted write does -/

/-- The word after an accepted write: HELD and LIVE fields take their values, W1C flags written 1 clear (R14). -/
def writtenWord (d : RegDesc) (old v : Nat) : Nat :=
  d.fields.foldl (fun w f => match f.cls with
    | .held => f.put w (fieldValue f v)
    | .live => f.put w (fieldValue f v)
    | .w1c => if f.get v = 1 then f.put w 0 else w
    | _ => w) old

/-- Domains in which a LIVE register comes into force (R538). -/
def liveDomains (addr : Nat) : List Nat :=
  if (liveStep ++ liveTick).contains addr then List.range 16 else if livePower.contains addr then (List.range 50).map (16 + ·) else []
/-- With no program loaded a LIVE field comes into force at once (R538). -/
def State.liveAtOnce (s : State) (addr : Nat) : State :=
  if s.noPrograms then (liveDomains addr).foldl (fun s d => s.applyLive d addr) s else s

/-- WRP_SVC_CMD (R128): the operation waits for its district's window boundary, in place of one that waits there already. -/
def State.svcWrite (s : State) (k op : Nat) : State :=
  if s.noPrograms then s.svcCommand (k / 16) (k % 16) op false else s.svcWait k op false
/-- WFT_ADPT_CMD (R162, R163): UNLOAD or FREEZE waits for the step boundary of the entry's partition, in place of what waits there. Writes
that name entries of different partitions wait for different boundaries, and both are kept: the model's choice (log entry 130). -/
def State.adptWrite (s : State) (e op : Nat) : State :=
  let op := if op = 1 ∨ op = 2 then op else 0
  let p := (s.adapter e).part
  if (s.adapter e).st = 0 ∨ s.noPrograms = true then if op = 0 then s else s.applyAdptCmd e op
  else
    let s := (s.entries fun a => a.part == p && a.due != 0).foldl (fun s x => s.modAdapter x fun a => { a with due := 0 }) s
    s.modAdapter e fun a => { a with due := op }
/-- CNT_MODE (R600): the mode waits for the tile's window boundary. -/
def State.modeWrite (s : State) (t n m : Nat) : State :=
  s.modTile (s.physOf t) fun q =>
    if s.noPrograms then { q with level := SMap.set (levelReset n) q.level n m, levelDue := q.levelDue.filter fun e => e.1 != n }
    else { q with levelDue := SMap.insert q.levelDue n m }
/-- A partition's frame ring is placed: it is empty, and all its bytes are free (R352). -/
def State.ringInit (s : State) (p : Nat) : State :=
  s.modServPart p fun q => { q with ringOff := 0, ringFree := 2 ^ s.fld Reg.srvRingCfg p 4 0 }
/-- A Skein descriptor's first word is written: with VALID its credits are DEPTH (R499). -/
def State.descWrite (s : State) (l a v : Nat) : State :=
  let n := (a - Reg.sknRdescDst) / 16
  if bits v 31 31 = 1 then (s.setDescCred l (n / 32) (n % 32) (s.descDepth l (n / 32) (n % 32))).pumpEgress else s
/-- An engine descriptor's first word is written (R499, R500). -/
def State.ethDescWrite (s : State) (a v : Nat) : State :=
  let n := (a - Reg.ethRdescDst) / 8
  if bits v 31 31 = 1 then (s.setDescCred 8 (n / 32) (n % 32) (s.descDepth 8 (n / 32) (n % 32))).pumpEgress else s

/-- Registers of which the manual says that they act on every access or read 0: nothing is stored. -/
def unstored (addr : Nat) : Bool :=
  [Reg.trnTodCtl, Reg.srvHankStat, Reg.srvHankDataLo, Reg.srvHankDataHi, Reg.gauRegCtl, Reg.cntSampNext, Reg.cntSampNext + 32, Reg.bstRawCmd,
    Reg.cntMode].contains addr

/-- The effect of an accepted write beyond its fields; a command register starts its command only while it is quiescent. -/
def State.writeEffect (s : State) (c addr inst v : Nat) (quiet : Bool) : State :=
  let blk := addr / 0x100000
  if blk = 1 then if addr = Reg.trnTodCtl then s.todCtl v else s
  else if blk = 2 then if addr = Reg.wrpSvcCmd then s.svcWrite inst (bits v 2 0) else s.liveAtOnce addr
  else if blk = 3 then if addr = Reg.wftAdptCmd then s.adptWrite (bits v 9 0) (bits v 14 12) else s
  else if blk = 5 then
    if addr = Reg.srvHankStat then
      let s := if bits v 24 24 = 1 then s.modHank inst fun h => { h with under := false } else s
      if bits v 25 25 = 1 then s.clearOverflow inst else s
    else if addr = Reg.srvHankDataLo then s.stageHank c inst (BitVec.ofNat 32 v)
    else if addr = Reg.srvHankDataHi then s.pushHank c inst (BitVec.ofNat 32 v)
    else if addr = Reg.srvRingAddrLo ∨ addr = Reg.srvRingAddrHi ∨ addr = Reg.srvRingCfg then s.ringInit inst
    else s.liveAtOnce addr
  else if blk = 6 then if addr = Reg.wgtJobCtl ∧ bits v 8 8 = 1 then s.goJob inst c else s
  else if blk = 7 then
    if addr = Reg.sknPathCmd then if quiet then s.pathCommand (bits v 1 0) (bits v 6 4) (bits v 31 16) else s
    else if addr = Reg.sknCmd then if quiet then s.sknCommand inst (bits v 1 0) else s
    else if addr = Reg.sknLaneCmd then if quiet = true ∧ bits v 0 0 = 1 then s.recalLane (inst % 16) (inst / 16) else s
    else if Reg.sknRdescDst ≤ addr ∧ addr % 16 = 0 then s.descWrite inst addr v
    else s
  else if blk = 8 then
    if addr = Reg.ethPeerCmd then if quiet then s.peerConnect v else s
    else if Reg.ethRdescDst ≤ addr ∧ addr < Reg.ethRdescDst + 4096 ∧ addr % 8 = 0 then s.ethDescWrite addr v
    else s
  else if blk = 9 then
    if addr = Reg.gauRegCtl then
      let s := if bits v 0 0 = 1 then s.gaugeStartReg else s
      if bits v 1 1 = 1 then s.gaugeStopReg else s
    else if addr = Reg.gauRefEn ∧ bits v 0 0 = 0 then s.clrBit Reg.gauStatus 0 0
    else s
  else if blk = 0 then if addr = Reg.cfgCmd then s.cfgCommand c (bits v 3 0) else s
  else if blk = 12 then
    if addr = Reg.bstCmd then if quiet = true ∧ bits v 3 0 = 1 then s.runTestSet (bits v 11 8) else s
    else if addr = Reg.bstRawCmd then if bits v 0 0 = 1 then s.rawRun else s
    else s
  else if blk = 13 then
    if addr = Reg.cntMode then s.modeWrite (inst % 4096) (inst / 2 ^ 16) (bits v 0 0)
    else if addr = Reg.cntSampNext then if bits v 0 0 = 1 then s.sampleDrop 0 else s
    else if addr = Reg.cntSampNext + 32 then if bits v 0 0 = 1 then s.sampleDrop 1 else s
    else s.liveAtOnce addr
  else if blk = 14 then
    if addr = Reg.pwrCmd then if quiet then s.pwrCommand (bits v 1 0) else s
    else s.liveAtOnce addr
  else s.liveAtOnce addr

/-- Fields of an accepted write and its effect. GO of WGT_JOB_CTL reads 0 (R415). -/
def State.accept (s : State) (d : RegDesc) (c addr inst v : Nat) : State :=
  let quiet := s.quiet addr inst
  let w := writtenWord d (s.reg addr inst) v
  let w := if addr = Reg.wgtJobCtl then w % 2 ^ 8 else w
  let s := if unstored addr then s else s.setReg addr inst w
  s.writeEffect c addr inst v quiet

/-- A rejected VALID of a Skein descriptor sets DESC_REJ (R489). -/
def State.noteReject (s : State) (addr inst v o : Nat) : State :=
  if o = 3 ∧ Reg.sknRdescDst ≤ addr ∧ addr < Reg.sknRdescDst + 8192 ∧ addr % 16 = 0 ∧ s.wordFits addr inst v = false then
    s.setBit Reg.sknStatus 0 4
  else s

/-- A write of a block's select register (R20): the index, with SEL_ERR where it names no valid instance. A write of SRV_SEL clears the
context's staged half (R360). -/
def State.selectWrite (s : State) (c blk v : Nat) : State :=
  let idx := if blk = 15 then v % 2 ^ 16 else v % 2 ^ 31
  let w := if s.selOk c blk idx then idx else idx + 2 ^ 31
  s.modCtx c fun x => { x with sel := SMap.set 0 x.sel blk (BitVec.ofNat 32 w), stage := if blk = 5 then none else x.stage }

/-- One 32-bit write at an aligned address by a context (R535): the first outcome that applies, recorded, and its effect. -/
def State.writeWord (s : State) (c addr v : Nat) : State :=
  let blk := addr / 0x100000
  let off := addr % 0x100000
  if s.inFallback = true ∧ blk ≠ 0 then s.record c addr 6
  else if off = 0 then (s.selectWrite c blk v).record c addr 0
  else match regDesc? addr with
    | none => s.record c addr 7
    | some d =>
      if s.rawShut addr then s.record c addr 7
      else if addr = Reg.cntCtxBind ∧ 6 ≤ c then s.record c addr 0
      else if 0x80000 ≤ off ∧ (s.selected c blk).isNone = true then s.record c addr 4
      else match s.place c addr with
        | none => s.record c addr (if d.fields.all fun f => f.cls == .ro then 5 else 0)
        | some inst =>
          let o := s.fieldOutcome d addr inst v
          if o = 0 then (s.accept d c addr inst v).record c addr 0 else (s.noteReject addr inst v o).record c addr o

/-- A context writes one word. An access that is misaligned or outside the window completes with an error and touches no register
(R10). -/
def State.coreWrite (s : State) (c addr v : Nat) : State :=
  if s.ctxLive c = false then s
  else if regAddr addr = true then (s.writeWord c addr v).completed c false
  else s.completed c true

end Sys2Proof.Machine
end

