-- ==== Sys2Proof/Machine/Regs.lean ====
section
/-! DEFINITION. The commands that are register accesses: writes, reads and RDMA accesses of the register window, and every command
that one write or read of a named register gives. -/

namespace Sys2Proof.Machine

/-- A context number. -/
abbrev cn (c : BitVec 3) : Nat := c.toNat

/-! ## Accesses (R10-R21, R460, R535) -/

/-- REGISTER_WRITE (R535). -/
def execRegisterWrite (c : BitVec 3) (addr v : Word) (s : State) : Host.Outcome State Fault Refusal :=
  .next (s.coreWrite (cn c) addr.toNat v.toNat)
/-- SELECT_REGISTER_WRITE (R20): the block's register at offset 0. -/
def execSelectRegisterWrite (c : BitVec 3) (blk : BitVec 4) (v : Word) (s : State) : Host.Outcome State Fault Refusal :=
  .next (s.coreWrite (cn c) (0x100000 * blk.toNat) v.toNat)
/-- LOW_WORD_READ (R13), and every other read of one word. -/
def execLowWordRead (c : BitVec 3) (addr : Word) (s : State) : Host.Outcome State Fault Refusal := .next (s.coreRead (cn c) addr.toNat)

/-- Read words in ascending order. -/
def State.readWords (c : Nat) : Nat → Nat → State → List Word × State
  | 0, _, s => ([], s)
  | n + 1, a, s =>
    let (w, s) := s.readWord c a
    let (l, s) := State.readWords c n (a + 4) s
    (BitVec.ofNat 32 w :: l, s)
/-- Write words in ascending order. -/
def State.writeWords (c : Nat) : Nat → Nat → Bytes → State → State
  | 0, _, _, s => s
  | n + 1, a, bs, s => State.writeWords c n (a + 4) (bs.drop 4) (s.writeWord c a (leNat bs 0 4))

/-- RDMA_REGISTER_ACCESS (R10, R11, R459, R460): on a MANAGEMENT queue pair that is connected, under its key, whole words of the window;
anything else completes with an error and touches no register. -/
def execRdmaRegisterAccess (slot : BitVec 9) (key : Word) (write : Bool) (addr : DWord) (len : Nat) (data : Bytes) (s : State) :
    Host.Outcome State Fault Refusal :=
  let k := slot.toNat
  let a := addr.toNat
  if slotOk k then
    .next (if (s.qp k).st ≠ 2 then s
      else if 6 ≤ k ∨ key ≠ (s.qp k).key ∨ a % 4 ≠ 0 ∨ len % 4 ≠ 0 ∨ 16777216 < a + len ∨ (write = true ∧ data.length ≠ len) then s.send (.nak k)
      else if write then State.writeWords k (len / 4) a data s
      else
        let (l, s) := State.readWords k (len / 4) a s
        (s.modCtx k fun x => { x with read := l }).send (.readResp k (l.flatMap fun w => natLe w.toNat 4)))
  else .fault .noSuchUnit

/-! ## Time of day (R69-R71) -/

/-- TOD_ARM (R69). -/
def execTodArm (c : BitVec 3) (s : State) : Host.Outcome State Fault Refusal := .next (s.coreWrite (cn c) Reg.trnTodCtl 1)
/-- TOD_CANCEL (R71). -/
def execTodCancel (c : BitVec 3) (s : State) : Host.Outcome State Fault Refusal := .next (s.coreWrite (cn c) Reg.trnTodCtl 3)

/-! ## Warp services (R118, R128) and adapter entries (R155, R163) -/

/-- SVC_CALIBRATE. -/
def execSvcCalibrate (c : BitVec 3) (s : State) : Host.Outcome State Fault Refusal := .next (s.coreWrite (cn c) Reg.wrpSvcCmd 1)
/-- SVC_REWRITE. -/
def execSvcRewrite (c : BitVec 3) (s : State) : Host.Outcome State Fault Refusal := .next (s.coreWrite (cn c) Reg.wrpSvcCmd 2)
/-- SVC_MARGIN_SCAN. -/
def execSvcMarginScan (c : BitVec 3) (s : State) : Host.Outcome State Fault Refusal := .next (s.coreWrite (cn c) Reg.wrpSvcCmd 3)
/-- SVC_CANCEL. -/
def execSvcCancel (c : BitVec 3) (s : State) : Host.Outcome State Fault Refusal := .next (s.coreWrite (cn c) Reg.wrpSvcCmd 4)
/-- ADAPTER_UNLOAD. -/
def execAdapterUnload (c : BitVec 3) (e : BitVec 10) (s : State) : Host.Outcome State Fault Refusal :=
  .next (s.coreWrite (cn c) Reg.wftAdptCmd (e.toNat + 0x1000))
/-- ADAPTER_FREEZE. -/
def execAdapterFreeze (c : BitVec 3) (e : BitVec 10) (s : State) : Host.Outcome State Fault Refusal :=
  .next (s.coreWrite (cn c) Reg.wftAdptCmd (e.toNat + 0x2000))

/-! ## Hank queues (R359, R360) -/

/-- HANK_POP. -/
def execHankPop (c : BitVec 3) (s : State) : Host.Outcome State Fault Refusal := .next (s.coreRead (cn c) Reg.srvHankDataLo)
/-- HANK_STAGE. -/
def execHankStage (c : BitVec 3) (v : Word) (s : State) : Host.Outcome State Fault Refusal :=
  .next (s.coreWrite (cn c) Reg.srvHankDataLo v.toNat)
/-- HANK_PUSH. -/
def execHankPush (c : BitVec 3) (v : Word) (s : State) : Host.Outcome State Fault Refusal :=
  .next (s.coreWrite (cn c) Reg.srvHankDataHi v.toNat)

/-! ## Weight jobs: GO with an operation (R373, R415) -/

/-- GO with an operation that fetches shards, and the answer to the READ of the shard list: its bytes, or none where it cannot be read. On
a job that a register write has started and whose list is outstanding, the answer alone. -/
def State.goFetch (s : State) (c op : Nat) (list : Option Bytes) : State :=
  let off := Reg.wgtJobCtl % 0x100000
  match (s.selected c 6).filter fun idx => !otherKind 6 idx off with
  | some idx =>
    let j := s.instOf 6 idx off
    let waits := s.jobState j == 1 && (s.job j).op == op && (s.job j).list.isNone
    (if waits then s else s.coreWrite c Reg.wgtJobCtl (0x100 + op)).takeList j op list
  | none => s.coreWrite c Reg.wgtJobCtl (0x100 + op)
/-- JOB_LOAD. -/
def execJobLoad (go : ListRead) (s : State) : Host.Outcome State Fault Refusal := .next (s.goFetch (cn go.ctx) 1 go.list)
/-- JOB_REPLACE. -/
def execJobReplace (go : ListRead) (s : State) : Host.Outcome State Fault Refusal := .next (s.goFetch (cn go.ctx) 2 go.list)
/-- JOB_RESTORE. -/
def execJobRestore (go : ListRead) (s : State) : Host.Outcome State Fault Refusal := .next (s.goFetch (cn go.ctx) 3 go.list)
/-- JOB_ADAPTER. -/
def execJobAdapter (go : ListRead) (s : State) : Host.Outcome State Fault Refusal := .next (s.goFetch (cn go.ctx) 4 go.list)
/-- JOB_UNLOAD_MODEL. -/
def execJobUnloadModel (c : BitVec 3) (s : State) : Host.Outcome State Fault Refusal := .next (s.coreWrite (cn c) Reg.wgtJobCtl 0x105)

/-! ## Links (R488, R489, R498-R501) -/

/-- PEER_CONNECT. -/
def execPeerConnect (c : BitVec 3) (v : Word) (s : State) : Host.Outcome State Fault Refusal := .next (s.coreWrite (cn c) Reg.ethPeerCmd v.toNat)
/-- PATH_SETUP. -/
def execPathSetup (c link : BitVec 3) (job : BitVec 16) (s : State) : Host.Outcome State Fault Refusal :=
  .next (s.coreWrite (cn c) Reg.sknPathCmd (1 + link.toNat * 16 + job.toNat * 65536))
/-- PATH_RELEASE. -/
def execPathRelease (c link : BitVec 3) (job : BitVec 16) (s : State) : Host.Outcome State Fault Refusal :=
  .next (s.coreWrite (cn c) Reg.sknPathCmd (2 + link.toNat * 16 + job.toNat * 65536))
/-- SKN_RETRAIN. -/
def execSknRetrain (c : BitVec 3) (s : State) : Host.Outcome State Fault Refusal := .next (s.coreWrite (cn c) Reg.sknCmd 1)
/-- SKN_DISABLE. -/
def execSknDisable (c : BitVec 3) (s : State) : Host.Outcome State Fault Refusal := .next (s.coreWrite (cn c) Reg.sknCmd 2)
/-- SKN_ENABLE. -/
def execSknEnable (c : BitVec 3) (s : State) : Host.Outcome State Fault Refusal := .next (s.coreWrite (cn c) Reg.sknCmd 3)
/-- SKN_LANE_RECAL. -/
def execSknLaneRecal (c : BitVec 3) (s : State) : Host.Outcome State Fault Refusal := .next (s.coreWrite (cn c) Reg.sknLaneCmd 1)
/-- RDESC_VALID_WRITE: the descriptor's first word with VALID set. -/
def execRdescValidWrite (c : BitVec 3) (p : BitVec 4) (ch : BitVec 5) (v : Word) (s : State) : Host.Outcome State Fault Refusal :=
  .next (s.coreWrite (cn c) (Reg.sknRdescDst + rdesc p.toNat ch.toNat) (v ||| 0x80000000#32).toNat)

/-! ## CFG_CMD (R521, R542, R545, R550) -/

/-- STAGE_CONFIG. -/
def execStageConfig (c : BitVec 3) (s : State) : Host.Outcome State Fault Refusal := .next (s.coreWrite (cn c) Reg.cfgCmd 1)
/-- STAGE_FIRMWARE. -/
def execStageFirmware (c : BitVec 3) (s : State) : Host.Outcome State Fault Refusal := .next (s.coreWrite (cn c) Reg.cfgCmd 2)
/-- STAGE_BOOT. -/
def execStageBoot (c : BitVec 3) (s : State) : Host.Outcome State Fault Refusal := .next (s.coreWrite (cn c) Reg.cfgCmd 3)
/-- LC_TOKEN: the command, if it does not run yet, and the token that its fetch brings, none when the fetch fails. -/
def execLcToken (c : BitVec 3) (token : Option Bytes) (s : State) : Host.Outcome State Fault Refusal :=
  let s := if s.cfgRuns = some 4 then s else s.coreWrite (cn c) Reg.cfgCmd 4
  .next (if s.cfgRuns = some 4 then s.takeToken token else s)
/-- ATTEST. -/
def execAttest (c : BitVec 3) (s : State) : Host.Outcome State Fault Refusal := .next (s.coreWrite (cn c) Reg.cfgCmd 5)
/-- DISCARD_STAGED. -/
def execDiscardStaged (c : BitVec 3) (s : State) : Host.Outcome State Fault Refusal := .next (s.coreWrite (cn c) Reg.cfgCmd 6)
/-- RETRY. -/
def execRetry (c : BitVec 3) (s : State) : Host.Outcome State Fault Refusal := .next (s.coreWrite (cn c) Reg.cfgCmd 7)
/-- REVERT. -/
def execRevert (c : BitVec 3) (s : State) : Host.Outcome State Fault Refusal := .next (s.coreWrite (cn c) Reg.cfgCmd 8)

/-! ## The Gauge (R570), counters (R602, R605, R608), self-test (R614, R616) -/

/-- GAUGE_START. -/
def execGaugeStart (c : BitVec 3) (s : State) : Host.Outcome State Fault Refusal := .next (s.coreWrite (cn c) Reg.gauRegCtl 1)
/-- GAUGE_STOP. -/
def execGaugeStop (c : BitVec 3) (s : State) : Host.Outcome State Fault Refusal := .next (s.coreWrite (cn c) Reg.gauRegCtl 2)
/-- COUNTER_SAMPLE. -/
def execCounterSample (c : BitVec 3) (s : State) : Host.Outcome State Fault Refusal := .next (s.coreRead (cn c) Reg.cntValLo)
/-- COUNTER_BIND. -/
def execCounterBind (c : BitVec 3) (v : Word) (s : State) : Host.Outcome State Fault Refusal := .next (s.coreWrite (cn c) Reg.cntCtxBind v.toNat)
/-- SAMPLE_NEXT. -/
def execSampleNext (c : BitVec 3) (half : Bool) (s : State) : Host.Outcome State Fault Refusal :=
  .next (s.coreWrite (cn c) (Reg.cntSampNext + if half then 32 else 0) 1)
/-- RUN_SET. -/
def execRunSet (c : BitVec 3) (set : BitVec 4) (s : State) : Host.Outcome State Fault Refusal :=
  .next (s.coreWrite (cn c) Reg.bstCmd (1 + set.toNat * 256))
/-- RAW_GO. -/
def execRawGo (c : BitVec 3) (s : State) : Host.Outcome State Fault Refusal := .next (s.coreWrite (cn c) Reg.bstRawCmd 1)

/-! ## Power (R634-R636) -/

/-- STANDBY. -/
def execStandby (c : BitVec 3) (s : State) : Host.Outcome State Fault Refusal := .next (s.coreWrite (cn c) Reg.pwrCmd 1)
/-- WAKE: the command, if it does not run yet, and what the start steps find. -/
def execWake (c : BitVec 3) (i : StartIn) (s : State) : Host.Outcome State Fault Refusal :=
  let busy (s : State) : Bool := s.fld Reg.pwrCmdResult 0 7 7 == 1
  let s := if busy s then s else s.coreWrite (cn c) Reg.pwrCmd 2
  .next (if busy s then s.wakeWork i else s)
/-- SHUTDOWN. -/
def execShutdown (c : BitVec 3) (s : State) : Host.Outcome State Fault Refusal := .next (s.coreWrite (cn c) Reg.pwrCmd 3)

end Sys2Proof.Machine
end

