-- ==== Sys2Proof/Machine/Dispatch.lean ====
section
/-! DEFINITION. One arm per command of spec/opcode_table.json: the call of its meaning. -/

namespace Sys2Proof.Machine

/-- The effect of a command on everything but the queue. -/
def exec (i : Instr) (s : State) : Host.Outcome State Fault Refusal :=
  match i with
  | .registerWrite ctx addr v => Sys2Proof.Machine.execRegisterWrite ctx addr v s
  | .selectRegisterWrite ctx blk v => Sys2Proof.Machine.execSelectRegisterWrite ctx blk v s
  | .lowWordRead ctx addr => Sys2Proof.Machine.execLowWordRead ctx addr s
  | .rdmaRegisterAccess slot key write addr len data => Sys2Proof.Machine.execRdmaRegisterAccess slot key write addr len data s
  | .districtWindowBoundary d => Sys2Proof.Machine.execDistrictWindowBoundary d s
  | .partitionStopEnter p => Sys2Proof.Machine.execPartitionStopEnter p s
  | .partitionStopped p => Sys2Proof.Machine.execPartitionStopped p s
  | .watchdogExpiry p => Sys2Proof.Machine.execWatchdogExpiry p s
  | .flitDeliver f => Sys2Proof.Machine.execFlitDeliver f s
  | .creditReturn f => Sys2Proof.Machine.execCreditReturn f s
  | .hopCrcMismatch unit => Sys2Proof.Machine.execHopCrcMismatch unit s
  | .causewayNak group seq => Sys2Proof.Machine.execCausewayNak group seq s
  | .ixcForeignDrop f => Sys2Proof.Machine.execIxcForeignDrop f s
  | .ixcRetryLimit u => Sys2Proof.Machine.execIxcRetryLimit u s
  | .marginRaiseObserved u exceeded => Sys2Proof.Machine.execMarginRaiseObserved u exceeded s
  | .ppsEdge cycles => Sys2Proof.Machine.execPpsEdge cycles s
  | .holdoverEnter => Sys2Proof.Machine.execHoldoverEnter s
  | .todArm ctx => Sys2Proof.Machine.execTodArm ctx s
  | .todCancel ctx => Sys2Proof.Machine.execTodCancel ctx s
  | .todLoadAtSecond => Sys2Proof.Machine.execTodLoadAtSecond s
  | .todLoadTimeout => Sys2Proof.Machine.execTodLoadTimeout s
  | .warpPass t f a => Sys2Proof.Machine.execWarpPass t f a s
  | .warpPassa t f a => Sys2Proof.Machine.execWarpPassa t f a s
  | .warpPassEnd t arr => Sys2Proof.Machine.execWarpPassEnd t arr s
  | .partitionFaultClear p => Sys2Proof.Machine.execPartitionFaultClear p s
  | .arrayWriteDone phys arr c => Sys2Proof.Machine.execArrayWriteDone phys arr c s
  | .svcCalibrate ctx => Sys2Proof.Machine.execSvcCalibrate ctx s
  | .svcRewrite ctx => Sys2Proof.Machine.execSvcRewrite ctx s
  | .svcMarginScan ctx => Sys2Proof.Machine.execSvcMarginScan ctx s
  | .svcCancel ctx => Sys2Proof.Machine.execSvcCancel ctx s
  | .spareLoadStart t => Sys2Proof.Machine.execSpareLoadStart t s
  | .spareLoadDone t c => Sys2Proof.Machine.execSpareLoadDone t c s
  | .spareShardTimeout t => Sys2Proof.Machine.execSpareShardTimeout t s
  | .serviceComplete t c => Sys2Proof.Machine.execServiceComplete t c s
  | .marginScanRound => Sys2Proof.Machine.execMarginScanRound s
  | .weftPass t f a => Sys2Proof.Machine.execWeftPass t f a s
  | .weftPassa t f a => Sys2Proof.Machine.execWeftPassa t f a s
  | .weftFlip t => Sys2Proof.Machine.execWeftFlip t s
  | .weftRecalDone t margin => Sys2Proof.Machine.execWeftRecalDone t margin s
  | .weftRecalPeriodic d => Sys2Proof.Machine.execWeftRecalPeriodic d s
  | .weftSlotWriteDone t slot => Sys2Proof.Machine.execWeftSlotWriteDone t slot s
  | .weftScrubRead t bad0 bad1 => Sys2Proof.Machine.execWeftScrubRead t bad0 bad1 s
  | .weftRestoreDone t slot => Sys2Proof.Machine.execWeftRestoreDone t slot s
  | .adapterRestoreTimeout e => Sys2Proof.Machine.execAdapterRestoreTimeout e s
  | .adapterAllocRetry job => Sys2Proof.Machine.execAdapterAllocRetry job s
  | .adapterWaitTimeout job => Sys2Proof.Machine.execAdapterWaitTimeout job s
  | .adapterLoadVerified e ok => Sys2Proof.Machine.execAdapterLoadVerified e ok s
  | .adapterUnload ctx e => Sys2Proof.Machine.execAdapterUnload ctx e s
  | .adapterFreeze ctx e => Sys2Proof.Machine.execAdapterFreeze ctx e s
  | .vecFma t f => Sys2Proof.Machine.execVecFma t f s
  | .vecAdd t f => Sys2Proof.Machine.execVecAdd t f s
  | .vecMul t f => Sys2Proof.Machine.execVecMul t f s
  | .vecMax t f => Sys2Proof.Machine.execVecMax t f s
  | .vecMin t f => Sys2Proof.Machine.execVecMin t f s
  | .vecExp t f => Sys2Proof.Machine.execVecExp t f s
  | .vecRsqrt t f => Sys2Proof.Machine.execVecRsqrt t f s
  | .vecRcp t f => Sys2Proof.Machine.execVecRcp t f s
  | .vecRsum t f => Sys2Proof.Machine.execVecRsum t f s
  | .vecRmax t f => Sys2Proof.Machine.execVecRmax t f s
  | .vecImac t f => Sys2Proof.Machine.execVecImac t f s
  | .vecLd t f => Sys2Proof.Machine.execVecLd t f s
  | .vecSt t f => Sys2Proof.Machine.execVecSt t f s
  | .vecBcast t f => Sys2Proof.Machine.execVecBcast t f s
  | .vecRot t f => Sys2Proof.Machine.execVecRot t f s
  | .vecSel t f => Sys2Proof.Machine.execVecSel t f s
  | .cvtPack t f => Sys2Proof.Machine.execCvtPack t f s
  | .cvtUnpk t f => Sys2Proof.Machine.execCvtUnpk t f s
  | .cvtGrad t f => Sys2Proof.Machine.execCvtGrad t f s
  | .cvtNarw t f => Sys2Proof.Machine.execCvtNarw t f s
  | .cvtWide t f => Sys2Proof.Machine.execCvtWide t f s
  | .cvtQw t f => Sys2Proof.Machine.execCvtQw t f s
  | .movSend t f => Sys2Proof.Machine.execMovSend t f s
  | .movSendv t f => Sys2Proof.Machine.execMovSendv t f s
  | .movRecv t f => Sys2Proof.Machine.execMovRecv t f s
  | .movRecvv t f => Sys2Proof.Machine.execMovRecvv t f s
  | .movRecva t f => Sys2Proof.Machine.execMovRecva t f s
  | .tokPost t f => Sys2Proof.Machine.execTokPost t f s
  | .tokWait t f => Sys2Proof.Machine.execTokWait t f s
  | .tokCred t f => Sys2Proof.Machine.execTokCred t f s
  | .ctxPut t f => Sys2Proof.Machine.execCtxPut t f s
  | .ctxGet t f => Sys2Proof.Machine.execCtxGet t f s
  | .ctxAttn t f => Sys2Proof.Machine.execCtxAttn t f s
  | .ctxXget t f => Sys2Proof.Machine.execCtxXget t f s
  | .ctxXput t f => Sys2Proof.Machine.execCtxXput t f s
  | .ctxLanding t => Sys2Proof.Machine.execCtxLanding t s
  | .syncStep t => Sys2Proof.Machine.execSyncStep t s
  | .syncMile t => Sys2Proof.Machine.execSyncMile t s
  | .syncEmit t f => Sys2Proof.Machine.execSyncEmit t f s
  | .ctlNop t n => Sys2Proof.Machine.execCtlNop t n s
  | .ctlLoop t count body => Sys2Proof.Machine.execCtlLoop t count body s
  | .ctlSkip t f => Sys2Proof.Machine.execCtlSkip t f s
  | .ctlXset t xd imm => Sys2Proof.Machine.execCtlXset t xd imm s
  | .ctlXadd t xd xa imm => Sys2Proof.Machine.execCtlXadd t xd xa imm s
  | .ctlXld t xd lop word => Sys2Proof.Machine.execCtlXld t xd lop word s
  | .ctlXent t xd ent field => Sys2Proof.Machine.execCtlXent t xd ent field s
  | .pwrDecl t tokens => Sys2Proof.Machine.execPwrDecl t tokens s
  | .pwrWaitwin t => Sys2Proof.Machine.execPwrWaitwin t s
  | .load => Sys2Proof.Machine.execLoad s
  | .loadImageArrived image => Sys2Proof.Machine.execLoadImageArrived image s
  | .loadFetchTimeout => Sys2Proof.Machine.execLoadFetchTimeout s
  | .patch => Sys2Proof.Machine.execPatch s
  | .unload => Sys2Proof.Machine.execUnload s
  | .mailboxBadMessage ctx => Sys2Proof.Machine.execMailboxBadMessage ctx s
  | .openReq slot msg => Sys2Proof.Machine.execOpenReq slot msg s
  | .appendReq slot msg => Sys2Proof.Machine.execAppendReq slot msg s
  | .draftReq slot msg => Sys2Proof.Machine.execDraftReq slot msg s
  | .closeReq slot msg => Sys2Proof.Machine.execCloseReq slot msg s
  | .ringCredit slot msg => Sys2Proof.Machine.execRingCredit slot msg s
  | .openLookupDone session => Sys2Proof.Machine.execOpenLookupDone session s
  | .pendingAdmit session => Sys2Proof.Machine.execPendingAdmit session s
  | .pendingTimeout session => Sys2Proof.Machine.execPendingTimeout session s
  | .holdIdleTimeout session => Sys2Proof.Machine.execHoldIdleTimeout session s
  | .suspendTimeout p => Sys2Proof.Machine.execSuspendTimeout p s
  | .engineTick p => Sys2Proof.Machine.execEngineTick p s
  | .stepBoundary p => Sys2Proof.Machine.execStepBoundary p s
  | .milestone p => Sys2Proof.Machine.execMilestone p s
  | .openPageCopyDone session block => Sys2Proof.Machine.execOpenPageCopyDone session block s
  | .frameWrite p => Sys2Proof.Machine.execFrameWrite p s
  | .noticeClose p => Sys2Proof.Machine.execNoticeClose p s
  | .frameRingFull p => Sys2Proof.Machine.execFrameRingFull p s
  | .hankPop ctx => Sys2Proof.Machine.execHankPop ctx s
  | .hankStage ctx v => Sys2Proof.Machine.execHankStage ctx v s
  | .hankPush ctx v => Sys2Proof.Machine.execHankPush ctx v s
  | .xferOffer msg => Sys2Proof.Machine.execXferOffer msg s
  | .xferAccept msg => Sys2Proof.Machine.execXferAccept msg s
  | .xferRefuse msg => Sys2Proof.Machine.execXferRefuse msg s
  | .xferData msg => Sys2Proof.Machine.execXferData msg s
  | .xferEnd msg => Sys2Proof.Machine.execXferEnd msg s
  | .xferNack msg => Sys2Proof.Machine.execXferNack msg s
  | .xferDone msg => Sys2Proof.Machine.execXferDone msg s
  | .xferWaitExpiry session => Sys2Proof.Machine.execXferWaitExpiry session s
  | .offerTimeout session => Sys2Proof.Machine.execOfferTimeout session s
  | .jobLoad go => Sys2Proof.Machine.execJobLoad go s
  | .jobReplace go => Sys2Proof.Machine.execJobReplace go s
  | .jobRestore go => Sys2Proof.Machine.execJobRestore go s
  | .jobAdapter go => Sys2Proof.Machine.execJobAdapter go s
  | .jobUnloadModel ctx => Sys2Proof.Machine.execJobUnloadModel ctx s
  | .shardArrived job index d => Sys2Proof.Machine.execShardArrived job index d s
  | .shardFetchTimeout job index => Sys2Proof.Machine.execShardFetchTimeout job index s
  | .loadLayerWrite job layer => Sys2Proof.Machine.execLoadLayerWrite job layer s
  | .barrierRaise job => Sys2Proof.Machine.execBarrierRaise job s
  | .barrierDrained job => Sys2Proof.Machine.execBarrierDrained job s
  | .replaceCommit job => Sys2Proof.Machine.execReplaceCommit job s
  | .barrierRelease job => Sys2Proof.Machine.execBarrierRelease job s
  | .shardRequestTimeout req => Sys2Proof.Machine.execShardRequestTimeout req s
  | .goldenCompare phys arr verifyOk => Sys2Proof.Machine.execGoldenCompare phys arr verifyOk s
  | .integrityDetection t d => Sys2Proof.Machine.execIntegrityDetection t d s
  | .replayStart r => Sys2Proof.Machine.execReplayStart r s
  | .replayDecide t clean a w => Sys2Proof.Machine.execReplayDecide t clean a w s
  | .rerunDrained p => Sys2Proof.Machine.execRerunDrained p s
  | .standinReady c => Sys2Proof.Machine.execStandinReady c s
  | .shadowPass t a => Sys2Proof.Machine.execShadowPass t a s
  | .shadowDispute t clean a => Sys2Proof.Machine.execShadowDispute t clean a s
  | .mirrorAdvance half c => Sys2Proof.Machine.execMirrorAdvance half c s
  | .cmReq port service src mtu rqpn => Sys2Proof.Machine.execCmReq port service src mtu rqpn s
  | .qpTeardown slot => Sys2Proof.Machine.execQpTeardown slot s
  | .cePacket slot => Sys2Proof.Machine.execCePacket slot s
  | .cnpReceive slot => Sys2Proof.Machine.execCnpReceive slot s
  | .rateRaise slot => Sys2Proof.Machine.execRateRaise slot s
  | .pfcPauseReceive port prio pause => Sys2Proof.Machine.execPfcPauseReceive port prio pause s
  | .pfcBufferThreshold port above75 => Sys2Proof.Machine.execPfcBufferThreshold port above75 s
  | .arpRequest port target => Sys2Proof.Machine.execArpRequest port target s
  | .neighborSolicitation port target => Sys2Proof.Machine.execNeighborSolicitation port target s
  | .icmpEcho port v6 target payload => Sys2Proof.Machine.execIcmpEcho port v6 target payload s
  | .ethPortUp port pmd watts => Sys2Proof.Machine.execEthPortUp port pmd watts s
  | .ethPortDown port => Sys2Proof.Machine.execEthPortDown port s
  | .peerConnect ctx v => Sys2Proof.Machine.execPeerConnect ctx v s
  | .messageIngress link msg => Sys2Proof.Machine.execMessageIngress link msg s
  | .returnReceive link msg => Sys2Proof.Machine.execReturnReceive link msg s
  | .returnSend link => Sys2Proof.Machine.execReturnSend link s
  | .echo link msg => Sys2Proof.Machine.execEcho link msg s
  | .echoReply link msg => Sys2Proof.Machine.execEchoReply link msg s
  | .leaReceive link lea fec => Sys2Proof.Machine.execLeaReceive link lea fec s
  | .leaNak link ack => Sys2Proof.Machine.execLeaNak link ack s
  | .leaAckTimeout link => Sys2Proof.Machine.execLeaAckTimeout link s
  | .laneSwap link lane => Sys2Proof.Machine.execLaneSwap link lane s
  | .sknRetryLimit link => Sys2Proof.Machine.execSknRetryLimit link s
  | .sknSignalDetect link => Sys2Proof.Machine.execSknSignalDetect link s
  | .trainingRecord link record => Sys2Proof.Machine.execTrainingRecord link record s
  | .sknLossOfSignal link => Sys2Proof.Machine.execSknLossOfSignal link s
  | .eyeMeasure link lane width height => Sys2Proof.Machine.execEyeMeasure link lane width height s
  | .laneRecalPeriodic link => Sys2Proof.Machine.execLaneRecalPeriodic link s
  | .laneRecalDone link width height => Sys2Proof.Machine.execLaneRecalDone link width height s
  | .pathSetup ctx link job => Sys2Proof.Machine.execPathSetup ctx link job s
  | .pathRelease ctx link job => Sys2Proof.Machine.execPathRelease ctx link job s
  | .sknRetrain ctx => Sys2Proof.Machine.execSknRetrain ctx s
  | .sknDisable ctx => Sys2Proof.Machine.execSknDisable ctx s
  | .sknEnable ctx => Sys2Proof.Machine.execSknEnable ctx s
  | .sknLaneRecal ctx => Sys2Proof.Machine.execSknLaneRecal ctx s
  | .rdescValidWrite ctx p c v => Sys2Proof.Machine.execRdescValidWrite ctx p c v s
  | .powerGood i0 => Sys2Proof.Machine.execPowerGood i0 s
  | .startTimeout => Sys2Proof.Machine.execStartTimeout s
  | .fwStartTimeout => Sys2Proof.Machine.execFwStartTimeout s
  | .startRetryReset i0 => Sys2Proof.Machine.execStartRetryReset i0 s
  | .delayedRestart i0 => Sys2Proof.Machine.execDelayedRestart i0 s
  | .ready60s => Sys2Proof.Machine.execReady60s s
  | .stageConfig ctx => Sys2Proof.Machine.execStageConfig ctx s
  | .stageFirmware ctx => Sys2Proof.Machine.execStageFirmware ctx s
  | .stageBoot ctx => Sys2Proof.Machine.execStageBoot ctx s
  | .pushFetched push flashOk => Sys2Proof.Machine.execPushFetched push flashOk s
  | .lcToken ctx token => Sys2Proof.Machine.execLcToken ctx token s
  | .attest ctx => Sys2Proof.Machine.execAttest ctx s
  | .discardStaged ctx => Sys2Proof.Machine.execDiscardStaged ctx s
  | .retry ctx => Sys2Proof.Machine.execRetry ctx s
  | .revert ctx => Sys2Proof.Machine.execRevert ctx s
  | .fallbackStatus req => Sys2Proof.Machine.execFallbackStatus req s
  | .fallbackLog req => Sys2Proof.Machine.execFallbackLog req s
  | .calRoundPeriodic half d => Sys2Proof.Machine.execCalRoundPeriodic half d s
  | .calRetemp phys arr => Sys2Proof.Machine.execCalRetemp phys arr s
  | .gaugeRefCheck bandgap bufIn bufOut ground half => Sys2Proof.Machine.execGaugeRefCheck bandgap bufIn bufOut ground half s
  | .gaugeRefReady => Sys2Proof.Machine.execGaugeRefReady s
  | .gaugeStart ctx => Sys2Proof.Machine.execGaugeStart ctx s
  | .gaugeStop ctx => Sys2Proof.Machine.execGaugeStop ctx s
  | .gaugeConversionDone code => Sys2Proof.Machine.execGaugeConversionDone code s
  | .gaugeInjectedTrigger source => Sys2Proof.Machine.execGaugeInjectedTrigger source s
  | .gaugePassGap => Sys2Proof.Machine.execGaugePassGap s
  | .thermalScan readings => Sys2Proof.Machine.execThermalScan readings s
  | .counterSample ctx => Sys2Proof.Machine.execCounterSample ctx s
  | .counterBind ctx v => Sys2Proof.Machine.execCounterBind ctx v s
  | .sampleNext ctx half => Sys2Proof.Machine.execSampleNext ctx half s
  | .logBudgetRefill => Sys2Proof.Machine.execLogBudgetRefill s
  | .shutdownTest => Sys2Proof.Machine.execShutdownTest s
  | .shutdownTestDone classes fails us => Sys2Proof.Machine.execShutdownTestDone classes fails us s
  | .runSet ctx set => Sys2Proof.Machine.execRunSet ctx set s
  | .setDone classes fails us => Sys2Proof.Machine.execSetDone classes fails us s
  | .rawGo ctx => Sys2Proof.Machine.execRawGo ctx s
  | .inputUndervolt mv10 => Sys2Proof.Machine.execInputUndervolt mv10 s
  | .undervoltClear => Sys2Proof.Machine.execUndervoltClear s
  | .powerLoss => Sys2Proof.Machine.execPowerLoss s
  | .overvoltageTrip => Sys2Proof.Machine.execOvervoltageTrip s
  | .inputOvercurrentTrip => Sys2Proof.Machine.execInputOvercurrentTrip s
  | .inputPowerSample volt cur => Sys2Proof.Machine.execInputPowerSample volt cur s
  | .railOvercurrent d ma10 => Sys2Proof.Machine.execRailOvercurrent d ma10 s
  | .railTrip d => Sys2Proof.Machine.execRailTrip d s
  | .standby ctx => Sys2Proof.Machine.execStandby ctx s
  | .wake ctx i0 => Sys2Proof.Machine.execWake ctx i0 s
  | .shutdown ctx => Sys2Proof.Machine.execShutdown ctx s
  | .shdnReq => Sys2Proof.Machine.execShdnReq s
  | .shutdownDrainExpiry => Sys2Proof.Machine.execShutdownDrainExpiry s
  | .enableRelease => Sys2Proof.Machine.execEnableRelease s
  | .localAckTimeout slot => Sys2Proof.Machine.execLocalAckTimeout slot s
  | .invalidRequest slot => Sys2Proof.Machine.execInvalidRequest slot s
  | .cmRep slot accepted rqpn => Sys2Proof.Machine.execCmRep slot accepted rqpn s
  | .stackPhyParityError stack => Sys2Proof.Machine.execStackPhyParityError stack s

end Sys2Proof.Machine
end

