-- ==== Sys2Proof/Machine/Step.lean ====
section
/-! DEFINITION. One step: the command at the front of the queue; on an empty queue one oscillator cycle (log entry 2). -/

namespace Sys2Proof.Machine

/-- Take the command at the front of the queue and run it on the queue's rest; with nothing waiting, one cycle of the
100 MHz oscillator passes (R64, log entry 2), and what waited for its share of a link may go. -/
def step (s : State) : Host.Outcome State Fault Refusal :=
  match s.pending with
  | [] => .next (Sys2Proof.Machine.State.idleCycle s)
  | c :: rest => Sys2Proof.Machine.exec c { s with pending := rest }

/-- No row of the table gives bits, so no word spells a command and the queue is unchanged. -/
def State.withFetchWord (s : State) (nbits w : Nat) : State :=
  match decodeTableWord nbits w with
  | some c => { s with pending := c :: s.pending }
  | none => s

end Sys2Proof.Machine
end

