-- ==== Sys2Proof/Safety.lean ====
section
/-! DEFINITION. What claims about the module are stated with: the canonical form of memory, fuses that are only ever programmed, a
Spindle that is ready to issue a word, what a slot leaves alone, what a command answers. -/

namespace Sys2Proof.Machine

/-- The canonical form of a byte memory: addresses strictly rising, and no entry equal to what an unlisted address reads as. -/
abbrev Memory.wf (m : SMap Byte) : Bool := SMap.wf Config.blankByte m
/-- Data slices and stacks (R200, R532) have the canonical form. -/
def State.memOk (s : State) : Prop := Memory.wf s.slices = true ∧ Memory.wf s.stackMem = true

/-- Fuses after `f`: no fuse returns to its state before it was programmed (R504, R505). -/
def fuseLe (f g : FuseSt) : Prop :=
  g.root = f.root ∧ g.serial = f.serial ∧ g.owners = f.owners ∧ f.base ≤ g.base ∧ f.bootMin ≤ g.bootMin ∧ f.fwMin ≤ g.fwMin ∧
    ∀ k, f.revoked.testBit k = true → g.revoked.testBit k = true

/-- Command `c` answers a next state, and that state has the property. -/
def Runs (s : State) (c : Instr) (P : State → Prop) : Prop := ∃ s', exec c s = .next s' ∧ P s'

/-- The tile and the word of a Spindle instruction (R250); none for the other commands. -/
def spindleWord : Instr → Option (BitVec 12 × DWord)
  | .warpPass t f _ => some (t, encWarp 0 f)
  | .warpPassa t f _ => some (t, encWarp 1 f)
  | .weftPass t f _ => some (t, encWeft 0 f)
  | .weftPassa t f _ => some (t, encWeft 1 f)
  | .weftFlip t => some (t, encFlip)
  | .vecFma t f => some (t, encVec 0 f)
  | .vecAdd t f => some (t, encVec 1 f)
  | .vecMul t f => some (t, encVec 2 f)
  | .vecMax t f => some (t, encVec 3 f)
  | .vecMin t f => some (t, encVec 4 f)
  | .vecExp t f => some (t, encVec 5 f)
  | .vecRsqrt t f => some (t, encVec 6 f)
  | .vecRcp t f => some (t, encVec 7 f)
  | .vecRsum t f => some (t, encVec 8 f)
  | .vecRmax t f => some (t, encVec 9 f)
  | .vecImac t f => some (t, encVec 10 f)
  | .vecLd t f => some (t, encVec 11 f)
  | .vecSt t f => some (t, encVec 12 f)
  | .vecBcast t f => some (t, encVec 13 f)
  | .vecRot t f => some (t, encVec 14 f)
  | .vecSel t f => some (t, encVec 15 f)
  | .cvtPack t f => some (t, encCvt 0 f)
  | .cvtUnpk t f => some (t, encCvt 1 f)
  | .cvtGrad t f => some (t, encCvt 2 f)
  | .cvtNarw t f => some (t, encCvt 3 f)
  | .cvtWide t f => some (t, encCvt 4 f)
  | .cvtQw t f => some (t, encCvt 5 f)
  | .movSend t f => some (t, encMov 4 0 f)
  | .movSendv t f => some (t, encMov 4 1 f)
  | .movRecv t f => some (t, encMov 4 2 f)
  | .movRecvv t f => some (t, encMov 4 3 f)
  | .movRecva t f => some (t, encMov 4 4 f)
  | .tokPost t f => some (t, encMov 5 0 f)
  | .tokWait t f => some (t, encMov 5 1 f)
  | .tokCred t f => some (t, encMov 5 2 f)
  | .ctxPut t f => some (t, encPut f)
  | .ctxGet t f => some (t, encGet f)
  | .ctxAttn t f => some (t, encAttn f)
  | .ctxXget t f => some (t, encXfer 3 f)
  | .ctxXput t f => some (t, encXfer 4 f)
  | .syncStep t => some (t, encSync 0)
  | .syncMile t => some (t, encSync 1)
  | .syncEmit t f => some (t, encEmit f)
  | .ctlNop t n => some (t, encNop n)
  | .ctlLoop t count body => some (t, encLoop count body)
  | .ctlSkip t f => some (t, encSkip f)
  | .ctlXset t xd imm => some (t, encXset xd imm)
  | .ctlXadd t xd xa imm => some (t, encXadd xd xa imm)
  | .ctlXld t xd lop word => some (t, encXld xd lop word)
  | .ctlXent t xd ent field => some (t, encXent xd ent field)
  | .pwrDecl t tokens => some (t, encDecl tokens)
  | .pwrWaitwin t => some (t, encWaitwin)
  | _ => none

/-- Tile `t` of partition `p` runs and its Spindle fetches `w`, a legal word with good parity (R46, R249). -/
structure Fetches (s : State) (t p : Nat) (w : DWord) : Prop where
  tile : tileOk t = true
  loaded : (s.spin t).part = some p
  prog : (s.part p).prog.isSome = true
  run : (s.part p).stop = .run
  fetched : SMap.get 0 (s.spin t).words (s.spin t).pc = w
  parity : SMap.get 0 (s.spin t).parity (s.spin t).pc = wordParity w
  legal : wordLegal w = true
  going : (s.spin t).sync.miled = false

/-- The word that the Spindle fetches finds nothing to wait for: no pending pass, receive or landing, no unit, register or line held, no
credit to send first, tokens and grant enough, lead to spare by the oldest value that the tree can deliver, no squash (R46, R47, R49,
R50, R62, R206, R247, R248, R284). -/
structure ReadyAt (s : State) (t p : Nat) (w : DWord) : Prop extends Fetches s t p w where
  squash : (s.spin t).squash = 0
  entry : s.ctxInvalid p t w = false
  passes : (s.spin t).passes = []
  recvs : (s.spin t).recvs = []
  lands : (s.spin t).lands = []
  free : (s.spin t).holds = [] ∧ (s.spin t).uses = [] ∧ (s.spin t).lineUses = []
  due : (s.spin t).credDue = []
  done : (s.spin t).done = 0
  lead : ∀ r, s.leadRooms p t = some r → turnsOf w ≤ r.1
  tokens : tokenCost w ≤ (s.spin t).tokens
  granted : tokenCost w ≠ 0 → (s.spin t).granted = true
  grant : tokenCost w ≤ (s.spin t).grant

/-- Registers that counting slots changes: TRN_WDG and the CNT block (R74, R599, R606). -/
def slotReg (a : Nat) : Bool := a == Reg.trnWdg || a / 2 ^ 20 == Reg.cntStatus / 2 ^ 20

/-- The state but for what a slot touches: registers, Spindles, partitions, physical tiles, events, Hank queues. -/
def State.besideSlot (s : State) : State :=
  { s with regs := [], spindles := [], parts := [], tiles := [], events := State.reset.events, serve := { s.serve with queues := [] } }
/-- A physical tile but for its event counters. -/
def PhysTile.besideCnt (x : PhysTile) : PhysTile := { x with cnt := [], prev := [] }

/-- What a slot of tile `t` of partition `p` leaves alone when its instruction writes nothing outside its own Spindle: every register
but those of `R`, every other Spindle and partition, of the tiles all but their event counters, every Hank queue but the event queue,
and all the rest of the state, memory included. -/
structure SlotFrame (R : Nat → Bool) (s s' : State) (p t : Nat) : Prop where
  regs : ∀ a i, a < 2 ^ 24 → R a = false → s'.reg a i = s.reg a i
  spins : ∀ u, u ≠ t → s'.spin u = s.spin u
  parts : ∀ q, q ≠ p → s'.part q = s.part q
  part : (s'.part p) = { s.part p with stopped := (s'.part p).stopped, told := (s'.part p).told }
  tiles : ∀ q, (s'.tile q).besideCnt = (s.tile q).besideCnt
  queues : ∀ q, q ≠ 16 → s'.hank q = s.hank q
  rest : s'.besideSlot = s.besideSlot

/-- What an instruction that uses no channel, pass or hold record leaves alone of its own Spindle. -/
structure SpinFrame (sp sp' : Spindle) : Prop where
  store : sp'.part = sp.part ∧ sp'.words = sp.words ∧ sp'.parity = sp.parity ∧ sp'.len = sp.len ∧ sp'.restart = sp.restart
  channels : sp'.recv = sp.recv ∧ sp'.send = sp.send
  pending : sp'.passes = sp.passes ∧ sp'.recvs = sp.recvs ∧ sp'.lands = sp.lands ∧ sp'.replays = sp.replays ∧ sp'.hold = sp.hold
  power : sp'.grant = sp.grant ∧ sp'.granted = sp.granted
  records : sp'.credDue = sp.credDue ∧ sp'.bare = sp.bare

/-- Tile `t` retires the word `w` in `n` Turns: the next word of R244 and R283, its occurrence counted, its tokens charged, its program
store untouched. -/
structure Retired (s s' : State) (t : Nat) (w : DWord) (n : Nat) : Prop where
  turn : (s'.spin t).turn = (s.spin t).turn + BitVec.ofNat 64 n
  pc : (s'.spin t).pc = (loopNext (s.spin t).pc (s.spin t).len (s.spin t).restart (s.spin t).frames).1
  occ : SMap.get 0 (s'.spin t).occ (s.spin t).pc = SMap.get 0 (s.spin t).occ (s.spin t).pc + 1
  tokens : (s'.spin t).tokens = (s.spin t).tokens - tokenCost w
  part : (s'.spin t).part = (s.spin t).part
  words : (s'.spin t).words = (s.spin t).words
  parity : (s'.spin t).parity = (s.spin t).parity

/-- Index and vector registers of tile `t` are unchanged. -/
def SameXV (s s' : State) (t : Nat) : Prop :=
  (∀ i, (s'.spin t).xr i = (s.spin t).xr i) ∧ (∀ i, (s'.spin t).vr i = (s.spin t).vr i)

/-- The word retires in one Turn and writes index register `xd` alone: X0 takes no value (R245). -/
def WritesX (s : State) (p t : Nat) (w : DWord) (xd v : Nat) (s' : State) : Prop :=
  Retired s s' t w 1 ∧ SpinFrame (s.spin t) (s'.spin t) ∧ SlotFrame slotReg s s' p t ∧
    (∀ i, (s'.spin t).xr i = if i = xd ∧ i ≠ 0 then v % 2 ^ 32 else (s.spin t).xr i) ∧
    (∀ i, (s'.spin t).vr i = (s.spin t).vr i) ∧ (s'.spin t).sync = (s.spin t).sync ∧ (s'.spin t).squash = 0 ∧
    (s'.spin t).frames = (loopNext (s.spin t).pc (s.spin t).len (s.spin t).restart (s.spin t).frames).2

/-- Tile `t` has `n` vector registers from `vd` written and every other register as before: register `vd + k` has tag `tag k` and
lanes `g k`. -/
def LanesAre (s : State) (t vd n : Nat) (tag : Nat → Nat) (g : Nat → Nat → Word) (s' : State) : Prop :=
  (∀ k, k < n → ((s'.spin t).vr (vd + k)).tag = tag k ∧ ∀ j, j < 128 → ((s'.spin t).vr (vd + k)).lane j = g k j) ∧
    (∀ i, i < vd ∨ vd + n ≤ i → (s'.spin t).vr i = (s.spin t).vr i) ∧ (∀ i, (s'.spin t).xr i = (s.spin t).xr i)

/-- The word retires in one Turn and writes `n` vector registers from `vd` alone. -/
def WritesV (R : Nat → Bool) (s : State) (p t : Nat) (w : DWord) (vd n : Nat) (tag : Nat → Nat) (g : Nat → Nat → Word) (s' : State) :
    Prop :=
  Retired s s' t w 1 ∧ SpinFrame (s.spin t) (s'.spin t) ∧ SlotFrame R s s' p t ∧ LanesAre s t vd n tag g s'

/-- The word retires in `n` Turns and leaves index and vector registers and the pending work of its Spindle alone. -/
def KeepsXV (s : State) (t : Nat) (w : DWord) (n : Nat) (s' : State) : Prop :=
  Retired s s' t w n ∧ SpinFrame (s.spin t) (s'.spin t) ∧ SameXV s s' t

/-- The slice bytes of tile `t` from `a` on hold `bs`, and every other slice byte is as before. -/
def SliceHolds (s s' : State) (t a : Nat) (bs : Bytes) : Prop :=
  (∀ i, i < bs.length → s'.sliceByte t (a + i) = bs.getD i 0) ∧
    ∀ u b, u < 4096 → b < Config.sliceBytes → (u ≠ t ∨ b < a ∨ a + bs.length ≤ b) → s'.sliceByte u b = s.sliceByte u b

/-- The registers of one block of the register space, beside those that slots count in. -/
def slotOrBlock (r : Nat) (a : Nat) : Bool := slotReg a || a / 2 ^ 20 == r / 2 ^ 20

/-- `n` registers from `v` carry a tag. -/
def Tagged (s : State) (t v n tag : Nat) : Prop := ∀ k, k < n → ((s.spin t).vr (v + k)).tag = tag
/-- `n` lines from `line` lie in the partition's slice window. -/
def LinesOk (s : State) (p line n : Nat) : Prop := ∀ k, k < n → s.lineOk p (line + k) = true

/-- A channel whose next `n` entries are good DATA flits of 64 bytes with the tag and format of a receive (R269). -/
def dataWaits (s : State) (t : Nat) (f : MovF) (n : Nat) : Prop :=
  ((s.spin t).recvCh f.ch.toNat).valid = true ∧ ((s.spin t).recvCh f.ch.toNat).gap = none ∧
    n ≤ ((s.spin t).recvCh f.ch.toNat).entries.length ∧
    (((s.spin t).recvCh f.ch.toNat).held = true →
      n ≤ ((s.spin t).recvCh f.ch.toNat).depth - ((s.spin t).recvCh f.ch.toNat).heldCnt) ∧
    ∀ k, k < n → ∀ g, ((s.spin t).recvCh f.ch.toNat).entries[k]? = some g →
      g.kind = 0 ∧ g.tag = f.tag.toNat ∧ g.fmt = f.fmt.toNat ∧ g.payload.length = 64

/-- The channel's `n` entries have been consumed: a held channel keeps their credits, another's wait for the first Turn after this one in
which the send side is free, and no flit has gone (R206, R270). -/
def entriesConsumed (s s' : State) (t ch n : Nat) : Prop :=
  (s'.spin t).recvCh ch = { (s.spin t).recvCh ch with
      entries := ((s.spin t).recvCh ch).entries.drop n
      heldCnt := if ((s.spin t).recvCh ch).held then ((s.spin t).recvCh ch).heldCnt + n else ((s.spin t).recvCh ch).heldCnt } ∧
    (s'.spin t).credDue = (if ((s.spin t).recvCh ch).held then [] else [(ch, n)]) ∧ s'.flits = s.flits

/-! ## Commands beside the Spindles' -/

/-- An event with this code and detail has been raised: it took the next SEQ, and its record, with the time counter as its stamp, is
among the newest of the event log where the budget leaves room for it (R593-R596). -/
def Raised (s s' : State) (code : Nat) (detail : Bytes) : Prop :=
  s'.events.seq = s.events.seq + 1 ∧
    (2 ≤ s.events.budget → ∃ r ∈ s'.events.log.take 2, leNat r 0 2 = code ∧ leNat r 4 4 = s.events.seq.toNat ∧
      leNat r 8 8 = s'.time.cnt.toNat ∧ r.drop 16 = padTo 16 detail)

/-- The state but for the register store, the event machinery and the Hank queues. -/
def State.besideEvents (s : State) : State :=
  { s with regs := [], events := State.reset.events, serve := { s.serve with queues := [] } }

/-- Nothing changes but the event machinery with its CNT registers and its event queue, and the registers listed. -/
structure OnlyEvents (L : List Nat) (s s' : State) : Prop where
  regs : ∀ a i, a < 2 ^ 24 → a / 2 ^ 20 ≠ Reg.cntStatus / 2 ^ 20 → a ∉ L → s'.reg a i = s.reg a i
  queues : ∀ q, q ≠ 16 → s'.hank q = s.hank q
  rest : s'.besideEvents = s.besideEvents

/-- No register changes but those listed. -/
def OnlyRegs (L : List Nat) (s s' : State) : Prop := ∀ a i, a < 2 ^ 24 → a ∉ L → s'.reg a i = s.reg a i

/-- Messages leave in order; a RoCEv2 packet of a paused port is held back instead (R463). -/
def Sent (s s' : State) (ms : List OutMsg) : Prop :=
  s'.out = (ms.foldl State.send s).out ∧ s'.net = (ms.foldl State.send s).net

/-- A context reaches a register: it is live, the module is not in fallback, the register's instance is selected (R16-R20). -/
structure CanReach (s : State) (c addr inst : Nat) : Prop where
  live : s.ctxLive c = true
  up : s.inFallback = false
  place : s.place c addr = some inst
  chosen : addr % 0x100000 < 0x80000 ∨ (s.selected c (addr / 0x100000)).isSome = true
/-- A context reaches a register whose block is quiescent: its HELD fields take a write (R535, R537). -/
structure CanWrite (s : State) (c addr inst : Nat) : Prop extends CanReach s c addr inst where
  quiet : s.quiet addr inst = true

/-- A write of context `c` has ended with an outcome of R535. -/
def Ends (s' : State) (c outcome : Nat) : Prop := s'.reg Reg.cfgWstat c = outcome

/-- The loader answers context `c` with a result (R301): where its response queue has room, one RESPONSE message of 32 bytes that starts
with `head`. -/
def Responds (s s' : State) (c : Nat) (head : Bytes) (result : Nat) : Prop :=
  5 ≤ s.hankFree (23 + c) → (s.hank (23 + c)).overrun = false → (s.hank (23 + c)).discard = 0 →
    ∃ body : Bytes, body.length = 32 ∧ body.take 4 = head ∧ leNat body 4 2 = result ∧
      (s'.hank (23 + c)).words = (s.hank (23 + c)).words ++
        (lengthWord 32 (byteAt head 1 % 16) 5 :: wordsOf body).map fun w => (w, hamCheck w)

/-- One entry has joined the open notice of a partition (R354). -/
def Noticed (s s' : State) (p : Nat) (id rtag : Word) (op status : Nat) : Prop :=
  (s.servPart p).notice.length < 63 → (s'.servPart p).notice = (s.servPart p).notice ++ [⟨id, rtag, op, status⟩]

/-- One context-transfer message goes to a device (R348, R472): the links and what leaves on them are as after sending it alone. -/
def SendsCtx (s s' : State) (dev spart dpart : Nat) (id : Word) (body : Bytes) : Prop :=
  (∀ l, s'.link l = (s.sendContext dev spart dpart id body).link l) ∧ s'.out = (s.sendContext dev spart dpart id body).out

/-- A job of a slot has ended with a result and a list index (R372, R415). -/
def JobEnded (s' : State) (j result index : Nat) : Prop :=
  s'.job j = Job.init ∧ s'.fld Reg.wgtJobStat j 2 0 = 4 ∧ s'.fld Reg.wgtJobStat j 11 8 = result ∧ s'.fld Reg.wgtJobStat j 27 16 = index

end Sys2Proof.Machine
end

