-- ==== Sys2Proof/Certificates/Slice0/Obligations.lean ====
section
/-! DEFINITION. The statements for the provers. A statement names the rules of spec/ that it rests on; `Runs s c P` says that command
`c` answers a next state with the property. -/

open Sys2Proof Sys2Proof.Machine

/-! ## Spindle instructions -/

/-- R245, R251, R282, R285, R286, R287: XSET, XADD, XLD and XENT write X[XD] and nothing else; a write to X0 has no effect. DECL sets the
grant of the next district window; WAITWIN retires once the boundary has fallen and waits before. The model's choices and readings in it:
log entries 9 and 12. -/
def Obligations.IndexAndPowerInstructions : Prop :=
  (∀ (s : State) (t : BitVec 12) (p : Nat) (xd : BitVec 4),
     (∀ imm : Word, ReadyAt s t.toNat p (encXset xd imm) →
       Runs s (.ctlXset t xd imm) (WritesX s p t.toNat (encXset xd imm) xd.toNat imm.toNat)) ∧
     (∀ (xa : BitVec 4) (imm : Word), ReadyAt s t.toNat p (encXadd xd xa imm) →
       Runs s (.ctlXadd t xd xa imm)
         (WritesX s p t.toNat (encXadd xd xa imm) xd.toNat ((s.spin t.toNat).xr xa.toNat + imm.toNat))) ∧
     (∀ (lop : Lop) (word : BitVec 4), ReadyAt s t.toNat p (encXld xd lop word) →
       s.lineOk p ((s.spin t.toNat).lop lop) = true →
       Runs s (.ctlXld t xd lop word) (WritesX s p t.toNat (encXld xd lop word) xd.toNat
         (leNat (s.sliceRead t.toNat (64 * (s.spin t.toNat).lop lop + 4 * word.toNat) 4) 0 4))) ∧
     (∀ (ent : Ent) (field : BitVec 4), ReadyAt s t.toNat p (encXent xd ent field) →
       (s.spin t.toNat).ent ent ≤ 255 →
       Runs s (.ctlXent t xd ent field) (WritesX s p t.toNat (encXent xd ent field) xd.toNat
         (s.xent p t.toNat ((s.spin t.toNat).ent ent) field.toNat)))) ∧
  (∀ (s : State) (t : BitVec 12) (p : Nat),
     (∀ n : BitVec 12, ReadyAt s t.toNat p (encDecl n) →
       Runs s (.pwrDecl t n) fun s' => KeepsXV s t.toNat (encDecl n) 1 s' ∧ SlotFrame slotReg s s' p t.toNat ∧
         (s'.spin t.toNat).nextGrant = n.toNat) ∧
     (ReadyAt s t.toNat p encWaitwin → (s.spin t.toNat).sync.win = 2 →
       Runs s (.pwrWaitwin t) fun s' => KeepsXV s t.toNat encWaitwin 1 s' ∧ SlotFrame slotReg s s' p t.toNat ∧
         (s'.spin t.toNat).sync.win = 0 ∧ (s'.spin t.toNat).nextGrant = (s.spin t.toNat).nextGrant) ∧
     (ReadyAt s t.toNat p encWaitwin → (s.spin t.toNat).sync.win ≠ 2 →
       Runs s (.pwrWaitwin t) fun s' => (s'.spin t.toNat).pc = (s.spin t.toNat).pc ∧
         (s'.spin t.toNat).turn = (s.spin t.toNat).turn ∧ (s'.spin t.toNat).sync.win = 1 ∧
         (s'.spin t.toNat).wait = ⟨3, none, false⟩ ∧ SlotFrame slotReg s s' p t.toNat))

/-- R246, R282, R283, R284: NOP takes N Turns; LOOP opens a loop of BODY words with COUNT iterations; SKIP squashes among the next N words
exactly when its signed comparison holds. After the last word of an open loop with iterations left, the next word is the loop's first;
with none left, the word after it, the image's last word wrapping to the restart address (R244). The model's choices and readings in it:
log entries 9, 12 and 13. -/
def Obligations.ControlFlowInstructions : Prop :=
  (∀ (s : State) (t : BitVec 12) (p : Nat),
     (∀ n : BitVec 12, ReadyAt s t.toNat p (encNop n) →
       Runs s (.ctlNop t n) fun s' => KeepsXV s t.toNat (encNop n) (n.toNat + 1) s' ∧ SlotFrame slotReg s s' p t.toNat ∧
         (s'.spin t.toNat).squash = 0) ∧
     (∀ (count : BitVec 16) (body : BitVec 12), ReadyAt s t.toNat p (encLoop count body) → 0 < body.toNat →
       Runs s (.ctlLoop t count body) fun s' =>
         (s'.spin t.toNat).pc = (s.spin t.toNat).pc + 1 ∧
         (s'.spin t.toNat).frames =
           ⟨(s.spin t.toNat).pc + 1, (s.spin t.toNat).pc + body.toNat, count.toNat⟩ :: (s.spin t.toNat).frames ∧
         (s'.spin t.toNat).turn = (s.spin t.toNat).turn + BitVec.ofNat 64 1 ∧ SpinFrame (s.spin t.toNat) (s'.spin t.toNat) ∧
         (∀ i, (s'.spin t.toNat).xr i = (s.spin t.toNat).xr i) ∧ (∀ i, (s'.spin t.toNat).vr i = (s.spin t.toNat).vr i) ∧
         SlotFrame slotReg s s' p t.toNat) ∧
     (∀ f : SkipF, ReadyAt s t.toNat p (encSkip f) →
       Runs s (.ctlSkip t f) fun s' => KeepsXV s t.toNat (encSkip f) 1 s' ∧ SlotFrame slotReg s s' p t.toNat ∧
         ∃ b : Bool, (s'.spin t.toNat).squash = (if b then f.n.toNat else 0) ∧
           (f.cond = 0 → (b = true ↔ (BitVec.ofNat 32 ((s.spin t.toNat).xr f.xa.toNat)).toInt = f.imm.toInt)) ∧
           (f.cond = 1 → (b = true ↔ (BitVec.ofNat 32 ((s.spin t.toNat).xr f.xa.toNat)).toInt ≠ f.imm.toInt)) ∧
           (f.cond = 2 → (b = true ↔ (BitVec.ofNat 32 ((s.spin t.toNat).xr f.xa.toNat)).toInt < f.imm.toInt)) ∧
           (f.cond = 3 → (b = true ↔ f.imm.toInt ≤ (BitVec.ofNat 32 ((s.spin t.toNat).xr f.xa.toNat)).toInt)))) ∧
  (∀ (pc len restart : Nat) (f : LoopFrame) (fs : List LoopFrame),
     (f.last = pc → 0 < f.left → loopNext pc len restart (f :: fs) = (f.first, { f with left := f.left - 1 } :: fs)) ∧
     (f.last = pc → f.left = 0 → loopNext pc len restart (f :: fs) = loopNext pc len restart fs) ∧
     (f.last ≠ pc → loopNext pc len restart (f :: fs) = (pc + 1, f :: fs)) ∧
     (pc + 1 < len → loopNext pc len restart [] = (pc + 1, [])) ∧
     (len ≤ pc + 1 → loopNext pc len restart [] = (restart, [])))

/-- R284, R276, R49, R74, R249, R288, R309, R310: while words remain to be squashed, a word of the classes WARP, WEFT, VEC, CVT and CTX
takes one Turn as a wasted slot without its effect: no register, memory or token changes, and it counts as an issue for its occurrence. It
retires nothing, so the partition's watchdog goes on. A word whose stored parity is wrong, or that is illegal, faults with FAULT_PARITY
whatever the word is: it has no effect, the Spindle stays at it, and its partition stops, the tile's own part at once: what is in flight
for it is dropped. The model's choices and readings in it: log entries 12 and 17. -/
def Obligations.SquashedAndBadWords : Prop :=
  (∀ (s : State) (c : Instr) (t : BitVec 12) (w : DWord) (p : Nat), spindleWord c = some (t, w) → Fetches s t.toNat p w →
    ((s.spin t.toNat).squash ≠ 0 ∧ wCls w ∈ [0, 1, 2, 3, 6] ∨ s.ctxInvalid p t.toNat w = true) →
    (∀ r, s.leadRooms p t.toNat = some r → 1 ≤ r.1) → (s.spin t.toNat).credDue = [] →
    Runs s c fun s' => (s'.spin t.toNat).turn = (s.spin t.toNat).turn + BitVec.ofNat 64 1 ∧
      (s'.spin t.toNat).pc = (loopNext (s.spin t.toNat).pc (s.spin t.toNat).len (s.spin t.toNat).restart (s.spin t.toNat).frames).1 ∧
      SMap.get 0 (s'.spin t.toNat).occ (s.spin t.toNat).pc = SMap.get 0 (s.spin t.toNat).occ (s.spin t.toNat).pc + 1 ∧
      (s'.spin t.toNat).squash = (s.spin t.toNat).squash - 1 ∧ (s'.spin t.toNat).tokens = (s.spin t.toNat).tokens ∧
      (s'.spin t.toNat).x = (s.spin t.toNat).x ∧ (s'.spin t.toNat).v = (s.spin t.toNat).v ∧
      SpinFrame (s.spin t.toNat) (s'.spin t.toNat) ∧ SlotFrame slotReg s s' p t.toNat ∧
      s.fld Reg.trnWdg p 20 0 ≤ s'.fld Reg.trnWdg p 20 0 ∧ (s'.part p).stopped = (s.part p).stopped) ∧
  ∀ (s : State) (c : Instr) (t : BitVec 12) (w : DWord) (p : Nat), spindleWord c = some (t, w) → tileOk t.toNat = true →
    (s.spin t.toNat).part = some p → (s.part p).prog.isSome = true → (s.part p).stop = .run →
    (s.spin t.toNat).sync.miled = false → (s.spin t.toNat).credDue = [] → (s.part p).runKind ≠ .standIn →
    (SMap.get 0 (s.spin t.toNat).parity (s.spin t.toNat).pc ≠ wordParity (SMap.get 0 (s.spin t.toNat).words (s.spin t.toNat).pc) ∨
      wordLegal (SMap.get 0 (s.spin t.toNat).words (s.spin t.toNat).pc) = false) →
    Runs s c fun s' => (s'.part p).stop = .fault ∧
      (∃ r, (s'.part p).faults = (s.part p).faults ++ [r] ∧ leNat r 0 2 = 0x1008 ∧ leNat r 2 2 = (t.toNat + 4096 * p) % 65536) ∧
      (s'.spin t.toNat).pc = (s.spin t.toNat).pc ∧ (s'.spin t.toNat).turn = (s.spin t.toNat).turn ∧
      (s'.spin t.toNat).x = (s.spin t.toNat).x ∧ (s'.spin t.toNat).v = (s.spin t.toNat).v ∧
      s'.slices = s.slices ∧ s'.stackMem = s.stackMem ∧
      s'.flits = s.flits.filter fun f => !flitTo [t.toNat] f

/-- R47, R49, R50, R246: whatever a Spindle instruction does, its tile takes no more Turns than the lead limit leaves it past the slowest
other tile of its partition, and no more than the oldest value of the progress tree leaves where that is still the value delivered. The
model's choices and readings in it: log entries 12 and 14. -/
def Obligations.NoSpindlePassesTheLeadLimit : Prop :=
  ∀ (s : State) (c : Instr) (t : BitVec 12) (w : DWord) (p : Nat), spindleWord c = some (t, w) → tileOk t.toNat = true →
    (s.spin t.toNat).part = some p →
    Runs s c fun s' => ∃ k, (s'.spin t.toNat).turn = (s.spin t.toNat).turn + BitVec.ofNat 64 k ∧
      ∀ r, s.leadRooms p t.toNat = some r → k ≤ r.2 ∧ ((∀ n, Config.treeDelivers n = false) → k ≤ r.1)

/-- R181, R252, R260, R261: FMA, ADD, MUL, MAX, MIN, IMAC and SEL on CNT registers: every lane of every destination register gets the
operation of the same lane of the sources, integers wrapping in 32 bits and floats rounded once; nothing else changes. The model's choices
and readings in it: log entries 9 and 12. -/
def Obligations.VectorLaneArithmetic : Prop :=
  ∀ (s : State) (t : BitVec 12) (p : Nat) (f : VecF) (n tag : Nat) (A B C D : Nat → Nat → Word),
    n = f.cnt.toNat + 1 → tag = tyTag f.ty.toNat → f.vd.toNat + n ≤ 32 → f.va.toNat + n ≤ 32 → f.vb.toNat + n ≤ 32 →
    Tagged s t.toNat f.va.toNat n tag → Tagged s t.toNat f.vb.toNat n tag →
    (∀ k j, A k j = ((s.spin t.toNat).vr (f.va.toNat + k)).lane j) → (∀ k j, B k j = ((s.spin t.toNat).vr (f.vb.toNat + k)).lane j) →
    (∀ k j, C k j = ((s.spin t.toNat).vr (f.vc.toNat + k)).lane j) → (∀ k j, D k j = ((s.spin t.toNat).vr (f.vd.toNat + k)).lane j) →
    (ReadyAt s t.toNat p (encVec 1 f) → Runs s (.vecAdd t f) (WritesV slotReg s p t.toNat (encVec 1 f) f.vd.toNat n (fun _ => tag)
      fun k j => if f.ty = 2 then A k j + B k j else toLane tag ((laneNum tag (A k j)).add (laneNum tag (B k j))))) ∧
    (ReadyAt s t.toNat p (encVec 2 f) → Runs s (.vecMul t f) (WritesV slotReg s p t.toNat (encVec 2 f) f.vd.toNat n (fun _ => tag)
      fun k j => if f.ty = 2 then A k j * B k j else toLane tag ((laneNum tag (A k j)).mul (laneNum tag (B k j))))) ∧
    (ReadyAt s t.toNat p (encVec 3 f) → Runs s (.vecMax t f) (WritesV slotReg s p t.toNat (encVec 3 f) f.vd.toNat n (fun _ => tag)
      fun k j => if f.ty = 2 then (if (A k j).toInt < (B k j).toInt then B k j else A k j)
        else toLane tag ((laneNum tag (A k j)).max (laneNum tag (B k j))))) ∧
    (ReadyAt s t.toNat p (encVec 4 f) → Runs s (.vecMin t f) (WritesV slotReg s p t.toNat (encVec 4 f) f.vd.toNat n (fun _ => tag)
      fun k j => if f.ty = 2 then (if (B k j).toInt < (A k j).toInt then B k j else A k j)
        else toLane tag ((laneNum tag (A k j)).min (laneNum tag (B k j))))) ∧
    (ReadyAt s t.toNat p (encVec 10 f) → f.ty = 2 → Tagged s t.toNat f.vd.toNat n 2 →
      Runs s (.vecImac t f) (WritesV slotReg s p t.toNat (encVec 10 f) f.vd.toNat n (fun _ => 2) fun k j => D k j + A k j * B k j)) ∧
    (ReadyAt s t.toNat p (encVec 0 f) → f.vc.toNat + n ≤ 32 →
      (∀ k, k < n → ((s.spin t.toNat).vr (f.vc.toNat + k)).tag = tag ∨
        tag = 5 ∧ ((s.spin t.toNat).vr (f.vc.toNat + k)).tag = 6) →
      Runs s (.vecFma t f) (WritesV slotReg s p t.toNat (encVec 0 f) f.vd.toNat n
        (fun k => ((s.spin t.toNat).vr (f.vc.toNat + k)).tag)
        fun k j => if f.ty = 2 then A k j * B k j + C k j else
          toLane ((s.spin t.toNat).vr (f.vc.toNat + k)).tag
            (((laneNum tag (A k j)).mul (laneNum tag (B k j))).add (laneNum ((s.spin t.toNat).vr (f.vc.toNat + k)).tag (C k j))))) ∧
    (ReadyAt s t.toNat p (encVec 15 f) → f.vc.toNat + n ≤ 32 →
      Runs s (.vecSel t f) (WritesV slotReg s p t.toNat (encVec 15 f) f.vd.toNat n (fun _ => tag)
        fun k j => if (C k j).msb then B k j else A k j))

/-- R262, R263: EXP, RSQRT and RCP write the helper of each lane into FP32 registers, whatever the destination carried before. RSUM and
RMAX reduce each register by seven levels of pairs in lane order, then the registers left to right, into lane 0 of VD; the other lanes are
+0. -/
def Obligations.VectorHelpersAndReductions : Prop :=
  (∀ (s : State) (t : BitVec 12) (p : Nat) (f : VecF) (n tag : Nat),
     n = f.cnt.toNat + 1 → tag = tyTag f.ty.toNat → f.vd.toNat + n ≤ 32 → f.va.toNat + n ≤ 32 → Tagged s t.toNat f.va.toNat n tag →
     (ReadyAt s t.toNat p (encVec 5 f) → Runs s (.vecExp t f) (WritesV slotReg s p t.toNat (encVec 5 f) f.vd.toNat n (fun _ => 6)
       fun k j => fpExp (laneNum tag (((s.spin t.toNat).vr (f.va.toNat + k)).lane j)))) ∧
     (ReadyAt s t.toNat p (encVec 6 f) → Runs s (.vecRsqrt t f) (WritesV slotReg s p t.toNat (encVec 6 f) f.vd.toNat n (fun _ => 6)
       fun k j => fpRsqrt (laneNum tag (((s.spin t.toNat).vr (f.va.toNat + k)).lane j)))) ∧
     (ReadyAt s t.toNat p (encVec 7 f) → Runs s (.vecRcp t f) (WritesV slotReg s p t.toNat (encVec 7 f) f.vd.toNat n (fun _ => 6)
       fun k j => fpRcp (laneNum tag (((s.spin t.toNat).vr (f.va.toNat + k)).lane j))))) ∧
  (∀ (s : State) (t : BitVec 12) (p : Nat) (f : VecF) (n tag : Nat) (L : List (List Word)),
     n = f.cnt.toNat + 1 → tag = tyTag f.ty.toNat → f.va.toNat + n ≤ 32 → Tagged s t.toNat f.va.toNat n tag →
     L = ((List.range n).map fun k => (List.range 128).map fun j =>
       toFP32 (laneNum tag (((s.spin t.toNat).vr (f.va.toNat + k)).lane j))) →
     (ReadyAt s t.toNat p (encVec 8 f) → Runs s (.vecRsum t f) (WritesV slotReg s p t.toNat (encVec 8 f) f.vd.toNat 1 (fun _ => 6)
       fun _ j => if j = 0 then reduceRegs fpAdd L else 0)) ∧
     (ReadyAt s t.toNat p (encVec 9 f) → Runs s (.vecRmax t f) (WritesV slotReg s p t.toNat (encVec 9 f) f.vd.toNat 1 (fun _ => 6)
       fun _ j => if j = 0 then reduceRegs fpMax L else 0)))

/-- R263: on 128 lanes the seven levels of pairs give lane sums over the two halves of every level: the reduction of 2m lanes is the
operation of the reductions of its first and its last m lanes, for every power of two m. -/
def Obligations.ReductionTreeSplitsInHalves : Prop :=
  ∀ (g : Word → Word → Word) (k : Nat) (a b : List Word), a.length = 2 ^ k → b.length = 2 ^ k →
    ((List.range (k + 1)).foldl (fun l _ => pairUp g l) (a ++ b)).headD 0 =
      g (((List.range k).foldl (fun l _ => pairUp g l) a).headD 0) (((List.range k).foldl (fun l _ => pairUp g l) b).headD 0)

/-- R252, R261: LD loads consecutive lines into consecutive registers, ST stores them back, BCAST and ROT move lanes and keep the tag of
the source; ST changes the stored lines alone and LD, BCAST and ROT no memory. The model's choices and readings in it: log entries 9 and
12. -/
def Obligations.VectorMoves : Prop :=
  ∀ (s : State) (t : BitVec 12) (p : Nat) (f : VecF) (n line k : Nat),
    n = f.cnt.toNat + 1 → line = (s.spin t.toNat).lop f.lop → k = ldLines f.ty.toNat →
    (ReadyAt s t.toNat p (encVec 11 f) → f.vd.toNat + n ≤ 32 → LinesOk s p line (k * n) →
      Runs s (.vecLd t f) (WritesV slotReg s p t.toNat (encVec 11 f) f.vd.toNat n (fun _ => tyTag f.ty.toNat)
        fun i j => loadLane f.ty.toNat (s.readLines t.toNat (line + k * i) k) j)) ∧
    (ReadyAt s t.toNat p (encVec 12 f) → f.va.toNat + n ≤ 32 → LinesOk s p line (k * n) →
      Tagged s t.toNat f.va.toNat n (tyTag f.ty.toNat) →
      Runs s (.vecSt t f) fun s' => KeepsXV s t.toNat (encVec 12 f) 1 s' ∧ SlotFrame slotReg s { s' with slices := s.slices } p t.toNat ∧
        SliceHolds s s' t.toNat (64 * line) ((List.range n).flatMap fun i => (List.range 128).flatMap fun j =>
          storeLane f.ty.toNat (((s.spin t.toNat).vr (f.va.toNat + i)).lane j))) ∧
    (ReadyAt s t.toNat p (encVec 13 f) → f.vd.toNat + n ≤ 32 → f.va.toNat + n ≤ 32 →
      Runs s (.vecBcast t f) (WritesV slotReg s p t.toNat (encVec 13 f) f.vd.toNat n
        (fun i => ((s.spin t.toNat).vr (f.va.toNat + i)).tag)
        fun i _ => ((s.spin t.toNat).vr (f.va.toNat + i)).lane f.imm.toNat)) ∧
    (ReadyAt s t.toNat p (encVec 14 f) → f.vd.toNat + n ≤ 32 → f.va.toNat + n ≤ 32 →
      Runs s (.vecRot t f) (WritesV slotReg s p t.toNat (encVec 14 f) f.vd.toNat n
        (fun i => ((s.spin t.toNat).vr (f.va.toNat + i)).tag)
        fun i j => ((s.spin t.toNat).vr (f.va.toNat + i)).lane ((j + f.imm.toNat) % 128)))

/-- R245, R260, R307, R309, R310: a VEC instruction whose register range runs past V31 takes FAULT_INDEX with cause 3 and has no effect;
one with a wrong register tag takes FAULT_FORMAT: the Spindle stays at the word and the partition stops. The model's choices and readings
in it: log entries 12 and 19. -/
def Obligations.VectorOperandFaults : Prop :=
  ∀ (s : State) (t : BitVec 12) (p : Nat) (f : VecF) (n : Nat), n = f.cnt.toNat + 1 → ReadyAt s t.toNat p (encVec 1 f) →
    (s.part p).runKind ≠ .standIn →
    (32 < f.vd.toNat + n → Runs s (.vecAdd t f) fun s' => (s'.part p).stop = .fault ∧
      (s'.spin t.toNat).pc = (s.spin t.toNat).pc ∧ (s'.spin t.toNat).v = (s.spin t.toNat).v ∧ s'.slices = s.slices ∧
      ∃ r, (s'.part p).faults = (s.part p).faults ++ [r] ∧ leNat r 0 2 = 0x1007 ∧
        leNat r 24 8 = 3 + (f.vd.toNat + n - 1) * 2 ^ 32) ∧
    (f.vd.toNat + n ≤ 32 → f.va.toNat + n ≤ 32 → f.vb.toNat + n ≤ 32 →
      ((s.spin t.toNat).vr f.va.toNat).tag ≠ tyTag f.ty.toNat →
      Runs s (.vecAdd t f) fun s' => (s'.part p).stop = .fault ∧
        (s'.spin t.toNat).pc = (s.spin t.toNat).pc ∧ (s'.spin t.toNat).v = (s.spin t.toNat).v ∧ s'.slices = s.slices ∧
        ∃ r, (s'.part p).faults = (s.part p).faults ++ [r] ∧ leNat r 0 2 = 0x1006 ∧
          leNat r 24 8 = (tyTag f.ty.toNat + ((s.spin t.toNat).vr f.va.toNat).tag * 16 + 256) % 2 ^ 64)

/-- R177, R180, R192, R194, R264, R265, R159, R266: PACK and GRAD write the converted vector from the first byte of LOP, with zeros to the
end of its last line, and no other memory; UNPK, NARW and WIDE write their registers alone. With a matching TRAINING entry and a free
write port, QW puts a quantising write of the SHADOW slot's cells under way, whatever the master values are, and a restore of the slot
would quantise the same master again (R153); without a matching entry it counts in WFT_FORM_MISS_CNT and writes nothing. The model's
choices and readings in it: log entries 9, 12 and 23. -/
def Obligations.ConversionInstructions : Prop :=
  (∀ (s : State) (t : BitVec 12) (p : Nat) (f : CvtF) (n line : Nat), n = f.cnt.toNat + 1 → line = (s.spin t.toNat).lop f.lop →
     f.vreg.toNat + n ≤ 32 →
     (ReadyAt s t.toNat p (encCvt 0 f) → f.fmt.toNat ∈ [1, 2, 3] →
       LinesOk s p line (ceilDiv (vectorBytes f.fmt.toNat (128 * n)) 64) →
       (∀ k, k < n → ((s.spin t.toNat).vr (f.vreg.toNat + k)).tag = 5 ∨ ((s.spin t.toNat).vr (f.vreg.toNat + k)).tag = 6) →
       Runs s (.cvtPack t f) fun s' => KeepsXV s t.toNat (encCvt 0 f) 1 s' ∧
         SlotFrame slotReg s { s' with slices := s.slices } p t.toNat ∧
         ∃ bs, bs = (packVector f.fmt.toNat (fun i => if f.sr then s.srOf p t.toNat i else .rne)
           ((s.spin t.toNat).values f.vreg.toNat n)).1 ∧
           SliceHolds s s' t.toNat (64 * line) (padTo (64 * ceilDiv bs.length 64) bs)) ∧
     (ReadyAt s t.toNat p (encCvt 2 f) → f.fmt.toNat = 4 → LinesOk s p line (2 * n) →
       (∀ k, k < n → ((s.spin t.toNat).vr (f.vreg.toNat + k)).tag = 5 ∨ ((s.spin t.toNat).vr (f.vreg.toNat + k)).tag = 6) →
       Runs s (.cvtGrad t f) fun s' => KeepsXV s t.toNat (encCvt 2 f) 1 s' ∧
         SlotFrame slotReg s { s' with slices := s.slices } p t.toNat ∧
         ∃ bs, bs = (gradVector (s.srOf p t.toNat) ((s.spin t.toNat).values f.vreg.toNat n)).1 ∧
           SliceHolds s s' t.toNat (64 * line) (padTo (64 * ceilDiv bs.length 64) bs)) ∧
     (ReadyAt s t.toNat p (encCvt 1 f) → 1 ≤ f.fmt.toNat ∧ f.fmt.toNat ≤ 5 →
       LinesOk s p line (ceilDiv (vectorBytes f.fmt.toNat (128 * n)) 64) →
       Runs s (.cvtUnpk t f) (WritesV slotReg s p t.toNat (encCvt 1 f) f.vreg.toNat n (fun _ => 6) fun r j =>
         toFP32 (vecValue f.fmt.toNat (s.readLines t.toNat line (ceilDiv (vectorBytes f.fmt.toNat (128 * n)) 64)) (128 * r + j)))) ∧
     (ReadyAt s t.toNat p (encCvt 3 f) → Tagged s t.toNat f.vreg.toNat n 6 →
       Runs s (.cvtNarw t f) (WritesV slotReg s p t.toNat (encCvt 3 f) f.vreg.toNat n (fun _ => 5) fun r j =>
         toBF16Lane (ofFP32 (((s.spin t.toNat).vr (f.vreg.toNat + r)).lane j)))) ∧
     (ReadyAt s t.toNat p (encCvt 4 f) → Tagged s t.toNat f.vreg.toNat n 5 →
       Runs s (.cvtWide t f) (WritesV slotReg s p t.toNat (encCvt 4 f) f.vreg.toNat n (fun _ => 6) fun r j =>
         toFP32 (ofBF16Lane (((s.spin t.toNat).vr (f.vreg.toNat + r)).lane j))))) ∧
  (∀ (s : State) (t : BitVec 12) (p : Nat) (f : CvtF) (line : Nat), line = (s.spin t.toNat).lop f.lop → f.fmt.toNat = 5 →
     ReadyAt s t.toNat p (encCvt 5 f) →
     (∀ sl, s.qwTarget t.toNat f.rank.toNat f.up = some sl →
       (s.weft (s.physOf t.toNat)).slot0.write = none → (s.weft (s.physOf t.toNat)).slot1.write = none →
       LinesOk s p line (max (if f.up then 16 * f.rank.toNat else 512 * ceilDiv f.rank.toNat 32) 1) →
       Runs s (.cvtQw t f) fun s' => KeepsXV s t.toNat (encCvt 5 f) 1 s' ∧
         SlotFrame (slotOrBlock Reg.wftStatus) s { s' with wefts := s.wefts } p t.toNat ∧
         (∀ q, q ≠ s.physOf t.toNat → s'.weft q = s.weft q) ∧
         s'.weft (s.physOf t.toNat) = { (s.weft (s.physOf t.toNat)).setSlot sl
             { (s.weft (s.physOf t.toNat)).slot sl with
               write := some ⟨(qwCells (s.srOf p t.toNat)
                 (s.readLines t.toNat line (if f.up then 16 * f.rank.toNat else 512 * ceilDiv f.rank.toNat 32))
                 ((s.weft (s.physOf t.toNat)).slot sl).scales f.rank.toNat f.up).1, true, false, false⟩ } with
           master := some line }) ∧
     (s.qwTarget t.toNat f.rank.toNat f.up = none → LinesOk s p line 1 →
       Runs s (.cvtQw t f) fun s' => KeepsXV s t.toNat (encCvt 5 f) 1 s' ∧ SlotFrame (slotOrBlock Reg.wftStatus) s s' p t.toNat ∧
         s'.reg Reg.wftFormMissCnt (s.physOf t.toNat) = (s.reg Reg.wftFormMissCnt (s.physOf t.toNat) + 1) % 2 ^ 32))

/-- R211, R268, R272, R442, R467: SEND, SENDV and POST towards a Spindle or a stack-channel unit with credits enough put N flits on the
Interchange in order, from the slice lines, the registers or without payload, and take N credits; nothing else of the state changes but
the counts along the way. Towards an I/O-die unit, admitted by the shares and with room in the egress hold of its die, the flits enter the
hold, and the unit returns the credit of each at once. The model's choices and readings in it: log entries 9, 12, 13 and 106. -/
def Obligations.SendsPutFlitsOnTheInterchange : Prop :=
  (∀ (s : State) (t : BitVec 12) (p : Nat) (f : MovF) (n : Nat) (c : SendCh), n = f.n.toNat + 1 →
    c = (s.spin t.toNat).sendCh f.ch.toNat → c.valid = true → isIoUnit c.dest = false →
    (isUnit c.dest = true ∨ s.ownerOf c.dest = some p) → n ≤ c.credit →
    (ReadyAt s t.toNat p (encMov 4 0 f) → LinesOk s p ((s.spin t.toNat).lop f.lop) n →
      Runs s (.movSend t f) fun s' => Retired s s' t.toNat (encMov 4 0 f) 1 ∧ SameXV s s' t.toNat ∧
        s'.flits = s.flits ++ (List.range n).map (fun k => mkFlit p c.dest c.chan 0 f.fmt.toNat f.tag.toNat t.toNat
          (s.readLines t.toNat ((s.spin t.toNat).lop f.lop + k) 1)) ∧
        (s'.spin t.toNat).sendCh f.ch.toNat = { c with credit := c.credit - n } ∧ (s'.spin t.toNat).recv = (s.spin t.toNat).recv ∧
        SlotFrame (slotOrBlock Reg.ixcStatus) s { s' with flits := s.flits, lanes := s.lanes } p t.toNat) ∧
    (ReadyAt s t.toNat p (encMov 4 1 f) → f.vreg.toNat + (f.cnt.toNat + 1) ≤ 32 → (f.fmt.toNat = 5 ∨ f.fmt.toNat = 6) →
      Tagged s t.toNat f.vreg.toNat (f.cnt.toNat + 1) f.fmt.toNat →
      Runs s (.movSendv t f) fun s' => Retired s s' t.toNat (encMov 4 1 f) 1 ∧ SameXV s s' t.toNat ∧
        s'.flits = s.flits ++ (List.range n).map (fun k => mkFlit p c.dest c.chan 0 f.fmt.toNat f.tag.toNat t.toNat
          (padTo 64 (((s.spin t.toNat).vecBytes f.vreg.toNat (f.cnt.toNat + 1) f.fmt.toNat).drop (64 * k)))) ∧
        (s'.spin t.toNat).sendCh f.ch.toNat = { c with credit := c.credit - n } ∧ (s'.spin t.toNat).recv = (s.spin t.toNat).recv ∧
        SlotFrame (slotOrBlock Reg.ixcStatus) s { s' with flits := s.flits, lanes := s.lanes } p t.toNat) ∧
    (ReadyAt s t.toNat p (encMov 5 0 f) →
      Runs s (.tokPost t f) fun s' => Retired s s' t.toNat (encMov 5 0 f) 1 ∧ SameXV s s' t.toNat ∧
        s'.flits = s.flits ++ List.replicate n (mkFlit p c.dest c.chan 1 0 f.tag.toNat t.toNat []) ∧
        (s'.spin t.toNat).sendCh f.ch.toNat = { c with credit := c.credit - n } ∧ (s'.spin t.toNat).recv = (s.spin t.toNat).recv ∧
        SlotFrame (slotOrBlock Reg.ixcStatus) s { s' with flits := s.flits, lanes := s.lanes } p t.toNat)) ∧
  (∀ (s : State) (t : BitVec 12) (p : Nat) (f : MovF) (n : Nat) (c : SendCh), n = f.n.toNat + 1 →
    c = (s.spin t.toNat).sendCh f.ch.toNat → c.valid = true → isIoUnit c.dest = true → n ≤ c.credit →
    s.sendHeld p t.toNat c = false → n + s.egressUse p (dieOf c.dest) ≤ s.egressSize p (dieOf c.dest) →
    (ReadyAt s t.toNat p (encMov 4 0 f) → LinesOk s p ((s.spin t.toNat).lop f.lop) n →
      Runs s (.movSend t f) fun s' => Retired s s' t.toNat (encMov 4 0 f) 1 ∧ SameXV s s' t.toNat ∧
        (s'.part p).egress = (s.part p).egress ++ (List.range n).map (fun k => ⟨c.dest, mkFlit p c.dest c.chan 0 f.fmt.toNat f.tag.toNat
          t.toNat (s.readLines t.toNat ((s.spin t.toNat).lop f.lop + k) 1)⟩) ∧
        s'.flits = s.flits ++ List.replicate n (mkFlit p t.toNat c.chan 2 0 0 c.dest (natLe 1 64)) ∧
        (s'.spin t.toNat).sendCh f.ch.toNat = { c with credit := c.credit - n } ∧ (s'.spin t.toNat).recv = (s.spin t.toNat).recv ∧
        SlotFrame (fun a => slotOrBlock Reg.ixcStatus a || slotOrBlock Reg.intStatus a) s
          { s' with flits := s.flits, lanes := s.lanes, shares := s.shares, parts := s.parts } p t.toNat) ∧
    (ReadyAt s t.toNat p (encMov 5 0 f) →
      Runs s (.tokPost t f) fun s' => Retired s s' t.toNat (encMov 5 0 f) 1 ∧ SameXV s s' t.toNat ∧
        (s'.part p).egress = (s.part p).egress ++ List.replicate n ⟨c.dest, mkFlit p c.dest c.chan 1 0 f.tag.toNat t.toNat []⟩ ∧
        s'.flits = s.flits ++ List.replicate n (mkFlit p t.toNat c.chan 2 0 0 c.dest (natLe 1 64)) ∧
        (s'.spin t.toNat).sendCh f.ch.toNat = { c with credit := c.credit - n }))

/-- R206, R269, R270, R271: RECV takes N entries that have arrived to consecutive slice lines, RECVV to registers converted to FP32, and
RECVA adds them there with one rounding; the entries leave the channel and their credits wait for the send side, or stay held. The model's
choices and readings in it: log entries 9, 12 and 16. -/
def Obligations.ReceivesTakeTheEntriesThatHaveArrived : Prop :=
  ∀ (s : State) (t : BitVec 12) (p : Nat) (f : MovF) (n c v : Nat) (bs : Bytes), n = f.n.toNat + 1 → c = f.cnt.toNat + 1 →
    v = f.vreg.toNat → dataWaits s t.toNat f n →
    bs = (((s.spin t.toNat).recvCh f.ch.toNat).entries.take n).flatMap Flit.payload →
    (ReadyAt s t.toNat p (encMov 4 2 f) → LinesOk s p ((s.spin t.toNat).lop f.lop) n →
      Runs s (.movRecv t f) fun s' => Retired s s' t.toNat (encMov 4 2 f) 1 ∧ SameXV s s' t.toNat ∧
        (s'.spin t.toNat).recvs = [] ∧ entriesConsumed s s' t.toNat f.ch.toNat n ∧
        SliceHolds s s' t.toNat (64 * (s.spin t.toNat).lop f.lop) bs ∧
        SlotFrame slotReg s { s' with slices := s.slices } p t.toNat) ∧
    (ReadyAt s t.toNat p (encMov 4 3 f) → v + c ≤ 32 → 1 ≤ f.fmt.toNat ∧ f.fmt.toNat ≤ 6 →
      Runs s (.movRecvv t f) fun s' => Retired s s' t.toNat (encMov 4 3 f) 1 ∧
        (s'.spin t.toNat).recvs = [] ∧ entriesConsumed s s' t.toNat f.ch.toNat n ∧
        LanesAre s t.toNat v c (fun _ => 6) (fun r j => toFP32 (vecValue f.fmt.toNat bs (128 * r + j))) s' ∧
        SlotFrame slotReg s s' p t.toNat) ∧
    (ReadyAt s t.toNat p (encMov 4 4 f) → v + c ≤ 32 → 1 ≤ f.fmt.toNat ∧ f.fmt.toNat ≤ 6 → Tagged s t.toNat v c 6 →
      Runs s (.movRecva t f) fun s' => Retired s s' t.toNat (encMov 4 4 f) 1 ∧
        (s'.spin t.toNat).recvs = [] ∧ entriesConsumed s s' t.toNat f.ch.toNat n ∧
        LanesAre s t.toNat v c (fun _ => 6)
          (fun r j => fpAdd (((s.spin t.toNat).vr (v + r)).lane j) (toFP32 (vecValue f.fmt.toNat bs (128 * r + j)))) s' ∧
        SlotFrame slotReg s s' p t.toNat)

/-- R206, R271, R272, R47, R268: TOK.WAIT consumes N tokens that have arrived, whose credits wait for the send side; TOK.CRED returns N
held entries in one CREDIT flit. A SEND with fewer credits than flits sends as many as it has credits for and waits on the rest at the
same word, back-starved. The model's choices and readings in it: log entries 12 and 13. -/
def Obligations.TokensAndCredits : Prop :=
  (∀ (s : State) (t : BitVec 12) (p : Nat) (f : MovF) (n : Nat) (c : RecvCh), n = f.n.toNat + 1 →
     c = (s.spin t.toNat).recvCh f.ch.toNat →
     (ReadyAt s t.toNat p (encMov 5 1 f) → c.valid = true → c.gap = none → n ≤ c.entries.length → (c.held = true → n ≤ c.depth - c.heldCnt) →
       (∀ g, g ∈ c.entries.take n → g.kind = 1 ∧ g.tag = f.tag.toNat) →
       Runs s (.tokWait t f) fun s' => Retired s s' t.toNat (encMov 5 1 f) 1 ∧ SameXV s s' t.toNat ∧
         entriesConsumed s s' t.toNat f.ch.toNat n ∧ SlotFrame slotReg s s' p t.toNat) ∧
     (ReadyAt s t.toNat p (encMov 5 2 f) → n ≤ c.heldCnt →
       Runs s (.tokCred t f) fun s' => Retired s s' t.toNat (encMov 5 2 f) 1 ∧ SameXV s s' t.toNat ∧
         (s'.spin t.toNat).recvCh f.ch.toNat = { c with heldCnt := c.heldCnt - n } ∧
         s'.flits = s.flits ++ [mkFlit p c.sender f.ch.toNat 2 0 0 t.toNat (natLe n 64)] ∧
         SlotFrame (slotOrBlock Reg.ixcStatus) s { s' with flits := s.flits, lanes := s.lanes } p t.toNat)) ∧
  (∀ (s : State) (t : BitVec 12) (p : Nat) (f : MovF) (c : SendCh), ReadyAt s t.toNat p (encMov 5 0 f) →
     c = (s.spin t.toNat).sendCh f.ch.toNat → c.valid = true → isIoUnit c.dest = false →
     (isUnit c.dest = true ∨ s.ownerOf c.dest = some p) → c.credit < f.n.toNat + 1 →
     Runs s (.tokPost t f) fun s' => (s'.spin t.toNat).pc = (s.spin t.toNat).pc ∧ (s'.spin t.toNat).turn = (s.spin t.toNat).turn ∧
       (s'.spin t.toNat).wait = ⟨2, some f.ch.toNat, false⟩ ∧ (s'.spin t.toNat).done = c.credit ∧
       ((s'.spin t.toNat).sendCh f.ch.toNat).credit = 0 ∧
       s'.flits = s.flits ++ List.replicate c.credit (mkFlit p c.dest c.chan 1 0 f.tag.toNat t.toNat []))

/-- R273, R276, R278, R27, R229: PUT copies a key and value into the block of position C + POS; XPUT writes N lines into a STACK region,
or sends them by one RDMA WRITE to a HOST region. Their lines cross the Interchange: where every arbitration point on the way admits them
they go, and the counts and shares along the way are all that changes beside. The model's choices and readings in it: log entry 12. -/
def Obligations.ContextWrites : Prop :=
  ∀ (s : State) (t : BitVec 12) (p : Nat),
    (∀ (f : PutF) (e d line pos : Nat) (b : BatchE) (x : Session), ReadyAt s t.toNat p (encPut f) →
      e = (s.spin t.toNat).ent f.ent → s.entryAt p t.toNat e = some b → s.session b.session = some x → e ≤ 255 →
      d = (if f.dim then 128 else 64) → d = s.ctxDim p → f.layer.toNat < s.ctxLayers p → f.head.toNat < s.ctxHeads p →
      line = (s.spin t.toNat).lop f.lop → LinesOk s p line (if f.dim then 5 else 3) →
      pos = b.clen + f.pos.toNat → pos < x.ctxMax →
      s.carryHeld p t.toNat (s.ctxSrc (s.ctxAddr p (x.pageOf (pos / 16)) (f.layer.toNat * s.ctxHeads p + f.head.toNat)) 0) = none →
      Runs s (.ctxPut t f) fun s' => KeepsXV s t.toNat (encPut f) 1 s' ∧
        SlotFrame (slotOrBlock Reg.ixcStatus) s { s' with slices := s.slices, stackMem := s.stackMem, shares := s.shares } p t.toNat ∧
        ∃ u, u = s.putToken (s.ctxAddr p (x.pageOf (pos / 16)) (f.layer.toNat * s.ctxHeads p + f.head.toNat)) d (pos % 16)
          (s.readLines t.toNat line (if f.dim then 5 else 3)) ∧ s'.slices = u.slices ∧ s'.stackMem = u.stackMem) ∧
    (∀ (f : XferF) (n off line : Nat) (g : Region), ReadyAt s t.toNat p (encXfer 4 f) → n = f.n.toNat + 1 →
      off = (f.off.toNat + (s.spin t.toNat).xr f.xo.toNat) % 2 ^ 32 → line = (s.spin t.toNat).lop f.lop →
      g = s.region p f.region.toNat → LinesOk s p line n → s.regionOk p g = true → off + n ≤ g.bound →
      (g.kind = 1 → (∀ k, k < n → s.carryHeld p t.toNat (s.stackUnit (g.base + off + k)) = none) →
        Runs s (.ctxXput t f) fun s' => KeepsXV s t.toNat (encXfer 4 f) 1 s' ∧
        SlotFrame (slotOrBlock Reg.ixcStatus) s { s' with stackMem := s.stackMem, shares := s.shares } p t.toNat ∧
        (∀ i, i < 64 * n → s'.stackByte (64 * (g.base + off) + i) = s.sliceByte t.toNat (64 * line + i)) ∧
        ∀ a, a < 64 * (g.base + off) ∨ 64 * (g.base + off + n) ≤ a → s'.stackByte a = s.stackByte a) ∧
      (g.kind = 2 → s.carryHeld p t.toNat engineUnit = none → s.admits (s.portPoint (s.rdmaSlot p g.win)) p [] = true →
        Runs s (.ctxXput t f) fun s' => KeepsXV s t.toNat (encXfer 4 f) 1 s' ∧
        SlotFrame (slotOrBlock Reg.ixcStatus) s { s' with out := s.out, net := s.net, shares := s.shares } p t.toNat ∧
        ∃ u, u = s.send (.rdmaWrite (s.rdmaSlot p g.win) (BitVec.ofNat 64 (g.base + 64 * off)) (s.rdmaKey p g.win)
          (s.readLines t.toNat line n)) ∧ s'.out = u.out ∧ s'.net = u.net))

/-- R275, R276, R278, R207, R229, R651: GET and XGET request the lines of NB blocks, or of a STACK region, at issue, each with the unit or
tile that it comes from; CTX_LANDING puts the next line of the oldest request into the slice. A line that a channel of the image carries
spends a credit of its stack-channel unit, whose return waits for the send side; without a credit, or with a point on the way that does
not admit it, the line waits. The model's choices and readings in it: log entries 12, 16 and 108. -/
def Obligations.ContextReadsAndLandings : Prop :=
  ∀ (s : State) (t : BitVec 12) (p : Nat),
    (∀ (f : GetF) (e d nb line first : Nat) (b : BatchE) (x : Session), ReadyAt s t.toNat p (encGet f) →
      e = (s.spin t.toNat).ent f.ent → s.entryAt p t.toNat e = some b → s.session b.session = some x → e ≤ 255 →
      d = (if f.dim then 128 else 64) → d = s.ctxDim p → f.layer.toNat < s.ctxLayers p → f.head.toNat < s.ctxHeads p →
      nb = f.nb.toNat + 1 → line = (s.spin t.toNat).lop f.lop → first = (s.spin t.toNat).xr f.xf.toNat →
      LinesOk s p line (nb * blockLines d) → first + nb ≤ ceilDiv x.ctxMax 16 →
      Runs s (.ctxGet t f) fun s' => Retired s s' t.toNat (encGet f) 1 ∧ SameXV s s' t.toNat ∧
        SlotFrame (slotOrBlock Reg.ixcStatus) s { s' with shares := s.shares } p t.toNat ∧
        ∃ A : List CtxAddr, A = (List.range nb).map (fun k =>
            s.ctxAddr p (x.pageOf (first + k)) (f.layer.toNat * s.ctxHeads p + f.head.toNat)) ∧
          (s'.spin t.toNat).lands = [⟨line, A.flatMap fun a => s.ctxRead a 0 (64 * blockLines d),
            A.flatMap fun a => (List.range (blockLines d)).map fun k => s.ctxSrc a (64 * k)⟩]) ∧
    (∀ (f : XferF) (n off line : Nat) (g : Region), ReadyAt s t.toNat p (encXfer 3 f) → n = f.n.toNat + 1 →
      off = (f.off.toNat + (s.spin t.toNat).xr f.xo.toNat) % 2 ^ 32 → line = (s.spin t.toNat).lop f.lop →
      g = s.region p f.region.toNat → g.kind = 1 → LinesOk s p line n → s.regionOk p g = true → off + n ≤ g.bound →
      Runs s (.ctxXget t f) fun s' => Retired s s' t.toNat (encXfer 3 f) 1 ∧ SameXV s s' t.toNat ∧
        SlotFrame (slotOrBlock Reg.ixcStatus) s { s' with shares := s.shares } p t.toNat ∧
        (s'.spin t.toNat).lands = [⟨line, s.stackRead (64 * (g.base + off)) (64 * n),
          (List.range n).map fun k => s.stackUnit (g.base + off + k)⟩]) ∧
    (∀ (l : LandP) (ls : List LandP) (u : Nat), tileOk t.toNat = true → (s.spin t.toNat).part = some p →
      (s.spin t.toNat).lands = l :: ls → 64 ≤ l.data.length → l.line < 4096 → l.src.head? = some u →
      (s.landBlocked t.toNat u = true → Runs s (.ctxLanding t) fun s' => s' = s) ∧
      (∀ e, s.landBlocked t.toNat u = false → s.carryHeld p u t.toNat = some e →
        Runs s (.ctxLanding t) fun s' => s' = s.countShareWait e) ∧
      (s.landBlocked t.toNat u = false → s.carryHeld p u t.toNat = none →
        Runs s (.ctxLanding t) fun s' => SliceHolds s s' t.toNat (64 * l.line) (l.data.take 64) ∧ SameXV s s' t.toNat ∧
          (s'.spin t.toNat).pc = (s.spin t.toNat).pc ∧ (s'.spin t.toNat).turn = (s.spin t.toNat).turn ∧
          (s'.spin t.toNat).lands = (if l.data.length = 64 then ls else ⟨l.line + 1, l.data.drop 64, l.src.drop 1⟩ :: ls) ∧
          (s.stackChan t.toNat u = none → s'.serve = s.serve ∧ (s'.spin t.toNat).credDue = (s.spin t.toNat).credDue) ∧
          (∀ ch c, s.stackChan t.toNat u = some (ch, c) →
            (s'.unitSend (32 * t.toNat + ch)).credit = (s.unitSend (32 * t.toNat + ch)).credit - 1 ∧
            (s'.spin t.toNat).credDue = addDue ch 1 (s.spin t.toNat).credDue) ∧
          SlotFrame (slotOrBlock Reg.ixcStatus) s { s' with slices := s.slices, shares := s.shares, serve := s.serve } p t.toNat))

/-- R277: ATTN folds the tokens of NB blocks into the output, the running maximum and the running sum, in ascending position, leaving out
positions past C + POS, with the lanes past the head dimension as they were. The model's choices and readings in it: log entries 12 and
20. -/
def Obligations.AttentionFoldsTokensInOrder : Prop :=
  ∀ (s : State) (t : BitVec 12) (p : Nat) (f : AttnF) (e d nb line vd va : Nat) (b : BatchE) (q : List Word) (init r : AttnSt),
    ReadyAt s t.toNat p (encAttn f) → e = (s.spin t.toNat).ent f.ent → e ≤ 255 → s.entryAt p t.toNat e = some b →
    d = (if f.dim then 128 else 64) → d = s.ctxDim p → nb = f.nb.toNat + 1 → line = (s.spin t.toNat).lop f.lop →
    vd = f.vd.toNat → va = f.va.toNat → vd + 2 ≤ 32 → LinesOk s p line (nb * blockLines d) →
    (((s.spin t.toNat).vr va).tag = 5 ∨ ((s.spin t.toNat).vr va).tag = 6) → (f.acc = true → Tagged s t.toNat vd 2 6) →
    q = (List.range d).map (fun j => toFP32 (laneNum ((s.spin t.toNat).vr va).tag (((s.spin t.toNat).vr va).lane j))) →
    init = (if f.acc then ⟨(List.range d).map ((s.spin t.toNat).vr vd).lane, ((s.spin t.toNat).vr (vd + 1)).lane 0,
        ((s.spin t.toNat).vr (vd + 1)).lane 1⟩ else ⟨List.replicate d 0, 0xFF800000#32, 0⟩) →
    r = (List.range (16 * nb)).foldl (fun a i =>
        if b.clen + f.pos.toNat < 16 * (s.spin t.toNat).xr f.xf.toNat + i then a
        else attnToken q a
          ((List.range d).map fun j =>
            toFP32 (vecValue 3 (s.readLines t.toNat (line + blockLines d * (i / 16)) (blockLines d)) (i % 16 * d + j)))
          ((List.range d).map fun j =>
            toFP32 (vecValue 3 (s.readLines t.toNat (line + blockLines d * (i / 16)) (blockLines d)) ((16 + i % 16) * d + j)))) init →
    Runs s (.ctxAttn t f) (WritesV slotReg s p t.toNat (encAttn f) vd 2 (fun _ => 6) fun k j =>
      if k = 0 then (if j < d then r.o.getD j 0 else ((s.spin t.toNat).vr vd).lane j)
      else if j = 0 then r.m else if j = 1 then r.l else ((s.spin t.toNat).vr (vd + 1)).lane j)

/-- R85, R96, R103, R104, R208, R255, R90: A Warp pass runs on the array that serves its index, forms its operand from the slice, leaves
its 512 results pending for VD to VD + 3 until its end Turn, counts in WRP_PASS_CNT, records its shadow readings, and reports every
checksum group that fails; registers and memory do not change at issue. At its end Turn the first pass on an index writes its results to
VD to VD + 3, or adds them there with one rounding, and leaves the array; no other register and no memory changes. It waits for a receive
that has still to write them. The model's choices and readings in it: log entries 12, 15, 21, 97, 116 and 120. -/
def Obligations.WarpPasses : Prop :=
  (∀ (s : State) (t : BitVec 12) (p : Nat) (f : WarpF) (an : WarpAnalog) (op key : Nat) (gx : Nat × List Int) (o : WarpOut),
     f.arr.toNat < 8 → f.vd.toNat % 4 = 0 → (f.sfmt = true → f.d = 0) →
     ReadyAt s t.toNat p (encWarp op f) → LinesOk s p ((s.spin t.toNat).lop f.src) (passFetch (encWarp op f)) →
     key = arrKey (s.physOf t.toNat) (s.servingIdx (s.physOf t.toNat) f.arr.toNat) →
     gx = formOperand (if f.sfmt then 2 else 1) 512 f.d.toNat
       (s.readLines t.toNat ((s.spin t.toNat).lop f.src) (passFetch (encWarp op f))) →
     o = warpRun (s.warp key) an (s.warpBase key (s.dist (districtOf (s.physOf t.toNat))).band gx.1 gx.2)
       (s.dist (districtOf (s.physOf t.toNat))).band (max 1 (bits (s.liveReg p Reg.wrpCsumTol) 7 0))
       (capOf f.cap.toNat) gx.1 (s.reg Reg.wrpPassCnt key) gx.2 →
     ∀ Q : State → Prop, (Q = fun s' => Retired s s' t.toNat (encWarp op f) 1 ∧ SameXV s s' t.toNat ∧
         (s'.spin t.toNat).passes = [⟨f.arr.toNat, key, op == 1, f.vd.toNat, o.results⟩] ∧
         s'.reg Reg.wrpPassCnt key = (s.reg Reg.wrpPassCnt key + 1) % 2 ^ 32 ∧
         s'.warp key = (s.warp key).noteShadow o.shadow ∧
         (s'.part p).detects = (s.part p).detects ++ o.bad.map (fun b => ⟨t.toNat, .warpChecksum (BitVec.ofNat 4 f.arr.toNat)
           (BitVec.ofNat 3 b.1) (BitVec.ofNat 3 b.2), (s.spin t.toNat).pc, SMap.get 0 (s.spin t.toNat).occ (s.spin t.toNat).pc⟩) ∧
         (∀ u, u ≠ t.toNat → s'.spin u = s.spin u) ∧ s'.slices = s.slices ∧ s'.stackMem = s.stackMem ∧ s'.flits = s.flits) →
       (op = 0 → Runs s (.warpPass t f an) Q) ∧
       (op = 1 → Tagged s t.toNat f.vd.toNat 4 6 → Runs s (.warpPassa t f an) Q)) ∧
  (∀ (s : State) (t : BitVec 12) (arr : BitVec 4) (r : RunPass) (post : List RunPass), tileOk t.toNat = true →
     (s.spin t.toNat).passes = r :: post → r.arr = arr.toNat → (s.spin t.toNat).recvs = [] → r.results.length = 512 →
     Runs s (.warpPassEnd t arr) fun s' => (s'.spin t.toNat).passes = post ∧
       LanesAre s t.toNat r.vd 4 (fun _ => 6) (fun k j =>
         if r.acc then fpAdd (((s.spin t.toNat).vr (r.vd + k)).lane j) (r.results.getD (128 * k + j) 0)
         else r.results.getD (128 * k + j) 0) s' ∧
       (∀ p, SlotFrame slotReg s s' p t.toNat)) ∧
  (∀ (s : State) (t : BitVec 12) (arr : BitVec 4) (r : RunPass) (post : List RunPass), tileOk t.toNat = true →
     (s.spin t.toNat).passes = r :: post → r.arr = arr.toNat → meetAny [(r.vd, 4)] (s.spin t.toNat).recvRegs = true →
     Runs s (.warpPassEnd t arr) fun s' => s' = s)

/-- R139, R140, R143, R144, R145, R258, R259: A WEFT pass takes the slot that its entry, or the TRAINING entry, selects in its array, and
writes or adds its results at once: the 512 outputs of an UP pass to four registers, the 64 of a DOWN pass to one. A pass whose checks
fail makes one detection; its ratio margin lowers WFT_QUAL, and below the threshold sends the array to RECAL. FLIP requests a flip for the
TRAINING entry that holds the tile's array, and does nothing without one. The model's choices and readings in it: log entries 12, 97 and
121. -/
def Obligations.WeftPassesAndFlips : Prop :=
  (∀ (s : State) (t : BitVec 12) (p : Nat) (f : WeftF) (an : WeftAnalog) (op : Nat) (arr : WeftArr) (sel slot : Option Bool)
     (gx : Nat × List Int) (o : WeftOut) (res : List Word),
     arr = s.weft (s.physOf t.toNat) → (f.up = true → f.vd.toNat % 4 = 0) → ReadyAt s t.toNat p (encWeft op f) →
     (f.train = true ∨ (s.spin t.toNat).ent f.ent ≤ 255) → arr.st ≠ 1 →
     sel = s.weftSelect p t.toNat arr f.train ((s.spin t.toNat).ent f.ent) →
     (∀ k, sel = some k → (arr.slot k).st ≠ .restore ∧ (arr.slot k).write = none) →
     slot = (if sel.all fun k => (arr.slot k).up == f.up then sel else none) →
     LinesOk s p ((s.spin t.toNat).lop f.src) (passFetch (encWeft op f)) →
     gx = formOperand 1 (if f.up then 64 else 512) 0 (s.readLines t.toNat ((s.spin t.toNat).lop f.src) (passFetch (encWeft op f))) →
     o = (s.weftRan (s.physOf t.toNat) slot f.up gx.1 gx.2 an).1 → res = o.results →
     ∀ (Q : Bool → State → Prop), (Q = fun acc s' => Retired s s' t.toNat (encWeft op f) 1 ∧
         LanesAre s t.toNat f.vd.toNat (if f.up then 4 else 1) (fun _ => 6) (fun k j =>
           if f.up then
             (if acc then fpAdd (((s.spin t.toNat).vr (f.vd.toNat + k)).lane j) (res.getD (128 * k + j) 0) else res.getD (128 * k + j) 0)
           else if j < 64 then (if acc then fpAdd (((s.spin t.toNat).vr f.vd.toNat).lane j) (res.getD j 0) else res.getD j 0)
           else if acc then ((s.spin t.toNat).vr f.vd.toNat).lane j else 0) s' ∧
         s'.reg Reg.wftPassCnt (s.physOf t.toNat) = (s.reg Reg.wftPassCnt (s.physOf t.toNat) + 1) % 2 ^ 32 ∧
         (s'.part p).detects = (s.part p).detects ++ (if o.bad then
           [⟨t.toNat, .weft, (s.spin t.toNat).pc, SMap.get 0 (s.spin t.toNat).occ (s.spin t.toNat).pc⟩] else []) ∧
         s'.fld Reg.wftQual (s.physOf t.toNat) 5 0 = min (s.fld Reg.wftQual (s.physOf t.toNat) 5 0) (weftMargin an slot).1 ∧
         ((weftMargin an slot).1 < s.fld Reg.wftQualCfg 0 5 0 → o.bad = true ∧ (arr.st = 0 → (s'.weft (s.physOf t.toNat)).st = 1)) ∧
         (∀ u, u ≠ t.toNat → s'.spin u = s.spin u) ∧ s'.slices = s.slices ∧ s'.stackMem = s.stackMem ∧ s'.flits = s.flits) →
       (op = 0 → Runs s (.weftPass t f an) (Q false)) ∧
       (op = 1 → Tagged s t.toNat f.vd.toNat (if f.up then 4 else 1) 6 → Runs s (.weftPassa t f an) (Q true))) ∧
  (∀ (s : State) (t : BitVec 12) (p : Nat), ReadyAt s t.toNat p encFlip →
     (∀ e, s.trainingOf (s.weft (s.physOf t.toNat)) = some e → Runs s (.weftFlip t) fun s' =>
       KeepsXV s t.toNat encFlip 1 s' ∧ s'.adapter e = { s.adapter e with flipReq := true } ∧
       (∀ a, a ≠ e → s'.adapter a = s.adapter a) ∧ SlotFrame slotReg s { s' with adapters := s.adapters } p t.toNat) ∧
     (s.trainingOf (s.weft (s.physOf t.toNat)) = none → Runs s (.weftFlip t) fun s' =>
       KeepsXV s t.toNat encFlip 1 s' ∧ SlotFrame slotReg s s' p t.toNat))

/-- R279, R280, R281, R332, R432, R27: STEP retires once its step boundary has fallen, starts the occurrence counts again and takes the
step snapshot; before, it waits. MILE retires once nothing on the Spindle is undecided. EMIT gives the serving engine its 64 bytes, at
most one TOKEN and two DATA records for an entry and step, and sends nothing for an entry that is not valid; the engine drops and counts
any other record, and any that comes when its step is over. The model's choices and readings in it: log entries 10, 12, 18 and 114. -/
def Obligations.StepInstructions : Prop :=
  ∀ (s : State) (t : BitVec 12) (p : Nat),
    (ReadyAt s t.toNat p (encSync 0) → (s.spin t.toNat).sync.stepGo = true → Runs s (.syncStep t) fun s' =>
      (s'.spin t.toNat).turn = (s.spin t.toNat).turn + BitVec.ofNat 64 1 ∧ (s'.spin t.toNat).occ = [] ∧
      (s'.spin t.toNat).pc = (loopNext (s.spin t.toNat).pc (s.spin t.toNat).len (s.spin t.toNat).restart (s.spin t.toNat).frames).1 ∧
      (s'.spin t.toNat).sync.stepGo = false ∧ (s'.spin t.toNat).snap.pc = (s'.spin t.toNat).pc ∧
      (s'.spin t.toNat).snap.turn = (s'.spin t.toNat).turn ∧
      (s'.spin t.toNat).snap.x = (List.range 16).map (SMap.get 0 (s.spin t.toNat).x) ∧ SameXV s s' t.toNat ∧
      SpinFrame (s.spin t.toNat) (s'.spin t.toNat) ∧ SlotFrame slotReg s s' p t.toNat) ∧
    (ReadyAt s t.toNat p (encSync 0) → (s.spin t.toNat).sync.stepGo = false → Runs s (.syncStep t) fun s' =>
      (s'.spin t.toNat).pc = (s.spin t.toNat).pc ∧ (s'.spin t.toNat).turn = (s.spin t.toNat).turn ∧
      (s'.spin t.toNat).wait = ⟨1, none, true⟩ ∧ SlotFrame slotReg s s' p t.toNat) ∧
    (ReadyAt s t.toNat p (encSync 1) → s.undecided p t.toNat = false → Runs s (.syncMile t) fun s' =>
      KeepsXV s t.toNat (encSync 1) 1 s' ∧ (s'.spin t.toNat).sync.miled = true ∧ SlotFrame slotReg s s' p t.toNat) ∧
    (∀ (f : EmitF) (e line : Nat) (bs : Bytes) (had : Bool → Nat), ReadyAt s t.toNat p (encEmit f) →
      e = (s.spin t.toNat).ent f.ent → e ≤ 255 → line = (s.spin t.toNat).lop f.lop → s.lineOk p line = true →
      bs = s.readLines t.toNat line 1 →
      (∀ d, had d = ((s.servPart p).records.filter fun r => r.entry == e && r.data == d).length) →
      (s.entryAt p t.toNat e = none → Runs s (.syncEmit t f) fun s' => KeepsXV s t.toNat (encEmit f) 1 s' ∧ SlotFrame slotReg s s' p t.toNat) ∧
      (∀ b, s.entryAt p t.toNat e = some b → s.carryHeld p t.toNat engineUnit = none →
        (s.part p).inStep = true → (s.spin t.toNat).sync.stepGo = false →
        (f.rkind = 1 ∧ had false = 0 ∨ f.rkind = 2 ∧ had true < 2) →
        Runs s (.syncEmit t f) fun s' => KeepsXV s t.toNat (encEmit f) 1 s' ∧
          (s'.servPart p).records = (s.servPart p).records ++ [⟨e, f.rkind == 2, bs⟩] ∧
          SlotFrame (slotOrBlock Reg.ixcStatus) s { s' with shares := s.shares, serve := s.serve } p t.toNat) ∧
      (∀ b, s.entryAt p t.toNat e = some b → s.carryHeld p t.toNat engineUnit = none →
        ((s.part p).inStep = false ∨ (s.spin t.toNat).sync.stepGo = true ∨
          f.rkind ∉ [1, 2] ∨ f.rkind = 1 ∧ 0 < had false ∨ f.rkind = 2 ∧ 2 ≤ had true) →
        Runs s (.syncEmit t f) fun s' => KeepsXV s t.toNat (encEmit f) 1 s' ∧
          (s'.servPart p).records = (s.servPart p).records ∧
          s'.reg Reg.srvBadrecCnt p = (s.reg Reg.srvBadrecCnt p + 1) % 2 ^ 32))


/-! ## Registers and access contexts -/

/-- R10, R12, R14, R535: an access that no bound context makes touches nothing, and a misaligned one, or one outside the window, completes
with an error and touches no register. A write ends with exactly one outcome, FALLBACK before RESERVED before SEL; a rejected write
changes no field and leaves its address and count; an accepted write of a register of INT, THM or CAL takes the values of its fields. The
model's choices and readings in it: log entries 80 and 83. -/
def Obligations.RegisterWriteOutcomes : Prop :=
  ∀ (s : State) (c : BitVec 3) (addr v : Word) (a : Nat), a = addr.toNat →
    (s.ctxLive c.toNat = false → Runs s (.registerWrite c addr v) (· = s)) ∧
    (s.ctxLive c.toNat = true → regAddr a = false → Runs s (.registerWrite c addr v) (· = s.completed c.toNat true)) ∧
    (s.ctxLive c.toNat = true → regAddr a = true → Runs s (.registerWrite c addr v) fun s' => ∃ o, o ≤ 7 ∧ Ends s' c.toNat o ∧
      (o = 6 ↔ s.inFallback = true ∧ 0x100000 ≤ a) ∧
      (o = 7 ↔ ¬(s.inFallback = true ∧ 0x100000 ≤ a) ∧ a % 0x100000 ≠ 0 ∧ ((regDesc? a).isNone = true ∨ s.rawShut a = true)) ∧
      (o = 4 → 0x80000 ≤ a % 0x100000 ∧ s.selected c.toNat (a / 0x100000) = none) ∧
      (o ≠ 0 → s'.reg Reg.cfgWaddr c.toNat = a ∧ s'.reg Reg.cfgWrejCnt c.toNat = (s.reg Reg.cfgWrejCnt c.toNat + 1) % 2 ^ 32 ∧
        { s' with regs := s.regs } = s.completed c.toNat false ∧
        ∀ b i, b < 2 ^ 24 → (b ∈ [Reg.cfgWstat, Reg.cfgWaddr, Reg.cfgWrejCnt] → i ≠ c.toNat) → (o = 3 → b ≠ Reg.sknStatus) →
          s'.reg b i = s.reg b i)) ∧
    (∀ d, s.ctxLive c.toNat = true → s.inFallback = false → regAddr a = true → a / 0x100000 ∈ [4, 10, 11] → 0 < a % 0x100000 →
      a % 0x100000 < 0x80000 → regDesc? a = some d → d.fields ≠ [] → (∀ f ∈ d.fields, f.cls ≠ .ro ∧ f.cls ≠ .boot) →
      (∀ f ∈ d.fields, fieldFits f (fieldValue f v.toNat) = true) → s.quiet a 0 = true →
      Runs s (.registerWrite c addr v) fun s' => Ends s' c.toNat 0 ∧ s'.reg a = writtenWord d (s.reg a) v.toNat % 2 ^ 32 ∧
        { s' with regs := s.regs, live := s.live } = s.completed c.toNat false ∧
        ∀ b i, b < 2 ^ 24 → (b = a → i ≠ 0) → (b = Reg.cfgWstat → i ≠ c.toNat) → s'.reg b i = s.reg b i)

/-- R10, R11, R12, R13, R20, R459, R460, R519: A write of a select register selects an instance, or sets SEL_ERR where it names none; a
read of a _LO word copies the high word into the latch of its context and block, a read of a _HI word returns the latch, a reserved
address reads 0, and so does every block but CFG in fallback; a misaligned read completes with an error. Under the key of a connected
MANAGEMENT queue pair an RDMA access of whole words acts on the words in ascending order, each as if issued alone; any other access is
answered with an error and touches no register. Every one of the three completes: `exec` answers the next state written out. The model's
choices and readings in it: log entries 54, 83 and 85. -/
def Obligations.SelectsReadsAndRdmaAccesses : Prop :=
  (∀ (s : State) (c : BitVec 3) (k : Nat), k = c.toNat → s.ctxLive k = true →
     (∀ (blk : BitVec 4) (v : Word) (idx : Nat), (s.inFallback = false ∨ blk = 0) →
       idx = (if blk = 15 then v.toNat % 2 ^ 16 else v.toNat % 2 ^ 31) →
       exec (.selectRegisterWrite c blk v) s = .next ((((s.modCtx k fun x =>
         { x with sel := SMap.set 0 x.sel blk.toNat (BitVec.ofNat 32 (if s.selOk k blk.toNat idx then idx else idx + 2 ^ 31))
                  stage := if blk = 5 then none else x.stage }).setReg Reg.cfgWstat k 0)).completed k false)) ∧
     (∀ (blk : BitVec 4) (v : Word), s.inFallback = true → blk ≠ 0 → Runs s (.selectRegisterWrite c blk v) fun s' =>
       Ends s' k 6 ∧ { s' with regs := s.regs } = s.completed k false) ∧
     (∀ (addr : Word) (a : Nat) (w : Word), a = addr.toNat → regAddr a = true →
       (s.inFallback = true ∧ 0x100000 ≤ a ∧ w = 0 ∨
        (s.inFallback = false ∨ a < 0x100000) ∧ a % 0x100000 = 0 ∧ w = BitVec.ofNat 32 (s.selWord k (a / 0x100000)) ∨
        (s.inFallback = false ∨ a < 0x100000) ∧ a % 0x100000 ≠ 0 ∧ s.place k a = none ∧ w = 0 ∨
        (s.inFallback = false ∨ a < 0x100000) ∧ a % 0x100000 ≠ 0 ∧ (∃ i, s.place k a = some i ∧ isHigh a = false ∧
          isLow a = false ∧ w = BitVec.ofNat 32 (s.word k a i)) ∨
        (s.inFallback = false ∨ a < 0x100000) ∧ a % 0x100000 ≠ 0 ∧ (s.place k a).isSome = true ∧ isHigh a = true ∧
          w = SMap.get 0 (s.ctx k).latch (a / 0x100000)) →
       exec (.lowWordRead c addr) s = .next ((s.modCtx k fun x => { x with read := [w] }).completed k false)) ∧
     (∀ (addr : Word) (a i : Nat), a = addr.toNat → regAddr a = true → (s.inFallback = false ∨ a < 0x100000) → a % 0x100000 ≠ 0 →
       s.place k a = some i → isHigh a = false → isLow a = true → a ≠ Reg.srvHankDataLo → a ≠ Reg.cntValLo →
       exec (.lowWordRead c addr) s = .next (((s.modCtx k fun x =>
           { x with latch := SMap.set 0 x.latch (a / 0x100000) (BitVec.ofNat 32 (s.word k (a + 4) i)) }).modCtx k fun x =>
           { x with read := [BitVec.ofNat 32 (s.word k a i)] }).completed k false)) ∧
     (∀ addr : Word, regAddr addr.toNat = false →
       exec (.lowWordRead c addr) s = .next ((s.modCtx k fun x => { x with read := [] }).completed k true))) ∧
  (∀ (s : State) (slot : BitVec 9) (key : Word) (addr : DWord) (n k a : Nat) (data : Bytes), k = slot.toNat → a = addr.toNat →
     slotOk k = true → (s.qp k).st = 2 →
     (k < 6 → key = (s.qp k).key → a % 4 = 0 → a + 4 * n ≤ 2 ^ 24 →
       (data.length = 4 * n → exec (.rdmaRegisterAccess slot key true addr (4 * n) data) s = .next
         ((List.range n).foldl (fun u i => u.writeWord k (a + 4 * i) (leNat data (4 * i) 4)) s)) ∧
       (data.length = 4 → n = 1 → s.ctxLive k = true → ∀ c v u, c = BitVec.ofNat 3 k → v = BitVec.ofNat 32 (leNat data 0 4) →
         exec (.rdmaRegisterAccess slot key true addr 4 data) s = .next u →
         exec (.registerWrite c (BitVec.ofNat 32 a) v) s = .next (u.completed k false)) ∧
       (∃ (l : List Word) (u : State), l.length = n ∧ exec (.rdmaRegisterAccess slot key false addr (4 * n) data) s = .next
           ((u.modCtx k fun x => { x with read := l }).send (.readResp k (l.flatMap fun w => natLe w.toNat 4))) ∧
         (n = 1 → l = [BitVec.ofNat 32 (s.readWord k a).1] ∧ u = (s.readWord k a).2))) ∧
     (∀ (write : Bool) (len : Nat), (6 ≤ k ∨ key ≠ (s.qp k).key ∨ a % 4 ≠ 0 ∨ len % 4 ≠ 0 ∨ 2 ^ 24 < a + len ∨
       write = true ∧ data.length ≠ len) → exec (.rdmaRegisterAccess slot key write addr len data) s = .next (s.send (.nak k))))


/-! ## Time -/

/-- R69, R71: ARM keeps the seconds value and its stamp, or is rejected where the nanoseconds do not fit; CANCEL ends an armed load;
without PPS_EN the armed value loads at the next second boundary after ARM, and with it the load times out 2 s after ARM. -/
def Obligations.TimeOfDayLoads : Prop :=
  ∀ (s : State) (c : BitVec 3),
    (∀ sec, CanWrite s c.toNat Reg.trnTodCtl 0 → sec = s.reg64 Reg.trnTodSecLo → sec * 1000000000 < 2 ^ 64 →
      Runs s (.todArm c) fun s' => Ends s' c.toNat 0 ∧ s'.time = { s.time with armed := some (BitVec.ofNat 64 sec, s.time.cnt) } ∧
        s'.fld Reg.trnTodCtl 0 0 0 = 1 ∧ { s' with regs := s.regs, time := s.time } = s.completed c.toNat false ∧ OnlyRegs [Reg.trnTodCtl, Reg.cfgWstat] s s') ∧
    (∀ sec, CanWrite s c.toNat Reg.trnTodCtl 0 → sec = s.reg64 Reg.trnTodSecLo → 2 ^ 64 ≤ sec * 1000000000 →
      Runs s (.todArm c) fun s' => ¬ Ends s' c.toNat 0 ∧ s'.time = s.time ∧ s'.fld Reg.trnTodCtl 0 0 0 = s.fld Reg.trnTodCtl 0 0 0) ∧
    (∀ x, s.ctxLive c.toNat = true → s.inFallback = false → s.time.armed = some x → s.fld Reg.trnTodCtl 0 0 0 = 1 →
      Runs s (.todCancel c) fun s' => Ends s' c.toNat 0 ∧ s'.time = { s.time with armed := none } ∧
        s'.fld Reg.trnTodCtl 0 0 0 = 0 ∧ { s' with regs := s.regs, time := s.time } = s.completed c.toNat false ∧ OnlyRegs [Reg.trnTodCtl, Reg.cfgWstat] s s') ∧
    (s.ctxLive c.toNat = true → s.inFallback = false → s.time.armed = none → s.fld Reg.trnTodCtl 0 0 0 = 0 →
      Runs s (.todCancel c) fun s' => s'.time = s.time ∧ s'.fld Reg.trnTodCtl 0 0 0 = 0 ∧ { s' with regs := s.regs } = s.completed c.toNat false ∧
        OnlyRegs [Reg.trnTodCtl, Reg.cfgWstat, Reg.cfgWaddr, Reg.cfgWrejCnt] s s') ∧
    (∀ sec stamp, s.time.armed = some (sec, stamp) → s.ppsEn = false → s.atSecond = true → stamp.toNat < s.now →
      Runs s .todLoadAtSecond fun s' =>
      s'.time.cnt = BitVec.ofNat 64 (sec.toNat * 1000000000) ∧ s'.time.armed = none ∧ s'.fld Reg.trnTodCtl 0 0 0 = 0 ∧
      s'.fld Reg.trnStatus 0 2 2 = 1 ∧ s'.fld Reg.trnStatus 0 10 10 = 1 ∧
      Raised s s' 0x2004 (le8s ((sec.toNat * 1000000000 : Nat) - (s.now : Int))) ∧
      OnlyEvents [Reg.trnTodCtl, Reg.trnStatus] s { s' with time := s.time }) ∧
    (∀ sec stamp, s.time.armed = some (sec, stamp) → s.ppsEn = true → stamp.toNat + 2000000000 ≤ s.now → Runs s .todLoadTimeout fun s' =>
      s'.time = { s.time with armed := none } ∧ s'.fld Reg.trnTodCtl 0 0 0 = 0 ∧ s'.fld Reg.trnStatus 0 11 11 = 1 ∧
      Raised s s' 0x2006 (le8 sec.toNat) ∧ OnlyEvents [Reg.trnTodCtl, Reg.trnStatus] s { s' with time := s.time })

/-- R66, R68, R69, R75, R78: with PPS_EN an edge is judged: in Acquire it steps the counter to the second and locks; in Lock an edge in
the window adjusts the rate and an edge outside, or less than 500 ms after the previous one, is rejected, the third in a row leading to
Acquire; in Holdover it locks again or leads to Acquire. An accepted edge counts and loads an armed value 1 µs old. After 1.5 s without an
accepted edge Lock becomes Holdover. The model's choices and readings in it: log entry 28. -/
def Obligations.PulseDiscipline : Prop :=
  (∀ (s u : State) (cycles : Nat) (err win : Int), u = (s.oscCycles cycles).idleShares cycles → err = phaseError u.now →
    win = 1000 * (s.fld Reg.trnPpsCfg 0 15 8 : Nat) →
    (s.ppsEn = false → Runs s (.ppsEdge cycles) (· = u)) ∧
    (∀ r, s.ppsEn = true → s.time.lastRise = some r → u.now < r.toNat + 500000000 → Runs s (.ppsEdge cycles) fun s' =>
      s'.reg Reg.trnPpsRejCnt = (s.reg Reg.trnPpsRejCnt + 1) % 2 ^ 32 ∧ s'.reg Reg.trnPpsCnt = s.reg Reg.trnPpsCnt ∧
      s'.fld Reg.trnStatus 0 9 9 = 1 ∧ s'.time.cnt = u.time.cnt ∧ s'.time.lastAcc = s.time.lastAcc ∧
      s'.time.disc = (if s.time.disc = .lock ∧ 2 ≤ s.time.rejRun then .acquire else s.time.disc)) ∧
    (s.ppsEn = true → (∀ r, s.time.lastRise = some r → r.toNat + 500000000 ≤ u.now) →
      (s.time.disc = .acquire → s.time.armed = none → Runs s (.ppsEdge cycles) fun s' =>
        s'.time.cnt = BitVec.ofNat 64 ((u.now : Int) - err).toNat ∧ s'.time.disc = .lock ∧ s'.fld Reg.trnStatus 0 0 0 = 1 ∧
        s'.fld Reg.trnStatus 0 10 10 = 1 ∧ s'.reg Reg.trnPpsCnt = (s.reg Reg.trnPpsCnt + 1) % 2 ^ 32 ∧
        s'.reg Reg.trnPpsErr = word32 err ∧ s'.events.seq = s.events.seq + 1) ∧
      (s.time.disc = .lock → -win ≤ err → err ≤ win → Runs s (.ppsEdge cycles) fun s' =>
        (s.time.armed = none → s'.time.cnt = u.time.cnt) ∧ s'.time.disc = .lock ∧ s'.time.rejRun = 0 ∧
        s'.reg Reg.trnRate = word32 (max (-4294967) (min 4294967 (Config.servo (signed32 (s.reg Reg.trnRate)) err s.time.accRun))) ∧
        s'.reg Reg.trnPpsCnt = (s.reg Reg.trnPpsCnt + 1) % 2 ^ 32 ∧
        ∀ sec stamp, s.time.armed = some (sec, stamp) → stamp.toNat + 1000 ≤ u.now →
          s'.time.cnt = BitVec.ofNat 64 (sec.toNat * 1000000000) ∧ s'.time.armed = none ∧ s'.fld Reg.trnStatus 0 2 2 = 1) ∧
      (s.time.disc ≠ .acquire → (err < -win ∨ win < err) → Runs s (.ppsEdge cycles) fun s' =>
        s'.reg Reg.trnPpsRejCnt = (s.reg Reg.trnPpsRejCnt + 1) % 2 ^ 32 ∧ s'.time.cnt = u.time.cnt ∧
        s'.time.disc = (if s.time.disc = .holdover ∨ 2 ≤ s.time.rejRun then .acquire else .lock)) ∧
      (s.time.disc = .holdover → -win ≤ err → err ≤ win → Runs s (.ppsEdge cycles) fun s' =>
        s'.time.disc = .lock ∧ s'.fld Reg.trnStatus 0 1 1 = 0 ∧ s'.reg Reg.trnPpsCnt = (s.reg Reg.trnPpsCnt + 1) % 2 ^ 32))) ∧
  ∀ s : State, s.time.disc = .lock → s.noEdgeFor 1500000000 = true → Runs s .holdoverEnter fun s' =>
    s'.time = { s.time with disc := .holdover } ∧ s'.fld Reg.trnStatus 0 1 1 = 1 ∧ s'.fld Reg.trnStatus 0 0 0 = 0 ∧
      s'.fld Reg.trnStatus 0 8 8 = 1 ∧ Raised s s' 0x2001 [] ∧ OnlyEvents [Reg.trnStatus] s { s' with time := s.time }

/-! ## District windows and stopped partitions -/

/-- R59, R60, R61, R63, R286, R287, R579: a window boundary moves the district by at most one band, B4 for a blind one, brings the margin
steps that wait for it and the cap factors into force and grants each loaded Spindle of the district what it declared, scaled by the cap;
what was left over lapses. The model's choices and readings in it: log entries 11 and 89. -/
def Obligations.DistrictWindows : Prop :=
  ∀ (s : State) (d b h : Nat), d < 50 → h = s.fld Reg.pwrDistHold d 4 0 →
    b = nextBand (s.dist d).band (signed12 (s.fld (Reg.thmDist + 4 * d) 0 11 0)) (s.fld (Reg.thmDist + 4 * d) 0 20 20 == 1) →
    Runs s (.districtWindowBoundary d) fun s' =>
      s'.dist d = ⟨b, s.fld Reg.thmStatus 0 1 1 == 1, s.fld Reg.pwrStatus 0 0 0 == 1, s.fld Reg.pwrStatus 0 2 1, h != 0⟩ ∧
      s'.reg Reg.pwrDistV d = setPoint b + 25 * (s.windowMargins d).railRaise d ∧ s'.fld Reg.pwrDistHold d 4 0 = h - 1 ∧ (∀ e, e ≠ d → s'.dist e = s.dist e) ∧
      (s.fld (Reg.thmDist + 4 * d) 0 20 20 = 1 → b = 4) ∧
      (s.fld (Reg.thmDist + 4 * d) 0 20 20 = 0 → b ≤ (s.dist d).band + 1 ∧ (s.dist d).band ≤ b + 1) ∧
      (∀ t p, (s.spin t).part = some p → districtOf (s.physOf t) = d → s'.spin t = { s.spin t with
        grant := (s.spin t).nextGrant, granted := true, tokens := (s.spin t).nextGrant * (s'.dist d).factor / 32
        sync := { (s.spin t).sync with win := if (s.spin t).sync.win = 1 then 2 else (s.spin t).sync.win } }) ∧
      (∀ t, districtOf (s.physOf t) ≠ d → s'.spin t = s.spin t) ∧ s'.slices = s.slices ∧ s'.stackMem = s.stackMem ∧
      (∀ n, bareDistrict n = d → (s'.bareUnit n).margin = (s.bareUnit n).margin + (s.bareUnit n).pend ∧ (s'.bareUnit n).pend = 0) ∧
      ∀ n, bareDistrict n ≠ d → s'.bareUnit n = s.bareUnit n

/-- R51, R74, R77, R78, R309, R310, R311, R322: after 64 slots without a retired instruction the partition is stopped as a unit, after
2^16 more PARTITION_STOPPED names its slowest tile once, after 2^20 FAULT_WATCHDOG stops its first tile at once and has the stop reach the
others with the lag of the tree; the clear of a faulted partition leaves no program and suspends its sessions. The model's choices and
readings in it: log entries 11 and 90. -/
def Obligations.StoppedPartitions : Prop :=
  ∀ (s : State) (q : BitVec 4) (p : Nat), p = q.toNat → (s.part p).prog.isSome = true →
    ((s.part p).stopped = false → 64 ≤ s.fld Reg.trnWdg p 20 0 → Runs s (.partitionStopEnter q) fun s' =>
      s'.part p = { s.part p with stopped := true } ∧ s'.reg Reg.trnFullstallCnt p = (s.reg Reg.trnFullstallCnt p + 1) % 2 ^ 32 ∧
      (∀ r, r ≠ p → s'.part r = s.part r) ∧ { s' with parts := s.parts, regs := s.regs } = s ∧ OnlyRegs [Reg.trnFullstallCnt] s s') ∧
    ((s.part p).stopped = true → (s.part p).told = false → 64 + 65536 < s.fld Reg.trnWdg p 20 0 → s.partTiles p ≠ [] →
      Runs s (.partitionStopped q) fun s' => s'.part p = { s.part p with told := true } ∧ (∀ r, r ≠ p → s'.part r = s.part r) ∧
      OnlyEvents [] s { s' with parts := s.parts } ∧ ∃ t ∈ s.partTiles p, Raised s s' 0x2005 (le1 p ++ le2 t ++ le1 (s.waitCode t)) ∧
        ∀ u ∈ s.partTiles p, (s.spin t).turn.toNat < (s.spin u).turn.toNat ∨ (s.spin t).turn = (s.spin u).turn ∧ t ≤ u) ∧
    ((s.part p).stop = .run → 2 ^ 20 ≤ s.fld Reg.trnWdg p 20 0 → Runs s (.watchdogExpiry q) fun s' =>
      (s'.part p).stop = .fault ∧ (∀ r, r ≠ p → s'.part r = s.part r) ∧ (∀ u, u ≠ s.firstTile p → s'.spin u = s.spin u) ∧
      s'.spin (s.firstTile p) = (s.spin (s.firstTile p)).stopped ∧
      (s'.part p).late = ((s.partTiles p).filter (· ≠ s.firstTile p)).map (fun u => (u, s.treeLag p)) ∧
      ∃ r, (s'.part p).faults = (s.part p).faults ++ [r] ∧ leNat r 0 2 = 0x1009 ∧ leNat r 2 2 = (s.firstTile p + 4096 * p) % 65536 ∧
        leNat r 24 8 % 4096 = s.slowestTile p % 4096) ∧
    ((s.part p).stop = .fault → Runs s (.partitionFaultClear q) fun s' =>
      s'.part p = PartSt.init ∧ (∀ r, r ≠ p → s'.part r = s.part r) ∧ (∀ t ∈ s.partTiles p, s'.spin t = Spindle.init) ∧
      (∀ t, t ∉ s.partTiles p → s'.spin t = s.spin t) ∧
      (∀ id x, s.session id = some x → x.part = p → ∃ y, s'.session id = some y ∧ y.part = p ∧ y.st = .suspended) ∧
      s'.slices = s.slices ∧ s'.stackMem = s.stackMem)

/-! ## The Interchange -/

/-- R204, R218, R219, R220, R229, R310: the first flit of a channel, when every arbitration point of its route admits it, enters its
receive channel if its CRC is good, and is counted, raised and reported if not, its receive waiting on; for a stopped tile it is
discarded. The model's choices and readings in it: log entries 11 and 26. -/
def Obligations.FlitArrivals : Prop :=
  (∀ (s : State) (f g : Flit), tileOk f.dest = true → s.firstFlit f.dest f.chan = some g → s.ownerOf f.dest = some g.part →
    s.crossed g = true → s.heldAt g.part (routePoints g.src g.dest (s.flitRoute g)) = none →
    (s.tileStopped f.dest = false → f = g → f.crcGood = true → (s.spin f.dest).recvs = [] → Runs s (.flitDeliver f) fun s' =>
      (s'.spin f.dest).recvCh f.chan = { (s.spin f.dest).recvCh f.chan with entries := ((s.spin f.dest).recvCh f.chan).entries ++ [f] } ∧
      (∀ c, c ≠ f.chan → (s'.spin f.dest).recvCh c = (s.spin f.dest).recvCh c) ∧ (∀ u, u ≠ f.dest → s'.spin u = s.spin u) ∧
      s'.flits = dropFirst (· == g) s.flits ∧ s'.slices = s.slices) ∧
    (s.tileStopped f.dest = false → f.crcGood = false → Runs s (.flitDeliver f) fun s' =>
      (s'.spin f.dest).recvCh f.chan = { (s.spin f.dest).recvCh f.chan with
        gap := some (((s.spin f.dest).recvCh f.chan).gap.getD ((s.spin f.dest).recvCh f.chan).entries.length) } ∧
      (∀ c, c ≠ f.chan → (s'.spin f.dest).recvCh c = (s.spin f.dest).recvCh c) ∧ (∀ u, u ≠ f.dest → s'.spin u = s.spin u) ∧
      s'.flits = dropFirst (· == g) s.flits ∧
      s'.reg Reg.ixcCrcCnt (ixcTile f.dest) = (s.reg Reg.ixcCrcCnt (ixcTile f.dest) + 1) % 2 ^ 32 ∧
      Raised s s' 0x0002 (le2 f.dest ++ le2 f.src ++ le1 f.chan ++ le1 f.tag) ∧
      ∀ p, (s.spin f.dest).part = some p → (s'.part p).detects = (s.part p).detects ++
        [⟨f.dest, .flitCrc (BitVec.ofNat 12 f.src) (BitVec.ofNat 5 f.chan), 0, 0⟩]) ∧
    (s.tileStopped f.dest = true → (f.crcGood = true → f = g) → Runs s (.flitDeliver f) fun s' =>
      s'.flits = dropFirst (· == g) s.flits ∧ (∀ u, s'.spin u = s.spin u) ∧ s'.parts = s.parts)) ∧
  ∀ (s : State) (f g : Flit) (e : Nat × Nat), tileOk f.dest = true → s.firstFlit f.dest f.chan = some g → s.ownerOf f.dest = some g.part →
    s.crossed g = true → s.heldAt g.part (routePoints g.src g.dest (s.flitRoute g)) = some e → (f.crcGood = true → f = g) →
    Runs s (.flitDeliver f) fun s' => s'.reg Reg.ixcShareWaitCnt e.2 = (s.reg Reg.ixcShareWaitCnt e.2 + 1) % 2 ^ 32 ∧
      { s' with regs := s.regs } = s ∧ OnlyRegs [Reg.ixcShareWaitCnt] s s'

/-- R206, R207, R218, R219, R220, R225, R243: a CREDIT flit gives its sender the credits back, unless its CRC is bad; a mismatch at a hop
has a flit in flight there sent again, and a NAK every flit of the buffer from its number on; a flit whose partition does not own its
destination is dropped and makes its source suspect. The model's choices and readings in it: log entries 11, 26 and 107. -/
def Obligations.CreditsRetriesAndForeignFlits : Prop :=
  (∀ (s : State) (f : Flit), f ∈ s.flits → f.kind = 2 → s.crossed f = true → (isUnit f.dest = false → s.ownerOf f.dest = some f.part) →
    s.heldAt f.part (routePoints f.src f.dest (s.flitRoute f)) = none →
    (∀ ch c, f.crcGood = true → isUnit f.dest = false →
      ((s.spin f.dest).send.find? fun e => e.2.valid && e.2.dest == f.src && e.2.chan == f.chan) = some (ch, c) →
      Runs s (.creditReturn f) fun s' => (s'.spin f.dest).sendCh ch = { c with credit := min c.depth (c.credit + byteAt f.payload 0) } ∧
        (∀ k, k ≠ ch → (s'.spin f.dest).sendCh k = (s.spin f.dest).sendCh k) ∧ (∀ u, u ≠ f.dest → s'.spin u = s.spin u) ∧
        s'.flits = dropFirst (· == f) s.flits) ∧
    (∀ u credit n, f.crcGood = true → isUnit f.dest = true → u = s.unitSend (32 * f.src + f.chan) →
      credit = min u.depth (u.credit + byteAt f.payload 0) →
      n = min credit u.queue.length → Runs s (.creditReturn f) fun s' =>
        s'.unitSend (32 * f.src + f.chan) = { u with credit := credit - n, queue := u.queue.drop n } ∧
        s'.flits = dropFirst (· == f) s.flits ++ (u.queue.take n).map Prod.fst) ∧
    (∀ g : Flit, g.crcGood = false → g.kind = 2 → g.dest = f.dest → g.src = f.src → g.chan = f.chan → isUnit f.dest = false →
      g ∉ s.flits → (s.spin f.src).part = none →
      (s.flits.find? fun h => h.kind == 2 && h.dest == f.dest && h.src == f.src && h.chan == f.chan && !isUnit h.dest) = some f →
      Runs s (.creditReturn g) fun s' => (∀ u, s'.spin u = s.spin u) ∧ s'.flits = dropFirst (· == f) s.flits ∧
        s'.reg Reg.ixcCrcCnt (ixcTile f.dest) = (s.reg Reg.ixcCrcCnt (ixcTile f.dest) + 1) % 2 ^ 32 ∧
        Raised s s' 0x0002 (le2 f.dest ++ le2 f.src ++ le1 f.chan ++ le1 g.tag))) ∧
  (∀ (s : State) (u : Nat) (w : Word), u = w.toNat → ixcOk u = true → (ixcKind u = 2 ∨ ixcKind u = 3) →
    (∀ a, (s.flits.filterMap fun f => (prevUnit u (s.flitRoute f)).filter fun a => ixcKind a == 2 || ixcKind a == 3).getLast? = some a →
      Runs s (.hopCrcMismatch w) fun s' =>
        s'.reg Reg.ixcCrcCnt u = (s.reg Reg.ixcCrcCnt u + 1) % 2 ^ 32 ∧ s'.reg Reg.ixcRetryCnt u = (s.reg Reg.ixcRetryCnt u + 1) % 2 ^ 32 ∧
        s'.reg Reg.ixcTxCnt a = (s.reg Reg.ixcTxCnt a + 1) % 2 ^ 32 ∧ s'.flits = s.flits ∧ s'.spindles = s.spindles ∧
        { s' with regs := s.regs, integ := s.integ } = s ∧ OnlyRegs [Reg.ixcCrcCnt, Reg.ixcRetryCnt, Reg.ixcTxCnt] s s') ∧
    ((∀ f ∈ s.flits, ((prevUnit u (s.flitRoute f)).filter fun a => ixcKind a == 2 || ixcKind a == 3) = none) →
      Runs s (.hopCrcMismatch w) (· = s))) ∧
  (∀ (s : State) (group : BitVec 4) (seq : BitVec 10) (l k : Nat), l = 2 * group.toNat →
    k = (seq.toNat + 1024 - s.laneFirst l) % 1024 → k < laneDepth → k < (s.laneFlits l).length → Runs s (.causewayNak group seq) fun s' =>
      s'.reg Reg.ixcCrcCnt (ixcGroup group.toNat) = (s.reg Reg.ixcCrcCnt (ixcGroup group.toNat) + 1) % 2 ^ 32 ∧
      s'.reg Reg.ixcRetryCnt (ixcGroup group.toNat) = (s.reg Reg.ixcRetryCnt (ixcGroup group.toNat) + 1) % 2 ^ 32 ∧
      s'.reg Reg.ixcTxCnt (ixcGroup group.toNat) =
        (s.reg Reg.ixcTxCnt (ixcGroup group.toNat) + (min laneDepth (s.laneFlits l).length - k)) % 2 ^ 32 ∧
      { s' with regs := s.regs, integ := s.integ } = s ∧ OnlyRegs [Reg.ixcCrcCnt, Reg.ixcRetryCnt, Reg.ixcTxCnt] s s') ∧
  ∀ (s : State) (f : Flit), tileOk f.dest = true → s.ownerOf f.dest ≠ some f.part → Runs s (.ixcForeignDrop f) fun s' =>
    s'.flits = dropFirst (· == f) s.flits ∧
    s'.reg Reg.ixcForeignCnt (ixcLeaf (rowOf f.dest)) = (s.reg Reg.ixcForeignCnt (ixcLeaf (rowOf f.dest)) + 1) % 2 ^ 32 ∧
    s'.fld Reg.ixcStatus 0 2 2 = 1 ∧ (∀ u, s'.spin u = s.spin u) ∧
    (isUnit f.src = true → Raised s s' 0x0003 (le1 f.part ++ le2 f.dest ++ le2 f.src) ∧
      OnlyEvents [Reg.ixcForeignCnt, Reg.ixcStatus, Reg.ixcRxCnt, Reg.ixcTxCnt] s { s' with flits := s.flits }) ∧
    (isUnit f.src = false → s.integ.suspects.length < 64 → s'.isSuspect 1 (s.physOf f.src) 0xFF = true)

/-! ## Integrity -/

/-- R210, R312, R419, R420, R422, R428, R433, R444: in a first run, a vector residue, a flit CRC error or a parity error on a line written
in the step has the step re-run in place; a parity error on any other line abandons it and makes the tile suspect; a pass with a hold
record is replayed, one without has the step re-run. While a re-run is prepared a detection only counts; in a faulted step it counts and
its unit is made suspect. The model's choices and readings in it: log entry 26. -/
def Obligations.DetectionsStartTheirFirstAction : Prop :=
  ∀ (s : State) (t : BitVec 12) (tn p : Nat) (d : Detection), tn = t.toNat → tileOk tn = true → (s.spin tn).part = some p →
    (s.part p).prog.isSome = true →
    ((s.part p).stop = .integrity → Runs s (.integrityDetection t d) fun s' => (∀ u, s'.spin u = s.spin u) ∧
      s'.part p = { s.part p with detects := (s'.part p).detects } ∧ s'.fld Reg.intStatus 0 1 1 = 1 ∧ s'.events = s.events) ∧
    ((s.part p).stop = .fault → Runs s (.integrityDetection t d) fun s' => (∀ u, s'.spin u = s.spin u) ∧
      s'.part p = { s.part p with detects := (s'.part p).detects } ∧ s'.fld Reg.intStatus 0 1 1 = 1 ∧
      (s.integ.suspects.length < 64 → s'.isSuspect d.kind (s.physOf tn) 0xFF = true)) ∧
    ((s.part p).stop = .run → (s.part p).runKind = .first → (s.part p).reruns < 2 →
      (∀ key, (d = .vecResidue ∧ key = 0 ∨ (∃ src ch, d = .flitCrc src ch ∧ key = src.toNat) ∨
          ∃ line, d = .parity line ∧ key = line.toNat ∧ (s.spin tn).dirty.contains line.toNat = true) →
        Runs s (.integrityDetection t d) fun s' => (s'.part p).stop = .integrity ∧
          (s'.part p).rerun = some ⟨tn, false, none, false, false⟩ ∧ (s'.part p).reruns = (s.part p).reruns + 1 ∧
          (s'.part p).triggers = (s.part p).triggers ++ [⟨d.mech, tn, key⟩] ∧ (s'.part p).egress = [] ∧
          ∀ q, q ≠ p → s'.part q = s.part q) ∧
      (∀ line, d = .parity line → (s.spin tn).dirty.contains line.toNat = false → Runs s (.integrityDetection t d) fun s' =>
        (s'.part p).stop = .fault ∧ s'.reg Reg.intAbandonCnt p = (s.reg Reg.intAbandonCnt p + 1) % 2 ^ 32 ∧
        s'.reg Reg.intParityCnt p = (s.reg Reg.intParityCnt p + 1) % 2 ^ 32 ∧
        (s.integ.suspects.length < 64 → s'.isSuspect 1 (s.physOf tn) 0xFF = true)) ∧
      (∀ a o, d.mech ∈ [1, 5, 6] →
        ((s.part p).detects.find? fun x => x.tile == tn && x.det == d) = some ⟨tn, d, a, o⟩ →
        (∀ h, ((s.spin tn).hold.find? fun h => h.addr == a && h.occ == o) = some h → (s.spin tn).replays.length < 4 →
          ((s.spin tn).replays.any fun x => x.addr == h.addr && x.occ == h.occ) = false →
          Runs s (.integrityDetection t d) fun s' =>
            s'.spin tn = { s.spin tn with replays := (s.spin tn).replays ++ [⟨h.addr, h.occ, none, d.detail, false⟩] } ∧
            s'.part p = { s.part p with detects := (s'.part p).detects }) ∧
        (((s.spin tn).hold.find? fun h => h.addr == a && h.occ == o) = none → Runs s (.integrityDetection t d) fun s' =>
          s'.reg Reg.intNoholdCnt p = (s.reg Reg.intNoholdCnt p + 1) % 2 ^ 32 ∧ (s'.part p).stop = .integrity ∧
          (s'.part p).rerun = some ⟨tn, false, none, false, false⟩)) ∧
      (∀ a e, d = .warpResidue a → ((s.part p).detects.find? fun x => x.tile == tn && x.det == d) = none →
        ((s.spin tn).bare.find? fun e => e.1 == a.toNat) = some e → Runs s (.integrityDetection t d) fun s' =>
          s'.reg Reg.intNoholdCnt p = (s.reg Reg.intNoholdCnt p + 1) % 2 ^ 32 ∧ (s'.part p).stop = .integrity ∧
          (s'.part p).rerun = some ⟨tn, false, none, false, false⟩))

/-- R145, R421, R423, R424, R428: the next held pass with a pending replay starts once its array is free, and takes it, unless the rows of
its Weft slot read with bad parity, which sends the slot to RESTORE; a clean replay that agrees lets the original stand, any other outcome
is a replay disagreement: the step is re-run with stand-in, or abandoned in a second re-run. The model's choices and readings in it: log
entry 110. -/
def Obligations.ReplaysDecide : Prop :=
  ∀ (s : State) (t : BitVec 12) (tn p : Nat) (h : HoldRec), tn = t.toNat → tileOk tn = true → (s.spin tn).part = some p →
    ((s.spin tn).replays.any ReplayP.running = false → s.replayFree tn h = true →
      ((s.spin tn).hold.find? fun h => (s.spin tn).replays.any fun x => x.addr == h.addr && x.occ == h.occ) = some h →
      (∀ bad : Bool, (bad = false ∨ h.slotIn = none) → Runs s (.replayStart ⟨t, bad⟩) fun s' => s'.reg Reg.intReplayCnt p = (s.reg Reg.intReplayCnt p + 1) % 2 ^ 32 ∧
        (s'.spin tn).replays =
          listUpdate (fun x => x.addr == h.addr && x.occ == h.occ) (fun x => { x with running := true }) (s.spin tn).replays ∧
        (s'.spin tn).holdsNow (· == h.unit) = true ∧ (s'.spin tn).turn = (s.spin tn).turn ∧ (s'.spin tn).pc = (s.spin tn).pc ∧
        (s'.spin tn).hold = (s.spin tn).hold ∧ (s'.spin tn).passes = (s.spin tn).passes ∧ (s'.spin tn).v = (s.spin tn).v ∧
        (s'.spin tn).x = (s.spin tn).x ∧
        (∀ u, u ≠ tn → s'.spin u = s.spin u) ∧ { s' with regs := s.regs, spindles := s.spindles, tiles := s.tiles } = s) ∧
      (∀ k, h.slotIn = some k → Runs s (.replayStart ⟨t, true⟩) fun s' => ((s'.weft (s.physOf tn)).slot k).st = .restore ∧
        (∀ u, s'.spin u = s.spin u) ∧ s'.parts = s.parts ∧ s'.regs = s.regs)) ∧
    (∀ (clean : Bool) (a : WarpAnalog) (w : WeftAnalog) (x : ReplayP) (r : Again), r = (s.runAgain p tn h a w).1 →
      ((s.spin tn).replays.find? fun x => x.running && x.shadow.isNone) = some x → (s.spin tn).heldOf x = some h →
      (clean = true → r.bad = false → s.agrees p h r.same h.orig r.results = true → Runs s (.replayDecide t clean a w) fun s' =>
        s'.spin tn = (s.spin tn).dropReplay ∧ s'.part p = s.part p ∧ (∀ u, u ≠ tn → s'.spin u = s.spin u) ∧
        s'.reg Reg.intReplayAgreeCnt p = (s.reg Reg.intReplayAgreeCnt p + 1) % 2 ^ 32) ∧
      ((clean = false ∨ r.bad = true ∨ s.agrees p h r.same h.orig r.results = false) → Runs s (.replayDecide t clean a w) fun s' =>
        s'.reg Reg.intReplayDisagreeCnt p = (s.reg Reg.intReplayDisagreeCnt p + 1) % 2 ^ 32 ∧
        ((s.part p).runKind ≠ .standIn → (s.part p).runKind ≠ .forced → (s.part p).reruns < 2 → (s'.part p).stop = .integrity ∧
          ∃ y, (s'.part p).rerun = some y ∧ y.tile = tn ∧ y.stepOnly = false ∧ (y.forced = false → y.standIn = some tn)) ∧
        (((s.part p).runKind = .standIn ∨ (s.part p).runKind = .forced ∨ 2 ≤ (s.part p).reruns) → (s'.part p).stop = .fault)))

/-- R435, R436, R437, R438, R439: a shadow pass that agrees with its original counts and ages the array's dispute mark; one that does not
is a dispute, which the replay on the original array decides. A mirror that advances holds the next owned slot's images, and is ready when
every copy has been good. The model's choices and readings in it: log entries 91 and 93. -/
def Obligations.ShadowRunsAndMirrors : Prop :=
  (∀ (s : State) (t : BitVec 12) (tn p arr key k ko cap epoch band : Nat) (dense : Bool) (h : HoldRec), tn = t.toNat → tileOk tn = true →
    (s.spin tn).part = some p → h.kind = .warp arr key k ko cap epoch band dense →
    (∀ (a : WarpAnalog) (e : Nat × Nat × Nat) (r : Again),
      ((s.part p).shadowDue.find? fun e => e.1 == tn) = some e →
      ((s.spin tn).hold.find? fun h => h.addr == e.2.1 && h.occ == e.2.2) = some h →
      (s.row (rowOf tn)).ready = true → (s.row (rowOf tn)).mirror = some (tn % 32) → (s.row (rowOf tn)).standIn = none →
      r = (s.warpAgain p tn (32 * rowOf tn + 24) arr h a key cap epoch band).1 →
      (s.agrees p h false h.orig r.results = true → Runs s (.shadowPass t a) fun s' =>
        s'.part p = { s.part p with shadowDue := (s.part p).shadowDue.erase e } ∧ (∀ u, s'.spin u = s.spin u) ∧
        s'.reg Reg.intShadowCnt p = (s.reg Reg.intShadowCnt p + 1) % 2 ^ 32 ∧
        (s'.warp key).mark = (s.warp key).mark.bind fun n => if n + 1 = 8 then none else some (n + 1)) ∧
      (s.agrees p h false h.orig r.results = false → (s.spin tn).replays.length < 4 →
        ((s.spin tn).replays.any fun x => x.addr == h.addr && x.occ == h.occ) = false → Runs s (.shadowPass t a) fun s' =>
        s'.reg Reg.intDisputeCnt p = (s.reg Reg.intDisputeCnt p + 1) % 2 ^ 32 ∧ s'.fld Reg.intStatus 0 5 5 = 1 ∧
        (s'.warp key).mark = (s.warp key).mark.map (fun _ => 0) ∧
        s'.spin tn = { s.spin tn with replays := (s.spin tn).replays ++ [⟨h.addr, h.occ, some r.results, 0, false⟩] })) ∧
    (∀ (clean : Bool) (a : WarpAnalog) (x : ReplayP) (r : Again), r = (s.runAgain p tn h a default).1 →
      ((s.spin tn).replays.find? fun x => x.running && x.shadow.isSome) = some x → (s.spin tn).heldOf x = some h →
      (s.part p).reruns < 2 →
      (clean = true → r.bad = false → s.agrees p h false (x.shadow.getD []) r.results = true → Runs s (.shadowDispute t clean a) fun s' =>
        (s'.part p).stop = .integrity ∧ (s'.part p).rerun = some ⟨tn, false, none, false, false⟩ ∧ (s'.warp key).mark = (s.warp key).mark) ∧
      (clean = true → r.bad = false → s.agrees p h false (x.shadow.getD []) r.results = false →
        s.agrees p h true h.orig r.results = true → Runs s (.shadowDispute t clean a) fun s' =>
        (s'.part p).stop = .integrity ∧ (s'.warp key).mark = some 0 ∧
        ∃ y, (s'.part p).rerun = some y ∧ y.tile = tn ∧ y.stepOnly = true ∧ (y.forced = false → y.standIn = some tn)) ∧
      ((clean = false ∨ r.bad = true) → (s.part p).runKind = .first → Runs s (.shadowDispute t clean a) fun s' =>
        s'.reg Reg.intReplayDisagreeCnt p = (s.reg Reg.intReplayDisagreeCnt p + 1) % 2 ^ 32 ∧ (s'.part p).stop = .integrity))) ∧
  ∀ (s : State) (half : Bool) (row : BitVec 6) (r : Nat), r = (if half then 64 else 0) + row.toNat → s.hasSpare r = true →
    (s.row r).standIn = none → ∀ cs : List CopyCheck,
    (s.nextMirror r (s.row r).mirror = none → Runs s (.mirrorAdvance half ⟨row, cs⟩) fun s' =>
      s'.row r = { s.row r with mirror := none, ready := false }) ∧
    (∀ k, s.nextMirror r (s.row r).mirror = some k → (∀ i, i < 8 → cs.getD i ⟨true, true⟩ = ⟨true, true⟩ ∧ s.worn (32 * r + 24) i = false ∧
        ((s.warp (arrKey (32 * r + k) i)).valid = none ∨
          adigOf (s.warp (arrKey (32 * r + k) i)).image = (s.warp (arrKey (32 * r + k) i)).adig)) → Runs s (.mirrorAdvance half ⟨row, cs⟩) fun s' =>
      s'.row r = { s.row r with mirror := some k, ready := true } ∧ (∀ q, q ≠ r → s'.row q = s.row q) ∧
      (∀ i, i < 8 → (s'.warp (arrKey (32 * r + 24) i)).record = (s.warp (arrKey (32 * r + k) i)).record) ∧
      ∀ j, j / 16 ≠ 32 * r + 24 → s'.warp j = s.warp j) ∧
    (∀ k, s.nextMirror r (s.row r).mirror = some k → (∃ i, i < 8 ∧ (cs.getD i ⟨true, true⟩).writeOk = false) →
      Runs s (.mirrorAdvance half ⟨row, cs⟩) fun s' => (s'.row r).mirror = some k ∧ (s'.row r).ready = false)

/-- R429, R430, R431, R432: when the stop is complete, a re-run in place restores the snapshot that its Spindles took at SYNC.STEP and
resumes; a re-run with stand-in is prepared first and then resumes with the spare tile standing in. Where an image is missing the
partition stays stopped, and where the spare tile has become suspect the re-run runs in place. The model's choices and readings in it: log
entry 92. -/
def Obligations.RerunsRestoreTheSnapshot : Prop :=
  ∀ (s : State) (q : BitVec 4) (p : Nat) (r : Rerun), p = q.toNat → (s.part p).rerun = some r →
    ∀ Resumed : State → RunKind → Prop, (Resumed = fun s' kind =>
        (s'.part p).stop = .run ∧ (s'.part p).rerun = none ∧ (s'.part p).runKind = kind ∧ (s'.part p).step = (s.part p).step ∧
        s'.reg Reg.intRerunCnt p = (s.reg Reg.intRerunCnt p + 1) % 2 ^ 32 ∧
        (∀ t ∈ s.partTiles p, (s.spin t).sync.stepGo = false → (s'.spin t).pc = (s.spin t).snap.pc ∧
          (s'.spin t).turn = (s.spin t).snap.turn ∧ (s'.spin t).occ = (s.spin t).snap.occ ∧ (s'.spin t).hold = [] ∧
          (s'.spin t).dirty = [] ∧ (s'.spin t).replays = [] ∧
          ∀ c, ((s'.spin t).sendCh c).credit = ((s.spin t).sendCh c).depth ∧ ((s'.spin t).recvCh c).heldCnt = 0) ∧
        (∀ u, u ∉ s.partTiles p → s'.spin u = s.spin u) ∧ s'.slices = s.slices) →
      (r.drained = false → r.standIn = none → Runs s (.rerunDrained q) fun s' => Resumed s' (if r.forced then .forced else .inPlace)) ∧
      (∀ t, r.drained = false → r.standIn = some t → Runs s (.rerunDrained q) fun s' =>
        (s'.part p).rerun = some { r with drained := true } ∧ (s'.part p).stop = (s.part p).stop ∧
        ∀ u ∈ s.partTiles p, (s'.spin u).passes = [] ∧ (s'.spin u).lands = []) ∧
      (∀ t cs, r.drained = true → r.standIn = some t → ((s.row (rowOf t)).mirror = some (t % 32) ∧ (s.row (rowOf t)).ready = true ∨
          ∀ i, i < 8 → cs.getD i ⟨true, true⟩ = ⟨true, true⟩ ∧ s.worn (32 * rowOf t + 24) i = false ∧
            ((s.warp (arrKey (s.physOf t) i)).valid = none ∨
              adigOf (s.warp (arrKey (s.physOf t) i)).image = (s.warp (arrKey (s.physOf t) i)).adig)) →
        32 * rowOf t + 24 ≠ s.physOf t → Runs s (.standinReady ⟨q, cs⟩) fun s' => Resumed s' .standIn ∧
        (s'.row (rowOf t)).standIn = some (t % 32) ∧ (s'.row (rowOf t)).mirror = none ∧
        s'.reg Reg.intStandinCnt p = (s.reg Reg.intStandinCnt p + 1) % 2 ^ 32) ∧
      (∀ t cs u, r.drained = true → r.standIn = some t → s.prepareStandIn t cs = (false, u) →
        (u.hasSpare (rowOf t) = true → Runs s (.standinReady ⟨q, cs⟩) (· = u)) ∧
        (u.hasSpare (rowOf t) = false → Runs s (.standinReady ⟨q, cs⟩) fun s' =>
          (s'.part p).stop = .run ∧ (s'.part p).runKind = .forced ∧ (s'.part p).rerun = none ∧ (s'.row (rowOf t)).standIn = (u.row (rowOf t)).standIn))

/-- R60, R221, R226, R448, R449: a unit without a spare that exceeds its limit takes the next margin step, which waits for a window
boundary, and is observed; it keeps a step under which it stays within its limit, and becomes suspect when it exceeds the limit after its
last step. The model's choices and readings in it: log entry 94. -/
def Obligations.UnitsWithoutASpare : Prop :=
  ∀ (s : State) (u : BareUnit) (n : Nat) (x : BareSt), bareFitted s.variant u = true → n = u.index → x = s.bareUnit n →
    ∀ Next : State → Prop, (Next = fun s' =>
        (x.margin + x.pend < u.lastStep → s'.bareUnit n = { x with errs := [], pend := x.pend + 1, overLimit := true } ∧
          s'.integ.suspects = s.integ.suspects) ∧
        (u.lastStep ≤ x.margin + x.pend → s'.bareUnit n = { x with errs := [], overLimit := false, suspect := true } ∧
          (s.integ.suspects.length < 64 → s'.isSuspect u.kind n 0xFF = true)) ∧
        (∀ m, m ≠ n → s'.bareUnit m = s.bareUnit m) ∧ s'.slices = s.slices ∧ s'.flits = s.flits) →
      (u.kind ≠ 9 → x.overLimit = false → x.suspect = false → s.exceeds u = true → Runs s (.ixcRetryLimit u) fun s' =>
        Next s' ∧ s'.fld Reg.ixcStatus 0 1 1 = 1) ∧
      (x.overLimit = true → x.pend = 0 → s.exceeds u = true → Runs s (.marginRaiseObserved u true) Next) ∧
      (x.overLimit = true → x.pend = 0 → s.exceeds u = false → Runs s (.marginRaiseObserved u false) fun s' => s'.bareUnit n = { x with overLimit := false } ∧
        (∀ m, m ≠ n → s'.bareUnit m = s.bareUnit m) ∧ { s' with integ := s.integ } = s) ∧
      (∀ (k : BitVec 2) (errs : List DWord), u = .phy k → x.overLimit = false → x.suspect = false →
        errs = (x.errs.filter fun e => decide (s.now < e.toNat + 2 ^ 20)) ++ [s.time.cnt] →
        (errs.length ≤ max 1 (s.fld Reg.intPhyLimit 0 7 0) → Runs s (.stackPhyParityError k) fun s' =>
          s'.bareUnit n = { x with errs := errs } ∧ { s' with integ := s.integ } = s) ∧
        (max 1 (s.fld Reg.intPhyLimit 0 7 0) < errs.length → Runs s (.stackPhyParityError k) fun s' =>
          Next s'))

/-! ## Warp services -/

/-- R99, R116, R118, R119, R128, R560: a service command waits for its window boundary, the later write taking effect, or acts at once
with no program loaded: a request enters its Spindle's queue, CANCEL takes it out again. Drift in temperature, a calibration round and a
margin scan round have firmware ask for services in the same way. The model's choices and readings in it: log entries 55, 56, 57 and 118.
-/
def Obligations.ServiceRequests : Prop :=
  (∀ (s : State) (c : BitVec 3) (k op : Nat) (cmd : Instr), CanReach s c.toNat Reg.wrpSvcCmd k →
    (op, cmd) ∈ [(1, .svcCalibrate c), (2, .svcRewrite c), (3, .svcMarginScan c), (4, .svcCancel c)] →
    (s.noPrograms = false → Runs s cmd fun s' => Ends s' c.toNat 0 ∧ 
      s'.svcDue = (s.svcDue.filter fun e => e.key != k) ++ [⟨k, op, false⟩] ∧ { s' with svcDue := s.svcDue, regs := s.regs } = s.completed c.toNat false ∧
      OnlyRegs [Reg.wrpSvcCmd, Reg.cfgWstat] s s') ∧
    (s.noPrograms = true → op ≠ 4 → k % 16 < 8 → (s.tile (k / 16)).spareSuspect = false → (s.warp k).code ∉ [0, 4] →
      (op = 2 → s.worn (k / 16) (k % 16) = false) → (s.tile (k / 16)).queue.length < 8 →
      ((s.tile (k / 16)).queue.any fun r => r.arr == k % 16) = false → Runs s cmd fun s' => Ends s' c.toNat 0 ∧
        s'.tile (k / 16) = { s.tile (k / 16) with queue := (s.tile (k / 16)).queue ++ [⟨k % 16, op⟩] } ∧
        (s'.warp k).code = (if (s.warp k).code = 1 then 2 else (s.warp k).code)) ∧
    (∀ o, s.noPrograms = true → op = 4 → (s.tile (k / 16)).stage = .idle → (s.tile (k / 16)).calLeft = [] → s.cal.scan = [] →
      ((s.tile (k / 16)).queue.find? fun r => r.arr == k % 16) = some ⟨k % 16, o⟩ → Runs s cmd fun s' => Ends s' c.toNat 0 ∧
        (s'.tile (k / 16)).queue = (s.tile (k / 16)).queue.filter (fun r => r.arr != k % 16) ∧
        (s'.warp k).code = (if (s.warp k).code = 2 then 1 else (s.warp k).code) ∧ s'.reg Reg.wrpSvcResult k = (4 + o * 256) % 2 ^ 32)) ∧
  (∀ (s : State) (phys : BitVec 12) (arr : BitVec 4), physOk phys.toNat = true → arr.toNat ≤ 8 → s.fld Reg.calWarpCfg 0 30 24 ≠ 0 →
    4 * s.fld Reg.calWarpCfg 0 30 24 < (signed12 (s.fld (Reg.thmDist + 4 * districtOf phys.toNat) 0 11 0) -
      signed12 (s.fld Reg.calTc (arrKey phys.toNat arr.toNat) 11 0)).natAbs → s.svcPending phys.toNat arr.toNat = false →
    Runs s (.calRetemp phys arr) fun s' => s'.reg Reg.wrpSvcCmd (arrKey phys.toNat arr.toNat) = 1 ∧
      s'.svcDue = (s.svcDue.filter fun e => e.key != arrKey phys.toNat arr.toNat) ++ [⟨arrKey phys.toNat arr.toNat, 1, true⟩] ∧
      { s' with svcDue := s.svcDue, regs := s.regs } = s ∧ OnlyRegs [Reg.wrpSvcCmd] s s') ∧
  (∀ (s : State) (half : Bool) (d h p : Nat), d < 25 → h = (if half then 1 else 0) → s.fld Reg.calWarpCfg 0 9 0 ≠ 0 →
    s.calHalf h = ⟨d, none⟩ → p ∈ districtTiles (25 * h + d) → s.canServe p 0 = true → Runs s (.calRoundPeriodic half d) fun s' =>
      s'.calHalf h = ⟨d, some 0⟩ ∧ s'.calHalf (1 - h) = s.calHalf (1 - h) ∧ (s'.tile p).calLeft = [0] ∧ s'.fld Reg.calRound 0 4 0 = d ∧
      (s.svcPending p 0 = false → (⟨arrKey p 0, 1, true⟩ : SvcDue) ∈ s'.svcDue) ∧
      ∀ q, q ∉ districtTiles (25 * h + d) → s'.tile q = s.tile q) ∧
  ∀ (s : State) (keys : List Nat), s.fld Reg.wrpScanCfg 0 0 0 = 1 → s.fld Reg.wrpScanStat 0 0 0 = 0 →
    keys = ((List.range 50).flatMap fun d => (districtTiles d).flatMap fun p => (List.range 8).map (arrKey p)) →
    Runs s .marginScanRound fun s' =>
      s'.cal.scan = (keys.dropWhile fun k => !s.canServe (k / 16) (k % 16)) ∧ s'.tiles = s.tiles ∧ s'.warps = s.warps ∧
      s'.fld Reg.wrpScanStat 0 0 0 = (if s'.cal.scan = [] then 0 else 1) ∧
      ∀ k l, s'.cal.scan = k :: l → s'.svcDue = (if s.svcPending (k / 16) (k % 16) = true then s.svcDue
        else (s.svcDue.filter fun e => e.key != k) ++ [⟨k, 3, true⟩])

/-- R108, R112, R113, R115, R118, R121, R123, R124, R556, R557, R558, R559: the request at the head of the queue has the spare written,
which is then ready or aborts, the second abort in a row making it suspect; on LMX1-S0I1 the shard is requested and may time out. A
service that passes awaits hand-back; one that fails leaves its array FAILED and suspect; the spare is calibrated in place. The model's
choices and readings in it: log entries 55, 56, 57, 118 and 122. -/
def Obligations.SpareServices : Prop :=
  ∀ (s : State) (t : BitVec 12) (p : Nat), p = t.toNat → physOk p = true →
    (∀ r rest, (s.tile p).queue = r :: rest → (s.tile p).stage = .idle → (s.tile p).spareSuspect = false →
      (r.arr = 8 → Runs s (.spareLoadStart t) fun s' =>
        s'.tile p = { s.tile p with stage := .inPlace, queue := rest } ∧ { s' with tiles := s.tiles } = s) ∧
      (∀ u, r.arr ≠ 8 → s.targetOf p r.arr = some u → s.underBarrier u = false → s.worn p 8 = false →
        (r.op = 2 → s.worn p r.arr = false) → s.writingAt p = false →
        (∀ g, s.stacked = true → s.gold u = some g → g.compared = true → (r.op ≠ 2 ∨ s.goldGood u = true) →
          Runs s (.spareLoadStart t) fun s' => s'.tile p = { s.tile p with stage := .loading r.arr r.op } ∧
            s'.warp (arrKey p 8) = { s.warp (arrKey p 8) with writing := some g.image } ∧
            { s' with tiles := s.tiles, warps := s.warps } = s) ∧
        (∀ m l h k, s.stacked = false → s.locate u = some (m, l, h, k) → s.wgt.reqs = [] → Runs s (.spareLoadStart t) fun s' =>
          s'.tile p = { s.tile p with stage := .loading r.arr r.op } ∧ (s'.warp (arrKey p 8)).writing = none ∧
          ∃ q, s'.wgt.reqs = [q] ∧ q.id = s.wgt.nextReq ∧ q.model = (s.model m).id ∧ q.layer = l ∧ q.shard = h))) ∧
    (∀ a op img c, (s.tile p).stage = .loading a op → (s.warp (arrKey p 8)).writing = some img →
      (c.writeOk = true → c.passesOk = true → Runs s (.spareLoadDone t c) fun s' =>
        s'.tile p = { s.tile p with stage := .ready a op, aborts := 0 } ∧ s'.warp (arrKey p 8) = (s.warp (arrKey p 8)).load img ∧
        (∀ k, k ≠ arrKey p 8 → s'.warp k = s.warp k) ∧ s'.slices = s.slices) ∧
      (¬(c.writeOk = true ∧ c.passesOk = true) → Runs s (.spareLoadDone t c) fun s' => (s'.tile p).aborts = (s.tile p).aborts + 1 ∧
        s'.reg Reg.wrpSvcResult (arrKey p a) = (2 + op * 256) % 2 ^ 32 ∧ (s'.warp (arrKey p 8)).writing = none ∧
        (s'.tile p).spareSuspect = ((s.tile p).spareSuspect || decide (1 ≤ (s.tile p).aborts)))) ∧
    (∀ a op, (s.tile p).stage = .loading a op → (s.warp (arrKey p 8)).writing = none → s.stacked = false →
      Runs s (.spareShardTimeout t) fun s' => s'.reg Reg.wrpSvcResult (arrKey p a) = (3 + op * 256) % 2 ^ 32 ∧
        (s'.tile p).aborts = (s.tile p).aborts ∧ s'.wgt = s.wgt) ∧
    (∀ a c k, (s.tile p).stage = .standing a 1 → a < 8 → k = arrKey p a → (s.warp k).code = 3 → c.passesOk = true →
      (worstResid (s.warp k).zeroCols c.resids).1 ≤ s.fld Reg.calWarpCfg 0 23 16 →
      (s.warp k).fitOk (fitKept (s.warp k).zeroCols c.fit) = true → Runs s (.serviceComplete t c) fun s' =>
        (s'.tile p).stage = .handback a 1 ∧ s'.warp k = { s.warp k with refs := refPatterns, ageDue := some c } ∧
        s'.reg Reg.calResult k = 1 ∧ s'.reg Reg.calCnt k = (s.reg Reg.calCnt k + 1) % 2 ^ 32) ∧
    (∀ a c k, (s.tile p).stage = .standing a 1 → a < 8 → k = arrKey p a → (s.warp k).code = 3 →
      (c.passesOk = false ∨ s.fld Reg.calWarpCfg 0 23 16 < (worstResid (s.warp k).zeroCols c.resids).1) →
      s.fld Reg.wrpScanCfg 0 15 8 ≤ c.minMargin → Runs s (.serviceComplete t c) fun s' => (s'.warp k).code = 4 ∧
        s'.reg Reg.calResult k = 3 ∧ (s'.tile p).stage = .standing a 1 ∧ s'.fld Reg.calStatus 0 8 8 = 1 ∧
        (s.integ.suspects.length < 64 → s'.isSuspect 2 p a = true)) ∧
    (∀ a c k, (s.tile p).stage = .standing a 2 → a < 8 → k = arrKey p a → (s.warp k).code = 3 →
      (∀ img, c.writeOk = true → c.passesOk = true → (s.warp k).writing = some img → Runs s (.serviceComplete t c) fun s' =>
        (s'.tile p).stage = .handback a 2 ∧
        s'.warp k = { (s.warp k).load img with record := (s.targetOf p a).bind fun u => s.recordOf u img } ∧
        s'.fld Reg.wrpWriteCnt k 19 0 = min (s.fld Reg.wrpWriteCnt k 19 0 + 1) 1048575) ∧
      (¬(c.writeOk = true ∧ c.passesOk = true) → Runs s (.serviceComplete t c) fun s' => (s'.warp k).code = 4 ∧
        (c.writeOk = false → (s'.warp k).record = none) ∧ (s'.tile p).stage = .standing a 2 ∧ (s.integ.suspects.length < 64 → s'.isSuspect 2 p a = true))) ∧
    (∀ a c k, (s.tile p).stage = .standing a 3 → a < 8 → k = arrKey p a → (s.warp k).code = 3 → Runs s (.serviceComplete t c) fun s' =>
      s'.reg Reg.wrpMargin k = (c.minMargin % 32 + lowOf (s.fld Reg.wrpScanCfg 0 15 8) c % 2 ^ 20 * 256) % 2 ^ 32 ∧
      (c.passesOk = true → (s'.tile p).stage = .handback a 3) ∧ (c.passesOk = false → (s'.warp k).code = 4 ∧ (s'.tile p).stage = .standing a 3)) ∧
    (∀ c k, (s.tile p).stage = .inPlace → k = arrKey p 8 → c.passesOk = true →
      (worstResid (s.warp k).zeroCols c.resids).1 ≤ s.fld Reg.calWarpCfg 0 23 16 → (s.warp k).fitOk (fitKept (s.warp k).zeroCols c.fit) = true →
      Runs s (.serviceComplete t c) fun s' => (s'.warp k).age = fitMap (fitKept (s.warp k).zeroCols c.fit) ∧ (s'.warp k).refs = refPatterns ∧
        s'.reg Reg.wrpCalEpoch k = (s.reg Reg.wrpCalEpoch k + 1) % 65536 ∧ s'.reg Reg.calResult k = 1 ∧
        s'.reg Reg.wrpSvcResult k = 257)

/-! ## Weft arrays and adapter entries -/

/-- R133, R147, R148, R149, R151, R152, R153, R312: a slot write leaves its cells in the slot, with their checksums, parity and segment
sums, and the write that waited for the write port goes on; a scrub read advances one row, sends a written slot with a parity error to
RESTORE and blocks the flip of a shadow slot; a restore rewrites the slot in place, a TRAINING entry's generation increments; a
recalibration ends ONLINE, in a second attempt, or FAILED. The model's choices and readings in it: log entries 11, 46, 96, 125, 126, 127,
128 and 129. -/
def Obligations.WeftArraysOutsidePasses : Prop :=
  ∀ (s : State) (t : BitVec 12) (p : Nat), p = t.toNat → physOk p = true →
    (∀ slot q, ((s.weft p).slot slot).write = some q → q.queued = false → Runs s (.weftSlotWriteDone t slot) fun s' =>
      (s'.weft p).slot slot = { (s.weft p).slot slot with
        cells := q.cells, chk := rowSums q.cells, sums := segSums q.cells, par := rowParity q.cells, write := none,
        blocked := if q.quant then q.stopped else ((s.weft p).slot slot).blocked } ∧
      (s'.weft p).slot (!slot) = { (s.weft p).slot (!slot) with
        write := ((s.weft p).slot (!slot)).write.map fun q => { q with queued := false } } ∧ (∀ r, r ≠ p → s'.weft r = s.weft r) ∧
      s'.reg Reg.wftWriteCnt p = (s.reg Reg.wftWriteCnt p + 1) % 2 ^ 32 ∧ { s' with wefts := s.wefts, tiles := s.tiles, regs := s.regs } = s) ∧
    (∀ bad0 bad1, (s.weft p).slot0.write = none → (s.weft p).slot1.write = none → Runs s (.weftScrubRead t bad0 bad1) fun s' =>
      (s'.weft p).scrubRow = ((s.weft p).scrubRow + 1) % 512 ∧
      (∀ k bad, bad = (if k then bad1 else bad0) →
        (bad = true → ((s.weft p).slot k).st ∈ [.resident, .loading] → (s'.weft p).slot k = { (s.weft p).slot k with st := .restore }) ∧
        (bad = true → ((s.weft p).slot k).st = .shadow → (s'.weft p).slot k = { (s.weft p).slot k with blocked := true }) ∧
        ((bad = false ∨ ((s.weft p).slot k).st ∉ [.resident, .loading, .shadow]) → (s'.weft p).slot k = (s.weft p).slot k)) ∧
      s'.reg Reg.wftScrubErrCnt p =
        (s.reg Reg.wftScrubErrCnt p + (if bad0 then 1 else 0) + (if bad1 then 1 else 0)) % 2 ^ 32 ∧
      ∀ r, r ≠ p → s'.weft r = s.weft r) ∧
    (∀ slot e, ((s.weft p).slot slot).st = .restore → ((s.weft p).slot slot).entry = some e →
      (∀ f, (s.adapter e).st ∈ [2, 3] → (s.wgt.reqs.any fun r => r.adapter == some e) = false →
        ((s.adapter e).foot.find? fun f => s.physOf f.tile == p) = some f → Runs s (.weftRestoreDone t slot) fun s' =>
          (s'.weft p).slot slot = { (s.weft p).slot slot with
            st := .resident, cells := f.cells, scales := f.scales, write := none, chk := rowSums f.cells, sums := segSums f.cells, par := rowParity f.cells } ∧
          (s'.weft p).slot (!slot) = (s.weft p).slot (!slot) ∧ s'.adapters = s.adapters) ∧
      ((s.adapter e).st = 4 → Runs s (.weftRestoreDone t slot) fun s' => ((s'.weft p).slot slot).st = .resident ∧
        ((s'.weft p).slot slot).entry = some e ∧
        ((s'.weft p).slot slot).cells = (s.masterCells p ((s.weft p).slot slot) s.freeCtr).1 ∧ (s'.adapter e).gen = ((s.adapter e).gen + 1) % 256 ∧ s'.freeCtr = s.freeCtr + 1)) ∧
    (∀ margin, (s.weft p).st = 1 →
      (s.fld Reg.wftQualCfg 0 5 0 + s.fld Reg.wftQualCfg 0 13 8 ≤ margin → Runs s (.weftRecalDone t margin) fun s' =>
        s'.weft p = { s.weft p with st := 0, attempt := 0, trimSet := s.freeCtr + 1 } ∧ s'.reg Reg.wftQual p = 32 ∧ Raised s s' 0x4005 (s.weftItem p ++ le1 margin) ∧
        OnlyEvents [Reg.wftRecalActive, Reg.wftQual] s { s' with wefts := s.wefts, freeCtr := s.freeCtr }) ∧
      (margin < s.fld Reg.wftQualCfg 0 5 0 + s.fld Reg.wftQualCfg 0 13 8 → (s.weft p).attempt = 0 →
        Runs s (.weftRecalDone t margin) fun s' => s'.weft p = { s.weft p with attempt := 1, trimSet := s.freeCtr + 1 } ∧
          { s' with wefts := s.wefts, freeCtr := s.freeCtr } = s) ∧
      (margin < s.fld Reg.wftQualCfg 0 5 0 + s.fld Reg.wftQualCfg 0 13 8 → (s.weft p).attempt ≠ 0 →
        Runs s (.weftRecalDone t margin) fun s' => s'.weft p = { s.weft p with st := 2, trimSet := s.freeCtr + 1 } ∧
          (s.integ.suspects.length < 64 → s'.isSuspect 4 p 9 = true))) ∧
    (∀ d r, d < 50 → d = s.cal.weftD → s.fld Reg.wftQualCfg 0 25 16 ≠ 0 → ((districtTiles d).any fun q => (s.weft q).st == 1) = false →
      (((List.range 64).map fun i => (SMap.get 0 s.cal.weft d + i) % 64).find? fun r =>
        (s.weft ((districtTiles d).getD r 0)).st == 0) = some r → p = (districtTiles d).getD r 0 →
      Runs s (.weftRecalPeriodic d) fun s' => s'.weft p = { s.weft p with st := 1, attempt := 0 } ∧
        (∀ q, q ≠ p → s'.weft q = s.weft q) ∧ SMap.get 0 s'.cal.weft d = (r + 1) % 64 ∧ s'.cal.weftD = (d + 1) % 50 ∧
        s'.reg Reg.wftRecalCnt p = (s.reg Reg.wftRecalCnt p + 1) % 2 ^ 32)

/-- R153, R154, R155, R163: UNLOAD and FREEZE wait for the step boundary of the entry's partition, the later one taking effect, or act at
once with no program loaded; a load that waits is placed when the slots are free and ends ADAPTER_BUSY after its time; a verified load is
ready for the boundary, a failed one returns its entry to EMPTY; a restore image that does not come makes its entry FAILED. The model's
choices and readings in it: log entries 47, 81, 96, 123, 124 and 130. -/
def Obligations.AdapterEntries : Prop :=
  (∀ (s : State) (c : BitVec 3) (w : BitVec 10) (e : Nat), e = w.toNat → CanReach s c.toNat Reg.wftAdptCmd 0 →
    (∀ op cmd, (op, cmd) ∈ [(1, Instr.adapterUnload c w), (2, .adapterFreeze c w)] → s.noPrograms = false → (s.adapter e).st ≠ 0 →
      Runs s cmd fun s' => s'.adapter e = { s.adapter e with due := op } ∧
        (∀ x, x ≠ e → (s.adapter x).part = (s.adapter e).part → s'.adapter x = { s.adapter x with due := 0 }) ∧
        (∀ x, (s.adapter x).part ≠ (s.adapter e).part → s'.adapter x = s.adapter x) ∧ s'.wefts = s.wefts ∧ s'.events = s.events) ∧
    (s.noPrograms = true → (s.adapter e).st ∈ [2, 4] →
      ((s.adapter e).refs = 0 → Runs s (.adapterUnload c w) fun s' => s'.adapter e = Adapter.init ∧
        s'.reg Reg.wftAdptResult = 1 + e * 256 ∧
        ∀ f ∈ (s.adapter e).foot, ∀ k, ((s'.weft (s.physOf f.tile)).slot k).entry ≠ some e) ∧
      ((s.adapter e).refs ≠ 0 → Runs s (.adapterUnload c w) fun s' => s'.adapter e = { s.adapter e with
          st := 3, due := 0, foot := (s'.adapter e).foot } ∧ ((s.adapter e).st = 2 → (s'.adapter e).foot = (s.adapter e).foot) ∧
        s'.reg Reg.wftAdptResult = 1 + e * 256 ∧ s'.wefts = s.wefts)) ∧
    (s.noPrograms = true → (s.adapter e).st = 4 → Runs s (.adapterFreeze c w) fun s' =>
      s'.adapter e = { s.adapter e with st := 2, due := 0, foot := (s'.adapter e).foot } ∧ s'.reg Reg.wftAdptResult = 1 + e * 256 ∧
      ∀ f ∈ (s.adapter e).foot, ∀ k, ((s'.weft (s.physOf f.tile)).slot k).entry = some e →
        ((s'.weft (s.physOf f.tile)).slot k).st ≠ .shadow)) ∧
  (∀ (s : State) (b : BitVec 4) (j : Nat) (x : Job) (imgs : List (Nat × Bytes)), j = b.toNat → x = s.job j → x.waiting = true →
    imgs = (x.staged.flatMap fun e => e.2.targets.zip e.2.images) →
    (Runs s (.adapterWaitTimeout b) fun s' => s'.job j = Job.init ∧ s'.fld Reg.wgtJobStat j 2 0 = 4 ∧ s'.fld Reg.wgtJobStat j 11 8 = 14 ∧
      s'.reg Reg.wftAdptResult = 2 ∧ s'.fld Reg.wftStatus 0 2 2 = 1 ∧ s'.wefts = s.wefts ∧ s'.adapters = s.adapters) ∧
    (∀ e, (imgs.any fun q => !(s.relOk x.part (q.1 % 4096) && s.ownerOf (s.relTile x.part (q.1 % 4096)) == some x.part)) = false →
      (s.entries fun a => a.st != 0 && a.part == x.part && a.handle == x.adpt % 65536) = [] → x.adpt / 2147483648 % 2 = 0 →
      ((List.range 1024).find? fun e => (s.adapter e).st == 0) = some e → (s.stacked = true → imgs.length ≤ s.adptFree) →
      ((∃ q ∈ imgs, (s.weft (s.physOf (s.relTile x.part (q.1 % 4096)))).freeSlots = []) →
        Runs s (.adapterAllocRetry b) fun s' => s'.job j = x ∧ s'.wefts = s.wefts ∧ s'.adapters = s.adapters) ∧
      ((∀ q ∈ imgs, (s.weft (s.physOf (s.relTile x.part (q.1 % 4096)))).freeSlots ≠ []) →
        Runs s (.adapterAllocRetry b) fun s' => (s'.job j).waiting = false ∧ (s'.job j).entry = some e ∧
          s'.fld Reg.wgtJobStat j 2 0 = 3 ∧ (s'.adapter e).st = 1 ∧ (s'.adapter e).handle = x.adpt % 65536 ∧
          (s'.adapter e).gen = x.adpt / 65536 % 256 ∧ (s'.adapter e).part = x.part ∧ (s'.adapter e).refs = 0 ∧
          (s'.adapter e).foot.length = imgs.length ∧ ∀ o, o ≠ e → s'.adapter o = s.adapter o))) ∧
  ∀ (s : State) (w : BitVec 10) (e : Nat) (a : Adapter), e = w.toNat → a = s.adapter e →
    (∀ Holds : (WeftSlot → Bool) → Prop, (Holds = fun f => ∃ t ∈ a.foot, ∃ k, ((s.weft (s.physOf t.tile)).slot k).entry = some e ∧
        f ((s.weft (s.physOf t.tile)).slot k) = true) →
      (a.st = 1 → a.ready = false → ¬Holds (fun x => x.write.isSome) → Runs s (.adapterLoadVerified w true) fun s' =>
        s'.adapter e = { a with ready := true } ∧ { s' with adapters := s.adapters } = s) ∧
      (a.st = 1 → a.ready = false → Runs s (.adapterLoadVerified w false) fun s' => s'.adapter e = Adapter.init ∧
        (∀ o, o ≠ e → s'.adapter o = s.adapter o) ∧ s'.reg Reg.wftAdptResult = 3 + e * 256 ∧
        ∀ t ∈ a.foot, ∀ k, ((s'.weft (s.physOf t.tile)).slot k).entry ≠ some e) ∧
      (a.st ∈ [2, 3, 4] → Holds (fun x => x.st == .restore) → (∀ x ∈ s.serve.sessions, x.adapter ≠ some e) →
        Runs s (.adapterRestoreTimeout w) fun s' =>
          s'.adapter e = (if a.refs = 0 ∧ (s.part a.part).inStep = false then Adapter.init else { a with st := 5 }) ∧ (∀ o, o ≠ e → s'.adapter o = s.adapter o) ∧
          s'.serve.sessions = s.serve.sessions))

/-! ## The loader -/

/-- R301, R302, R303, R304, R361: LOAD of a quiescent partition fetches the image; an image that passes every check is committed, every
tile with its words, its registers and counts at 0 and its partition at START_STEP; a failed load changes nothing and is answered with its
result. PATCH writes one value into the sites of its PATCH_ID, UNLOAD clears the program, a bad message is answered HEADER. The model's
choices and readings in it: log entries 49, 50 and 53. -/
def Obligations.LoaderCommands : Prop :=
  (∀ (s : State) (c p : Nat) (b : Bytes), s.serve.loading = none → s.nextCommand = some (c, b) → c < 6 → p = byteAt b 1 → p < 16 →
    (byteAt b 0 = 0x10 → s.quiescent p = true → s.fld Reg.bstStatus 0 0 0 = 0 → Runs s .load fun s' =>
      s'.serve.loading = some (c, b) ∧ s'.spindles = s.spindles ∧ s'.parts = s.parts ∧
      Sent s s' [.rdmaRead (s.ctx c).qp (BitVec.ofNat 64 (leNat b 8 8)) (BitVec.ofNat 32 (leNat b 16 4)) (leNat b 4 4)]) ∧
    (s.quiescent p = false → ∀ op cmd, (op, cmd) ∈ [(0x10, Instr.load), (0x11, .patch), (0x12, .unload)] → byteAt b 0 = op →
      Runs s cmd fun s' => Responds s s' c (padTo 4 b) 1 ∧ s'.serve.loading = none ∧ s'.spindles = s.spindles ∧ s'.parts = s.parts) ∧
    (∀ g, byteAt b 0 = 0x11 → s.quiescent p = true → (s.part p).prog = some g →
      ((∀ x ∈ g.sites, x.id ≠ leNat b 26 2) → Runs s .patch fun s' =>
        Responds s s' c (padTo 4 b) 16 ∧ s'.spindles = s.spindles ∧ s'.parts = s.parts) ∧
      (∀ x t v, g.sites.filter (fun x => x.id == leNat b 26 2) = [x] → 3 ≤ x.type → g.tiles.map Prod.fst = t → t[x.tile]? = some v →
        Runs s .patch fun s' => Responds s s' c (padTo 4 b) 0 ∧ (∀ u, u ≠ v → s'.spin u = s.spin u) ∧
          wf (SMap.get 0 (s'.spin v).words x.word) 31 0 = leNat b 32 8 % 2 ^ (if x.type = 3 then 24 else 32) ∧
          wf (SMap.get 0 (s'.spin v).words x.word) 63 32 = wf (SMap.get 0 (s.spin v).words x.word) 63 32 ∧
          SMap.get 0 (s'.spin v).parity x.word = wordParity (SMap.get 0 (s'.spin v).words x.word) ∧
          ∀ a, a ≠ x.word → SMap.get 0 (s'.spin v).words a = SMap.get 0 (s.spin v).words a)) ∧
    (byteAt b 0 = 0x12 → s.quiescent p = true → Runs s .unload fun s' => Responds s s' c (padTo 4 b) 0 ∧
      s'.part p = PartSt.init ∧ (∀ t ∈ s.partTiles p, s'.spin t = Spindle.init) ∧ (∀ t, t ∉ s.partTiles p → s'.spin t = s.spin t) ∧
      ∀ q, q ≠ p → s'.part q = s.part q)) ∧
  (∀ (s : State) (c p : Nat) (cmd : Bytes), s.serve.loading = some (c, cmd) → c < 6 → p = byteAt cmd 1 → p < 16 →
    (Runs s .loadFetchTimeout fun s' => s'.serve.loading = none ∧ Responds s s' c (padTo 4 cmd) 2 ∧ s'.spindles = s.spindles ∧
      s'.parts = s.parts) ∧
    (∀ image : Bytes, image.length = leNat cmd 4 4 → s.quiescent p = true →
      (∀ f, s.imageFault p image.length image = some f → Runs s (.loadImageArrived image) fun s' => s'.serve.loading = none ∧
        (f.result < 65536 → Responds s s' c (padTo 4 cmd) f.result) ∧ s'.spindles = s.spindles ∧ s'.parts = s.parts ∧
        s'.slices = s.slices ∧ s'.stackMem = s.stackMem) ∧
      (s.imageFault p image.length image = none → Runs s (.loadImageArrived image) fun s' => s'.serve.loading = none ∧
        Responds s s' c (padTo 4 cmd) 0 ∧ (s'.part p).step = leNat cmd 20 6 ∧ (s'.part p).stop = .run ∧ (s'.part p).inStep = false ∧
        s'.reg Reg.trnLead p = leNat image 30 2 ∧
        (∃ g, (s'.part p).prog = some g ∧ g.seed = BitVec.ofNat 64 (leNat image 16 8) ∧ g.model = leNat image 24 4 ∧
          g.tiles = s.imgDraws p image) ∧
        ∀ i t, (imgTiles image)[i]? = some t → (s'.spin (s.relTile p t.rel)).part = some p ∧
          (s'.spin (s.relTile p t.rel)).words = (loadedSpindle p t (s.finalWords p image i t)).words ∧
          (s'.spin (s.relTile p t.rel)).len = t.words ∧ (s'.spin (s.relTile p t.rel)).restart = t.restart ∧
          (s'.spin (s.relTile p t.rel)).pc = 0 ∧ (s'.spin (s.relTile p t.rel)).turn = 0 ∧ (s'.spin (s.relTile p t.rel)).x = [] ∧
          (s'.spin (s.relTile p t.rel)).v = [] ∧ (s'.spin (s.relTile p t.rel)).occ = [] ∧
          (s'.spin (s.relTile p t.rel)).tokens = 0 ∧ (s'.spin (s.relTile p t.rel)).granted = false))) ∧
  ∀ (s : State) (ctx : BitVec 3) (c n : Nat) (w : DWord), c = ctx.toNat → c < 6 → s.serve.loading = none → s.frontLength c = some w →
    commandWord w = false → n = (if s.frontBad c = true then 8 else lengthWords 17 w) → Runs s (.mailboxBadMessage ctx) fun s' => Responds s s' c [0, 0, 0, 0] 3 ∧
      (s'.hank (17 + c)).words = (s.hank (17 + c)).words.drop (1 + n) ∧
      (s'.hank (17 + c)).discard = n - ((s.hank (17 + c)).words.length - 1)

/-! ## The serving engine -/

/-- R322, R324, R328, R355, R472: a request on a SERVING queue pair waits for its partition's engine tick; with the pool of 1,024 buffers
empty the queue pair is answered receiver-not-ready and nothing is dropped. At the tick CLOSE ends its session, APPEND feeds it or waits,
DRAFT replaces the next step's drafts or is stale, RING_CREDIT frees ring bytes, and an OPEN makes a session or is refused. The model's
choices and readings in it: log entries 44 and 45. -/
def Obligations.RequestsActAtTheTick : Prop :=
  (∀ (s : State) (slot : BitVec 9) (m : Bytes) (cmd : Instr), 6 ≤ slot.toNat → slot.toNat < 262 → (s.qp slot.toNat).st = 2 →
    cmd ∈ [.openReq slot m, .appendReq slot m, .draftReq slot m, .closeReq slot m, .ringCredit slot m] →
    ((s.serve.parts.map fun e => e.2.reqs.length).sum < 1024 → reqPart m < 16 → Runs s cmd fun s' =>
      s'.servPart (reqPart m) =
        { s.servPart (reqPart m) with reqs := (s.servPart (reqPart m)).reqs ++ [⟨slot.toNat, m⟩] } ∧
      (∀ q, q ≠ reqPart m → s'.servPart q = s.servPart q) ∧ s'.serve.sessions = s.serve.sessions ∧ { s' with serve := s.serve } = s) ∧
    (1024 ≤ (s.serve.parts.map fun e => e.2.reqs.length).sum → Runs s cmd fun s' => s'.serve = s.serve ∧
      Sent s s' [.rnr slot.toNat (s.fld Reg.ethRcCfg 0 12 8)] ∧
      s'.reg Reg.ethQpRnrCnt slot.toNat = (s.reg Reg.ethQpRnrCnt slot.toNat + 1) % 2 ^ 32)) ∧
  ∀ (s : State) (b : BitVec 4) (p k : Nat) (m : Bytes), p = b.toNat → s.tickable p = true → (s.servPart p).reqs = [⟨k, m⟩] →
    reqPart m = p →
    (reqOp m = 5 → s.badRequest m = false → s.serve.sessions = [] → Runs s (.engineTick b) fun s' => (s'.servPart p).reqs = [] ∧
      (s'.servPart p).ringFree = min ((s.servPart p).ringFree + leNat m 24 4) (2 ^ s.fld Reg.srvRingCfg p 4 0)) ∧
    (∀ x, s.serve.sessions = [x] → x.part = p → x.id = reqSession m → x.ending = none → x.adapter = none →
      x.st ∈ [.feed, .gen, .hold] → s.badRequest m = false →
      (reqOp m = 4 → Runs s (.engineTick b) fun s' => s'.serve.sessions = [] ∧ Noticed s s' p x.id x.rtag 4 5) ∧
      (reqOp m = 2 → s.inputUse + reqNtok m ≤ s.inputPool →
        (x.st = .hold → Runs s (.engineTick b) fun s' => s'.serve.sessions =
          [{ x with st := .feed, input := x.next :: (x.append ++ reqToks m), append := [], drafts := none }]) ∧
        (x.st = .gen → reqFlag m 5 = true → Runs s (.engineTick b) fun s' => s'.serve.sessions =
          [{ x with st := .feed, input := x.next :: reqToks m, drafts := none }]) ∧
        (x.st = .gen → reqFlag m 5 = false → x.drafts = none → Runs s (.engineTick b) fun s' =>
          s'.serve.sessions = [{ x with append := x.append ++ reqToks m }])) ∧
      (reqOp m = 2 → s.inputPool < s.inputUse + reqNtok m → x.drafts = none → Runs s (.engineTick b) fun s' =>
        s'.serve.sessions = [x] ∧ Noticed s s' p x.id (reqRtag m) 2 25) ∧
      (reqOp m = 3 → x.st = .gen → s.mayStart p = false → leNat m 52 4 = x.clen + 1 → Runs s (.engineTick b) fun s' =>
        s'.serve.sessions = [{ x with drafts := some (leNat m 52 4, reqToks m) }]) ∧
      (reqOp m = 3 → x.drafts = none → leNat m 52 4 ≠ x.clen + 1 → Runs s (.engineTick b) fun s' =>
        s'.serve.sessions = [x] ∧ Noticed s s' p x.id (reqRtag m) 3 28)) ∧
    (s.serve.sessions = [] → reqOp m ∈ [2, 3, 4] → s.badRequest m = false → Runs s (.engineTick b) fun s' => s'.serve.sessions = [] ∧
      Noticed s s' p (reqSession m) (reqRtag m) (reqOp m) 23 ∧
      s'.reg Reg.srvRefuseCnt = (s.reg Reg.srvRefuseCnt + 1) % 2 ^ 32 ∧ s'.fld Reg.srvStatus 0 0 0 = 1) ∧
    (s.serve.sessions = [] → reqOp m = 1 →
      (s.openStatus m = 0 → Runs s (.engineTick b) fun s' => s'.serve.sessions = [s.newSession m]) ∧
      (s.openStatus m ≠ 0 → Runs s (.engineTick b) fun s' => s'.serve.sessions = [] ∧
        Noticed s s' p (reqSession m) (reqRtag m) 1 (s.openStatus m) ∧
        s'.reg Reg.srvRefuseCnt = (s.reg Reg.srvRefuseCnt + 1) % 2 ^ 32))

/-- R322, R328, R341, R345: a PENDING session's lookup commits whole shared blocks of its prompt and never its last token; with its pages
reserved it is admitted, FEED or IMPORT, with the epoch in force. WAIT_MS, IDLE_S and the fault hold end sessions at a tick. The model's
choices and readings in it: log entries 11, 98 and 112. -/
def Obligations.SessionsAreAdmittedOrTimeOut : Prop :=
  ∀ (s : State) (id : Word) (x : Session), s.session id = some x →
    (x.st = .pending → x.lookup = true → x.reserved = false → x.input.length ≤ x.ctxMax → Runs s (.openLookupDone id) fun s' =>
      ∃ y, s'.session id = some y ∧ y.st = .pending ∧ y.lookup = false ∧ y.clen = 16 * y.nodes.length ∧ y.toks.length = y.clen ∧
        y.toks ++ y.input = x.input ∧ (x.input ≠ [] → y.input ≠ []) ∧
        (y.reserved = true → y.blocks.length = ceilDiv x.ctxMax 16 ∧ (x.slice = false → y.openPages.length = 2))) ∧
    (x.st = .pending → x.lookup = false → s.tickable x.part = true → s.modelReady x.part = true → s.cfgSound x.part = true →
      x.handle = none →
      (x.reserved = true → Runs s (.pendingAdmit id) fun s' => ∃ y, s'.session id = some y ∧
        y.st = (if x.flags.testBit 3 then .imp else .feed) ∧ y.order = s.serve.opened ∧ s'.serve.opened = s.serve.opened + 1 ∧
        (∀ g, s.modelOfPart x.part = some g → y.epoch = (s.model g).epoch) ∧ y.input = x.input ∧ y.clen = x.clen ∧ y.blocks = x.blocks ∧
        Noticed s s' x.part id x.rtag 1 1) ∧
      (x.reserved = false → x.slice = true → x.blocks.length ≤ ceilDiv x.ctxMax 16 →
        (ceilDiv x.ctxMax 16 - x.blocks.length ≤ (s.freePages x.part 0 (s.slicePages x.part)).length →
          Runs s (.pendingAdmit id) fun s' => ∃ y, s'.session id = some y ∧ y.st = (if x.flags.testBit 3 then .imp else .feed) ∧
            y.blocks.length = ceilDiv x.ctxMax 16 ∧ y.blocks.take x.blocks.length = x.blocks ∧
            ∀ g ∈ y.blocks.drop x.blocks.length, g < s.slicePages x.part ∧ s.pageFree x.part g = true) ∧
        ((s.freePages x.part 0 (s.slicePages x.part)).length < ceilDiv x.ctxMax 16 - x.blocks.length → (s.servPart x.part).lru = [] →
          Runs s (.pendingAdmit id) (· = s.layBraid x.part)))) ∧
    (x.st = .pending → (s.tickable x.part = true → Runs s (.pendingTimeout id) fun s' => s'.session id = none ∧
        Noticed s s' x.part id x.rtag 1 26 ∧ Raised s s' 0x5004 (le4 id.toNat ++ le1 x.part)) ∧
      (s.tickable x.part = false → x.ending = none → Runs s (.pendingTimeout id) fun s' =>
        s'.session id = some { x with ending := some (1, 26) } ∧ { s' with serve := s.serve } = s)) ∧
    (x.st = .hold → s.tickable x.part = true →
      (bits (s.liveReg x.part Reg.srvAdmitCfg) 31 16 ≠ 0 → Runs s (.holdIdleTimeout id) fun s' => s'.session id = none ∧
        Noticed s s' x.part id x.rtag 0 11) ∧
      (bits (s.liveReg x.part Reg.srvAdmitCfg) 31 16 = 0 → Runs s (.holdIdleTimeout id) (· = s))) ∧
    ∀ b : BitVec 4, (s.serve.sessions.map Session.id).Nodup → Runs s (.suspendTimeout b) fun s' =>
      s'.serve.sessions = s.serve.sessions.filter (fun y => !(y.part == b.toNat && y.st == .suspended)) ∧
      ∀ y, s.serve.sessions.filter (fun y => y.part == b.toNat && y.st == .suspended) = [y] → Noticed s s' b.toNat y.id y.rtag 0 8

/-- R279, R322, R330, R331, R333, R340, R441, R538: an engine tick brings its LIVE fields into force and publishes the next batch; the
boundary admits it; the milestone commits what the program emitted, frees the step's hold records and leaves its number in INT_LAST_MILE.
A partition with a step in flight has no tick, an unfinished step no milestone. The model's choices and readings in it: log entries 43 and
99. -/
def Obligations.TicksBoundariesAndMilestones : Prop :=
  ∀ (s : State) (b : BitVec 4) (p : Nat), p = b.toNat →
    (s.tickable p = false → Runs s (.engineTick b) (· = s)) ∧
    (s.tickable p = true → Runs s (.engineTick b) fun s' =>
      (∀ a ∈ [Reg.srvAdmitCfg, Reg.srvFaultHold, Reg.srvXferCfg], s'.liveReg p a = s.reg a) ∧ (s'.servPart p).reqs = [] ∧
      (s'.part p).inStep = false ∧ (s'.part p).step = (s.part p).step) ∧
    (∀ x, s.mayStart p = true → (s.servPart p).reqs = [] → s.queueRoom p 1 = true → s.serve.sessions = [x] → x.part = p →
      x.ending = none → x.adapter = none → x.clen < x.ctxMax →
      (∀ at_ ts, x.st = .gen → x.drafts = some (at_, ts) → ts.length < s.provMax p → x.clen + ts.length < x.ctxMax →
        Runs s (.engineTick b) fun s' => (s'.part p).published = true ∧ (s'.servPart p).rr = x.order + 1 ∧
          (s'.servPart p).next = [⟨x.id, x.clen, 1 + ts.length, false, none, x.next :: ts⟩] ∧
          s'.serve.sessions = [{ x with drafts := none }] ∧
          s'.reg Reg.srvDraftCnt = (s.reg Reg.srvDraftCnt + ts.length) % 2 ^ 32) ∧
      (x.st = .feed → x.input ≠ [] → x.input.length ≤ s.provMax p → x.clen + x.input.length ≤ x.ctxMax →
        Runs s (.engineTick b) fun s' => (s'.part p).published = true ∧
          (s'.servPart p).next = [⟨x.id, x.clen, x.input.length, true, none, x.input⟩] ∧ s'.serve.sessions = [x])) ∧
    (s.boundaryReady p = false → Runs s (.stepBoundary b) (· = s)) ∧
    (s.boundaryReady p = true → Runs s (.stepBoundary b) fun s' => (s'.part p).inStep = true ∧ (s'.part p).published = false ∧
      (s'.part p).step = (if (s.part p).begun = 0 then (s.part p).step else ((s.part p).step + 1) % 2 ^ 48) ∧
      (s'.servPart p).batch = (s.servPart p).next ∧ (s'.servPart p).prev = (s.servPart p).batch ∧ (s'.servPart p).next = [] ∧ s'.reg64 Reg.trnStepStampLo p = s.now ∧
      (∀ t ∈ s.partTiles p, (s'.spin t).sync.stepGo = true ∧ (s'.spin t).dirty = []) ∧
      (∀ t, t ∉ s.partTiles p → s'.spin t = s.spin t) ∧
      ∀ a ∈ [Reg.wrpCsumTol, Reg.intTol, Reg.intShadowCfg, Reg.cntSampCfg, Reg.cntSampCfg + 32], s'.liveReg p a = s.reg a) ∧
    (s.mileReady p = false → Runs s (.milestone b) (· = s)) ∧
    (s.mileReady p = true → (s.part p).step < 2 ^ 64 → Runs s (.milestone b) fun s' => (s'.part p).inStep = false ∧
      (s'.part p).step = (s.part p).step ∧ s'.reg64 Reg.intLastMileLo p = (s.part p).step ∧ (s'.servPart p).batch = (s.servPart p).batch ∧
      (s'.servPart p).records = [] ∧ (∀ t ∈ s.partTiles p, (s'.spin t).hold = [] ∧ (s'.spin t).sync.miled = false) ∧
      (∀ q, q ≠ p → s'.part q = s.part q) ∧
      ∀ x r t, (s.servPart p).batch = [⟨x.id, x.clen, 1, false, x.adapter, [x.next]⟩] → (s.servPart p).records = [⟨0, false, r⟩] →
        s.session x.id = some x → x.part = p → x.st = .gen → byteAt r 0 = 0 → byteAt r 1 % 2 = 0 → x.maxNew = 0 →
        t = BitVec.ofNat 32 (leNat r 4 4) → x.stop.contains t = false → x.clen + 1 < x.ctxMax →
        ∃ y, s'.session x.id = some y ∧ y.st = .gen ∧ y.clen = x.clen + 1 ∧ y.next = t ∧ y.emitted = x.emitted + 1 ∧
          y.toks = x.toks ++ [x.next] ∧ ∃ body, (s'.servPart p).kept = (s.servPart p).kept ++ [(false, lengthWord body.length p 1, body)] ∧
            leNat body 0 6 = (s.part p).step % 2 ^ 48 ∧ leNat body 8 8 = s.now ∧ leNat body 16 2 = 1 ∧ leNat body 32 4 = x.id.toNat ∧
            byteAt body 37 = 1 ∧ leNat body 64 4 = t.toNat) ∧
    ∀ (id : Word) (k : Nat) (x : Session), s.session id = some x → x.part = p → (s.servPart p).copies = [(id, k)] →
      Runs s (.openPageCopyDone id k) fun s' => (s'.servPart p).copies = [] ∧ ∃ y, s'.session id = some y ∧
        y.openPages = x.openPages.map (fun e => if e.2 = some k then (e.1, none) else e) ∧ y.blocks = x.blocks ∧
        ∀ a i, s.ctxLayers p * s.ctxHeads p = 1 → i < 64 * blockLines (s.ctxDim p) → a = s.ctxAddr p (x.blocks.getD k 0) 0 →
          s'.ctxRead a i 1 = s.ctxRead (s.ctxAddr p (x.pageOf k) 0) i 1

/-- R352, R354, R355, R356, R359, R360, R361: the first message of a frame queue goes to the ring as two WRITEs, body first, where the
free bytes cover it and the partition's share of the port admits it; a notice closes as one message; steps held back raise FRAME_RING_FULL
once. A context pops the words of a queue that is not a frame queue, and pushes words to its own mailbox; an empty queue repeats its last
word. The model's choices and readings in it: log entries 48 and 82. -/
def Obligations.FramesAndHankQueues : Prop :=
  (∀ (s : State) (b : BitVec 4) (p : Nat), p = b.toNat →
    (∀ rb len body rest q k key base size, (s.servPart p).kept = (rb, len, body) :: rest → q = s.servPart p →
      k = s.rdmaSlot p (s.fld Reg.srvRingCfg p 11 8) → key = s.rdmaKey p (s.fld Reg.srvRingCfg p 11 8) → base = s.reg64 Reg.srvRingAddrLo p →
      size = 2 ^ s.fld Reg.srvRingCfg p 4 0 →
      (∀ w ∈ (s.hank p).words.take (1 + body.length / 8), hamRead w.1 w.2 = .ok w.1) →
      s.rdmaOk p (s.fld Reg.srvRingCfg p 11 8) base size = true → s.admits (s.portPoint k) p [] = true →
      (q.ringOff + body.length + 8 ≤ size → body.length + 8 ≤ q.ringFree → Runs s (.frameWrite b) fun s' =>
        Sent s s' [.rdmaWrite k (BitVec.ofNat 64 (base + (q.ringOff + 8))) key body,
          .rdmaWrite k (BitVec.ofNat 64 (base + q.ringOff)) key (natLe len.toNat 8)] ∧
        s'.servPart p = { q with
          kept := rest, ringOff := (q.ringOff + (body.length + 8)) % size, ringFree := q.ringFree - (body.length + 8) } ∧
        (s'.hank p).words = (s.hank p).words.drop ((body.length + 8) / 8) ∧ { s' with serve := s.serve, out := s.out, net := s.net, shares := s.shares } = s) ∧
      (q.ringOff < size → size < q.ringOff + body.length + 8 → size - q.ringOff + (body.length + 8) ≤ q.ringFree → Runs s (.frameWrite b) fun s' =>
        Sent s s' ((if size - q.ringOff ≤ 8 then [] else [.rdmaWrite k (BitVec.ofNat 64 (base + (q.ringOff + 8))) key
            (List.replicate (size - q.ringOff - 8) 0)]) ++
          [.rdmaWrite k (BitVec.ofNat 64 (base + q.ringOff)) key (natLe (lengthWord (size - q.ringOff - 8) p 2).toNat 8),
          .rdmaWrite k (BitVec.ofNat 64 (base + 8)) key body, .rdmaWrite k (BitVec.ofNat 64 base) key (natLe len.toNat 8)]) ∧
        (s'.servPart p).ringOff = (body.length + 8) % size ∧
        (s'.servPart p).ringFree = q.ringFree - (size - q.ringOff + (body.length + 8))) ∧
      (q.ringFree < body.length + 8 → Runs s (.frameWrite b) (· = s))) ∧
    (∀ rb len body rest, (s.servPart p).kept = (rb, len, body) :: rest →
      (∀ w ∈ (s.hank p).words.take (1 + body.length / 8), hamRead w.1 w.2 = .ok w.1) →
      s.admits (s.portPoint (s.rdmaSlot p (s.fld Reg.srvRingCfg p 11 8))) p [] = false → Runs s (.frameWrite b) (· = s)) ∧
    (∀ es, (s.servPart p).notice = es → es ≠ [] → es.length ≤ 64 → 2 + 2 * es.length + s.stepWords p ≤ s.hankFree p → Runs s (.noticeClose b) fun s' =>
      (s'.servPart p).notice = [] ∧ ∃ body, body.length = 8 + 16 * es.length ∧ leNat body 0 2 = es.length ∧
        (s'.servPart p).kept = (s.servPart p).kept ++ [(false, lengthWord body.length p 3, body)] ∧
        ∀ i e, es[i]? = some e → leNat body (8 + 16 * i) 4 = e.session.toNat ∧ leNat body (12 + 16 * i) 4 = e.rtag.toNat) ∧
    (s.mayStart p = true → (s.compose p).es ≠ [] → s.queueRoom p (s.compose p).es.length = false →
      ((s.servPart p).fullRaised = false → Runs s (.frameRingFull b) fun s' => (s'.servPart p).fullRaised = true ∧
        s'.fld Reg.srvStatus 0 3 3 = 1 ∧ Raised s s' 0x5001 (le1 p) ∧ s'.parts = s.parts) ∧
      ((s.servPart p).fullRaised = true → Runs s (.frameRingFull b) (· = s)))) ∧
  ∀ (s : State) (c : BitVec 3) (k q : Nat), k = c.toNat →
    (CanReach s k Reg.srvHankDataLo q →
      (q < 16 → Runs s (.hankPop c) fun s' => (s'.ctx k).read = [0] ∧ s'.serve = s.serve) ∧
      (16 ≤ q → (s.hank q).words = [] → Runs s (.hankPop c) fun s' => (s'.ctx k).read = [(s.hank q).last.setWidth 32] ∧
        s'.hank q = { s.hank q with under := true } ∧ ∀ j, j ≠ q → s'.hank j = s.hank j) ∧
      (∀ w ck rest, 16 ≤ q → (s.hank q).words = (w, ck) :: rest →
        (hamRead w ck = .ok w → Runs s (.hankPop c) fun s' => (s'.ctx k).read = [w.setWidth 32] ∧
          SMap.get 0 (s'.ctx k).latch 5 = (w >>> 32).setWidth 32 ∧ (s'.hank q).words = rest ∧ (s'.hank q).last = w ∧
          (∀ j, j ≠ q → s'.hank j = s.hank j) ∧ { s' with serve := s.serve, ctxs := s.ctxs } = s) ∧
        (hamRead w ck = .bad → Runs s (.hankPop c) fun s' => Raised s s' 0x5002 (le1 q) ∧
          s'.reg Reg.srvHankUncorrCnt = (s.reg Reg.srvHankUncorrCnt + 1) % 2 ^ 32)) ∧
      ∀ v, Runs s (.hankStage c v) fun s' => Ends s' k 0 ∧ (s'.ctx k).stage = some (q, v) ∧
        (∀ j, j ≠ k → s'.ctx j = s.ctx j) ∧ s'.serve = s.serve) ∧
    ∀ v lo, CanReach s k Reg.srvHankDataHi q → (s.ctx k).stage = some (q, lo) →
      (k < 6 → q = 17 + k → (s.hank q).overrun = false → (s.hank q).words.length < 256 → (s.hank q).discard = 0 →
        Runs s (.hankPush c v) fun s' => Ends s' k 0 ∧ (s'.ctx k).stage = none ∧
          (s'.hank q).words = (s.hank q).words ++ [(v ++ lo, hamCheck (v ++ lo))] ∧ (∀ j, j ≠ q → s'.hank j = s.hank j) ∧
          s'.serve.complete = s.serve.complete ++ (if (s.hank q).left = 1 ∧ (s.hank q).good = true then [k] else [])) ∧
      (k < 6 → q = 17 + k → (s.hank q).overrun = false → 256 ≤ (s.hank q).words.length → Runs s (.hankPush c v) fun s' =>
        s'.hank q = { s.hank q with overrun := true }) ∧
      (6 ≤ k ∨ q ≠ 17 + k → Runs s (.hankPush c v) fun s' => (s'.ctx k).stage = none ∧ s'.serve = s.serve)

/-- R348, R349, R350, R351: an OFFER that matches its IMPORT session is accepted and any other refused; ACCEPT sends DATA for every index
and END; a DATA block that checks is stored, one that fails R349 is not; END, NACK, DONE and REFUSE end or continue a transfer, and the
waits end in a NACK or XFER_FAIL. The model's choices and readings in it: log entries 42 and 113. -/
def Obligations.ContextTransfers : Prop :=
  ∀ (s : State) (m b : Bytes) (id : Word) (x : Session) (type : Nat), b = m.drop 64 → byteAt m 8 % 4 = 1 → byteAt b 0 = type →
    id = BitVec.ofNat 32 (leNat b 4 4) → s.session id = some x →
    (type = 1 →
      (s.offerReason b = 0 → Runs s (.xferOffer m) fun s' => s'.serve.sessions = s.serve.sessions ∧
        SendsCtx s s' (leNat m 10 2) (byteAt b 1 % 16) (byteAt m 14 % 16) id
          (le1 2 ++ le1 (byteAt m 14 % 16) ++ le2 0 ++ le4 id.toNat) ∧
        ∃ y, s'.xfer id = some y ∧ y.sender = false ∧ y.blocks = leNat b 28 4 ∧ y.tokens = leNat b 8 4 ∧ y.got = [] ∧ y.ended = false) ∧
      (∀ r, s.offerReason b = r → r ≠ 0 → x.st = .imp → s.tickable x.part = true → Runs s (.xferOffer m) fun s' =>
        s'.session id = none ∧ Noticed s s' x.part id x.rtag 0 9 ∧
        SendsCtx s s' (leNat m 10 2) (byteAt b 1 % 16) (byteAt m 14 % 16) id
          (le1 3 ++ le1 (byteAt m 14 % 16) ++ le2 0 ++ le4 id.toNat ++ le1 r)) ∧
      (s.offerReason b = 0 ↔ x.st = .imp ∧ x.part = byteAt b 1 ∧ x.model.toNat = leNat b 12 4 ∧ x.epoch = leNat b 16 2 ∧
        (s.adapterIds x).1 = leNat b 18 2 ∧ (s.adapterIds x).2 = byteAt b 20 ∧ s.ctxDim x.part = byteAt b 21 ∧
        s.ctxHeads x.part = leNat b 22 2 ∧ s.ctxLayers x.part = leNat b 24 2 ∧ x.at_ = leNat b 8 4)) ∧
    (∀ y, s.xfer id = some y →
      (type = 2 → x.st = .exp → y.sender = true → y.accepted = false →
        (y.blocks = 1 → Runs s (.xferAccept m) fun s' => s'.serve.sessions = s.serve.sessions ∧
          s'.xfer id = some { y with accepted := true } ∧ ∃ blk t, blk.length = 4096 ∧
          blk.take 64 = padTo 64 (if x.clen = 0 then [] else (x.toks.take 16).flatMap fun t => le4 t.toNat) ∧
          SendsCtx s t y.device x.part y.dpart id
            (le1 4 ++ le1 y.dpart ++ le2 0 ++ le4 id.toNat ++ le4 0 ++ le4 (crc32c (le4 0 ++ blk)) ++ blk) ∧
          SendsCtx t s' y.device x.part y.dpart id (le1 5 ++ le1 y.dpart ++ le2 0 ++ le4 id.toNat ++ le4 1 ++ le4 y.next.toNat))) ∧
      (type = 3 → s.tickable x.part = true → Runs s (.xferRefuse m) fun s' => s'.session id = none ∧ s'.xfer id = none ∧
        Noticed s s' x.part id x.rtag 0 9 ∧ Raised s s' 0x5003 (le4 id.toNat ++ le1 x.part) ∧ s'.fld Reg.srvStatus 0 2 2 = 1) ∧
      (∀ i blk, type = 4 → i = leNat b 8 4 → blk = (b.drop 16).take 4096 → x.st = .imp → y.sender = false → i < y.blocks → i ∉ y.got →
        (leNat b 12 4 ≠ crc32c (le4 i ++ blk) → Runs s (.xferData m) fun s' => s'.xfer id = some y ∧ s'.slices = s.slices ∧
          s'.stackMem = s.stackMem ∧ s'.serve.sessions = s.serve.sessions) ∧
        (leNat b 12 4 = crc32c (le4 i ++ blk) → y.ended = false → Runs s (.xferData m) fun s' =>
          s'.xfer id = some { y with got := y.got ++ [i] } ∧ s'.serve.sessions = s.serve.sessions ∧
          ∀ g st, i = 0 → x.blocks = [g] → s.ctxLayers x.part * s.ctxHeads x.part = 1 → s.pageLines x.part ≤ 64 → blk.length = 4096 →
            st < 64 * blockLines (s.ctxDim x.part) → s'.ctxRead (s.ctxAddr x.part g 0) st 1 = [blk.getD (64 + st) 0])) ∧
      (type = 5 → y.sender = false → y.ended = false → y.got.length < y.blocks → Runs s (.xferEnd m) fun s' =>
        s'.xfer id = some { y with ended := true, next := BitVec.ofNat 32 (leNat b 12 4) } ∧ s'.serve.sessions = s.serve.sessions) ∧
      (type = 5 → y.sender = false → y.ended = false → y.blocks ≤ y.got.length → x.st = .imp → s.tickable x.part = true →
        Runs s (.xferEnd m) fun s' => s'.xfer id = none ∧ Noticed s s' x.part id x.rtag 1 1 ∧ ∃ z, s'.session id = some z ∧
          z.st = .gen ∧ z.clen = y.tokens ∧ z.next = BitVec.ofNat 32 (leNat b 12 4) ∧
          SendsCtx s s' y.device x.part y.dpart id (le1 7 ++ le1 y.dpart ++ le2 0 ++ le4 id.toNat)) ∧
      (∀ i, type = 6 → x.st = .exp → y.sender = true → y.accepted = true → byteAt b 8 = 1 → i = leNat b 12 4 → i < y.blocks →
        (SMap.get 0 y.resent i < 3 → Runs s (.xferNack m) fun s' => s'.serve.sessions = s.serve.sessions ∧ ∃ z blk, s'.xfer id = some z ∧
          SMap.get 0 z.resent i = SMap.get 0 y.resent i + 1 ∧ blk.length = 4096 ∧ SendsCtx s s' y.device x.part y.dpart id
            (le1 4 ++ le1 y.dpart ++ le2 0 ++ le4 id.toNat ++ le4 i ++ le4 (crc32c (le4 i ++ blk)) ++ blk)) ∧
        (3 ≤ SMap.get 0 y.resent i → s.tickable x.part = true → Runs s (.xferNack m) fun s' => s'.session id = none ∧
          Noticed s s' x.part id x.rtag 0 9 ∧ SendsCtx s s' y.device x.part y.dpart id
            (le1 3 ++ le1 y.dpart ++ le2 0 ++ le4 id.toNat ++ le1 5))) ∧
      (type = 7 → x.st = .exp → y.sender = true → y.accepted = true →
        (s.tickable x.part = true → Runs s (.xferDone m) fun s' => s'.session id = none ∧ Noticed s s' x.part id x.rtag 0 12) ∧
        (s.tickable x.part = false → x.ending = none → Runs s (.xferDone m) fun s' =>
          s'.session id = some { x with ending := some (0, 12) })) ∧
      (∀ (miss : List Nat) (nack : List Nat → Bytes), y.sender = false → y.ended = true →
        miss = ((List.range y.blocks).filter fun i => !y.got.contains i) → miss ≠ [] →
        (nack = fun l => le1 6 ++ le1 y.dpart ++ le2 0 ++ le4 id.toNat ++ le1 l.length ++ natLe 0 3 ++ l.flatMap le4) →
        (miss.length ≤ 64 → Runs s (.xferWaitExpiry id) fun s' => s'.serve = s.serve ∧
          SendsCtx s s' y.device x.part y.dpart id (nack miss)) ∧
        (64 < miss.length → miss.length ≤ 128 → Runs s (.xferWaitExpiry id) fun s' => s'.serve = s.serve ∧ ∃ t,
          SendsCtx s t y.device x.part y.dpart id (nack (miss.take 64)) ∧ SendsCtx t s' y.device x.part y.dpart id (nack (miss.drop 64)))) ∧
      (y.sender = true → y.accepted = false → s.tickable x.part = true → Runs s (.offerTimeout id) fun s' => s'.session id = none ∧
        Noticed s s' x.part id x.rtag 0 9 ∧ (s'.servPart x.part).nodes.length = (s.servPart x.part).nodes.length))

/-! ## Weights -/

/-- R372, R373, R374, R386, R387, R388, R389, R410: GO checks a job and ends it at its first failure with nothing changed, or reads its
shard list and fetches the shards that it names; UNLOAD_MODEL empties the arrays of its model. A shard that arrives is staged, ends its
job with the result of the first check that it fails, or, with a bad tag or digest, is fetched again up to its third failure. The model's
choices and readings in it: log entries 58 and 95. -/
def Obligations.WeightJobs : Prop :=
  (∀ (s : State) (c : BitVec 3) (j op : Nat) (cmd : Instr) (x : Job) (a : Option Bytes) (u : State), CanWrite s c.toNat Reg.wgtJobCtl j → j < 16 →
    (op, cmd) ∈ [(1, .jobLoad ⟨c, a⟩), (2, .jobReplace ⟨c, a⟩), (3, .jobRestore ⟨c, a⟩), (4, .jobAdapter ⟨c, a⟩), (5, .jobUnloadModel c)] →
    s.jobRuns j = false → (∀ e ∈ s.wgt.jobs, e.1 ≠ j) →
    x = { Job.init with op := op, model := s.reg Reg.wgtJobModel j, epoch := s.fld Reg.wgtJobEpoch j 15 0, layers := s.fld Reg.wgtJobEpoch j 28 16, cnt := s.fld Reg.wgtJobListCnt j 12 0, ctx := c.toNat, part := s.fld Reg.wgtJobPart j 3 0, adpt := s.reg Reg.wgtJobAdpt j } →
    u = s.modJob j (fun _ => x) → ∀ list, list = OutMsg.rdmaRead (u.jobQp j 0) (BitVec.ofNat 64 (s.reg64 Reg.wgtJobListLo j)) (BitVec.ofNat 32 (s.reg Reg.wgtJobListKey j)) (16 * x.cnt) →
    (∀ r, s.goFault j x = some r → Runs s cmd fun s' => Ends s' c.toNat 0 ∧ JobEnded s' j r 0 ∧
      Raised s s' 0x6002 (le1 j ++ le1 op ++ le4 x.model ++ le1 r ++ le2 0) ∧ s'.wgt.models = s.wgt.models ∧ s'.wgt.gold = s.wgt.gold ∧
      s'.wgt.flash = s.wgt.flash ∧ s'.warps = s.warps ∧ s'.adapters = s.adapters ∧ s'.out = s.out) ∧
    (s.goFault j x = none → op ≠ 5 → (∀ b, a = some b → b.length ≠ 16 * x.cnt) → Runs s cmd fun s' => Ends s' c.toNat 0 ∧
      JobEnded s' j 15 0 ∧ s'.warps = s.warps ∧ s'.wgt.models = s.wgt.models ∧ s'.wgt.flash = s.wgt.flash ∧ Sent s s' [list]) ∧
    (∀ b, s.goFault j x = none → op ≠ 5 → a = some b → b.length = 16 * x.cnt → Runs s cmd fun s' => Ends s' c.toNat 0 ∧
      s'.job j = { x with list := some ((List.range x.cnt).map (listEntry b)) } ∧ s'.jobState j = 1 ∧ s'.warps = s.warps ∧
      s'.wgt.flash = s.wgt.flash ∧ Sent s s' (list :: (List.range x.cnt).map fun i =>
        .rdmaRead (u.jobQp j i) (listEntry b i).addr (listEntry b i).key (listEntry b i).len) ∧
      (op ≠ 1 → s'.wgt.models = s.wgt.models) ∧
      (op = 1 → ∃ m, (s'.model m).st = 1 ∧ (s'.model m).reason = 1 ∧ (∀ k, k ≠ m → s'.model k = s.model k) ∧
        (s.modelEntry x.model = some m ∨ s.modelEntry x.model = none ∧ s.freeModel = some m ∧ (s'.model m).id = x.model))) ∧
    (∀ m, s.goFault j x = none → op = 5 → s.modelEntry x.model = some m → Runs s cmd fun s' => Ends s' c.toNat 0 ∧ JobEnded s' j 1 0 ∧
      s'.model m = ModelSt.init ∧ (∀ f ∈ s'.wgt.flash, f.model ≠ (s.model m).id) ∧
      (∀ t ∈ (s.model m).arrays, s'.gold t = none ∧ (s'.warp (s.targetKey t)).record = none) ∧
      ∀ k, s'.reg Reg.wrpWriteCnt k = s.reg Reg.wrpWriteCnt k)) ∧
  ∀ (s : State) (b : BitVec 4) (j i : Nat) (x : Job) (d again : Bytes) (h : Shard), j = b.toNat → x = s.job j → h = shardOf d →
    s.jobState j = 1 → x.list.isSome = true → i < x.cnt → i < 4096 → (∀ e ∈ x.staged, e.1 ≠ i) → x.waiting = false →
    (∀ Fails : Nat → Prop, (Fails = fun r => Runs s (.shardArrived b i ⟨d, again⟩) fun s' => JobEnded s' j r i ∧
        (∀ k, (∀ e ∈ s.wgt.jobs, ∀ t ∈ e.2.writes, s.targetKey t ≠ k) → s'.warp k = s.warp k) ∧
        s'.wgt.gold = s.wgt.gold ∧ (∀ m, x.op = 1 → s.modelEntry x.model = some m → (s'.model m).st = 1 ∧ (s'.model m).reason = 9)) →
      (x.writes = [] →
        (shardHeadOk d = false → Fails 4) ∧
        (shardHeadOk d = true → s.encRequired x.op = true → h.enc = false → Fails 8) ∧
        (∀ body imgs, shardHeadOk d = true → (s.encRequired x.op = true → h.enc = true) →
          shardBody d s.xportPub (s.fld Reg.cfgDevice 0 15 0) = some body → shardDigestOk d body = true →
          (s.shardNamed x h = false → Fails 4) ∧
          (s.shardNamed x h = true → s.shardEpochOk x h = false → Fails 6) ∧
          (s.shardNamed x h = true → s.shardEpochOk x h = true → (shardImages h body = none → Fails 4) ∧
            (shardImages h body = some imgs →
              (s.shardTargetsOk j x h ((List.range h.targets).map (shardTarget body)) = false → Fails 5) ∧
              (s.shardTargetsOk j x h ((List.range h.targets).map (shardTarget body)) = true → x.staged.length + 1 < x.cnt →
                (x.op ≠ 4 → x.model ≠ 0 → s.goldFree < imgs.length → Fails 7) ∧
                (imgs.length ≤ s.goldFree → Runs s (.shardArrived b i ⟨d, again⟩) fun s' => s'.jobState j = 1 ∧
                  s'.job j = { x with staged := (s'.job j).staged } ∧ s'.warps = s.warps ∧ s'.wgt.models = s.wgt.models ∧
                  (i, (⟨h.layer, h.shard, h.count, (List.range h.targets).map (shardTarget body), imgs, sha512 imgs.flatten⟩ : Staged)) ∈
                    (s'.job j).staged ∧ ∀ e ∈ x.staged, e ∈ (s'.job j).staged))))))) ∧
    (shardHeadOk d = true → (s.encRequired x.op = true → h.enc = true) → shardBody d s.xportPub (s.fld Reg.cfgDevice 0 15 0) = none →
      (SMap.get 0 x.refused i < 2 → again.length = 16 → Runs s (.shardArrived b i ⟨d, again⟩) fun s' => s'.jobState j = 1 ∧
        SMap.get 0 (s'.job j).refused i = SMap.get 0 x.refused i + 1 ∧ (s'.job j).staged = x.staged ∧
        (s'.job j).list = x.list.map (fun l => l.set i (listEntry again 0)) ∧
        Raised s s' 0x6003 (le1 j ++ le2 i ++ le1 (SMap.get 0 x.refused i + 1)) ∧
        Sent s s' [.rdmaRead (s.jobQp j i) (BitVec.ofNat 64 (s.reg64 Reg.wgtJobListLo j + 16 * i)) (BitVec.ofNat 32 (s.reg Reg.wgtJobListKey j)) 16,
          .rdmaRead (s.jobQp j i) (listEntry again 0).addr (listEntry again 0).key (listEntry again 0).len]) ∧
      (SMap.get 0 x.refused i < 2 → again.length ≠ 16 → Runs s (.shardArrived b i ⟨d, again⟩) fun s' => JobEnded s' j 3 i) ∧
      (2 ≤ SMap.get 0 x.refused i → Runs s (.shardArrived b i ⟨d, again⟩) fun s' => JobEnded s' j 2 i)) ∧
    Runs s (.shardFetchTimeout b i) fun s' => JobEnded s' j 3 i ∧ s'.wgt.gold = s.wgt.gold ∧ s'.wgt.flash = s.wgt.flash

/-- R107-R110, R397, R402, R404-R409: a LOAD writes what differs of a whole layer; a write that passes gives its array the image and the
job's record, one that fails ends the job or the barrier's writes. REPLACE raises the barrier, writes once its model has drained, commits
the residence record, and releases: the new epoch, or NOT_READY after a failure. A lost shard leaves its model NOT_READY. The model's
choices and readings in it: log entries 59 and 60. -/
def Obligations.WeightWritesAndTheBarrier : Prop :=
  (∀ (s : State) (b : BitVec 4) (j : Nat) (x : Job), j = b.toNat → x = s.job j →
    (∀ (y : BitVec 12) (l : Nat) (ts : List Nat), l = y.toNat → x.op = 1 → (s.jobState j = 1 ∨ s.jobState j = 3) → x.layerWhole l = true → l ∉ x.written →
      (∀ t ∈ x.layerTargets l, s.svcPending (s.targetKey t / 16) (s.targetKey t % 16) = false ∧ (s.tile (s.targetKey t / 16)).stage = .idle) →
      ts = (x.layerTargets l).filter (fun t => !s.recordMatches x t) →
      (ts ≠ [] → Runs s (.loadLayerWrite b y) fun s' => (s'.job j).writes = x.writes ++ ts ∧ (s'.job j).written = x.written ++ [l] ∧
        (∀ t ∈ ts, (s'.warp (s.targetKey t)).record = none) ∧
        ∀ k, (∀ t ∈ x.writes ++ ts, s.targetKey t ≠ k) → (∀ e ∈ s.wgt.jobs, e.1 ≠ j → ∀ t ∈ e.2.writes, s.targetKey t ≠ k) →
          s'.warp k = s.warp k) ∧
      (∀ m, s.jobState j = 3 → ts = [] → x.writes = [] → x.layers = 1 → l = 0 → s.modelEntry x.model = some m → Runs s (.loadLayerWrite b y) fun s' =>
        JobEnded s' j 1 0 ∧ (s'.model m).st = 2 ∧ (s'.model m).epoch = x.epoch ∧
        (∀ k, (∀ e ∈ s.wgt.jobs, e.1 ≠ j → ∀ t ∈ e.2.writes, s.targetKey t ≠ k) → s'.warp k = s.warp k) ∧
        ∃ f ∈ s'.wgt.flash, f.model = x.model ∧ f.epoch = x.epoch ∧ f.intent = none)) ∧
    (∀ m, m < 8 → x.op = 2 → s.jobState j = 1 → x.staged.length = x.cnt → s.wgt.barrier = none → s.modelEntry x.model = some m →
      ((s.model m).st = 2 → Runs s (.barrierRaise b) fun s' => s'.wgt.barrier = some (j, m) ∧ (s'.model m).st = 3 ∧ s'.jobState j = 2 ∧
        s'.fld Reg.wgtBarrier 0 31 16 = (x.named.flatMap x.layerTargets).length % 65536 ∧ s'.warps = s.warps ∧
        ((∃ f ∈ s.wgt.flash, f.model = x.model) → ∃ f ∈ s'.wgt.flash, f.model = x.model ∧ f.intent = some x.epoch)) ∧
      ((s.model m).st ≠ 2 → Runs s (.barrierRaise b) fun s' => JobEnded s' j 12 0 ∧ s'.wgt.barrier = none)) ∧
    (x.op = 2 → s.jobState j = 2 →
      ((∃ p, p < 16 ∧ s.drained p = false ∧ ∃ g, (s.part p).prog = some g ∧ g.model = x.model) → Runs s (.barrierDrained b) (· = s)) ∧
      (∀ t img, (∀ p, p < 16 → s.drained p = true) → x.named.flatMap x.layerTargets = [t] →
        (s.tile (s.targetKey t / 16)).stage = .idle → (∀ n, n < 9 → (s.warp (arrKey (s.targetKey t / 16) n)).writing = none) →
        (∀ e ∈ s.wgt.jobs, e.1 ≠ j → ∀ u ∈ e.2.writes, s.targetKey u / 16 ≠ s.targetKey t / 16) → (x.image t).map (fun q => q.2.2) = some img →
        Runs s (.barrierDrained b) fun s' => s'.jobState j = 3 ∧ (s'.job j).writes = [t] ∧
          s'.warp (s.targetKey t) = { s.warp (s.targetKey t) with record := none, writing := some img } ∧
          ∀ k, k ≠ s.targetKey t → (∀ e ∈ s.wgt.jobs, e.1 ≠ j → ∀ u ∈ e.2.writes, s.targetKey u ≠ k) → s'.warp k = s.warp k)) ∧
    (∀ m, x.op = 2 → s.jobState j = 3 → x.failed = false → x.writes = [] → s.modelEntry x.model = some m →
      Runs s (.replaceCommit b) fun s' => (∀ f ∈ s'.wgt.flash, f.model = x.model → f.epoch = x.epoch ∧ f.intent = none) ∧
        (∃ f ∈ s'.wgt.flash, f.model = x.model) ∧ { s' with wgt := s.wgt } = s) ∧
    (∀ m, s.wgt.barrier = some (j, m) → s.jobState j = 3 →
      (x.failed = false → s.committed x = true → Runs s (.barrierRelease b) fun s' => s'.wgt.barrier = none ∧ JobEnded s' j 1 0 ∧
        (s'.model m).st = 2 ∧ (s'.model m).epoch = x.epoch ∧ (s'.model m).layers = x.newLayers (s.model m).layers ∧
        s'.reg Reg.wgtBarrier = 0 ∧ ∀ z, s.serve.sessions = [z] → z.model.toNat = x.model →
          (z.flags % 2 = 0 → s'.serve.sessions = [{ z with epoch := x.epoch }]) ∧
          (z.flags % 2 = 1 → s.tickable z.part = true → s'.serve.sessions = [] ∧ Noticed s s' z.part z.id z.rtag 0 6)) ∧
      (x.failed = true → (s.serve.sessions.map Session.id).Nodup → Runs s (.barrierRelease b) fun s' => s'.wgt.barrier = none ∧
        JobEnded s' j 9 (SMap.get 0 x.refused 0 % 4096) ∧ (s'.model m).st = 1 ∧ (s'.model m).reason = 8 ∧
        ∀ z ∈ s'.serve.sessions, z.model.toNat = x.model → z.ending.isSome = true))) ∧
  (∀ (s : State) (y : BitVec 12) (i : BitVec 4) (c : ArrayCheck) (p k j t : Nat) (x : Job) (img : Bytes), p = y.toNat → physOk p = true →
    i.toNat < 8 → k = arrKey p i.toNat → (s.warp k).writing = some img → s.targetKey t = k → x = s.job j → x.writes = [t] →
    (s.wgt.jobs.findSome? fun e => (e.2.writes.find? fun u => s.targetKey u == k).map fun u => (e.1, u)) = some (j, t) →
    (∀ e ∈ s.wgt.jobs, e.1 ≠ j → ∀ u ∈ e.2.writes, s.targetKey u / 16 ≠ p) →
    (c.writeOk = true → ((s.tile p).queue.any fun q => q.arr == i.toNat) = false → x.op = 2 → Runs s (.arrayWriteDone y i c) fun s' =>
      s'.warp k = { (s.warp k).load img with record := s.recordFor x t, code := 1, age := [], ageDue := none } ∧
      (∀ q, q ≠ k → (∀ e ∈ s.wgt.jobs, e.1 ≠ j → ∀ u ∈ e.2.writes, s.targetKey u ≠ q) → s'.warp q = s.warp q) ∧
      (s'.job j).writes = [] ∧ (s'.job j).wrote = true ∧
      s'.fld Reg.wrpWriteCnt k 19 0 = min (s.fld Reg.wrpWriteCnt k 19 0 + 1) 1048575 ∧
      (∀ n, s.fld Reg.wgtBarrier 0 31 16 = n + 1 → s'.fld Reg.wgtBarrier 0 31 16 = n)) ∧
    (c.writeOk = false → x.op = 2 → Runs s (.arrayWriteDone y i c) fun s' => (s'.warp k).code = 4 ∧ (s'.warp k).writing = none ∧
      (s'.job j).writes = [] ∧ (s'.job j).failed = true ∧ (s.integ.suspects.length < 64 → s'.isSuspect 2 p i.toNat = true)) ∧
    (c.writeOk = false → x.op = 1 → j < 16 → x.indexOf t < 4096 → Runs s (.arrayWriteDone y i c) fun s' => (s'.warp k).code = 4 ∧
      JobEnded s' j 9 (x.indexOf t) ∧ ∀ m, s.modelEntry x.model = some m → (s'.model m).st = 1 ∧ (s'.model m).reason = 9)) ∧
  (∀ (s : State) (w : BitVec 16) (r : ShardReq), (s.wgt.reqs.find? fun r => r.id == w.toNat && !r.lost && r.adapter.isNone) = some r →
    (∀ q ∈ s.wgt.reqs, q.id = w.toNat → q = r) → (s.serve.sessions.map Session.id).Nodup → Runs s (.shardRequestTimeout w) fun s' => s'.fld Reg.wgtStatus 0 3 3 = 1 ∧
      (∀ m, s.modelEntry r.model = some m → (s'.model m).st = 1 ∧ (s'.model m).reason = 7 ∧
        ∀ z ∈ s'.serve.sessions, z.model.toNat = r.model → z.ending.isSome = true) ∧
      s'.wgt.reqs.length = s.wgt.reqs.length ∧ { r with lost := true } ∈ s'.wgt.reqs) ∧
  ∀ (s : State) (y : BitVec 12) (i : BitVec 4) (v : Bool) (p t : Nat) (g : Gold) (m l h o : Nat), p = y.toNat → physOk p = true →
    i.toNat < 8 → s.targetOf p i.toNat = some t → s.gold t = some g → s.locate t = some (m, l, h, o) → s.stacked = true →
    g.compared = false →
    (s.goldGood t = true → Runs s (.goldenCompare y i v) fun s' => s'.gold t = some { g with compared := true } ∧
      s'.events = s.events ∧ s'.slices = s.slices) ∧
    (s.goldGood t = false → v = true → s.cellsGood t = true → Runs s (.goldenCompare y i v) fun s' =>
      s'.gold t = some ⟨(s.warp (s.targetKey t)).image, true⟩ ∧ s'.fld Reg.wgtStatus 0 1 1 = 1 ∧
      s'.reg Reg.wgtRecheckFailCnt = (s.reg Reg.wgtRecheckFailCnt + 1) % 2 ^ 32 ∧
      Raised s s' 0x6005 (le4 (s.model m).id ++ le2 l ++ le2 h ++ le1 3))

/-! ## Ethernet and queue pairs -/

/-- R17, R457, R458, R459, R461, R464, R500: a REQ takes the lowest free slot of its service, or is answered with REJ; the module's own
REQ opens a PEER slot whose answer connects or frees it. A queue pair is freed on teardown, on exhausted retries and on an invalid
request, and a management slot's context is reset. The model's choices and readings in it: log entries 37 and 132. -/
def Obligations.ConnectionsAndQueuePairs : Prop :=
  (∀ (s : State) (port : BitVec 2) (id : DWord) (src : List Word) (mtu : Nat) (rqpn : BitVec 24) (svc : Nat), svc = serviceOf id →
    ((s.answersCm = false ∨ s.portServes port.toNat = false) → Runs s (.cmReq port id src mtu rqpn) (· = s)) ∧
    (s.answersCm = true → s.portServes port.toNat = true →
      (∀ k, svc ≠ 0 → (svc = 1 ∨ s.inFallback = false) → (svc = 2 → s.fld Reg.cfgLc 0 2 0 ≠ 0) → s.freeSlot svc = some k → s.listed svc src = true → mtu = 4096 →
        Runs s (.cmReq port id src mtu rqpn) fun s' =>
          (s'.qp k).st = 2 ∧ (s'.qp k).rqpn = rqpn.toNat ∧ (s'.qp k).ip = src ∧ (s'.qp k).port = port.toNat ∧ (s'.qp k).lqpn < 2 ^ 24 ∧
          (∀ q, q ≠ k → s'.qp q = s.qp q) ∧ s'.fld Reg.ethQpState k 2 0 = 2 ∧
          (k < 6 → (s'.ctx k).bound = true ∧ ∀ j, j ≠ k → s'.ctx j = s.ctx j) ∧
          Sent s s' [.cmRep port.toNat k (s'.qp k).lqpn (if k < 6 then natLe (s'.qp k).key.toNat 4 else [])]) ∧
      (∀ r, r = (if svc = 0 ∨ svc ≠ 1 ∧ s.inFallback = true ∨ svc = 2 ∧ s.fld Reg.cfgLc 0 2 0 = 0 then 3 else if s.freeSlot svc = none then 1 else
            if s.listed svc src = false then 2 else if mtu ≠ 4096 then 4 else 0) → r ≠ 0 →
        Runs s (.cmReq port id src mtu rqpn) fun s' => s'.qps = s.qps ∧ s'.ctxs = s.ctxs ∧ Sent s s' [.cmRej port.toNat 28 (le1 r)] ∧
          s'.reg Reg.ethRefuseCnt = (s.reg Reg.ethRefuseCnt + 1) % 2 ^ 32 ∧ Raised s s' 0x8013 (le2 (0x1000 + port.toNat) ++ le1 r)))) ∧
  (∀ (s : State) (c : BitVec 3) (v : Word) (k : Nat) (ip : List Word), CanWrite s c.toNat Reg.ethPeerCmd 0 → k = bits v.toNat 8 0 →
    262 ≤ k → k < 326 → (s.qp k).st = 0 → v.toNat = k + bits v.toNat 13 12 * 2 ^ 12 + bits v.toNat 31 16 * 2 ^ 16 →
    ip = ((List.range 4).map fun n => BitVec.ofNat 32 (s.reg (Reg.ethPeerIp + 4 * n))) → Runs s (.peerConnect c v) fun s' =>
      Ends s' c.toNat 0 ∧ (s'.qp k).st = 1 ∧ (s'.qp k).device = bits v.toNat 31 16 ∧ (s'.qp k).ip = ip ∧
      Sent s s' [.cmReq k (bits v.toNat 13 12) (bits v.toNat 31 16) ip]) ∧
  ∀ (s : State) (slot : BitVec 9) (k : Nat), k = slot.toNat → k < 326 →
    ((s.qp k).st = 1 →
      (∀ r, s.net.waiting = [] → Runs s (.cmRep slot true r) fun s' => (s'.qp k).st = 2 ∧ (s'.qp k).rqpn = r.toNat ∧
        (s'.qp k).device = (s.qp k).device ∧ ∀ q, q ≠ k → s'.qp q = s.qp q) ∧
      ∀ r, Runs s (.cmRep slot false r) fun s' => (s'.qp k).st = 0 ∧ ∀ q, q ≠ k → s'.qp q = s.qp q) ∧
    ((s.qp k).st ≠ 1 → ∀ a r, Runs s (.cmRep slot a r) (· = s)) ∧
    ((s.qp k).st ≠ 0 → ∀ Freed : State → Prop, (Freed = fun s' => s'.qp k = Qp.init ∧ (∀ q, q ≠ k → s'.qp q = s.qp q) ∧
        s'.reg Reg.ethQpState k = 0 ∧ s'.reg Reg.ethQpRate k = 200000 ∧
        (k < 6 → s'.ctx k = { Ctx.init with sample := (s.ctx k).sample, seen := (s.ctx k).seen, read := (s.ctx k).read })) →
      Runs s (.qpTeardown slot) (fun s' => Freed s' ∧ s'.events = s.events) ∧
      Runs s (.localAckTimeout slot) (fun s' => Freed s' ∧
        s'.reg Reg.ethQpRetryCnt k = (s.reg Reg.ethQpRetryCnt k + s.fld Reg.ethRcCfg 0 7 5) % 2 ^ 32 ∧
        Raised s s' 0x8012 (le2 (0x2000 + k) ++ le2 k ++ le1 (slotService k))) ∧
      Runs s (.invalidRequest slot) fun s' => Freed s' ∧ Sent s s' [.nak k] ∧
        Raised s s' 0x8012 (le2 (0x2000 + k) ++ le2 k ++ le1 (slotService k)))

/-- R455, R456, R462, R463, R503, R641: CUT_GAP limits notifications sent and cuts taken, with a floor of 1 Gb/s and additive recovery to
line rate; PFC acts only with PFC_EN; a port that is up answers for its own addresses alone; a port of a fitting plug comes up, and one
that goes down raises its event. The model's choices and readings in it: log entry 39. -/
def Obligations.CongestionAndPorts : Prop :=
  (∀ (s : State) (slot : BitVec 9) (k port : Nat), k = slot.toNat → k < 326 → (s.qp k).st ≠ 0 → port = (s.qp k).port →
    (s.since (s.qp k).cnp (s.fld Reg.ethCcCfg 0 23 16) = true → Runs s (.cePacket slot) fun s' => Sent s s' [.cnp k] ∧
      s'.qp k = { s.qp k with cnp := some s.time.cnt } ∧ s'.reg Reg.ethCnpTx port = (s.reg Reg.ethCnpTx port + 1) % 2 ^ 32 ∧
      s'.reg Reg.ethCeRx port = (s.reg Reg.ethCeRx port + 1) % 2 ^ 32) ∧
    (s.since (s.qp k).cnp (s.fld Reg.ethCcCfg 0 23 16) = false → Runs s (.cePacket slot) fun s' => Sent s s' [] ∧ s'.qps = s.qps ∧
      s'.reg Reg.ethCeRx port = (s.reg Reg.ethCeRx port + 1) % 2 ^ 32) ∧
    (s.since (s.qp k).cut (s.fld Reg.ethCcCfg 0 23 16) = true → s.fld Reg.ethCcCfg 0 2 0 ≤ 8 → s.fld Reg.ethQpRate k 17 0 ≤ 200000 →
      Runs s (.cnpReceive slot) fun s' => s'.fld Reg.ethQpRate k 17 0 =
        max (s.fld Reg.ethQpRate k 17 0 * (8 - s.fld Reg.ethCcCfg 0 2 0) / 8) 1000 ∧
      s'.qp k = { s.qp k with cut := some s.time.cnt, raise := some s.time.cnt } ∧ ∀ q, q ≠ k → s'.qp q = s.qp q) ∧
    (s.since (s.qp k).cut (s.fld Reg.ethCcCfg 0 23 16) = false → Runs s (.cnpReceive slot) fun s' =>
      s'.fld Reg.ethQpRate k 17 0 = s.fld Reg.ethQpRate k 17 0 ∧ s'.qps = s.qps) ∧
    (s.since (s.qp k).raise (s.fld Reg.ethCcCfg 0 31 24) = false → Runs s (.rateRaise slot) (· = s)) ∧
    (s.since (s.qp k).raise (s.fld Reg.ethCcCfg 0 31 24) = true → Runs s (.rateRaise slot) fun s' => s'.fld Reg.ethQpRate k 17 0 =
        min (s.fld Reg.ethQpRate k 17 0 + s.fld Reg.ethCcCfg 0 15 8 * 1000) 200000 ∧
      s'.qp k = { s.qp k with raise := some s.time.cnt } ∧ OnlyRegs [Reg.ethQpRate] s s')) ∧
  ∀ (s : State) (p : BitVec 2),
    (∀ (prio : BitVec 3) (pause : Bool), Runs s (.pfcPauseReceive p prio pause) fun s' =>
      s'.reg Reg.ethPauseRx p.toNat = (s.reg Reg.ethPauseRx p.toNat + 1) % 2 ^ 32 ∧
      (s.fld Reg.ethQos 0 16 16 = 1 → prio.toNat = s.fld Reg.ethQos 0 22 20 → (p.toNat ∈ s'.net.paused ↔ pause = true) ∧
        (∀ q, q ≠ p.toNat → (q ∈ s'.net.paused ↔ q ∈ s.net.paused)) ∧ (pause = true → s'.out = s.out ∧ s'.net.held = s.net.held) ∧
        (pause = false → s'.out = s.out ++ (s.net.held.filter fun e => e.1 == p.toNat).map Prod.snd ∧
          s'.net.held = s.net.held.filter fun e => e.1 != p.toNat)) ∧
      ((s.fld Reg.ethQos 0 16 16 = 0 ∨ prio.toNat ≠ s.fld Reg.ethQos 0 22 20) → s'.net = s.net ∧ s'.out = s.out)) ∧
    (∀ above : Bool,
      (s.fld Reg.ethQos 0 16 16 = 1 → s.net.pausing.contains p.toNat ≠ above → Runs s (.pfcBufferThreshold p above) fun s' =>
        s'.out = s.out ++ [.pfc p.toNat (s.fld Reg.ethQos 0 22 20) above] ∧ (p.toNat ∈ s'.net.pausing ↔ above = true) ∧
        s'.reg Reg.ethPauseTx p.toNat = (s.reg Reg.ethPauseTx p.toNat + 1) % 2 ^ 32) ∧
      ((s.fld Reg.ethQos 0 16 16 = 0 ∨ s.net.pausing.contains p.toNat = above) → Runs s (.pfcBufferThreshold p above) (· = s))) ∧
    (∀ (w : Word) (addr : List Word) (v6 : Bool) (b : Bytes), s.portUp p.toNat = true →
      Runs s (.arpRequest p w) (fun s' =>
        s'.out = s.out ++ (if s.ipv4 p.toNat = [w, 0, 0, 0] ∧ w ≠ 0 then [.arpReply p.toNat w] else []) ∧
        OnlyRegs [Reg.ethRxFrames, Reg.ethTxFrames] s s' ∧ { s' with regs := s.regs, out := s.out } = s) ∧
      Runs s (.neighborSolicitation p addr) (fun s' =>
        s'.out = s.out ++ (if s.ipv6 p.toNat = addr ∧ addr.any (· != 0) then [.neighbourAdv p.toNat addr] else []) ∧
        OnlyRegs [Reg.ethRxFrames, Reg.ethTxFrames] s s' ∧ { s' with regs := s.regs, out := s.out } = s) ∧
      Runs s (.icmpEcho p v6 addr b) fun s' =>
        s'.out = s.out ++ (if (if v6 then s.ipv6 p.toNat else s.ipv4 p.toNat) = addr ∧ addr.any (· != 0) then
          [.echoReply p.toNat v6 b] else []) ∧
        OnlyRegs [Reg.ethRxFrames, Reg.ethTxFrames] s s' ∧ { s' with regs := s.regs, out := s.out } = s) ∧
    (∀ (pmd : BitVec 2) (w : Nat), s.portUp p.toNat = false →
      (pmd ≠ 0 → w ≤ 12 → s.portsRun = true → s.inFallback = false → s.fld Reg.pwrState 0 2 0 ≠ 1 → Runs s (.ethPortUp p pmd w) fun s' =>
        s'.portUp p.toNat = true ∧ s'.fld Reg.ethPortState p.toNat 5 4 = pmd.toNat ∧ Raised s s' 0x8010 (le2 (0x1000 + p.toNat)) ∧
        OnlyEvents [Reg.ethPortState, Reg.ethStatus] s s') ∧
      ((12 < w ∨ s.portsRun = false) → Runs s (.ethPortUp p pmd w) (· = s)) ∧
      (s.inFallback = true → p ≠ 0 → Runs s (.ethPortUp p pmd w) (· = s))) ∧
    (s.portUp p.toNat = true → Runs s (.ethPortDown p) fun s' => s'.portUp p.toNat = false ∧
      Raised s s' 0x8011 (le2 (0x1000 + p.toNat)) ∧ OnlyEvents [Reg.ethPortState, Reg.ethStatus] s s') ∧
    (s.portUp p.toNat = false → Runs s (.ethPortDown p) (· = s))

/-! ## Skein links -/

/-- R465, R468, R470, R472: a message delivers nothing until every check has passed, and acts on the first that fails; a RETURN gives its
credits to the descriptors it names; freed flits of one device go back in one RETURN, once a quarter of a body has freed or 1 µs after;
firmware answers an ECHO with the same body. The model's choices and readings in it: log entries 35, 36, 41 and 115. -/
def Obligations.MessagesAtTheLinks : Prop :=
  ∀ (s : State) (l : Nat) (m : Bytes), s.linkFitted l = true →
    (∀ cmd, cmd ∈ [Instr.messageIngress l m, .returnReceive l m, .echo l m, .echoReply l m] → s.linkState l ∈ [0, 1, 4] →
      Runs s cmd (· = s)) ∧
    (s.linkState l = 2 →
      (msgCrcOk m = false → Runs s (.messageIngress l m) fun s' => Raised s s' 0x8008 (le1 l) ∧
        s'.reg Reg.sknE2eCrcCnt = (s.reg Reg.sknE2eCrcCnt + 1) % 2 ^ 32 ∧
        OnlyEvents [Reg.sknE2eCrcCnt, Reg.sknStatus] s s') ∧
      (msgCrcOk m = true → byteAt m 8 % 4 ≠ 2 → leNat m 0 8 ≠ s.fprint → (s.link l).fpAt = none → Runs s (.messageIngress l m) fun s' =>
        s'.reg Reg.sknFpDropCnt = (s.reg Reg.sknFpDropCnt + 1) % 2 ^ 32 ∧ Raised s s' 0x8007 (le1 l ++ le2 (leNat m 10 2) ++ le4 (leNat m 0 4)) ∧
        (s'.link l).fpAt = some s.time.cnt ∧ s'.serve.unitCh = s.serve.unitCh ∧ s'.flits = s.flits) ∧
      (msgCrcOk m = true → (byteAt m 8 % 4 = 2 ∨ leNat m 0 8 = s.fprint) → leNat m 12 2 ≠ s.device → Runs s (.messageIngress l m) fun s' =>
        s'.reg Reg.sknMisrouteCnt = (s.reg Reg.sknMisrouteCnt + 1) % 2 ^ 32 ∧ OnlyRegs [Reg.sknMisrouteCnt] s s' ∧
        { s' with regs := s.regs } = s) ∧
      (msgCrcOk m = true → leNat m 0 8 = s.fprint → leNat m 12 2 = s.device →
        (∀ p, byteAt m 8 % 4 = 0 → p = byteAt m 14 / 16 →
          (s.ingressCh l p (byteAt m 16 % 32) = none → Runs s (.messageIngress l m) fun s' =>
            s'.reg Reg.sknNochanCnt = (s.reg Reg.sknNochanCnt + 1) % 2 ^ 32 ∧ { s' with regs := s.regs } = s) ∧
          (∀ k, s.ingressCh l p (byteAt m 16 % 32) = some k →
            (s.fld (Reg.sknIngress + 8 * p + 4 * dieOfUnit l) 0 16 0 < s.ingressUse p (dieOfUnit l) + byteAt m 9 % 128 + 1 →
              Runs s (.messageIngress l m) fun s' => Raised s s' 0x800A (le1 l ++ le1 p ++ le2 (leNat m 10 2)) ∧
                OnlyEvents [Reg.sknStatus] s s') ∧
            (s.ingressUse p (dieOfUnit l) + byteAt m 9 % 128 + 1 ≤ s.fld (Reg.sknIngress + 8 * p + 4 * dieOfUnit l) 0 16 0 →
              (s.unitSend k).credit = 0 → Runs s (.messageIngress l m) fun s' => s'.flits = s.flits ∧ s'.regs = s.regs ∧
                ((s'.unitSend k).queue.map fun f => f.1.payload) = ((s.unitSend k).queue.map fun f => f.1.payload) ++
                  (List.range (byteAt m 9 % 128 + 1)).map fun i => (m.drop (64 * (i + 1))).take 64))) ∧
        (byteAt m 8 % 4 = 1 → (s.net.transfer.map List.length).sum + m.length ≤ 2097152 → Runs s (.messageIngress l m) fun s' =>
          s'.net = { s.net with transfer := s.net.transfer ++ [m] } ∧ { s' with net := s.net } = s) ∧
        (byteAt m 8 % 4 = 1 → 2097152 < (s.net.transfer.map List.length).sum + m.length → Runs s (.messageIngress l m) fun s' =>
          s'.reg Reg.sknDropCnt l = (s.reg Reg.sknDropCnt l + 1) % 2 ^ 32 ∧ { s' with regs := s.regs } = s) ∧
        (∀ w n, byteAt m 8 % 4 = 3 → w = leNat m 64 4 → n = bits w 20 9 → 0 < n → (∀ i, 0 < i → i < 16 → leNat m (64 + 4 * i) 4 = 0) →
          s.net.waiting = [] → s.descCred l (bits w 3 0) (bits w 8 4) + n < 4096 → Runs s (.returnReceive l m) fun s' =>
            s'.descCred l (bits w 3 0) (bits w 8 4) = s.descCred l (bits w 3 0) (bits w 8 4) + n ∧ s'.out = s.out ∧
            ∀ p c, p < 16 → c < 32 → (p, c) ≠ (bits w 3 0, bits w 8 4) → s'.descCred l p c = s.descCred l p c) ∧
        (byteAt m 8 % 4 = 2 → byteAt m 64 = 2 → Runs s (.echoReply l m) (· = s)) ∧
        (byteAt m 8 % 4 = 2 → byteAt m 64 = 1 → m.length = 128 → SMap.get [] (s.link l).txq 2 = [] → SMap.get 64 (s.link l).credit 2 = 0 →
          (∀ c, c ≠ 2 → SMap.get [] (s.link l).txq c = []) → Runs s (.echo l m) fun s' => s'.out = s.out ∧ ∃ head, head.length = 64 ∧
            leNat head 12 2 = leNat m 10 2 ∧ byteAt head 8 = 2 ∧ SMap.get [] (s'.link l).txq 2 = [head, 2#8 :: m.drop 65]))) ∧
    ((∀ e ∈ s.net.freed, e.orig.unit ≠ l ∨ s.returnDue e = false) → Runs s (.returnSend l) (· = s)) ∧
    ∀ o n at_, s.net.freed = [⟨o, n, at_⟩] → (o.body ≤ 4 * n ∨ at_.toNat + 1000 ≤ s.now) → o.unit = l → s.linkState l = 2 → 0 < n → n ≤ 2047 → o.part < 16 → o.chan < 32 →
      SMap.get [] (s.link l).txq 3 = [] → SMap.get 64 (s.link l).credit 3 = 0 → (∀ c, c ≠ 3 → SMap.get [] (s.link l).txq c = []) →
      Runs s (.returnSend l) fun s' => s'.net.freed = [] ∧ ∃ head body, SMap.get [] (s'.link l).txq 3 = [head, body] ∧
        byteAt head 8 = 3 ∧ leNat head 12 2 = o.dev % 2 ^ 16 ∧ leNat body 0 4 = o.part + o.chan * 2 ^ 4 + n * 2 ^ 9 ∧
        ∀ i, 4 ≤ i → i < 64 → byteAt body i = 0

/-- R475, R476, R477, R478: a DATA lea that checks and is next in order is accepted; one that fails its check is discarded with a NAK that
names the last good lea, and so is every later one until the resend; an acknowledgement frees the retry buffer and a NAK or the timeout
resends what is left of it, in order. The model's choices and readings in it: log entries 31, 32 and 41. -/
def Obligations.LeasArriveInOrder : Prop :=
  ∀ (s : State) (a : BitVec 3) (l : Nat), l = a.toNat → s.linkFitted l = true →
    (∀ (b : Bytes) (cor unc : Nat), s.linkState l ∉ [2, 3] → Runs s (.leaReceive a b ⟨cor, unc⟩) (· = s)) ∧
    (s.linkState l = 2 → ∀ (b : Bytes) (hdr : Nat), hdr = leNat b 0 8 → b.length = 2056 →
      (∀ cor unc, (unc ≠ 0 ∨ bits hdr 63 40 ≠ leaCrc hdr (b.drop 8)) → (s.link l).skip = false → Runs s (.leaReceive a b ⟨cor, unc⟩) fun s' =>
        (s'.link l).skip = true ∧ (s'.link l).rxLast = (s.link l).rxLast ∧ (s'.link l).rx = (s.link l).rx ∧
        ∃ r : Bytes, s'.out = s.out ++ [.lea l r] ∧
          ((s.link l).rxLast < 4096 → bits (leNat r 0 8) 1 0 = 0 ∧ bits (leNat r 0 8) 3 3 = 1 ∧ bits (leNat r 0 8) 27 16 = (s.link l).rxLast)) ∧
      (∀ cor unc, (unc ≠ 0 ∨ bits hdr 63 40 ≠ leaCrc hdr (b.drop 8)) → (s.link l).skip = true → Runs s (.leaReceive a b ⟨cor, unc⟩) fun s' =>
        s'.net = s.net ∧ s'.out = s.out ∧ s'.reg Reg.sknFecCorrCnt l = (s.reg Reg.sknFecCorrCnt l + cor) % 2 ^ 32 ∧
        s'.reg Reg.sknFecUncorrCnt l = (s.reg Reg.sknFecUncorrCnt l + unc) % 2 ^ 32) ∧
      (∀ cor, bits hdr 63 40 = leaCrc hdr (b.drop 8) → bits hdr 3 3 = 0 → (∀ c, SMap.get [] (s.link l).txq c = []) →
        (∀ e ∈ (s.link l).retry, e.1 ≠ bits hdr 27 16) →
        (bits hdr 1 0 = 1 → bits hdr 15 4 = ((s.link l).rxLast + 1) % 4096 → SMap.get [] (s.link l).rx (bits hdr 37 36) = [] →
          (∀ i, i < 32 → byteAt (b.drop (8 + 64 * i)) 8 = 0xFF ∧ byteAt (b.drop (8 + 64 * i)) 9 = 0xFF) → Runs s (.leaReceive a b ⟨cor, 0⟩) fun s' =>
            (s'.link l).rxLast = bits hdr 15 4 ∧ (s'.link l).skip = false ∧ (s'.link l).rx = (s.link l).rx ∧
            SMap.get 64 (s'.link l).credit (bits hdr 29 28) = min 64 (SMap.get 64 (s.link l).credit (bits hdr 29 28) + bits hdr 35 30) ∧
            s'.reg Reg.sknRxLeaCnt l = (s.reg Reg.sknRxLeaCnt l + 1) % 2 ^ 32) ∧
        (bits hdr 1 0 = 1 → bits hdr 15 4 ≠ ((s.link l).rxLast + 1) % 4096 → Runs s (.leaReceive a b ⟨cor, 0⟩) fun s' =>
          (s'.link l).rxLast = (s.link l).rxLast ∧ (s'.link l).rx = (s.link l).rx ∧ (s'.link l).skip = (s.link l).skip ∧
          s'.reg Reg.sknRxLeaCnt l = s.reg Reg.sknRxLeaCnt l))) ∧
    (∀ (ack : BitVec 12) (i : Nat), ((s.link l).retry.findIdx? fun e => e.1 == ack.toNat) = some i → Runs s (.leaNak a ack) fun s' =>
      (s'.link l).retry = (s.link l).retry.drop (i + 1) ∧ ∃ sent : List Bytes, s'.out = s.out ++ sent.map (OutMsg.lea l) ∧
        sent.map (fun r => r.drop 8) = ((s.link l).retry.drop (i + 1)).map (fun e => e.2.2) ∧
        ((s.link l).retry.drop (i + 1) = [] → s'.regs = s.regs) ∧
        ((s.link l).retry.drop (i + 1) ≠ [] → s'.reg Reg.sknRetryCnt l = (s.reg Reg.sknRetryCnt l + 1) % 2 ^ 32)) ∧
    ((s.link l).retry ≠ [] → s.ackLate l = true → Runs s (.leaAckTimeout a) fun s' => (s'.link l).retry = (s.link l).retry ∧
      s'.reg Reg.sknRetryCnt l = (s.reg Reg.sknRetryCnt l + 1) % 2 ^ 32 ∧ ∃ sent : List Bytes, s'.out = s.out ++ sent.map (OutMsg.lea l) ∧
        sent.map (fun r => r.drop 8) = (s.link l).retry.map fun e => e.2.2) ∧
    (((s.link l).retry = [] ∨ s.ackLate l = false) → Runs s (.leaAckTimeout a) (· = s))

/-- R480, R481, R484, R485, R561, R562: a trained port is decided by the first row of R484; a link leaves its state on signal, loss of
signal and failure only; a lane's data moves onto the spare for its recalibration, which ends with the lane as the spare or FAILED, two
FAILED lanes or a second excess of retries within 60 s failing the link. The model's choices and readings in it: log entry 35. -/
def Obligations.LinkStatesAndLanes : Prop :=
  ∀ (s : State) (a : BitVec 3) (l : Nat), l = a.toNat → s.linkFitted l = true →
    (s.linksRun = true → s.linkState l = 0 → (s.link l).off = false → Runs s (.sknSignalDetect a) fun s' => s'.linkState l = 1 ∧ { s' with regs := s.regs } = s) ∧
    ((s.linksRun = false ∨ s.linkState l ≠ 0 ∨ (s.link l).off = true) → Runs s (.sknSignalDetect a) (· = s)) ∧
    (s.linkState l = 4 → Runs s (.sknLossOfSignal a) (· = s)) ∧
    (s.linkState l = 2 → Runs s (.sknLossOfSignal a) fun s' => s'.linkState l = 0 ∧ (s'.link l).retry = [] ∧ (s'.link l).rx = [] ∧
      Raised s s' 0x8002 (le1 l) ∧ ∀ k, k < 8 → k ≠ l → s'.link k = s.link k ∧ s'.linkState k = s.linkState k) ∧
    (∀ (r : Bytes) (q : Nat), s.linkState l = 1 → s.net.waiting = [] → r.length = 64 → r.take 4 = [0x53#8, 0x4B#8, 0x54#8, 0x52#8] →
      q = (if byteAt r 5 ≠ s.fld Reg.sknWire 0 15 8 then 1
        else if byteAt r 14 ≠ s.fld Reg.sknMode 0 0 0 ∨ byteAt r 6 ≠ s.fld Reg.sknMode 0 0 0 then 2
        else if s.fld Reg.sknMode 0 0 0 = 0 ∧ s.fld Reg.sknState l 20 20 = 1 ∧ (leNat r 10 2 ≠ s.fld Reg.sknPath l 31 16 ∨
          leNat r 8 2 ≠ s.fld Reg.sknPathPort l 2 0 ∨ leNat r 24 2 ≠ s.fld Reg.sknPath l 15 0) then 3
        else if s.fld Reg.sknExpect l 29 29 = 0 ∧ (byteAt r 6 ≠ s.fld Reg.sknExpect l 28 28 ∨ leNat r 10 2 ≠ s.fld Reg.sknExpect l 15 0 ∨
          leNat r 8 2 ≠ s.fld Reg.sknExpect l 25 16) then (if s.fld Reg.sknMode 0 1 1 = 1 then 5 else 2)
        else if leNat r 16 8 ≠ s.fprint then 4 else 0) →
      Runs s (.trainingRecord a r) fun s' => s'.linkState l = (if q = 0 ∨ q = 5 then 2 else 3) ∧
        s'.fld Reg.sknState l 6 4 = (if q = 5 then 0 else q) ∧
        (q ∉ [0, 5] → Raised s s' 0x8003 (le1 l ++ le1 q ++ (r.drop 4).take 10)) ∧
        ((q = 0 ∨ q = 5) → (s'.link l).txSeq = 0 ∧ (s'.link l).rxLast = 4095) ∧
        s'.fld Reg.sknPeerWire l 23 16 = min (byteAt r 4) (s.fld Reg.sknWire 0 7 0)) ∧
    (∀ roles j r k, (s.link l).roles = roles → (roles.findIdx? (· == 4)) = some j → s.linkState l = 2 → (s.link l).before = none →
      k < 5 → roles.length = 5 → r = roles.getD k 6 → r < 4 →
      (∀ Moved : State → Prop, (Moved = fun s' => (s'.link l).roles = (roles.set j r).set k 5 ∧ (s'.link l).before = some roles ∧
          s'.reg Reg.sknRecalCnt l = (s.reg Reg.sknRecalCnt l + 1) % 2 ^ 32 ∧ s'.linkState l = 2) →
        (∀ n : BitVec 3, n.toNat = k → Runs s (.laneSwap a n) fun s' => Moved s' ∧ Raised s s' 0x8005 (le1 l)) ∧
        ((s.link l).swapAt = none → s.overRetries l = true → s.worstLane l = k → Runs s (.sknRetryLimit a) fun s' => Moved s' ∧
          (s'.link l).swapAt = some s.time.cnt ∧ (s'.link l).resends = []) ∧
        (s.fld Reg.calSknCfg 0 15 0 ≠ 0 → (s.link l).rotate = k → k < 4 → Runs s (.laneRecalPeriodic a) fun s' => Moved s' ∧
          (s'.link l).rotate = k + 1) ∧
        (∀ (n : BitVec 3) (w h : BitVec 16), n.toNat = k →
          (s.eyeLow w.toNat h.toNat = true → Runs s (.eyeMeasure a n w h) fun s' => Moved s' ∧ s'.fld Reg.sknEyeQ (l + 16 * k) 15 0 = w.toNat) ∧
          (s.eyeLow w.toNat h.toNat = false → Runs s (.eyeMeasure a n w h) fun s' => s'.fld Reg.sknEyeQ (l + 16 * k) 15 0 = w.toNat ∧
            s'.fld Reg.sknEyeQ (l + 16 * k) 31 16 = h.toNat ∧ { s' with regs := s.regs } = s ∧ OnlyRegs [Reg.sknEyeQ] s s')))) ∧
    (∀ t, (s.link l).swapAt = some t → s.now ≤ t.toNat + 60000000000 → s.linkState l = 2 → s.overRetries l = true → Runs s (.sknRetryLimit a) fun s' =>
      s'.linkState l = 4 ∧ (s'.link l).retry = []) ∧
    (s.overRetries l = false → Runs s (.sknRetryLimit a) (· = s)) ∧
    ∀ roles k (w h : BitVec 16), (s.link l).roles = roles → (roles.findIdx? (· == 5)) = some k → s.linkState l = 2 →
      (s.eyeLow w.toNat h.toNat = false → 6 ∉ roles → Runs s (.laneRecalDone a w h) fun s' =>
        (s'.link l).roles = roles.set k 4 ∧ (s'.link l).before = none ∧ s'.linkState l = 2 ∧
        s'.reg Reg.calLaneCnt = (s.reg Reg.calLaneCnt + 1) % 2 ^ 32) ∧
      (s.eyeLow w.toNat h.toNat = true → 6 ∉ roles → Runs s (.laneRecalDone a w h) fun s' =>
        (s'.link l).roles = roles.set k 6 ∧ s'.linkState l = 2 ∧ Raised s s' 0x8005 (le1 l)) ∧
      (s.eyeLow w.toNat h.toNat = true → 6 ∈ roles → Runs s (.laneRecalDone a w h) fun s' => s'.linkState l = 4)

/-- R485, R488, R489, R498, R499: SETUP is decided by the first row of R488 that applies and RELEASE frees a path that no running
partition's descriptor uses; RETRAIN, DISABLE and ENABLE act on a link that is not FAILED; in CIRCUIT mode a descriptor becomes VALID only
on a link held by the path that it names, and then holds DEPTH credits. The model's choices and readings in it: log entry 38. -/
def Obligations.LinkCommands : Prop :=
  (∀ (s : State) (c l : BitVec 3) (job : BitVec 16) (dev port : Nat), CanWrite s c.toNat Reg.sknPathCmd 0 →
    dev = s.fld Reg.sknPathPeer 0 15 0 → port = s.fld Reg.sknPathPeer 0 18 16 →
    (∀ r, r = (if s.fld Reg.sknMode 0 0 0 = 1 then 6 else if s.linkFitted l.toNat = false then 5
        else if s.fld Reg.sknState l.toNat 20 20 = 1 ∧ s.fld Reg.sknPath l.toNat 15 0 ≠ job.toNat then 2
        else if s.fld Reg.sknState l.toNat 20 20 = 1 ∧ (s.fld Reg.sknPath l.toNat 31 16 ≠ dev ∨ s.fld Reg.sknPathPort l.toNat 2 0 ≠ port)
        then 3 else 1) →
      Runs s (.pathSetup c l job) fun s' => Ends s' c.toNat 0 ∧ s'.reg Reg.sknPathResult = r ∧
        (r = 1 → s'.fld Reg.sknState l.toNat 20 20 = 1 ∧ s'.fld Reg.sknPath l.toNat 15 0 = job.toNat ∧
          s'.fld Reg.sknPath l.toNat 31 16 = dev ∧ s'.fld Reg.sknPathPort l.toNat 2 0 = port ∧ Raised s s' 0x800B (le1 l.toNat ++ le2 job.toNat)) ∧
        (r ≠ 1 → OnlyRegs [Reg.sknPathCmd, Reg.sknPathResult, Reg.cfgWstat] s s' ∧ { s' with regs := s.regs } = s.completed c.toNat false)) ∧
    (s.linkFitted l.toNat = true →
      (s.linkInUse l.toNat = true → Runs s (.pathRelease c l job) fun s' => s'.reg Reg.sknPathResult = 4 ∧
        s'.reg Reg.sknPath l.toNat = s.reg Reg.sknPath l.toNat ∧ s'.events = s.events) ∧
      (s.linkInUse l.toNat = false → Runs s (.pathRelease c l job) fun s' => s'.reg Reg.sknPathResult = 1 ∧
        s'.fld Reg.sknState l.toNat 20 20 = 0 ∧ s'.reg Reg.sknPath l.toNat = 0 ∧ Raised s s' 0x800B (le1 l.toNat ++ le2 job.toNat)))) ∧
  (∀ (s : State) (c : BitVec 3) (l : Nat), CanWrite s c.toNat Reg.sknCmd l → l < 8 →
    (s.linkState l = 3 → Runs s (.sknRetrain c) fun s' => Ends s' c.toNat 0 ∧ s'.linkState l = 1 ∧ s'.fld Reg.sknState l 6 4 = 0) ∧
    (s.linkState l = 3 → Runs s (.sknDisable c) fun s' => Ends s' c.toNat 0 ∧ s'.linkState l = 0 ∧ (s'.link l).off = true) ∧
    (s.linkState l = 4 → Runs s (.sknDisable c) fun s' => Ends s' c.toNat 0 ∧ s'.linkState l = 4) ∧
    Runs s (.sknEnable c) fun s' => Ends s' c.toNat 0 ∧ (s'.link l).off = false ∧ s'.linkState l = s.linkState l) ∧
  (∀ (s : State) (c : BitVec 3) (n l k j r : Nat), CanWrite s c.toNat Reg.sknLaneCmd n → l = n % 16 → k = n / 16 →
    s.linkState l = 2 → (s.link l).before = none → ((s.link l).roles.findIdx? (· == 4)) = some j → (s.link l).roles.getD k 6 = r → r < 4 →
    l < 8 → k < 5 → Runs s (.sknLaneRecal c) fun s' => Ends s' c.toNat 0 ∧ (s'.link l).roles = (((s.link l).roles.set j r).set k 5) ∧
      (s'.link l).before = some (s.link l).roles) ∧
  ∀ (s : State) (c : BitVec 3) (p : BitVec 4) (d : BitVec 5) (v : Word) (l a : Nat), a = 16 * (32 * p.toNat + d.toNat) →
    CanWrite s c.toNat (Reg.sknRdescDst + a) l → l < 8 → bits v.toNat 31 31 = 1 → s.net.waiting = [] →
    s.fld Reg.sknMode 0 0 0 = 0 →
    (s.fld Reg.sknState l 20 20 = 1 → s.fld Reg.sknPath l 15 0 = s.fld (Reg.sknRdescJob + a) l 15 0 →
      s.fld Reg.sknPath l 31 16 = bits v.toNat 15 0 → Runs s (.rdescValidWrite c p d v) fun s' =>
        Ends s' c.toNat 0 ∧ s'.fld (Reg.sknRdescDst + a) l 31 31 = 1 ∧
        s'.fld (Reg.sknRdescDst + a) l 24 0 = bits v.toNat 24 0 ∧ s'.descCred l p.toNat d.toNat = s.fld (Reg.sknRdescJob + a) l 26 16) ∧
    (s.fld (Reg.sknRdescDst + a) l 31 31 = 0 → (s.fld Reg.sknState l 20 20 = 0 ∨ s.fld Reg.sknPath l 15 0 ≠ s.fld (Reg.sknRdescJob + a) l 15 0 ∨
      s.fld Reg.sknPath l 31 16 ≠ bits v.toNat 15 0) → Runs s (.rdescValidWrite c p d v) fun s' => Ends s' c.toNat 3 ∧
        s'.reg (Reg.sknRdescDst + a) l = s.reg (Reg.sknRdescDst + a) l ∧ s'.fld Reg.sknStatus 0 4 4 = 1)

/-! ## Start, configuration and trust -/

/-- R509, R510, R511, R512, R513, R514, R515: a start counts itself before it checks boot code; the first step that fails records its
reason, step and detail, takes the rails off and restarts after one second, or at the third start in a row enters fallback; a fourth
enters fallback at once; a start whose steps all end well reaches READY. 60 s in READY clear the count and record the pending minimums.
The model's choices and readings in it: log entries 70, 71, 72, 73, 74 and 75. -/
def Obligations.StartsAndFailedStarts : Prop :=
  (∀ (s b : State) (i : StartIn) (cmd : Instr) (f : FlashSt) (n : Nat), f = s.boot.flash → n = min 255 (f.startCnt + 1) →
    ((cmd = .powerGood i ∧ s.darkNow = true ∧ s.power.held = false ∧ b = s.off.setPin pinFault false) ∨ (cmd = .startRetryReset i ∧ s.boot.restart = 1 ∧ b = s.off) ∨
      (cmd = .delayedRestart i ∧ s.boot.restart = 2 ∧ b = s.off.setPin pinFault false)) →
    ∀ Fails : Nat → Nat → Nat → Prop,
      (Fails = fun reason step detail => Runs s cmd fun s' => s'.boot.flash.reason = reason ∧ s'.boot.flash.step = step ∧
        s'.boot.flash.detail = detail ∧ s'.boot.flash.startCnt = n ∧ s'.boot.flash.inProgress = false ∧ s'.boot.waits = none ∧
        (n < 3 → s'.boot.restart = 1 ∧ s'.powerState = 0) ∧ (3 ≤ n → s'.boot.restart = 0 ∧ s'.powerState = 5 ∧ s'.inFallback = true)) →
      (i.flashOk = false → Fails 0x03 2 0) ∧
      (i.flashOk = true →
        (∀ k, signedFault s.boot.fuse false f.boot = some k → Fails (if k = 5 then 0x02 else 0x01) 2 (if k = 5 then 0 else k)) ∧
        (signedFault s.boot.fuse false f.boot = none →
          (3 < n → Runs s cmd fun s' => s'.powerState = 5 ∧ s'.inFallback = true ∧ s'.boot.flash.startCnt = n ∧
            s'.boot.flash.reason = (if f.inProgress then 0x51 else f.reason) ∧ s'.boot.flash.copyA = f.copyA ∧ s'.boot.applied = []) ∧
          (n ≤ 3 → i.flashFail = 3 → Fails 0x03 3 0) ∧
          (n ≤ 3 → i.flashFail ≠ 3 → lifeOk s.boot.fuse i.mfgEquip = false → Fails 0x60 3 0) ∧
          (∀ r, n ≤ 3 → i.flashFail ≠ 3 → lifeOk s.boot.fuse i.mfgEquip = true →
            chooseCopy f.copyA f.copyB (cfgFault s.boot.fuse s.boot.life f.seqMin f.copyA) (cfgFault s.boot.fuse s.boot.life f.seqMin f.copyB) = .inr r →
            Fails r 3 0) ∧
          ∀ (Read : Nat → (State → State × StartFail) → State → State × StartFail) (r : State × StartFail), n ≤ 3 →
            (Read = fun k f t => if i.flashFail = k then (t.setFld Reg.cfgStatus 0 3 0 k, some (0x03, 0)) else f (t.setFld Reg.cfgStatus 0 3 0 k)) →
            r = andThen (Read 3 (fun t => t.stepConfig i) ((b.setPin pinGood true).stepRom i).1) (fun t =>
              andThen (Read 4 (fun t => t.stepDies i) t) fun t => andThen (Read 5 State.stepProtect t) (Read 6 State.stepFirmware)) →
            (∀ reason detail, r.2 = some (reason, detail) → reason ≠ 0x52 → Fails reason (r.1.fld Reg.cfgStatus 0 3 0) detail) ∧
            (∀ detail, r.2 = some (0x52, detail) → Runs s cmd fun s' => s'.powerState = 7 ∧ s'.boot.flash.reason = 0x52 ∧
              s'.boot.flash.detail = detail ∧ s'.boot.flash.latched = true ∧ s'.boot.waits = none) ∧
            (r.2 = none → i.coresOk = false → Runs s cmd fun s' => s'.boot.waits = some 6 ∧ s'.boot.flash.startCnt = n ∧
              s'.boot.flash.inProgress = true) ∧
            (r.2 = none → i.coresOk = true → (r.1.testMemory i).2 = none → i.flashFail = 7 → Fails 0x03 7 0) ∧
            (r.2 = none → i.coresOk = true → (r.1.testMemory i).2 = none → i.flashFail ≠ 7 → i.ms ≤ 10000 → Runs s cmd fun s' => s'.powerState = 2 ∧
              s'.fld Reg.cfgStatus 0 3 0 = 8 ∧ s'.boot.waits = none ∧ s'.boot.restart = 0 ∧ s'.events.running = true ∧ s'.events.early = [] ∧
              s'.reg Reg.cfgStartMs = i.ms ∧ s'.boot.flash.startCnt = n ∧ s'.boot.flash.inProgress = true)))) ∧
  (∀ (s : State) (k : Nat), k = s.boot.flash.startCnt → (∀ (cmd : Instr) (reason : Nat),
      (cmd = .startTimeout ∧ s.boot.waits.isSome = true ∧ reason = 0x50) ∨ (cmd = .fwStartTimeout ∧ s.boot.waits = some 6 ∧ reason = 0x42) →
      Runs s cmd fun s' => s'.boot.flash.reason = reason ∧ s'.boot.flash.step = s.fld Reg.cfgStatus 0 3 0 ∧ s'.boot.flash.inProgress = false ∧
        s'.boot.waits = none ∧ (k < 3 → s'.boot.restart = 1 ∧ s'.powerState = 0) ∧ (3 ≤ k → s'.powerState = 5 ∧ s'.inFallback = true)) ∧
    (s.boot.waits = none → Runs s .startTimeout (· = s)) ∧ (s.boot.waits ≠ some 6 → Runs s .fwStartTimeout (· = s)) ∧
    (s.powerState ∈ [2, 3, 4] → s.boot.flash.inProgress = true → Runs s .ready60s fun s' => s'.boot.flash.startCnt = 0 ∧
      s'.boot.flash.inProgress = false ∧ s'.boot.flash.seqMin = max s.boot.flash.seqMin (s.reg Reg.cfgSeq) ∧
      s'.boot.flash.svnBoot = (if s.boot.commitBoot then s.fld Reg.cfgSvn 0 7 0 else s.boot.flash.svnBoot) ∧
      s'.boot.flash.svnFw = (if s.boot.commitFw then s.fld Reg.cfgSvn 0 15 8 else s.boot.flash.svnFw) ∧ s'.boot.fuse = s.boot.fuse) ∧
    (s.powerState ∉ [2, 3, 4] → Runs s .ready60s (· = s)))

/-- R518, R519, R520, R521, R528, R542, R545, R550: a STAGE command fetches its push, and the push that arrives is written and staged only
when every check passes; a token that checks is pending; ATTEST forms its signed report; RETRY and REVERT act in fallback alone, the other
operations outside it; the responder answers in fallback alone, at most 100 times a second, and changes nothing. The model's choices and
readings in it: log entries 76, 77 and 87. -/
def Obligations.ConfigurationCommands : Prop :=
  (∀ (s : State) (c : BitVec 3), s.ctxLive c.toNat = true → s.cfgRuns = none → s.boot.life ≠ 5 →
    ∀ Done : State → Nat → Nat → Prop, (Done = fun s' op r => Ends s' c.toNat 0 ∧ s'.reg Reg.cfgCmdResult = r + op * 2 ^ 8) →
    (∀ op cmd, (op, cmd) ∈ [(1, Instr.stageConfig c), (2, .stageFirmware c), (3, .stageBoot c)] →
      (s.reg Reg.cfgCmdLen ≤ 33554432 + 192 → Runs s cmd fun s' => Done s' op (2 ^ 7) ∧ s'.boot = s.boot ∧
        Sent s s' [.rdmaRead (s.ctx c.toNat).qp (BitVec.ofNat 64 (s.reg64 Reg.cfgCmdAddrLo)) (BitVec.ofNat 32 (s.reg Reg.cfgCmdKey))
          (s.reg Reg.cfgCmdLen)]) ∧
      (33554432 + 192 < s.reg Reg.cfgCmdLen → Runs s cmd fun s' => Done s' op 3 ∧ s'.boot = s.boot ∧ s'.out = s.out)) ∧
    (∀ t, s.inFallback = false →
      (t = none → Runs s (.lcToken c t) fun s' => Done s' 4 2 ∧ s'.boot = s.boot) ∧
      (∀ b r, t = some b → s.tokenResult b = r →
        (r ≠ 1 → Runs s (.lcToken c t) fun s' => Done s' 4 r ∧ s'.boot = s.boot) ∧
        (r = 1 → Runs s (.lcToken c t) fun s' => Done s' 4 1 ∧ s'.boot.flash = { s.boot.flash with pendTok := some b } ∧
          s'.boot.fuse = s.boot.fuse ∧ s'.fld Reg.cfgStatus 0 16 16 = 1 ∧ Raised s s' 0x9005 (le1 (byteAt b 4))))) ∧
    (s.inFallback = true → ∀ t, Runs s (.lcToken c t) fun s' => Done s' 4 8 ∧ s'.boot = s.boot) ∧
    (Runs s (.attest c) fun s' => Done s' 5 1 ∧ s'.boot = s.boot ∧ ∃ b : Bytes, b.length = 336 ∧
      (∀ w, w < 84 → s'.reg (Reg.cfgAttReport + 4 * w) = leNat b (4 * w) 4) ∧ b.take 4 = [0x4C#8, 0x41#8, 0x54#8, 0x54#8] ∧
      byteAt b 9 = s.boot.life ∧ byteAt b 10 = (if s.inFallback then 1 else 0) + (if s.integ.drain then 2 else 0) + s.fld Reg.cfgStatus 0 4 4 * 4 ∧
      leNat b 16 8 = s.boot.fuse.serial.toNat ∧ leNat b 24 8 = s.fprint ∧ leNat b 32 4 = s.reg Reg.cfgSeq ∧ leNat b 40 8 = s.now ∧
      (∀ w, w < 8 → leNat b (48 + 4 * w) 4 = s.reg (Reg.cfgAttNonce + 4 * w)) ∧ b.drop 272 = padTo 64 (Config.ed25519Sign (b.take 272))) ∧
    (s.inFallback = false → s.fld Reg.cfgStatus 0 7 7 = 0 → Runs s (.discardStaged c) fun s' => Done s' 6 8 ∧ s'.boot = s.boot) ∧
    (s.inFallback = false → s.fld Reg.cfgStatus 0 7 7 = 1 → Runs s (.discardStaged c) fun s' => Done s' 6 1 ∧ s'.fld Reg.cfgStatus 0 7 7 = 0 ∧
      s'.boot.flash = (if s.boot.copy then { s.boot.flash with copyA := eraseSector s.boot.flash.copyA }
        else { s.boot.flash with copyB := eraseSector s.boot.flash.copyB }) ∧ s'.boot.applied = s.boot.applied) ∧
    (s.inFallback = true → Runs s (.retry c) fun s' => Done s' 7 1 ∧ s'.boot.restart = 2 ∧
      s'.boot.flash = { s.boot.flash with startCnt := 0, inProgress := false }) ∧
    (s.inFallback = false → Runs s (.retry c) (fun s' => Done s' 7 8 ∧ s'.boot = s.boot) ∧
      Runs s (.revert c) fun s' => Done s' 8 8 ∧ s'.boot = s.boot) ∧
    (∀ left, s.inFallback = true →
      left = (if cfgSeq s.boot.flash.copyA < cfgSeq s.boot.flash.copyB then s.boot.flash.copyA else s.boot.flash.copyB) →
      (cfgFault s.boot.fuse s.boot.life s.boot.flash.seqMin left ≠ none → Runs s (.revert c) fun s' => Done s' 8 8 ∧ s'.boot = s.boot) ∧
      (cfgFault s.boot.fuse s.boot.life s.boot.flash.seqMin left = none → Runs s (.revert c) fun s' => Done s' 8 1 ∧ s'.boot.restart = 2 ∧
        s'.boot.flash.startCnt = 0 ∧
        (cfgSeq s.boot.flash.copyA < cfgSeq s.boot.flash.copyB → s'.boot.flash.copyB = eraseSector s.boot.flash.copyB ∧
          s'.boot.flash.copyA = s.boot.flash.copyA) ∧
        (cfgSeq s.boot.flash.copyB ≤ cfgSeq s.boot.flash.copyA → s'.boot.flash.copyA = eraseSector s.boot.flash.copyA ∧
          s'.boot.flash.copyB = s.boot.flash.copyB)))) ∧
  (∀ (s : State) (push : Bytes) (ok : Bool), (s.cfgRuns = none → Runs s (.pushFetched push ok) (· = s)) ∧
    ∀ op r body, s.cfgRuns = some op → 1 ≤ op → op ≤ 3 → s.pushResult op push = (r, body) →
      (r ≠ 1 → r < 128 → Runs s (.pushFetched push ok) fun s' => s'.reg Reg.cfgCmdResult = r + op * 2 ^ 8 ∧ { s' with regs := s.regs } = s) ∧
      (r = 1 → ok = true → Runs s (.pushFetched push ok) fun s' => s'.reg Reg.cfgCmdResult = 1 + op * 2 ^ 8 ∧ s'.boot.fuse = s.boot.fuse ∧
        s'.boot.applied = s.boot.applied ∧ (op = 2 → s'.boot.flash.fw = body) ∧ (op = 3 → s'.boot.flash.boot = body) ∧
        (op = 1 → s.inFallback = false → (if s.boot.copy then s'.boot.flash.copyA else s'.boot.flash.copyB) = body ∧
          (if s.boot.copy then s'.boot.flash.copyB else s'.boot.flash.copyA) = (if s.boot.copy then s.boot.flash.copyB else s.boot.flash.copyA) ∧
          s'.fld Reg.cfgStatus 0 7 7 = 1 ∧ s'.reg Reg.cfgStagedSeq = cfgSeq body) ∧
        (s.inFallback = true → s'.boot.restart = 2 ∧ s'.boot.flash.startCnt = 0) ∧
        Raised s s' 0x9004 (le1 op ++ (if op = 1 then le4 (cfgSeq body) else le2 (imageSvn body)))) ∧
      (r = 1 → ok = false → Runs s (.pushFetched push ok) fun s' => s'.reg Reg.cfgCmdResult = 10 + op * 2 ^ 8 ∧
        s'.boot.restart = s.boot.restart ∧ s'.events = s.events)) ∧
  ∀ (s : State) (req : Bytes) (n : Nat), n = (if s.boot.udpSec = s.now / 1000000000 then s.boot.udpCnt else 0) →
    (∀ op cmd, (op, cmd) ∈ [(1, Instr.fallbackStatus req), (2, .fallbackLog req)] →
      (s.inFallback = false ∨ 100 ≤ n ∨ req.length ≠ 16 ∨ byteAt req 4 ≠ op → Runs s cmd (· = s)) ∧
      (s.inFallback = true → n < 100 → req.length = 16 → req.take 4 = [0x4C#8, 0x46#8, 0x42#8, 0x51#8] → byteAt req 4 = op → Runs s cmd fun s' =>
        s'.boot.flash = s.boot.flash ∧ { s' with boot := s.boot, out := s.out } = s ∧ ∃ b : Bytes, s'.out = s.out ++ [.udp b] ∧
          b.take 4 = [0x4C#8, 0x46#8, 0x42#8, 0x52#8] ∧ byteAt b 4 = op ∧ leNat b 8 8 = leNat req 8 8 ∧
          (op = 1 → b.length = 64 ∧ byteAt b 5 = s.boot.flash.reason % 256 ∧ byteAt b 7 = s.boot.flash.startCnt % 256 ∧
            leNat b 16 8 = s.boot.fuse.serial.toNat ∧ leNat b 48 4 = s.boot.flash.detail % 2 ^ 32) ∧
          (op = 2 → b.drop 16 = ((s.events.log.drop (32 * leNat req 6 2)).take 32).flatten ∧
            byteAt b 5 = ((s.events.log.drop (32 * leNat req 6 2)).take 32).length ∧ leNat b 6 2 = leNat req 6 2)))
/-! ## Gauge, thermal scan, counters -/

/-- R566, R570, R571, R572, R573: START and STOP of the regular sequence; a trigger that is enabled makes the injected sequence pending,
or is merged; the conversion that completes writes its channel's result, then the injected sequence runs before the regular one goes on at
its next channel; nothing converts before the buffer has settled; the reference check. The model's choices and readings in it: log entry
64. -/
def Obligations.GaugeConversions : Prop :=
  (∀ s : State, (∀ c : BitVec 3, CanReach s c.toNat Reg.gauRegCtl 0 →
      (s.fld Reg.gauStatus 0 1 1 = 1 → Runs s (.gaugeStart c) fun s' => Ends s' c.toNat 0 ∧ OnlyRegs [Reg.cfgWstat] s s' ∧ s'.cal = s.cal) ∧
      (s.fld Reg.gauStatus 0 1 1 = 0 → Runs s (.gaugeStart c) fun s' => Ends s' c.toNat 0 ∧ s'.fld Reg.gauStatus 0 1 1 = 1 ∧
        s'.cal.gauge.reg = (0, 0) ∧ s'.cal.gauge.gap = false ∧ s'.cal.gauge.stop = false ∧
        (s.cal.gauge.run ≠ 0 → s'.cal.gauge.run = s.cal.gauge.run) ∧
        (s.cal.gauge.run = 0 → s.fld Reg.gauStatus 0 3 2 = 0 → s'.cal.gauge.run = s.fld Reg.gauStatus 0 0 0)) ∧
      (s.fld Reg.gauStatus 0 1 1 = 0 → Runs s (.gaugeStop c) fun s' => Ends s' c.toNat 0 ∧ OnlyRegs [Reg.cfgWstat] s s' ∧ s'.cal = s.cal) ∧
      (s.fld Reg.gauStatus 0 1 1 = 1 → s.cal.gauge.run = 0 → Runs s (.gaugeStop c) fun s' => Ends s' c.toNat 0 ∧ s'.fld Reg.gauStatus 0 1 1 = 0) ∧
      (s.fld Reg.gauStatus 0 1 1 = 1 → s.cal.gauge.run ≠ 0 → Runs s (.gaugeStop c) fun s' => Ends s' c.toNat 0 ∧
        s'.fld Reg.gauStatus 0 1 1 = 1 ∧ s'.cal.gauge.stop = true ∧ s'.cal.gauge.run = s.cal.gauge.run)) ∧
    (∀ (src : BitVec 2) (on : Bool), on = (decide (src.toNat ≤ 2) && s.fld Reg.gauInjCfg 0 (4 + src.toNat) (4 + src.toNat) == 1) →
      (on = false → Runs s (.gaugeInjectedTrigger src) (· = s)) ∧
      (on = true → s.fld Reg.gauStatus 0 3 2 ≠ 0 → Runs s (.gaugeInjectedTrigger src) fun s' => s'.cal = s.cal ∧
        s'.reg Reg.gauInjMergeCnt = (s.reg Reg.gauInjMergeCnt + 1) % 2 ^ 32 ∧ s'.fld Reg.gauStatus 0 8 8 = 1 ∧
        OnlyRegs [Reg.gauInjMergeCnt, Reg.gauStatus] s s') ∧
      (on = true → s.fld Reg.gauStatus 0 3 2 = 0 → Runs s (.gaugeInjectedTrigger src) fun s' => OnlyRegs [Reg.gauStatus] s s' ∧
        (s.cal.gauge.run = 0 → s.fld Reg.gauStatus 0 0 0 = 1 → s'.fld Reg.gauStatus 0 3 2 = 1 ∧ s'.cal.gauge.run = 2 ∧ s'.cal.gauge.inj = (0, 0)) ∧
        (s.cal.gauge.run ≠ 0 ∨ s.fld Reg.gauStatus 0 0 0 = 0 → s'.fld Reg.gauStatus 0 3 2 = 2 ∧ s'.cal = s.cal))) ∧
    (∀ (code : Int) (bad : Nat) (Result : Nat → Nat → State → Prop), bad = s.fld Reg.gauStatus 0 9 9 →
      (Result = fun ch inj s' => s'.reg Reg.gauChRes ch = (code % 2 ^ 24).toNat + inj * 2 ^ 24 + bad * 2 ^ 25 + 2 ^ 31 ∧
        s'.reg64 Reg.gauChStampLo ch = s.now ∧ s'.reg Reg.gauChCnt ch = (s.reg Reg.gauChCnt ch + 1) % 2 ^ 32 ∧
        (∀ a i, a < 2 ^ 24 → a ∉ [Reg.gauStatus, Reg.gauRegPassCnt, Reg.pwrDistI] → (Reg.gauChRes ≤ a → a ≤ Reg.gauChCnt → i ≠ ch) →
          s'.reg a i = s.reg a i) ∧ { s' with regs := s.regs, cal := s.cal } = s) →
      (s.cal.gauge.run = 0 → Runs s (.gaugeConversionDone code) (· = s)) ∧
      (∀ n i, s.cal.gauge.run = 1 → s.fld Reg.gauStatus 0 0 0 = 1 → s.fld Reg.gauStatus 0 2 2 = 0 → s.cal.gauge.reg = (n, i) → n < 16 →
        Runs s (.gaugeConversionDone code) fun s' => Result (s.fld (Reg.gauRegEntry + 4 * n) 0 6 0 + i) 0 s' ∧
          (s.cal.gauge.stop = true → s'.fld Reg.gauStatus 0 1 1 = 0) ∧
          (s.cal.gauge.stop = false → i < s.fld (Reg.gauRegEntry + 4 * n) 0 14 8 → s'.cal.gauge.reg = (n, i + 1)) ∧
          (s.cal.gauge.stop = false → s.fld (Reg.gauRegEntry + 4 * n) 0 14 8 ≤ i → n < s.fld Reg.gauRegCfg 0 3 0 → s'.cal.gauge.reg = (n + 1, 0)) ∧
          (s.fld (Reg.gauRegEntry + 4 * n) 0 14 8 ≤ i → s.fld Reg.gauRegCfg 0 3 0 ≤ n →
            s'.reg Reg.gauRegPassCnt = (s.reg Reg.gauRegPassCnt + 1) % 2 ^ 32 ∧ (s.fld Reg.gauRegCfg 0 8 8 = 0 → s'.fld Reg.gauStatus 0 1 1 = 0) ∧
            (s.fld Reg.gauRegCfg 0 8 8 = 1 → s.cal.gauge.stop = false → s'.cal.gauge.reg = (0, 0) ∧
              (s'.cal.gauge.gap = true ↔ s.fld Reg.gauRegCfg 0 31 16 ≠ 0))) ∧
          (s.fld Reg.gauStatus 0 3 3 = 1 → s'.cal.gauge.run = 2 ∧ s'.cal.gauge.inj = (0, 0) ∧ s'.fld Reg.gauStatus 0 3 2 = 1) ∧
          (s.fld Reg.gauStatus 0 3 3 = 0 → s'.cal.gauge.run = if s'.fld Reg.gauStatus 0 1 1 = 1 ∧ s'.cal.gauge.gap = false then 1 else 0)) ∧
      (∀ n i, s.cal.gauge.run = 2 → s.fld Reg.gauStatus 0 0 0 = 1 → s.fld Reg.gauStatus 0 3 2 = 1 → s.cal.gauge.inj = (n, i) → n < 4 →
        Runs s (.gaugeConversionDone code) fun s' => Result (s.fld (Reg.gauInjEntry + 4 * n) 0 6 0 + i) 1 s' ∧
          (s.cal.gauge.stop = false → s'.cal.gauge.reg = s.cal.gauge.reg) ∧
          (i < s.fld (Reg.gauInjEntry + 4 * n) 0 14 8 → s'.cal.gauge.inj = (n, i + 1) ∧ s'.cal.gauge.run = 2) ∧
          (s.fld (Reg.gauInjEntry + 4 * n) 0 14 8 ≤ i → n < s.fld Reg.gauInjCfg 0 1 0 → s'.cal.gauge.inj = (n + 1, 0) ∧ s'.cal.gauge.run = 2) ∧
          (s.fld (Reg.gauInjEntry + 4 * n) 0 14 8 ≤ i → s.fld Reg.gauInjCfg 0 1 0 ≤ n → s'.fld Reg.gauStatus 0 3 2 = 0 ∧
            s'.cal.gauge.run = if s'.fld Reg.gauStatus 0 1 1 = 1 ∧ s'.cal.gauge.gap = false then 1 else 0))) ∧
    (s.cal.gauge.gap = false → Runs s .gaugePassGap (· = s)) ∧
    (s.cal.gauge.gap = true → Runs s .gaugePassGap fun s' => s'.cal.gauge.gap = false ∧
      (s.cal.gauge.run = 0 → s.fld Reg.gauStatus 0 3 0 = 3 → s'.cal.gauge.run = 1 ∧ s'.cal.gauge.reg = s.cal.gauge.reg)) ∧
    (s.fld Reg.gauRefEn 0 0 0 = 0 → Runs s .gaugeRefReady (· = s)) ∧
    (s.fld Reg.gauRefEn 0 0 0 = 1 → Runs s .gaugeRefReady fun s' => s'.fld Reg.gauStatus 0 0 0 = 1 ∧ OnlyRegs [Reg.gauStatus] s s' ∧
      (s.cal.gauge.run = 0 → s.fld Reg.gauStatus 0 3 2 = 2 → s'.cal.gauge.run = 2 ∧ s'.fld Reg.gauStatus 0 3 2 = 1) ∧
      (s.cal.gauge.run = 0 → s.fld Reg.gauStatus 0 3 2 = 0 → s.cal.gauge.gap = false → s'.cal.gauge.run = s.fld Reg.gauStatus 0 1 1)) ∧
    (∀ bandgap bufIn bufOut ground half : Int, ∀ cmd : Instr, cmd = .gaugeRefCheck bandgap bufIn bufOut ground half →
      (s.fld Reg.gauStatus 0 0 0 = 0 → Runs s cmd (· = s)) ∧
      (s.fld Reg.gauStatus 0 0 0 = 1 → ∀ bad : Nat → Prop, (bad = fun k =>
          (k = 1 ∧ 17067 * bufIn < 1000 * (20000 * bufOut - 17067 * bufIn).natAbs) ∨ (k = 2 ∧ (ground < -16 ∨ 16 < ground)) ∨
          (k = 3 ∧ 2 ^ 22 < 2000 * (half - 2 ^ 22).natAbs)) →
        Runs s cmd fun s' => s'.cal.gauge.ground = ground ∧ s'.cal.gauge.half = half ∧ (s'.fld Reg.calBg 0 23 0 : Int) = bandgap % 2 ^ 24 ∧
          (∀ ch (x : Int), (ch, x) ∈ [(64, bandgap), (65, bufIn), (66, bufOut), (70, ground), (71, half)] →
            (s'.fld Reg.gauChRes ch 23 0 : Int) = x % 2 ^ 24 ∧ s'.fld Reg.gauChRes ch 24 24 = 0 ∧
            s'.fld Reg.gauChRes ch 25 25 = s.fld Reg.gauStatus 0 9 9 ∧ s'.fld Reg.gauChRes ch 31 31 = 1 ∧ s'.reg64 Reg.gauChStampLo ch = s.now) ∧
          ((∀ k, ¬bad k) → s'.fld Reg.gauStatus 0 9 9 = s.fld Reg.gauStatus 0 9 9 ∧ s'.events = s.events) ∧
          ((∃ k, bad k) → s'.fld Reg.gauStatus 0 9 9 = 1) ∧ ∀ k, (∀ j, bad j ↔ j = k) → Raised s s' 0xA009 (le1 k))))

/-- R575, R577, R578, R581, R602, R604, R605, R608, R596: a thermal scan takes every fitted sensor's reading, excludes, forms the maxima,
and acts on the module maximum; two scans in a row at 115 °C latch; a read of CNT_VAL_LO samples; binding; the oldest record is removed;
the log's budget grows. A median of an even count and a DEV of 0 below two neighbours are the model's (log entries 61 and 62). The model's
choices and readings in it: log entries 61, 62, 63 and 84. -/
def Obligations.ScansAndCounters : Prop :=
  (∀ (s : State) (rd : List Int) (x : Nat → Int), (x = fun i => rd.getD i 0) → (∀ i, -2048 ≤ x i ∧ x i < 2048) →
    (s.powerState = 0 ∨ s.powerState = 7 → Runs s (.thermalScan rd) (· = s)) ∧
    (s.powerState ≠ 0 → s.powerState ≠ 7 → (∀ i ∈ s.sensors, s.sensor i < 460) → Runs s (.thermalScan rd) fun s' =>
      ∀ m W, m = signed12 (s'.fld Reg.thmModuleMax 0 11 0) → W = (4 * s.fld Reg.thmWarn 0 7 0 : Int) →
      s'.powerState = s.powerState ∧ s'.reg Reg.thmScanCnt = (s.reg Reg.thmScanCnt + 1) % 2 ^ 32 ∧ (∀ i ∈ s.sensors, s'.sensor i = x i) ∧
      (∀ i ∈ s.sensors, s.sensorValid i = false → s'.sensorValid i = false) ∧
      (∀ i ∈ s.sensors, ∀ ns, s.sensorValid i = true → ns = (neighbours i).filter s.sensorValid → (s'.sensorValid i = false ↔
        (i < 408 ∧ 2 ≤ ns.length ∧ 32 < (x i - median (ns.map x)).natAbs ∧ 2 ≤ s.fld Reg.thmSensDev i 17 16) ∨ (408 ≤ i ∧ (x i < -40 ∨ 520 < x i)))) ∧
      (∀ i ∈ s.sensors, s'.sensorValid i = true → x i ≤ m ∧ x (s'.fld Reg.thmModuleMax 0 24 16) = m ∧
        s'.sensorValid (s'.fld Reg.thmModuleMax 0 24 16) = true) ∧
      (∀ d n, d < 50 → n = (s'.districtSensors d).length → s'.fld (Reg.thmDist + 4 * d) 0 19 16 = n ∧
        (s'.fld (Reg.thmDist + 4 * d) 0 20 20 = 1 ↔ n < 4) ∧ ∀ i ∈ s'.districtSensors d, x i ≤ signed12 (s'.fld (Reg.thmDist + 4 * d) 0 11 0) ∧
          (4 ≤ n → ∃ k ∈ s'.districtSensors d, x k = signed12 (s'.fld (Reg.thmDist + 4 * d) 0 11 0))) ∧
      (s.fld Reg.thmStatus 0 0 0 = 0 → (s'.fld Reg.thmStatus 0 0 0 = 1 ↔ W ≤ m)) ∧
      (s.fld Reg.thmStatus 0 0 0 = 1 → (s'.fld Reg.thmStatus 0 0 0 = 0 ↔ m < W - 12)) ∧
      (s.fld Reg.thmStatus 0 1 1 = 0 → (s'.fld Reg.thmStatus 0 1 1 = 1 ↔ 420 ≤ m) ∧ (420 ≤ m → s'.cal.cool = 0 ∧
        s'.reg Reg.thmThrottleCnt = (s.reg Reg.thmThrottleCnt + 1) % 2 ^ 32)) ∧
      (s.fld Reg.thmStatus 0 1 1 = 1 → (s'.fld Reg.thmStatus 0 1 1 = 0 ↔ m < 400 ∧ 99 ≤ s.cal.cool) ∧
        (s'.fld Reg.thmStatus 0 1 1 = 1 → s'.cal.cool = if m < 400 then s.cal.cool + 1 else 0))) ∧
    (∀ i ∈ s.sensors, s.powerState ≠ 0 → s.powerState ≠ 7 → s.sensorValid i = true → i < 408 → s.fld Reg.thmSensDev i 17 16 < 2 →
      460 ≤ s.sensor i → 460 ≤ x i → Runs s (.thermalScan rd) fun s' => s'.powerState = 7 ∧ s'.power.fault = true ∧ s'.power.good = false ∧
        s'.boot.flash.latched = true ∧ s'.slices = [] ∧ s'.reg Reg.cntLifeLatches = (s.reg Reg.cntLifeLatches + 1) % 2 ^ 32 ∧
        ∃ j ∈ s.sensors, 460 ≤ s.sensor j ∧ 460 ≤ x j ∧ s'.boot.flash.latch = some (j, word12 (x j)))) ∧
  (∀ (s : State) (c : BitVec 3) (k : Nat), k = c.toNat →
    (∀ i t n p, CanReach s k Reg.cntValLo i → t = i % 4096 → n = i / 2 ^ 16 → p = s.physOf t →
      (s.mayCount k t = false → Runs s (.counterSample c) fun s' => (s'.ctx k).read = [0] ∧ (s'.ctx k).sample = (s.ctx k).sample) ∧
      (s.mayCount k t = true → Runs s (.counterSample c) fun s' => { s' with ctxs := s.ctxs } = s ∧ (∀ j, j ≠ k → s'.ctx j = s.ctx j) ∧
        (s'.ctx k).sample = ⟨SMap.get 0 (s.tile p).cnt n, if (s.spin t).part.isSome then (s.spin t).turn else 0, SMap.get 0 (s.tile p).cnt 15,
          s.time.cnt, SMap.get 0 (s.ctx k).seen t != 0 && SMap.get 0 (s.ctx k).seen t != p + 1, p⟩ ∧
        (s.fld Reg.cntCtxBind k 4 4 = 0 → (s'.ctx k).read = [BitVec.ofNat 32 (SMap.get 0 (s.tile p).cnt n)]))) ∧
    (∀ v : Word, (k < 6 → CanWrite s k Reg.cntCtxBind k → Runs s (.counterBind c v) fun s' => Ends s' k 0 ∧
        s'.reg Reg.cntCtxBind k % 32 = v.toNat % 32 ∧ { s' with regs := s.regs } = s.completed k false ∧
        ∀ a i, a < 2 ^ 24 → (a ∈ [Reg.cntCtxBind, Reg.cfgWstat] → i ≠ k) → s'.reg a i = s.reg a i) ∧
      (k < 6 → CanReach s k Reg.cntCtxBind k → s.quiet Reg.cntCtxBind k = false → v.toNat % 32 ≠ s.reg Reg.cntCtxBind k % 32 →
        Runs s (.counterBind c v) fun s' => Ends s' k 1 ∧ s'.reg Reg.cntCtxBind k = s.reg Reg.cntCtxBind k ∧ { s' with regs := s.regs } = s.completed k false) ∧
      (6 ≤ k → CanReach s k Reg.cntCtxBind k → Runs s (.counterBind c v) fun s' => Ends s' k 0 ∧ { s' with regs := s.regs } = s.completed k false ∧
        ∀ a i, a < 2 ^ 24 → (a = Reg.cfgWstat → i ≠ k) → s'.reg a i = s.reg a i)) ∧
    (∀ half a, a = (Reg.cntSampNext + if half then 32 else 0) → CanReach s k a 0 → Runs s (.sampleNext c half) fun s' => Ends s' k 0 ∧
      s'.events.samples0 = (if half then s.events.samples0 else s.events.samples0.tail) ∧
      s'.events.samples1 = (if half then s.events.samples1.tail else s.events.samples1) ∧
      { s' with regs := s.regs, events := s.events } = s.completed k false ∧ ∀ b i, b < 2 ^ 24 → (b = Reg.cfgWstat → i ≠ k) → s'.reg b i = s.reg b i)) ∧
  (∀ s : State, Runs s .logBudgetRefill fun s' => s'.events.budget = min 20000 (s.events.budget + 1) ∧
    { s' with events := { s'.events with budget := s.events.budget } } = s)

/-! ## Self-test and power -/

/-- R609, R610, R614, R615, R616: RUN_SET and the raw engine begin where they may; a run that ends leaves its record, destroys what its
classes destroy and reports; the shutdown self-test runs once nothing else does, and power goes off after its record. What destroyed
memory reads as is the model's (log entry 3). The model's choices and readings in it: log entries 3, 67, 69 and 70. -/
def Obligations.SelfTestRuns : Prop :=
  (∀ (s : State) (c : BitVec 3) (k : Nat), k = c.toNat →
    (∀ set : BitVec 4, CanWrite s k Reg.bstCmd 0 → 1 ≤ set.toNat → set.toNat ≤ 7 → ∀ free, free = (s.noPrograms &&
        (s.wgt.jobs.all fun e => !s.jobRuns e.1) && s.adapters.all fun e => e.2.st == 0) →
      (free = true → s.lifeCycle ∈ [1, 3, 4] → Runs s (.runSet c set) fun s' => Ends s' k 0 ∧ s'.fld Reg.bstStatus 0 0 0 = 1 ∧
        s'.boot = { s.boot with test := some ⟨3, set.toNat, 0, 0, true, s.time.cnt⟩ } ∧ s'.powerState = s.powerState) ∧
      (free = false ∨ s.lifeCycle ∉ [1, 3, 4] → Runs s (.runSet c set) fun s' => Ends s' k 0 ∧ s'.reg Reg.bstResult = 3 ∧ s'.boot = s.boot)) ∧
    (∀ cls, cls = s.fld Reg.bstRawUnit 0 3 0 → CanWrite s k Reg.bstRawCmd 0 →
      (1 ≤ cls → cls ≤ 12 → (cls = 12 → s.lifeCycle = 4) → Runs s (.rawGo c) fun s' => Ends s' k 0 ∧ s'.fld Reg.bstStatus 0 0 0 = 1 ∧
        { s'.boot with test := none } = { s.boot with test := none } ∧
        s'.boot.test = some ⟨4, 0, cls, s.fld Reg.bstRawUnit 0 31 16, s.fld Reg.bstRawUnit 0 15 15 == 1, s.time.cnt⟩) ∧
      (cls = 12 → s.lifeCycle ≠ 4 → Runs s (.rawGo c) fun s' => s'.reg Reg.bstResult = 3 ∧ s'.boot = s.boot)) ∧
    (s.ctxLive k = true → s.inFallback = false → s.lifeCycle ∉ [1, 4] → Runs s (.rawGo c) fun s' => Ends s' k 7 ∧ s'.boot = s.boot)) ∧
  (∀ (s : State) (classes fails : List (List Nat)) (us : Nat),
    ((s.boot.test = none ∨ ∃ t, s.boot.test = some t ∧ t.kind < 3) → Runs s (.setDone classes fails us) (· = s)) ∧
    (∀ t, s.boot.test = some t → t.kind ∈ [3, 4] → Runs s (.setDone classes fails us) fun s' => s'.boot.test = none ∧
      s'.fld Reg.bstStatus 0 0 0 = 0 ∧ s'.reg Reg.bstResult = (if fails = [] then 1 else 2) ∧
      (∃ r, s'.boot.flash.results = (r :: s.boot.flash.results).take 8 ∧ testRecordValid r = true ∧ r.take 4 = [0x4C#8, 0x53#8, 0x54#8, 0x52#8] ∧
        byteAt r 4 = t.kind ∧ byteAt r 5 = t.set % 256 ∧ byteAt r 6 = s.lifeCycle % 256 ∧
        byteAt r 7 = (if fails = [] then 1 else 3) ∧ leNat r 8 4 = s.reg Reg.cntLifeStarts ∧ leNat r 16 8 = t.stamp.toNat) ∧
      (t.kind = 3 → t.all = true → (t.set ∈ [1, 7] → s'.slices = []) ∧ (t.set ∉ [1, 7] → s'.slices = s.slices) ∧
        (t.set ∈ [2, 7] → ∀ q, (s'.weft q).slot0 = .init ∧ (s'.weft q).slot1 = .init) ∧ (t.set ∈ [3, 4, 5] → s'.wefts = s.wefts) ∧
        (t.set ∈ [6, 7] → s'.stackMem = [] ∧ (s.stacked = true → ∀ m ∈ s.wgt.models, m.2.st = 2 → ∀ a ∈ m.2.arrays,
          s'.gold a = some ⟨(s.warp (s.targetKey a)).image, false⟩)) ∧ (t.set ∉ [6, 7] → s'.stackMem = s.stackMem)))) ∧
  (∀ s : State, (∀ busy, busy = (s.boot.test.isSome || !s.noPrograms || s.wgt.jobs.any fun e => s.jobRuns e.1) →
      (s.power.shut ≠ 2 ∨ busy = true → Runs s .shutdownTest (· = s)) ∧
      (s.power.shut = 2 → busy = false → s.fld Reg.bstCfg 0 0 0 = 1 → s.lifeCycle ∈ [2, 3] → Runs s .shutdownTest fun s' => s'.powerState = 6 ∧
        s'.boot.flash.startCnt = 0 ∧ s'.boot.flash.inProgress = false ∧ s'.boot.test = some ⟨1, 0, 0, 0, true, s.time.cnt⟩) ∧
      (s.power.shut = 2 → busy = false → s.fld Reg.bstCfg 0 0 0 = 0 ∨ s.lifeCycle ∉ [2, 3] → Runs s .shutdownTest fun s' => s'.powerState = 0 ∧
        s'.power.good = false ∧ s'.reg Reg.cntLifeShutdowns = (s.reg Reg.cntLifeShutdowns + 1) % 2 ^ 32)) ∧
    ∀ (classes fails : List (List Nat)) (us : Nat) (t : TestRun), s.boot.test = some t →
      (t.kind ≠ 1 ∨ s.powerState ≠ 6 → Runs s (.shutdownTestDone classes fails us) (· = s)) ∧
      (t.kind = 1 → s.powerState = 6 → Runs s (.shutdownTestDone classes fails us) fun s' => s'.powerState = 0 ∧ s'.power.good = false ∧
        s'.reg Reg.cntLifeShutdowns = (s.reg Reg.cntLifeShutdowns + 1) % 2 ^ 32 ∧ ∃ r, testRecordValid r = true ∧ byteAt r 4 = 1 ∧
          byteAt r 7 % 2 = 1 ∧ leNat r 8 4 = s.reg Reg.cntLifeStarts ∧ s'.boot.flash.results = (r :: s.boot.flash.results).take 8))

/-- R626, R627, R628, R630, R634, R635, R636, R637: the input's alarms, its loss and trips, the over-power factor, a district's comparator
and trip, STANDBY and WAKE, the orderly shutdown. The record and causes of a trip are R649's; a trip count over every cause is the model's
(log entry 66). The model's choices and readings in it: log entries 65, 66, 67, 68 and 101. -/
def Obligations.PowerTransitions : Prop :=
  (∀ s : State,
    (∀ mv : BitVec 16, (s.lit = true → mv.toNat < 5000 → s.fld Reg.pwrStatus 0 0 0 = 0 → Runs s (.inputUndervolt mv) fun s' =>
        s'.fld Reg.pwrStatus 0 0 0 = 1 ∧ Raised s s' 0xC003 (le2 mv.toNat) ∧ OnlyEvents [Reg.pwrStatus] s s') ∧
      (s.lit = false ∨ 5000 ≤ mv.toNat ∨ s.fld Reg.pwrStatus 0 0 0 = 1 → Runs s (.inputUndervolt mv) (· = s))) ∧
    (Runs s .undervoltClear fun s' => s'.fld Reg.pwrStatus 0 0 0 = 0 ∧ s'.fld Reg.pwrStatus 0 31 1 = s.fld Reg.pwrStatus 0 31 1 ∧
      { s' with regs := s.regs } = s ∧ OnlyRegs [Reg.pwrStatus] s s') ∧
    (∀ Fails : Nat → Nat → State → Prop, (Fails = fun cause n s' => s'.powerState = 0 ∧ s'.power.good = false ∧
        s'.power.fault = (s.power.fault || (decide (2 ≤ cause) && decide (cause ≤ 4))) ∧
        s'.power.held = (decide (2 ≤ cause) && decide (cause ≤ 4)) ∧ s'.slices = [] ∧ s'.stackMem = [] ∧ s'.spindles = [] ∧
        s'.boot.fuse = s.boot.fuse ∧ s'.boot.flash = s.boot.flash ∧ s'.integ.suspects = s.integ.suspects ∧
        s'.reg Reg.pwrTripCnt = (s.reg Reg.pwrTripCnt + 1) % 2 ^ 32 ∧ ∃ r ∈ s'.events.log.take n, leNat r 0 2 = 0xC006 ∧
          leNat r 8 8 = s.now ∧ r.drop 16 = padTo 16 (le1 cause)) →
      (∀ cmd cause, (cmd, cause) ∈ [(Instr.powerLoss, 1), (.overvoltageTrip, 2), (.inputOvercurrentTrip, 3), (.enableRelease, 5)] →
        (s.lit = true → Runs s cmd (Fails cause 2)) ∧
        (s.lit = false → s.powerState ≠ 7 ∨ cause ≠ 1 → Runs s cmd (· = { s with
          power := { s.power with held := s.power.held && decide (2 ≤ cause) && decide (cause ≤ 4) } })) ∧
        (s.lit = false → s.powerState = 7 → cause = 1 → Runs s cmd fun s' => s'.powerState = 0 ∧ s'.power.fault = false ∧
          s'.power.held = false ∧ s'.boot = s.boot)) ∧
      (∀ d, d < 50 → (s.lit = true → Runs s (.railTrip d) fun s' => Fails 4 2 s' ∧ ∃ r ∈ s'.events.log.take 3, leNat r 0 2 = 0xC005 ∧
          r.drop 16 = padTo 16 (le1 d)) ∧
        (s.lit = false → Runs s (.railTrip d) (· = s)))) ∧
    (∀ d (ma : BitVec 16), (50 ≤ d → exec (.railTrip d) s = .fault .noSuchUnit ∧ exec (.railOvercurrent d ma) s = .fault .noSuchUnit) ∧
      (d < 50 → s.lit = false ∨ ma.toNat ≤ 100 * s.fld Reg.pwrDistOc d 5 0 → Runs s (.railOvercurrent d ma) (· = s)) ∧
      (d < 50 → s.lit = true → 100 * s.fld Reg.pwrDistOc d 5 0 < ma.toNat → Runs s (.railOvercurrent d ma) fun s' =>
        Raised s s' 0xC004 (le1 d ++ le2 ma.toNat) ∧ s'.fld Reg.pwrDistHold d 4 0 = 16 ∧
        s'.reg Reg.pwrDistOcCnt d = (s.reg Reg.pwrDistOcCnt d + 1) % 2 ^ 32 ∧ s'.fld Reg.pwrStatus 0 9 9 = 1 ∧
        (s.fld Reg.gauInjCfg 0 5 5 = 1 → s'.fld Reg.gauStatus 0 3 2 ≠ 0))) ∧
    (∀ (volt cur : BitVec 24) (p one f g : Nat), p = volt.toNat * cur.toNat → one = s.powerLimit * 1000 * 2 ^ 22 → f = s.fld Reg.pwrStatus 0 2 1 →
      (s.lit = false → Runs s (.inputPowerSample volt cur) (· = s)) ∧
      (s.lit = true → (g = if f = 0 then if one < p then 1 else 0 else if f = 1 ∧ 105 * one < 100 * p ∧ 9 ≤ s.power.above then 2
          else if 100 * p < 95 * one ∧ 99 ≤ s.power.below ∧ ¬(9 ≤ s.power.above ∧ f = 1 ∧ 105 * one < 100 * p) then 0 else f) →
        Runs s (.inputPowerSample volt cur) fun s' => s'.fld Reg.pwrStatus 0 2 1 = g ∧
          (g = f → s'.events = s.events) ∧ (g ≠ f → g ≠ 0 → s'.fld Reg.pwrStatus 0 8 8 = 1 ∧
            Raised s s' 0xC002 (le2 (s'.fld Reg.pwrInP 0 15 0) ++ le1 g)) ∧ s'.fld Reg.pwrInP 0 15 0 = min 65535 (p / (100 * 2 ^ 22))))) ∧
  (∀ (s : State) (c : BitVec 3) (k : Nat), k = c.toNat → CanWrite s k Reg.pwrCmd 0 →
    (s.powerState = 2 → s.power.shut = 0 → s.serve.sessions = [] → (∀ e ∈ s.wgt.jobs, s.jobRuns e.1 = false) → (∀ e ∈ s.adapters, e.2.st = 0) →
      s.boot.test = none → Runs s (.standby c) fun s' => s'.powerState = 1 ∧ s'.reg Reg.pwrCmdResult = 1 ∧ Ends s' k 0 ∧ s'.slices = [] ∧
        s'.stackMem = [] ∧ s'.wefts = [] ∧ s'.wgt.gold = [] ∧ s'.reg Reg.ixcCwUp = 0 ∧ s'.boot = s.boot) ∧
    (s.powerState ≠ 2 ∨ s.power.shut ≠ 0 ∨ s.serve.sessions ≠ [] ∨ (∃ e ∈ s.wgt.jobs, s.jobRuns e.1 = true) ∨ (∃ e ∈ s.adapters, e.2.st ≠ 0) ∨ s.boot.test.isSome →
      Runs s (.standby c) fun s' => s'.reg Reg.pwrCmdResult = 2 ∧ Ends s' k 0 ∧ { s' with regs := s.regs } = s.completed k false ∧
        OnlyRegs [Reg.pwrCmd, Reg.pwrCmdResult, Reg.cfgWstat] s s') ∧
    (∀ i b, b = s.coreWrite k Reg.pwrCmd 2 →
      (s.powerState = 1 → ((b.setStep 4).diesUp i).2 = none → Runs s (.wake c i) fun s' => s'.powerState = 2 ∧ s'.reg Reg.pwrCmdResult = 1 ∧
        s'.fld Reg.cfgStatus 0 3 0 = 8 ∧ s'.boot.applied = s.boot.applied) ∧
      (∀ r detail, s.powerState = 1 → ((b.setStep 4).diesUp i).2 = some (r, detail) → r ≠ 0x52 → Runs s (.wake c i) fun s' =>
        s'.boot.flash.reason = r ∧ s'.boot.flash.step = 4) ∧
      (s.powerState ≠ 1 → Runs s (.wake c i) fun s' => s'.reg Reg.pwrCmdResult = 2 ∧ { s' with regs := s.regs } = s.completed k false)) ∧
    (s.powerState ∈ [2, 3, 4] → Runs s (.shutdown c) fun s' => s'.reg Reg.pwrCmdResult = 1 ∧ s'.powerState = s.powerState ∧
      s'.power.shut = (if s.power.shut = 0 then 1 else s.power.shut) ∧ { s' with regs := s.regs, power := s.power } = s.completed k false) ∧
    (s.powerState = 1 → Runs s (.shutdown c) fun s' => s'.powerState = 0 ∧ s'.power.good = false ∧ s'.boot.test = none) ∧
    (s.powerState ∉ [1, 2, 3, 4] → Runs s (.shutdown c) fun s' => s'.reg Reg.pwrCmdResult = 2 ∧ { s' with regs := s.regs } = s.completed k false)) ∧
  (∀ s : State,
    (s.powerState ∈ [2, 3, 4] → s.power.shut = 0 → Runs s .shdnReq (· = { s with power := { s.power with shut := 1 } })) ∧
    (s.powerState = 1 → Runs s .shdnReq fun s' => s'.powerState = 0 ∧ s'.power.good = false ∧ s'.slices = [] ∧
      s'.reg Reg.cntLifeShutdowns = (s.reg Reg.cntLifeShutdowns + 1) % 2 ^ 32) ∧
    (s.powerState = 0 → s.lit = true → Runs s .shdnReq (· = { s with power := { s.power with shut := 3 } })) ∧
    (s.lit = false ∨ s.powerState ∉ [0, 1, 2, 3, 4] ∨ s.powerState ∈ [2, 3, 4] ∧ s.power.shut ≠ 0 → Runs s .shdnReq (· = s)) ∧
    (s.power.shut ≠ 1 → Runs s .shutdownDrainExpiry (· = s)) ∧
    (s.power.shut = 1 → Runs s .shutdownDrainExpiry fun s' => s'.power.shut = 2 ∧
      (∀ p, p < 16 → (s'.part p).prog = none ∧ s'.sessionsOf p = []) ∧ (s.powerState = 3 → s'.powerState = 2)))

/-! ## The machine -/

/-- A step takes the command at the front of the queue and runs it on the queue's rest, first in, first out; with nothing waiting one
cycle of the 100 MHz oscillator passes, which is the model's choice (log entry 2): 10 ns and the rate correction of R65 are added to the
time counter, a module that is up has run one cycle more, ten slots pass at every arbitration point (log entry 106), and messages that
waited for their share of a link go where they now may. -/
def Obligations.AStepRunsTheFrontCommand : Prop :=
  (∀ (s : State) (c : Instr) (rest : List Instr), step { s with pending := c :: rest } = exec c { s with pending := rest }) ∧
  (∀ s : State, s.pending = [] → ∃ b : State, step s = .next b.pumpEgress ∧ (s.net.waiting = [] → b.pumpEgress = b) ∧
    { b with time := s.time, boot := s.boot, shares := s.shares } = s ∧ b.time = { s.time with cnt := b.time.cnt, frac := b.time.frac } ∧
    b.boot = { s.boot with flash := { s.boot.flash with
      upCycles := s.boot.flash.upCycles + if s.powerState ∈ [2, 3, 4] then 1 else 0 } } ∧
    b.shares = s.shares.map (fun e => (e.1, e.2.pass 10 none)) ∧
    (b.time.cnt.toNat * 2 ^ 32 + b.time.frac.toNat) % 2 ^ 96 =
      (s.time.cnt.toNat * 2 ^ 32 + s.time.frac.toNat + (10 * 2 ^ 32 + signed32 (s.reg Reg.trnRate)).toNat) % 2 ^ 96)

/-- No command is refused: every command answers a next state, or the fault that it names a unit the module does not have; and no command
touches the queue that it was taken from. -/
def Obligations.CommandsAreNeverRefused : Prop :=
  ∀ (c : Instr) (s : State), (∃ s', exec c s = .next s' ∧ s'.pending = s.pending) ∨ exec c s = .fault .noSuchUnit

/-- R200, R504, R505, R532: every step keeps the canonical form of slice and stack memory, unprograms no fuse (the root key, the serial
number and the owner digests stay, minimums and revocations only grow), and leaves the variant that is fitted; the counter of the model's
free values never goes back (log entry 7). -/
def Obligations.EveryStepKeepsMemoryFormFusesAndVariant : Prop :=
  ∀ s s' : State, step s = .next s' →
    (s.memOk → s'.memOk) ∧ fuseLe s.boot.fuse s'.boot.fuse ∧ s'.variant = s.variant ∧ s.freeCtr ≤ s'.freeCtr

/-- R633: right after power-up the module is OFF: nothing waits and memory, in its canonical form, lists nothing; registers stand at the
reset values of their tables. What volatile memory reads as is the model's (log entry 3). -/
def Obligations.ResetIsOff : Prop :=
  State.reset.memOk ∧ State.reset.pending = [] ∧ State.reset.powerState = 0 ∧ State.reset.slices = [] ∧ State.reset.stackMem = [] ∧
    (∀ t, (State.reset.spin t).part = none) ∧ (∀ p, (State.reset.part p).prog = none) ∧ State.reset.now = 0 ∧
    ∀ a hi lo v, (a, hi, lo, v) ∈ [(Reg.thmWarn, 7, 0, 100), (Reg.bstCfg, 0, 0, 1), (Reg.pwrShdnCfg, 15, 0, 2000), (Reg.gauStatus, 31, 0, 0)] →
      State.reset.fld a 0 hi lo = v
end

