-- ==== Sys2Proof/Laws/State.lean ====
section
/-! SUPPORT. What the updates of Machine/Ops.lean do to each field of the state, and reading after writing. -/

namespace Sys2Proof.Machine

/-! ## Sparse maps -/

@[simp] theorem SMap_get_insert_self {α : Type} (d : α) (m : SMap α) (k : Nat) (v : α) : SMap.get d (m.insert k v) k = v := by
  induction m with
  | nil => simp [SMap.insert, SMap.get]
  | cons e m ih =>
    simp only [SMap.insert]
    split
    · simp [SMap.get]
    · split
      · simp [SMap.get]
      · rename_i h _; simp only [SMap.get, h, if_false]; exact ih
theorem SMap_get_insert_ne {α : Type} (d : α) (m : SMap α) {k j : Nat} (v : α) (h : j ≠ k) : SMap.get d (m.insert k v) j = SMap.get d m j := by
  induction m with
  | nil => simp [SMap.insert, SMap.get, h]
  | cons e m ih =>
    simp only [SMap.insert]
    split
    · rename_i he; subst he; simp [SMap.get, h]
    · split
      · simp [SMap.get, h]
      · simp only [SMap.get, ih]
@[simp] theorem SMap_get_erase_self {α : Type} (d : α) (m : SMap α) (k : Nat) : SMap.get d (m.erase k) k = d := by
  induction m with
  | nil => rfl
  | cons e m ih =>
    simp only [SMap.erase]
    split
    · exact ih
    · rename_i h; simp only [SMap.get, h, if_false]; exact ih
theorem SMap_get_erase_ne {α : Type} (d : α) (m : SMap α) {k j : Nat} (h : j ≠ k) : SMap.get d (m.erase k) j = SMap.get d m j := by
  induction m with
  | nil => rfl
  | cons e m ih =>
    simp only [SMap.erase]
    split
    · rename_i he; subst he; rw [ih]; simp [SMap.get, h]
    · simp only [SMap.get, ih]
/-- Reading the key that was written. -/
@[simp] theorem SMap_get_set_self {α : Type} [DecidableEq α] (d : α) (m : SMap α) (k : Nat) (v : α) : SMap.get d (m.set d k v) k = v := by
  unfold SMap.set
  split
  · rename_i h; rw [SMap_get_erase_self, h]
  · exact SMap_get_insert_self d m k v
/-- Reading another key. -/
theorem SMap_get_set_ne {α : Type} [DecidableEq α] (d : α) (m : SMap α) {k j : Nat} (v : α) (h : j ≠ k) :
    SMap.get d (m.set d k v) j = SMap.get d m j := by
  unfold SMap.set
  split
  · exact SMap_get_erase_ne d m h
  · exact SMap_get_insert_ne d m v h

/-! ## Parts by key -/

@[simp] theorem State.ctx_modCtx_self (s : State) (k : Nat) (f : Ctx → Ctx) : (s.modCtx k f).ctx k = f (s.ctx k) :=
  SMap_get_set_self _ _ _ _
theorem State.ctx_modCtx_ne (s : State) {k j : Nat} (f : Ctx → Ctx) (h : j ≠ k) : (s.modCtx k f).ctx j = s.ctx j :=
  SMap_get_set_ne _ _ _ h
@[simp] theorem State.dist_modDist_self (s : State) (k : Nat) (f : DistSt → DistSt) : (s.modDist k f).dist k = f (s.dist k) :=
  SMap_get_set_self _ _ _ _
theorem State.dist_modDist_ne (s : State) {k j : Nat} (f : DistSt → DistSt) (h : j ≠ k) : (s.modDist k f).dist j = s.dist j :=
  SMap_get_set_ne _ _ _ h
@[simp] theorem State.spin_modSpin_self (s : State) (k : Nat) (f : Spindle → Spindle) : (s.modSpin k f).spin k = f (s.spin k) :=
  SMap_get_set_self _ _ _ _
theorem State.spin_modSpin_ne (s : State) {k j : Nat} (f : Spindle → Spindle) (h : j ≠ k) : (s.modSpin k f).spin j = s.spin j :=
  SMap_get_set_ne _ _ _ h
@[simp] theorem State.tile_modTile_self (s : State) (k : Nat) (f : PhysTile → PhysTile) : (s.modTile k f).tile k = f (s.tile k) :=
  SMap_get_set_self _ _ _ _
theorem State.tile_modTile_ne (s : State) {k j : Nat} (f : PhysTile → PhysTile) (h : j ≠ k) : (s.modTile k f).tile j = s.tile j :=
  SMap_get_set_ne _ _ _ h
@[simp] theorem State.warp_modWarp_self (s : State) (k : Nat) (f : WarpArr → WarpArr) : (s.modWarp k f).warp k = f (s.warp k) :=
  SMap_get_set_self _ _ _ _
theorem State.warp_modWarp_ne (s : State) {k j : Nat} (f : WarpArr → WarpArr) (h : j ≠ k) : (s.modWarp k f).warp j = s.warp j :=
  SMap_get_set_ne _ _ _ h
@[simp] theorem State.weft_modWeft_self (s : State) (k : Nat) (f : WeftArr → WeftArr) : (s.modWeft k f).weft k = f (s.weft k) :=
  SMap_get_set_self _ _ _ _
theorem State.weft_modWeft_ne (s : State) {k j : Nat} (f : WeftArr → WeftArr) (h : j ≠ k) : (s.modWeft k f).weft j = s.weft j :=
  SMap_get_set_ne _ _ _ h
@[simp] theorem State.adapter_modAdapter_self (s : State) (k : Nat) (f : Adapter → Adapter) : (s.modAdapter k f).adapter k = f (s.adapter k) :=
  SMap_get_set_self _ _ _ _
theorem State.adapter_modAdapter_ne (s : State) {k j : Nat} (f : Adapter → Adapter) (h : j ≠ k) : (s.modAdapter k f).adapter j = s.adapter j :=
  SMap_get_set_ne _ _ _ h
@[simp] theorem State.part_modPart_self (s : State) (k : Nat) (f : PartSt → PartSt) : (s.modPart k f).part k = f (s.part k) :=
  SMap_get_set_self _ _ _ _
theorem State.part_modPart_ne (s : State) {k j : Nat} (f : PartSt → PartSt) (h : j ≠ k) : (s.modPart k f).part j = s.part j :=
  SMap_get_set_ne _ _ _ h
@[simp] theorem State.row_modRow_self (s : State) (k : Nat) (f : RowSt → RowSt) : (s.modRow k f).row k = f (s.row k) :=
  SMap_get_set_self _ _ _ _
theorem State.row_modRow_ne (s : State) {k j : Nat} (f : RowSt → RowSt) (h : j ≠ k) : (s.modRow k f).row j = s.row j :=
  SMap_get_set_ne _ _ _ h
@[simp] theorem State.bareUnit_modBare_self (s : State) (k : Nat) (f : BareSt → BareSt) : (s.modBare k f).bareUnit k = f (s.bareUnit k) :=
  SMap_get_set_self _ _ _ _
theorem State.bareUnit_modBare_ne (s : State) {k j : Nat} (f : BareSt → BareSt) (h : j ≠ k) : (s.modBare k f).bareUnit j = s.bareUnit j :=
  SMap_get_set_ne _ _ _ h
@[simp] theorem State.servPart_modServPart_self (s : State) (k : Nat) (f : ServPart → ServPart) : (s.modServPart k f).servPart k = f (s.servPart k) :=
  SMap_get_set_self _ _ _ _
theorem State.servPart_modServPart_ne (s : State) {k j : Nat} (f : ServPart → ServPart) (h : j ≠ k) : (s.modServPart k f).servPart j = s.servPart j :=
  SMap_get_set_ne _ _ _ h
@[simp] theorem State.hank_modHank_self (s : State) (k : Nat) (f : HankQ → HankQ) : (s.modHank k f).hank k = f (s.hank k) :=
  SMap_get_set_self _ _ _ _
theorem State.hank_modHank_ne (s : State) {k j : Nat} (f : HankQ → HankQ) (h : j ≠ k) : (s.modHank k f).hank j = s.hank j :=
  SMap_get_set_ne _ _ _ h
@[simp] theorem State.qp_modQp_self (s : State) (k : Nat) (f : Qp → Qp) : (s.modQp k f).qp k = f (s.qp k) :=
  SMap_get_set_self _ _ _ _
theorem State.qp_modQp_ne (s : State) {k j : Nat} (f : Qp → Qp) (h : j ≠ k) : (s.modQp k f).qp j = s.qp j :=
  SMap_get_set_ne _ _ _ h

/-! ## Registers, slices and stacks -/

theorem State.reg_setReg_self (s : State) (addr inst v : Nat) : (s.setReg addr inst v).reg addr inst = v % 2 ^ 32 := by
  unfold State.reg State.setReg
  rw [SMap_get_set_self]
  exact BitVec.toNat_ofNat v 32
theorem State.reg_setReg_ne (s : State) {addr inst a i : Nat} (v : Nat) (h : regKey a i ≠ regKey addr inst) :
    (s.setReg addr inst v).reg a i = s.reg a i := by
  unfold State.reg State.setReg
  by_cases hd : regReset a = regReset addr
  · rw [hd]; exact congrArg BitVec.toNat (SMap_get_set_ne _ _ _ h)
  · unfold SMap.set
    split
    · exact congrArg BitVec.toNat (SMap_get_erase_ne _ _ h)
    · exact congrArg BitVec.toNat (SMap_get_insert_ne _ _ _ h)
@[simp] theorem State.sliceByte_setSliceByte_self (s : State) (t a : Nat) (b : Byte) : (s.setSliceByte t a b).sliceByte t a = b :=
  SMap_get_set_self _ _ _ _
theorem State.sliceByte_setSliceByte_ne (s : State) {t a u c : Nat} (b : Byte)
    (h : Config.sliceBytes * u + c ≠ Config.sliceBytes * t + a) : (s.setSliceByte t a b).sliceByte u c = s.sliceByte u c :=
  SMap_get_set_ne _ _ _ h
@[simp] theorem State.stackByte_setStackByte_self (s : State) (a : Nat) (b : Byte) : (s.setStackByte a b).stackByte a = b :=
  SMap_get_set_self _ _ _ _
theorem State.stackByte_setStackByte_ne (s : State) {a c : Nat} (b : Byte) (h : c ≠ a) : (s.setStackByte a b).stackByte c = s.stackByte c :=
  SMap_get_set_ne _ _ _ h

/-! ## Fields that an update leaves alone -/

@[simp] theorem State.setReg_variant (s : State) (addr inst v : Nat) : (s.setReg addr inst v).variant = s.variant := rfl
@[simp] theorem State.setReg_pending (s : State) (addr inst v : Nat) : (s.setReg addr inst v).pending = s.pending := rfl
@[simp] theorem State.setReg_freeCtr (s : State) (addr inst v : Nat) : (s.setReg addr inst v).freeCtr = s.freeCtr := rfl
@[simp] theorem State.setReg_out (s : State) (addr inst v : Nat) : (s.setReg addr inst v).out = s.out := rfl
@[simp] theorem State.setReg_live (s : State) (addr inst v : Nat) : (s.setReg addr inst v).live = s.live := rfl
@[simp] theorem State.setReg_ctxs (s : State) (addr inst v : Nat) : (s.setReg addr inst v).ctxs = s.ctxs := rfl
@[simp] theorem State.setReg_time (s : State) (addr inst v : Nat) : (s.setReg addr inst v).time = s.time := rfl
@[simp] theorem State.setReg_dists (s : State) (addr inst v : Nat) : (s.setReg addr inst v).dists = s.dists := rfl
@[simp] theorem State.setReg_spindles (s : State) (addr inst v : Nat) : (s.setReg addr inst v).spindles = s.spindles := rfl
@[simp] theorem State.setReg_tiles (s : State) (addr inst v : Nat) : (s.setReg addr inst v).tiles = s.tiles := rfl
@[simp] theorem State.setReg_slices (s : State) (addr inst v : Nat) : (s.setReg addr inst v).slices = s.slices := rfl
@[simp] theorem State.setReg_stackMem (s : State) (addr inst v : Nat) : (s.setReg addr inst v).stackMem = s.stackMem := rfl
@[simp] theorem State.setReg_warps (s : State) (addr inst v : Nat) : (s.setReg addr inst v).warps = s.warps := rfl
@[simp] theorem State.setReg_wefts (s : State) (addr inst v : Nat) : (s.setReg addr inst v).wefts = s.wefts := rfl
@[simp] theorem State.setReg_adapters (s : State) (addr inst v : Nat) : (s.setReg addr inst v).adapters = s.adapters := rfl
@[simp] theorem State.setReg_parts (s : State) (addr inst v : Nat) : (s.setReg addr inst v).parts = s.parts := rfl
@[simp] theorem State.setReg_integ (s : State) (addr inst v : Nat) : (s.setReg addr inst v).integ = s.integ := rfl
@[simp] theorem State.setReg_events (s : State) (addr inst v : Nat) : (s.setReg addr inst v).events = s.events := rfl
@[simp] theorem State.setReg_svcDue (s : State) (addr inst v : Nat) : (s.setReg addr inst v).svcDue = s.svcDue := rfl
@[simp] theorem State.setReg_lanes (s : State) (addr inst v : Nat) : (s.setReg addr inst v).lanes = s.lanes := rfl
@[simp] theorem State.setReg_shares (s : State) (addr inst v : Nat) : (s.setReg addr inst v).shares = s.shares := rfl
@[simp] theorem State.setReg_flits (s : State) (addr inst v : Nat) : (s.setReg addr inst v).flits = s.flits := rfl
@[simp] theorem State.setReg_serve (s : State) (addr inst v : Nat) : (s.setReg addr inst v).serve = s.serve := rfl
@[simp] theorem State.setReg_net (s : State) (addr inst v : Nat) : (s.setReg addr inst v).net = s.net := rfl
@[simp] theorem State.setReg_wgt (s : State) (addr inst v : Nat) : (s.setReg addr inst v).wgt = s.wgt := rfl
@[simp] theorem State.setReg_cal (s : State) (addr inst v : Nat) : (s.setReg addr inst v).cal = s.cal := rfl
@[simp] theorem State.setReg_power (s : State) (addr inst v : Nat) : (s.setReg addr inst v).power = s.power := rfl
@[simp] theorem State.setReg_qps (s : State) (addr inst v : Nat) : (s.setReg addr inst v).qps = s.qps := rfl
@[simp] theorem State.setReg_boot (s : State) (addr inst v : Nat) : (s.setReg addr inst v).boot = s.boot := rfl
@[simp] theorem State.setFld_variant (s : State) (addr inst hi lo v : Nat) : (s.setFld addr inst hi lo v).variant = s.variant := rfl
@[simp] theorem State.setFld_pending (s : State) (addr inst hi lo v : Nat) : (s.setFld addr inst hi lo v).pending = s.pending := rfl
@[simp] theorem State.setFld_freeCtr (s : State) (addr inst hi lo v : Nat) : (s.setFld addr inst hi lo v).freeCtr = s.freeCtr := rfl
@[simp] theorem State.setFld_out (s : State) (addr inst hi lo v : Nat) : (s.setFld addr inst hi lo v).out = s.out := rfl
@[simp] theorem State.setFld_live (s : State) (addr inst hi lo v : Nat) : (s.setFld addr inst hi lo v).live = s.live := rfl
@[simp] theorem State.setFld_ctxs (s : State) (addr inst hi lo v : Nat) : (s.setFld addr inst hi lo v).ctxs = s.ctxs := rfl
@[simp] theorem State.setFld_time (s : State) (addr inst hi lo v : Nat) : (s.setFld addr inst hi lo v).time = s.time := rfl
@[simp] theorem State.setFld_dists (s : State) (addr inst hi lo v : Nat) : (s.setFld addr inst hi lo v).dists = s.dists := rfl
@[simp] theorem State.setFld_spindles (s : State) (addr inst hi lo v : Nat) : (s.setFld addr inst hi lo v).spindles = s.spindles := rfl
@[simp] theorem State.setFld_tiles (s : State) (addr inst hi lo v : Nat) : (s.setFld addr inst hi lo v).tiles = s.tiles := rfl
@[simp] theorem State.setFld_slices (s : State) (addr inst hi lo v : Nat) : (s.setFld addr inst hi lo v).slices = s.slices := rfl
@[simp] theorem State.setFld_stackMem (s : State) (addr inst hi lo v : Nat) : (s.setFld addr inst hi lo v).stackMem = s.stackMem := rfl
@[simp] theorem State.setFld_warps (s : State) (addr inst hi lo v : Nat) : (s.setFld addr inst hi lo v).warps = s.warps := rfl
@[simp] theorem State.setFld_wefts (s : State) (addr inst hi lo v : Nat) : (s.setFld addr inst hi lo v).wefts = s.wefts := rfl
@[simp] theorem State.setFld_adapters (s : State) (addr inst hi lo v : Nat) : (s.setFld addr inst hi lo v).adapters = s.adapters := rfl
@[simp] theorem State.setFld_parts (s : State) (addr inst hi lo v : Nat) : (s.setFld addr inst hi lo v).parts = s.parts := rfl
@[simp] theorem State.setFld_integ (s : State) (addr inst hi lo v : Nat) : (s.setFld addr inst hi lo v).integ = s.integ := rfl
@[simp] theorem State.setFld_events (s : State) (addr inst hi lo v : Nat) : (s.setFld addr inst hi lo v).events = s.events := rfl
@[simp] theorem State.setFld_svcDue (s : State) (addr inst hi lo v : Nat) : (s.setFld addr inst hi lo v).svcDue = s.svcDue := rfl
@[simp] theorem State.setFld_lanes (s : State) (addr inst hi lo v : Nat) : (s.setFld addr inst hi lo v).lanes = s.lanes := rfl
@[simp] theorem State.setFld_shares (s : State) (addr inst hi lo v : Nat) : (s.setFld addr inst hi lo v).shares = s.shares := rfl
@[simp] theorem State.setFld_flits (s : State) (addr inst hi lo v : Nat) : (s.setFld addr inst hi lo v).flits = s.flits := rfl
@[simp] theorem State.setFld_serve (s : State) (addr inst hi lo v : Nat) : (s.setFld addr inst hi lo v).serve = s.serve := rfl
@[simp] theorem State.setFld_net (s : State) (addr inst hi lo v : Nat) : (s.setFld addr inst hi lo v).net = s.net := rfl
@[simp] theorem State.setFld_wgt (s : State) (addr inst hi lo v : Nat) : (s.setFld addr inst hi lo v).wgt = s.wgt := rfl
@[simp] theorem State.setFld_cal (s : State) (addr inst hi lo v : Nat) : (s.setFld addr inst hi lo v).cal = s.cal := rfl
@[simp] theorem State.setFld_power (s : State) (addr inst hi lo v : Nat) : (s.setFld addr inst hi lo v).power = s.power := rfl
@[simp] theorem State.setFld_qps (s : State) (addr inst hi lo v : Nat) : (s.setFld addr inst hi lo v).qps = s.qps := rfl
@[simp] theorem State.setFld_boot (s : State) (addr inst hi lo v : Nat) : (s.setFld addr inst hi lo v).boot = s.boot := rfl
@[simp] theorem State.setBit_variant (s : State) (addr inst b : Nat) : (s.setBit addr inst b).variant = s.variant := rfl
@[simp] theorem State.setBit_pending (s : State) (addr inst b : Nat) : (s.setBit addr inst b).pending = s.pending := rfl
@[simp] theorem State.setBit_freeCtr (s : State) (addr inst b : Nat) : (s.setBit addr inst b).freeCtr = s.freeCtr := rfl
@[simp] theorem State.setBit_out (s : State) (addr inst b : Nat) : (s.setBit addr inst b).out = s.out := rfl
@[simp] theorem State.setBit_live (s : State) (addr inst b : Nat) : (s.setBit addr inst b).live = s.live := rfl
@[simp] theorem State.setBit_ctxs (s : State) (addr inst b : Nat) : (s.setBit addr inst b).ctxs = s.ctxs := rfl
@[simp] theorem State.setBit_time (s : State) (addr inst b : Nat) : (s.setBit addr inst b).time = s.time := rfl
@[simp] theorem State.setBit_dists (s : State) (addr inst b : Nat) : (s.setBit addr inst b).dists = s.dists := rfl
@[simp] theorem State.setBit_spindles (s : State) (addr inst b : Nat) : (s.setBit addr inst b).spindles = s.spindles := rfl
@[simp] theorem State.setBit_tiles (s : State) (addr inst b : Nat) : (s.setBit addr inst b).tiles = s.tiles := rfl
@[simp] theorem State.setBit_slices (s : State) (addr inst b : Nat) : (s.setBit addr inst b).slices = s.slices := rfl
@[simp] theorem State.setBit_stackMem (s : State) (addr inst b : Nat) : (s.setBit addr inst b).stackMem = s.stackMem := rfl
@[simp] theorem State.setBit_warps (s : State) (addr inst b : Nat) : (s.setBit addr inst b).warps = s.warps := rfl
@[simp] theorem State.setBit_wefts (s : State) (addr inst b : Nat) : (s.setBit addr inst b).wefts = s.wefts := rfl
@[simp] theorem State.setBit_adapters (s : State) (addr inst b : Nat) : (s.setBit addr inst b).adapters = s.adapters := rfl
@[simp] theorem State.setBit_parts (s : State) (addr inst b : Nat) : (s.setBit addr inst b).parts = s.parts := rfl
@[simp] theorem State.setBit_integ (s : State) (addr inst b : Nat) : (s.setBit addr inst b).integ = s.integ := rfl
@[simp] theorem State.setBit_events (s : State) (addr inst b : Nat) : (s.setBit addr inst b).events = s.events := rfl
@[simp] theorem State.setBit_svcDue (s : State) (addr inst b : Nat) : (s.setBit addr inst b).svcDue = s.svcDue := rfl
@[simp] theorem State.setBit_lanes (s : State) (addr inst b : Nat) : (s.setBit addr inst b).lanes = s.lanes := rfl
@[simp] theorem State.setBit_shares (s : State) (addr inst b : Nat) : (s.setBit addr inst b).shares = s.shares := rfl
@[simp] theorem State.setBit_flits (s : State) (addr inst b : Nat) : (s.setBit addr inst b).flits = s.flits := rfl
@[simp] theorem State.setBit_serve (s : State) (addr inst b : Nat) : (s.setBit addr inst b).serve = s.serve := rfl
@[simp] theorem State.setBit_net (s : State) (addr inst b : Nat) : (s.setBit addr inst b).net = s.net := rfl
@[simp] theorem State.setBit_wgt (s : State) (addr inst b : Nat) : (s.setBit addr inst b).wgt = s.wgt := rfl
@[simp] theorem State.setBit_cal (s : State) (addr inst b : Nat) : (s.setBit addr inst b).cal = s.cal := rfl
@[simp] theorem State.setBit_power (s : State) (addr inst b : Nat) : (s.setBit addr inst b).power = s.power := rfl
@[simp] theorem State.setBit_qps (s : State) (addr inst b : Nat) : (s.setBit addr inst b).qps = s.qps := rfl
@[simp] theorem State.setBit_boot (s : State) (addr inst b : Nat) : (s.setBit addr inst b).boot = s.boot := rfl
@[simp] theorem State.clrBit_variant (s : State) (addr inst b : Nat) : (s.clrBit addr inst b).variant = s.variant := rfl
@[simp] theorem State.clrBit_pending (s : State) (addr inst b : Nat) : (s.clrBit addr inst b).pending = s.pending := rfl
@[simp] theorem State.clrBit_freeCtr (s : State) (addr inst b : Nat) : (s.clrBit addr inst b).freeCtr = s.freeCtr := rfl
@[simp] theorem State.clrBit_out (s : State) (addr inst b : Nat) : (s.clrBit addr inst b).out = s.out := rfl
@[simp] theorem State.clrBit_live (s : State) (addr inst b : Nat) : (s.clrBit addr inst b).live = s.live := rfl
@[simp] theorem State.clrBit_ctxs (s : State) (addr inst b : Nat) : (s.clrBit addr inst b).ctxs = s.ctxs := rfl
@[simp] theorem State.clrBit_time (s : State) (addr inst b : Nat) : (s.clrBit addr inst b).time = s.time := rfl
@[simp] theorem State.clrBit_dists (s : State) (addr inst b : Nat) : (s.clrBit addr inst b).dists = s.dists := rfl
@[simp] theorem State.clrBit_spindles (s : State) (addr inst b : Nat) : (s.clrBit addr inst b).spindles = s.spindles := rfl
@[simp] theorem State.clrBit_tiles (s : State) (addr inst b : Nat) : (s.clrBit addr inst b).tiles = s.tiles := rfl
@[simp] theorem State.clrBit_slices (s : State) (addr inst b : Nat) : (s.clrBit addr inst b).slices = s.slices := rfl
@[simp] theorem State.clrBit_stackMem (s : State) (addr inst b : Nat) : (s.clrBit addr inst b).stackMem = s.stackMem := rfl
@[simp] theorem State.clrBit_warps (s : State) (addr inst b : Nat) : (s.clrBit addr inst b).warps = s.warps := rfl
@[simp] theorem State.clrBit_wefts (s : State) (addr inst b : Nat) : (s.clrBit addr inst b).wefts = s.wefts := rfl
@[simp] theorem State.clrBit_adapters (s : State) (addr inst b : Nat) : (s.clrBit addr inst b).adapters = s.adapters := rfl
@[simp] theorem State.clrBit_parts (s : State) (addr inst b : Nat) : (s.clrBit addr inst b).parts = s.parts := rfl
@[simp] theorem State.clrBit_integ (s : State) (addr inst b : Nat) : (s.clrBit addr inst b).integ = s.integ := rfl
@[simp] theorem State.clrBit_events (s : State) (addr inst b : Nat) : (s.clrBit addr inst b).events = s.events := rfl
@[simp] theorem State.clrBit_svcDue (s : State) (addr inst b : Nat) : (s.clrBit addr inst b).svcDue = s.svcDue := rfl
@[simp] theorem State.clrBit_lanes (s : State) (addr inst b : Nat) : (s.clrBit addr inst b).lanes = s.lanes := rfl
@[simp] theorem State.clrBit_shares (s : State) (addr inst b : Nat) : (s.clrBit addr inst b).shares = s.shares := rfl
@[simp] theorem State.clrBit_flits (s : State) (addr inst b : Nat) : (s.clrBit addr inst b).flits = s.flits := rfl
@[simp] theorem State.clrBit_serve (s : State) (addr inst b : Nat) : (s.clrBit addr inst b).serve = s.serve := rfl
@[simp] theorem State.clrBit_net (s : State) (addr inst b : Nat) : (s.clrBit addr inst b).net = s.net := rfl
@[simp] theorem State.clrBit_wgt (s : State) (addr inst b : Nat) : (s.clrBit addr inst b).wgt = s.wgt := rfl
@[simp] theorem State.clrBit_cal (s : State) (addr inst b : Nat) : (s.clrBit addr inst b).cal = s.cal := rfl
@[simp] theorem State.clrBit_power (s : State) (addr inst b : Nat) : (s.clrBit addr inst b).power = s.power := rfl
@[simp] theorem State.clrBit_qps (s : State) (addr inst b : Nat) : (s.clrBit addr inst b).qps = s.qps := rfl
@[simp] theorem State.clrBit_boot (s : State) (addr inst b : Nat) : (s.clrBit addr inst b).boot = s.boot := rfl
@[simp] theorem State.bump_variant (s : State) (addr inst n : Nat) : (s.bump addr inst n).variant = s.variant := rfl
@[simp] theorem State.bump_pending (s : State) (addr inst n : Nat) : (s.bump addr inst n).pending = s.pending := rfl
@[simp] theorem State.bump_freeCtr (s : State) (addr inst n : Nat) : (s.bump addr inst n).freeCtr = s.freeCtr := rfl
@[simp] theorem State.bump_out (s : State) (addr inst n : Nat) : (s.bump addr inst n).out = s.out := rfl
@[simp] theorem State.bump_live (s : State) (addr inst n : Nat) : (s.bump addr inst n).live = s.live := rfl
@[simp] theorem State.bump_ctxs (s : State) (addr inst n : Nat) : (s.bump addr inst n).ctxs = s.ctxs := rfl
@[simp] theorem State.bump_time (s : State) (addr inst n : Nat) : (s.bump addr inst n).time = s.time := rfl
@[simp] theorem State.bump_dists (s : State) (addr inst n : Nat) : (s.bump addr inst n).dists = s.dists := rfl
@[simp] theorem State.bump_spindles (s : State) (addr inst n : Nat) : (s.bump addr inst n).spindles = s.spindles := rfl
@[simp] theorem State.bump_tiles (s : State) (addr inst n : Nat) : (s.bump addr inst n).tiles = s.tiles := rfl
@[simp] theorem State.bump_slices (s : State) (addr inst n : Nat) : (s.bump addr inst n).slices = s.slices := rfl
@[simp] theorem State.bump_stackMem (s : State) (addr inst n : Nat) : (s.bump addr inst n).stackMem = s.stackMem := rfl
@[simp] theorem State.bump_warps (s : State) (addr inst n : Nat) : (s.bump addr inst n).warps = s.warps := rfl
@[simp] theorem State.bump_wefts (s : State) (addr inst n : Nat) : (s.bump addr inst n).wefts = s.wefts := rfl
@[simp] theorem State.bump_adapters (s : State) (addr inst n : Nat) : (s.bump addr inst n).adapters = s.adapters := rfl
@[simp] theorem State.bump_parts (s : State) (addr inst n : Nat) : (s.bump addr inst n).parts = s.parts := rfl
@[simp] theorem State.bump_integ (s : State) (addr inst n : Nat) : (s.bump addr inst n).integ = s.integ := rfl
@[simp] theorem State.bump_events (s : State) (addr inst n : Nat) : (s.bump addr inst n).events = s.events := rfl
@[simp] theorem State.bump_svcDue (s : State) (addr inst n : Nat) : (s.bump addr inst n).svcDue = s.svcDue := rfl
@[simp] theorem State.bump_lanes (s : State) (addr inst n : Nat) : (s.bump addr inst n).lanes = s.lanes := rfl
@[simp] theorem State.bump_shares (s : State) (addr inst n : Nat) : (s.bump addr inst n).shares = s.shares := rfl
@[simp] theorem State.bump_flits (s : State) (addr inst n : Nat) : (s.bump addr inst n).flits = s.flits := rfl
@[simp] theorem State.bump_serve (s : State) (addr inst n : Nat) : (s.bump addr inst n).serve = s.serve := rfl
@[simp] theorem State.bump_net (s : State) (addr inst n : Nat) : (s.bump addr inst n).net = s.net := rfl
@[simp] theorem State.bump_wgt (s : State) (addr inst n : Nat) : (s.bump addr inst n).wgt = s.wgt := rfl
@[simp] theorem State.bump_cal (s : State) (addr inst n : Nat) : (s.bump addr inst n).cal = s.cal := rfl
@[simp] theorem State.bump_power (s : State) (addr inst n : Nat) : (s.bump addr inst n).power = s.power := rfl
@[simp] theorem State.bump_qps (s : State) (addr inst n : Nat) : (s.bump addr inst n).qps = s.qps := rfl
@[simp] theorem State.bump_boot (s : State) (addr inst n : Nat) : (s.bump addr inst n).boot = s.boot := rfl
@[simp] theorem State.bumpSat_variant (s : State) (addr inst hi lo n : Nat) : (s.bumpSat addr inst hi lo n).variant = s.variant := rfl
@[simp] theorem State.bumpSat_pending (s : State) (addr inst hi lo n : Nat) : (s.bumpSat addr inst hi lo n).pending = s.pending := rfl
@[simp] theorem State.bumpSat_freeCtr (s : State) (addr inst hi lo n : Nat) : (s.bumpSat addr inst hi lo n).freeCtr = s.freeCtr := rfl
@[simp] theorem State.bumpSat_out (s : State) (addr inst hi lo n : Nat) : (s.bumpSat addr inst hi lo n).out = s.out := rfl
@[simp] theorem State.bumpSat_live (s : State) (addr inst hi lo n : Nat) : (s.bumpSat addr inst hi lo n).live = s.live := rfl
@[simp] theorem State.bumpSat_ctxs (s : State) (addr inst hi lo n : Nat) : (s.bumpSat addr inst hi lo n).ctxs = s.ctxs := rfl
@[simp] theorem State.bumpSat_time (s : State) (addr inst hi lo n : Nat) : (s.bumpSat addr inst hi lo n).time = s.time := rfl
@[simp] theorem State.bumpSat_dists (s : State) (addr inst hi lo n : Nat) : (s.bumpSat addr inst hi lo n).dists = s.dists := rfl
@[simp] theorem State.bumpSat_spindles (s : State) (addr inst hi lo n : Nat) : (s.bumpSat addr inst hi lo n).spindles = s.spindles := rfl
@[simp] theorem State.bumpSat_tiles (s : State) (addr inst hi lo n : Nat) : (s.bumpSat addr inst hi lo n).tiles = s.tiles := rfl
@[simp] theorem State.bumpSat_slices (s : State) (addr inst hi lo n : Nat) : (s.bumpSat addr inst hi lo n).slices = s.slices := rfl
@[simp] theorem State.bumpSat_stackMem (s : State) (addr inst hi lo n : Nat) : (s.bumpSat addr inst hi lo n).stackMem = s.stackMem := rfl
@[simp] theorem State.bumpSat_warps (s : State) (addr inst hi lo n : Nat) : (s.bumpSat addr inst hi lo n).warps = s.warps := rfl
@[simp] theorem State.bumpSat_wefts (s : State) (addr inst hi lo n : Nat) : (s.bumpSat addr inst hi lo n).wefts = s.wefts := rfl
@[simp] theorem State.bumpSat_adapters (s : State) (addr inst hi lo n : Nat) : (s.bumpSat addr inst hi lo n).adapters = s.adapters := rfl
@[simp] theorem State.bumpSat_parts (s : State) (addr inst hi lo n : Nat) : (s.bumpSat addr inst hi lo n).parts = s.parts := rfl
@[simp] theorem State.bumpSat_integ (s : State) (addr inst hi lo n : Nat) : (s.bumpSat addr inst hi lo n).integ = s.integ := rfl
@[simp] theorem State.bumpSat_events (s : State) (addr inst hi lo n : Nat) : (s.bumpSat addr inst hi lo n).events = s.events := rfl
@[simp] theorem State.bumpSat_svcDue (s : State) (addr inst hi lo n : Nat) : (s.bumpSat addr inst hi lo n).svcDue = s.svcDue := rfl
@[simp] theorem State.bumpSat_lanes (s : State) (addr inst hi lo n : Nat) : (s.bumpSat addr inst hi lo n).lanes = s.lanes := rfl
@[simp] theorem State.bumpSat_shares (s : State) (addr inst hi lo n : Nat) : (s.bumpSat addr inst hi lo n).shares = s.shares := rfl
@[simp] theorem State.bumpSat_flits (s : State) (addr inst hi lo n : Nat) : (s.bumpSat addr inst hi lo n).flits = s.flits := rfl
@[simp] theorem State.bumpSat_serve (s : State) (addr inst hi lo n : Nat) : (s.bumpSat addr inst hi lo n).serve = s.serve := rfl
@[simp] theorem State.bumpSat_net (s : State) (addr inst hi lo n : Nat) : (s.bumpSat addr inst hi lo n).net = s.net := rfl
@[simp] theorem State.bumpSat_wgt (s : State) (addr inst hi lo n : Nat) : (s.bumpSat addr inst hi lo n).wgt = s.wgt := rfl
@[simp] theorem State.bumpSat_cal (s : State) (addr inst hi lo n : Nat) : (s.bumpSat addr inst hi lo n).cal = s.cal := rfl
@[simp] theorem State.bumpSat_power (s : State) (addr inst hi lo n : Nat) : (s.bumpSat addr inst hi lo n).power = s.power := rfl
@[simp] theorem State.bumpSat_qps (s : State) (addr inst hi lo n : Nat) : (s.bumpSat addr inst hi lo n).qps = s.qps := rfl
@[simp] theorem State.bumpSat_boot (s : State) (addr inst hi lo n : Nat) : (s.bumpSat addr inst hi lo n).boot = s.boot := rfl
@[simp] theorem State.setReg64_variant (s : State) (addr inst v : Nat) : (s.setReg64 addr inst v).variant = s.variant := rfl
@[simp] theorem State.setReg64_pending (s : State) (addr inst v : Nat) : (s.setReg64 addr inst v).pending = s.pending := rfl
@[simp] theorem State.setReg64_freeCtr (s : State) (addr inst v : Nat) : (s.setReg64 addr inst v).freeCtr = s.freeCtr := rfl
@[simp] theorem State.setReg64_out (s : State) (addr inst v : Nat) : (s.setReg64 addr inst v).out = s.out := rfl
@[simp] theorem State.setReg64_live (s : State) (addr inst v : Nat) : (s.setReg64 addr inst v).live = s.live := rfl
@[simp] theorem State.setReg64_ctxs (s : State) (addr inst v : Nat) : (s.setReg64 addr inst v).ctxs = s.ctxs := rfl
@[simp] theorem State.setReg64_time (s : State) (addr inst v : Nat) : (s.setReg64 addr inst v).time = s.time := rfl
@[simp] theorem State.setReg64_dists (s : State) (addr inst v : Nat) : (s.setReg64 addr inst v).dists = s.dists := rfl
@[simp] theorem State.setReg64_spindles (s : State) (addr inst v : Nat) : (s.setReg64 addr inst v).spindles = s.spindles := rfl
@[simp] theorem State.setReg64_tiles (s : State) (addr inst v : Nat) : (s.setReg64 addr inst v).tiles = s.tiles := rfl
@[simp] theorem State.setReg64_slices (s : State) (addr inst v : Nat) : (s.setReg64 addr inst v).slices = s.slices := rfl
@[simp] theorem State.setReg64_stacks (s : State) (addr inst v : Nat) : (s.setReg64 addr inst v).stackMem = s.stackMem := rfl
@[simp] theorem State.setReg64_warps (s : State) (addr inst v : Nat) : (s.setReg64 addr inst v).warps = s.warps := rfl
@[simp] theorem State.setReg64_wefts (s : State) (addr inst v : Nat) : (s.setReg64 addr inst v).wefts = s.wefts := rfl
@[simp] theorem State.setReg64_adapters (s : State) (addr inst v : Nat) : (s.setReg64 addr inst v).adapters = s.adapters := rfl
@[simp] theorem State.setReg64_parts (s : State) (addr inst v : Nat) : (s.setReg64 addr inst v).parts = s.parts := rfl
@[simp] theorem State.setReg64_integ (s : State) (addr inst v : Nat) : (s.setReg64 addr inst v).integ = s.integ := rfl
@[simp] theorem State.setReg64_events (s : State) (addr inst v : Nat) : (s.setReg64 addr inst v).events = s.events := rfl
@[simp] theorem State.setReg64_svcDue (s : State) (addr inst v : Nat) : (s.setReg64 addr inst v).svcDue = s.svcDue := rfl
@[simp] theorem State.setReg64_lanes (s : State) (addr inst v : Nat) : (s.setReg64 addr inst v).lanes = s.lanes := rfl
@[simp] theorem State.setReg64_shares (s : State) (addr inst v : Nat) : (s.setReg64 addr inst v).shares = s.shares := rfl
@[simp] theorem State.setReg64_flits (s : State) (addr inst v : Nat) : (s.setReg64 addr inst v).flits = s.flits := rfl
@[simp] theorem State.setReg64_serve (s : State) (addr inst v : Nat) : (s.setReg64 addr inst v).serve = s.serve := rfl
@[simp] theorem State.setReg64_net (s : State) (addr inst v : Nat) : (s.setReg64 addr inst v).net = s.net := rfl
@[simp] theorem State.setReg64_wgt (s : State) (addr inst v : Nat) : (s.setReg64 addr inst v).wgt = s.wgt := rfl
@[simp] theorem State.setReg64_cal (s : State) (addr inst v : Nat) : (s.setReg64 addr inst v).cal = s.cal := rfl
@[simp] theorem State.setReg64_power (s : State) (addr inst v : Nat) : (s.setReg64 addr inst v).power = s.power := rfl
@[simp] theorem State.setReg64_qps (s : State) (addr inst v : Nat) : (s.setReg64 addr inst v).qps = s.qps := rfl
@[simp] theorem State.setReg64_boot (s : State) (addr inst v : Nat) : (s.setReg64 addr inst v).boot = s.boot := rfl
@[simp] theorem State.applyLive_variant (s : State) (dom addr : Nat) : (s.applyLive dom addr).variant = s.variant := rfl
@[simp] theorem State.applyLive_pending (s : State) (dom addr : Nat) : (s.applyLive dom addr).pending = s.pending := rfl
@[simp] theorem State.applyLive_freeCtr (s : State) (dom addr : Nat) : (s.applyLive dom addr).freeCtr = s.freeCtr := rfl
@[simp] theorem State.applyLive_out (s : State) (dom addr : Nat) : (s.applyLive dom addr).out = s.out := rfl
@[simp] theorem State.applyLive_regs (s : State) (dom addr : Nat) : (s.applyLive dom addr).regs = s.regs := rfl
@[simp] theorem State.applyLive_ctxs (s : State) (dom addr : Nat) : (s.applyLive dom addr).ctxs = s.ctxs := rfl
@[simp] theorem State.applyLive_time (s : State) (dom addr : Nat) : (s.applyLive dom addr).time = s.time := rfl
@[simp] theorem State.applyLive_dists (s : State) (dom addr : Nat) : (s.applyLive dom addr).dists = s.dists := rfl
@[simp] theorem State.applyLive_spindles (s : State) (dom addr : Nat) : (s.applyLive dom addr).spindles = s.spindles := rfl
@[simp] theorem State.applyLive_tiles (s : State) (dom addr : Nat) : (s.applyLive dom addr).tiles = s.tiles := rfl
@[simp] theorem State.applyLive_slices (s : State) (dom addr : Nat) : (s.applyLive dom addr).slices = s.slices := rfl
@[simp] theorem State.applyLive_stackMem (s : State) (dom addr : Nat) : (s.applyLive dom addr).stackMem = s.stackMem := rfl
@[simp] theorem State.applyLive_warps (s : State) (dom addr : Nat) : (s.applyLive dom addr).warps = s.warps := rfl
@[simp] theorem State.applyLive_wefts (s : State) (dom addr : Nat) : (s.applyLive dom addr).wefts = s.wefts := rfl
@[simp] theorem State.applyLive_adapters (s : State) (dom addr : Nat) : (s.applyLive dom addr).adapters = s.adapters := rfl
@[simp] theorem State.applyLive_parts (s : State) (dom addr : Nat) : (s.applyLive dom addr).parts = s.parts := rfl
@[simp] theorem State.applyLive_integ (s : State) (dom addr : Nat) : (s.applyLive dom addr).integ = s.integ := rfl
@[simp] theorem State.applyLive_events (s : State) (dom addr : Nat) : (s.applyLive dom addr).events = s.events := rfl
@[simp] theorem State.applyLive_svcDue (s : State) (dom addr : Nat) : (s.applyLive dom addr).svcDue = s.svcDue := rfl
@[simp] theorem State.applyLive_lanes (s : State) (dom addr : Nat) : (s.applyLive dom addr).lanes = s.lanes := rfl
@[simp] theorem State.applyLive_shares (s : State) (dom addr : Nat) : (s.applyLive dom addr).shares = s.shares := rfl
@[simp] theorem State.applyLive_flits (s : State) (dom addr : Nat) : (s.applyLive dom addr).flits = s.flits := rfl
@[simp] theorem State.applyLive_serve (s : State) (dom addr : Nat) : (s.applyLive dom addr).serve = s.serve := rfl
@[simp] theorem State.applyLive_net (s : State) (dom addr : Nat) : (s.applyLive dom addr).net = s.net := rfl
@[simp] theorem State.applyLive_wgt (s : State) (dom addr : Nat) : (s.applyLive dom addr).wgt = s.wgt := rfl
@[simp] theorem State.applyLive_cal (s : State) (dom addr : Nat) : (s.applyLive dom addr).cal = s.cal := rfl
@[simp] theorem State.applyLive_power (s : State) (dom addr : Nat) : (s.applyLive dom addr).power = s.power := rfl
@[simp] theorem State.applyLive_qps (s : State) (dom addr : Nat) : (s.applyLive dom addr).qps = s.qps := rfl
@[simp] theorem State.applyLive_boot (s : State) (dom addr : Nat) : (s.applyLive dom addr).boot = s.boot := rfl
@[simp] theorem State.modCtx_variant (s : State) (c : Nat) (f : Ctx → Ctx) : (s.modCtx c f).variant = s.variant := rfl
@[simp] theorem State.modCtx_pending (s : State) (c : Nat) (f : Ctx → Ctx) : (s.modCtx c f).pending = s.pending := rfl
@[simp] theorem State.modCtx_freeCtr (s : State) (c : Nat) (f : Ctx → Ctx) : (s.modCtx c f).freeCtr = s.freeCtr := rfl
@[simp] theorem State.modCtx_out (s : State) (c : Nat) (f : Ctx → Ctx) : (s.modCtx c f).out = s.out := rfl
@[simp] theorem State.modCtx_regs (s : State) (c : Nat) (f : Ctx → Ctx) : (s.modCtx c f).regs = s.regs := rfl
@[simp] theorem State.modCtx_live (s : State) (c : Nat) (f : Ctx → Ctx) : (s.modCtx c f).live = s.live := rfl
@[simp] theorem State.modCtx_time (s : State) (c : Nat) (f : Ctx → Ctx) : (s.modCtx c f).time = s.time := rfl
@[simp] theorem State.modCtx_dists (s : State) (c : Nat) (f : Ctx → Ctx) : (s.modCtx c f).dists = s.dists := rfl
@[simp] theorem State.modCtx_spindles (s : State) (c : Nat) (f : Ctx → Ctx) : (s.modCtx c f).spindles = s.spindles := rfl
@[simp] theorem State.modCtx_tiles (s : State) (c : Nat) (f : Ctx → Ctx) : (s.modCtx c f).tiles = s.tiles := rfl
@[simp] theorem State.modCtx_slices (s : State) (c : Nat) (f : Ctx → Ctx) : (s.modCtx c f).slices = s.slices := rfl
@[simp] theorem State.modCtx_stackMem (s : State) (c : Nat) (f : Ctx → Ctx) : (s.modCtx c f).stackMem = s.stackMem := rfl
@[simp] theorem State.modCtx_warps (s : State) (c : Nat) (f : Ctx → Ctx) : (s.modCtx c f).warps = s.warps := rfl
@[simp] theorem State.modCtx_wefts (s : State) (c : Nat) (f : Ctx → Ctx) : (s.modCtx c f).wefts = s.wefts := rfl
@[simp] theorem State.modCtx_adapters (s : State) (c : Nat) (f : Ctx → Ctx) : (s.modCtx c f).adapters = s.adapters := rfl
@[simp] theorem State.modCtx_parts (s : State) (c : Nat) (f : Ctx → Ctx) : (s.modCtx c f).parts = s.parts := rfl
@[simp] theorem State.modCtx_integ (s : State) (c : Nat) (f : Ctx → Ctx) : (s.modCtx c f).integ = s.integ := rfl
@[simp] theorem State.modCtx_events (s : State) (c : Nat) (f : Ctx → Ctx) : (s.modCtx c f).events = s.events := rfl
@[simp] theorem State.modCtx_svcDue (s : State) (c : Nat) (f : Ctx → Ctx) : (s.modCtx c f).svcDue = s.svcDue := rfl
@[simp] theorem State.modCtx_lanes (s : State) (c : Nat) (f : Ctx → Ctx) : (s.modCtx c f).lanes = s.lanes := rfl
@[simp] theorem State.modCtx_shares (s : State) (c : Nat) (f : Ctx → Ctx) : (s.modCtx c f).shares = s.shares := rfl
@[simp] theorem State.modCtx_flits (s : State) (c : Nat) (f : Ctx → Ctx) : (s.modCtx c f).flits = s.flits := rfl
@[simp] theorem State.modCtx_serve (s : State) (c : Nat) (f : Ctx → Ctx) : (s.modCtx c f).serve = s.serve := rfl
@[simp] theorem State.modCtx_net (s : State) (c : Nat) (f : Ctx → Ctx) : (s.modCtx c f).net = s.net := rfl
@[simp] theorem State.modCtx_wgt (s : State) (c : Nat) (f : Ctx → Ctx) : (s.modCtx c f).wgt = s.wgt := rfl
@[simp] theorem State.modCtx_cal (s : State) (c : Nat) (f : Ctx → Ctx) : (s.modCtx c f).cal = s.cal := rfl
@[simp] theorem State.modCtx_power (s : State) (c : Nat) (f : Ctx → Ctx) : (s.modCtx c f).power = s.power := rfl
@[simp] theorem State.modCtx_qps (s : State) (c : Nat) (f : Ctx → Ctx) : (s.modCtx c f).qps = s.qps := rfl
@[simp] theorem State.modCtx_boot (s : State) (c : Nat) (f : Ctx → Ctx) : (s.modCtx c f).boot = s.boot := rfl
@[simp] theorem State.modDist_variant (s : State) (d : Nat) (f : DistSt → DistSt) : (s.modDist d f).variant = s.variant := rfl
@[simp] theorem State.modDist_pending (s : State) (d : Nat) (f : DistSt → DistSt) : (s.modDist d f).pending = s.pending := rfl
@[simp] theorem State.modDist_freeCtr (s : State) (d : Nat) (f : DistSt → DistSt) : (s.modDist d f).freeCtr = s.freeCtr := rfl
@[simp] theorem State.modDist_out (s : State) (d : Nat) (f : DistSt → DistSt) : (s.modDist d f).out = s.out := rfl
@[simp] theorem State.modDist_regs (s : State) (d : Nat) (f : DistSt → DistSt) : (s.modDist d f).regs = s.regs := rfl
@[simp] theorem State.modDist_live (s : State) (d : Nat) (f : DistSt → DistSt) : (s.modDist d f).live = s.live := rfl
@[simp] theorem State.modDist_ctxs (s : State) (d : Nat) (f : DistSt → DistSt) : (s.modDist d f).ctxs = s.ctxs := rfl
@[simp] theorem State.modDist_time (s : State) (d : Nat) (f : DistSt → DistSt) : (s.modDist d f).time = s.time := rfl
@[simp] theorem State.modDist_spindles (s : State) (d : Nat) (f : DistSt → DistSt) : (s.modDist d f).spindles = s.spindles := rfl
@[simp] theorem State.modDist_tiles (s : State) (d : Nat) (f : DistSt → DistSt) : (s.modDist d f).tiles = s.tiles := rfl
@[simp] theorem State.modDist_slices (s : State) (d : Nat) (f : DistSt → DistSt) : (s.modDist d f).slices = s.slices := rfl
@[simp] theorem State.modDist_stackMem (s : State) (d : Nat) (f : DistSt → DistSt) : (s.modDist d f).stackMem = s.stackMem := rfl
@[simp] theorem State.modDist_warps (s : State) (d : Nat) (f : DistSt → DistSt) : (s.modDist d f).warps = s.warps := rfl
@[simp] theorem State.modDist_wefts (s : State) (d : Nat) (f : DistSt → DistSt) : (s.modDist d f).wefts = s.wefts := rfl
@[simp] theorem State.modDist_adapters (s : State) (d : Nat) (f : DistSt → DistSt) : (s.modDist d f).adapters = s.adapters := rfl
@[simp] theorem State.modDist_parts (s : State) (d : Nat) (f : DistSt → DistSt) : (s.modDist d f).parts = s.parts := rfl
@[simp] theorem State.modDist_integ (s : State) (d : Nat) (f : DistSt → DistSt) : (s.modDist d f).integ = s.integ := rfl
@[simp] theorem State.modDist_events (s : State) (d : Nat) (f : DistSt → DistSt) : (s.modDist d f).events = s.events := rfl
@[simp] theorem State.modDist_svcDue (s : State) (d : Nat) (f : DistSt → DistSt) : (s.modDist d f).svcDue = s.svcDue := rfl
@[simp] theorem State.modDist_lanes (s : State) (d : Nat) (f : DistSt → DistSt) : (s.modDist d f).lanes = s.lanes := rfl
@[simp] theorem State.modDist_shares (s : State) (d : Nat) (f : DistSt → DistSt) : (s.modDist d f).shares = s.shares := rfl
@[simp] theorem State.modDist_flits (s : State) (d : Nat) (f : DistSt → DistSt) : (s.modDist d f).flits = s.flits := rfl
@[simp] theorem State.modDist_serve (s : State) (d : Nat) (f : DistSt → DistSt) : (s.modDist d f).serve = s.serve := rfl
@[simp] theorem State.modDist_net (s : State) (d : Nat) (f : DistSt → DistSt) : (s.modDist d f).net = s.net := rfl
@[simp] theorem State.modDist_wgt (s : State) (d : Nat) (f : DistSt → DistSt) : (s.modDist d f).wgt = s.wgt := rfl
@[simp] theorem State.modDist_cal (s : State) (d : Nat) (f : DistSt → DistSt) : (s.modDist d f).cal = s.cal := rfl
@[simp] theorem State.modDist_power (s : State) (d : Nat) (f : DistSt → DistSt) : (s.modDist d f).power = s.power := rfl
@[simp] theorem State.modDist_qps (s : State) (d : Nat) (f : DistSt → DistSt) : (s.modDist d f).qps = s.qps := rfl
@[simp] theorem State.modDist_boot (s : State) (d : Nat) (f : DistSt → DistSt) : (s.modDist d f).boot = s.boot := rfl
@[simp] theorem State.modSpin_variant (s : State) (t : Nat) (f : Spindle → Spindle) : (s.modSpin t f).variant = s.variant := rfl
@[simp] theorem State.modSpin_pending (s : State) (t : Nat) (f : Spindle → Spindle) : (s.modSpin t f).pending = s.pending := rfl
@[simp] theorem State.modSpin_freeCtr (s : State) (t : Nat) (f : Spindle → Spindle) : (s.modSpin t f).freeCtr = s.freeCtr := rfl
@[simp] theorem State.modSpin_out (s : State) (t : Nat) (f : Spindle → Spindle) : (s.modSpin t f).out = s.out := rfl
@[simp] theorem State.modSpin_regs (s : State) (t : Nat) (f : Spindle → Spindle) : (s.modSpin t f).regs = s.regs := rfl
@[simp] theorem State.modSpin_live (s : State) (t : Nat) (f : Spindle → Spindle) : (s.modSpin t f).live = s.live := rfl
@[simp] theorem State.modSpin_ctxs (s : State) (t : Nat) (f : Spindle → Spindle) : (s.modSpin t f).ctxs = s.ctxs := rfl
@[simp] theorem State.modSpin_time (s : State) (t : Nat) (f : Spindle → Spindle) : (s.modSpin t f).time = s.time := rfl
@[simp] theorem State.modSpin_dists (s : State) (t : Nat) (f : Spindle → Spindle) : (s.modSpin t f).dists = s.dists := rfl
@[simp] theorem State.modSpin_tiles (s : State) (t : Nat) (f : Spindle → Spindle) : (s.modSpin t f).tiles = s.tiles := rfl
@[simp] theorem State.modSpin_slices (s : State) (t : Nat) (f : Spindle → Spindle) : (s.modSpin t f).slices = s.slices := rfl
@[simp] theorem State.modSpin_stackMem (s : State) (t : Nat) (f : Spindle → Spindle) : (s.modSpin t f).stackMem = s.stackMem := rfl
@[simp] theorem State.modSpin_warps (s : State) (t : Nat) (f : Spindle → Spindle) : (s.modSpin t f).warps = s.warps := rfl
@[simp] theorem State.modSpin_wefts (s : State) (t : Nat) (f : Spindle → Spindle) : (s.modSpin t f).wefts = s.wefts := rfl
@[simp] theorem State.modSpin_adapters (s : State) (t : Nat) (f : Spindle → Spindle) : (s.modSpin t f).adapters = s.adapters := rfl
@[simp] theorem State.modSpin_parts (s : State) (t : Nat) (f : Spindle → Spindle) : (s.modSpin t f).parts = s.parts := rfl
@[simp] theorem State.modSpin_integ (s : State) (t : Nat) (f : Spindle → Spindle) : (s.modSpin t f).integ = s.integ := rfl
@[simp] theorem State.modSpin_events (s : State) (t : Nat) (f : Spindle → Spindle) : (s.modSpin t f).events = s.events := rfl
@[simp] theorem State.modSpin_svcDue (s : State) (t : Nat) (f : Spindle → Spindle) : (s.modSpin t f).svcDue = s.svcDue := rfl
@[simp] theorem State.modSpin_lanes (s : State) (t : Nat) (f : Spindle → Spindle) : (s.modSpin t f).lanes = s.lanes := rfl
@[simp] theorem State.modSpin_shares (s : State) (t : Nat) (f : Spindle → Spindle) : (s.modSpin t f).shares = s.shares := rfl
@[simp] theorem State.modSpin_flits (s : State) (t : Nat) (f : Spindle → Spindle) : (s.modSpin t f).flits = s.flits := rfl
@[simp] theorem State.modSpin_serve (s : State) (t : Nat) (f : Spindle → Spindle) : (s.modSpin t f).serve = s.serve := rfl
@[simp] theorem State.modSpin_net (s : State) (t : Nat) (f : Spindle → Spindle) : (s.modSpin t f).net = s.net := rfl
@[simp] theorem State.modSpin_wgt (s : State) (t : Nat) (f : Spindle → Spindle) : (s.modSpin t f).wgt = s.wgt := rfl
@[simp] theorem State.modSpin_cal (s : State) (t : Nat) (f : Spindle → Spindle) : (s.modSpin t f).cal = s.cal := rfl
@[simp] theorem State.modSpin_power (s : State) (t : Nat) (f : Spindle → Spindle) : (s.modSpin t f).power = s.power := rfl
@[simp] theorem State.modSpin_qps (s : State) (t : Nat) (f : Spindle → Spindle) : (s.modSpin t f).qps = s.qps := rfl
@[simp] theorem State.modSpin_boot (s : State) (t : Nat) (f : Spindle → Spindle) : (s.modSpin t f).boot = s.boot := rfl
@[simp] theorem State.modTile_variant (s : State) (p : Nat) (f : PhysTile → PhysTile) : (s.modTile p f).variant = s.variant := rfl
@[simp] theorem State.modTile_pending (s : State) (p : Nat) (f : PhysTile → PhysTile) : (s.modTile p f).pending = s.pending := rfl
@[simp] theorem State.modTile_freeCtr (s : State) (p : Nat) (f : PhysTile → PhysTile) : (s.modTile p f).freeCtr = s.freeCtr := rfl
@[simp] theorem State.modTile_out (s : State) (p : Nat) (f : PhysTile → PhysTile) : (s.modTile p f).out = s.out := rfl
@[simp] theorem State.modTile_regs (s : State) (p : Nat) (f : PhysTile → PhysTile) : (s.modTile p f).regs = s.regs := rfl
@[simp] theorem State.modTile_live (s : State) (p : Nat) (f : PhysTile → PhysTile) : (s.modTile p f).live = s.live := rfl
@[simp] theorem State.modTile_ctxs (s : State) (p : Nat) (f : PhysTile → PhysTile) : (s.modTile p f).ctxs = s.ctxs := rfl
@[simp] theorem State.modTile_time (s : State) (p : Nat) (f : PhysTile → PhysTile) : (s.modTile p f).time = s.time := rfl
@[simp] theorem State.modTile_dists (s : State) (p : Nat) (f : PhysTile → PhysTile) : (s.modTile p f).dists = s.dists := rfl
@[simp] theorem State.modTile_spindles (s : State) (p : Nat) (f : PhysTile → PhysTile) : (s.modTile p f).spindles = s.spindles := rfl
@[simp] theorem State.modTile_slices (s : State) (p : Nat) (f : PhysTile → PhysTile) : (s.modTile p f).slices = s.slices := rfl
@[simp] theorem State.modTile_stackMem (s : State) (p : Nat) (f : PhysTile → PhysTile) : (s.modTile p f).stackMem = s.stackMem := rfl
@[simp] theorem State.modTile_warps (s : State) (p : Nat) (f : PhysTile → PhysTile) : (s.modTile p f).warps = s.warps := rfl
@[simp] theorem State.modTile_wefts (s : State) (p : Nat) (f : PhysTile → PhysTile) : (s.modTile p f).wefts = s.wefts := rfl
@[simp] theorem State.modTile_adapters (s : State) (p : Nat) (f : PhysTile → PhysTile) : (s.modTile p f).adapters = s.adapters := rfl
@[simp] theorem State.modTile_parts (s : State) (p : Nat) (f : PhysTile → PhysTile) : (s.modTile p f).parts = s.parts := rfl
@[simp] theorem State.modTile_integ (s : State) (p : Nat) (f : PhysTile → PhysTile) : (s.modTile p f).integ = s.integ := rfl
@[simp] theorem State.modTile_events (s : State) (p : Nat) (f : PhysTile → PhysTile) : (s.modTile p f).events = s.events := rfl
@[simp] theorem State.modTile_svcDue (s : State) (p : Nat) (f : PhysTile → PhysTile) : (s.modTile p f).svcDue = s.svcDue := rfl
@[simp] theorem State.modTile_lanes (s : State) (p : Nat) (f : PhysTile → PhysTile) : (s.modTile p f).lanes = s.lanes := rfl
@[simp] theorem State.modTile_shares (s : State) (p : Nat) (f : PhysTile → PhysTile) : (s.modTile p f).shares = s.shares := rfl
@[simp] theorem State.modTile_flits (s : State) (p : Nat) (f : PhysTile → PhysTile) : (s.modTile p f).flits = s.flits := rfl
@[simp] theorem State.modTile_serve (s : State) (p : Nat) (f : PhysTile → PhysTile) : (s.modTile p f).serve = s.serve := rfl
@[simp] theorem State.modTile_net (s : State) (p : Nat) (f : PhysTile → PhysTile) : (s.modTile p f).net = s.net := rfl
@[simp] theorem State.modTile_wgt (s : State) (p : Nat) (f : PhysTile → PhysTile) : (s.modTile p f).wgt = s.wgt := rfl
@[simp] theorem State.modTile_cal (s : State) (p : Nat) (f : PhysTile → PhysTile) : (s.modTile p f).cal = s.cal := rfl
@[simp] theorem State.modTile_power (s : State) (p : Nat) (f : PhysTile → PhysTile) : (s.modTile p f).power = s.power := rfl
@[simp] theorem State.modTile_qps (s : State) (p : Nat) (f : PhysTile → PhysTile) : (s.modTile p f).qps = s.qps := rfl
@[simp] theorem State.modTile_boot (s : State) (p : Nat) (f : PhysTile → PhysTile) : (s.modTile p f).boot = s.boot := rfl
@[simp] theorem State.modWarp_variant (s : State) (k : Nat) (f : WarpArr → WarpArr) : (s.modWarp k f).variant = s.variant := rfl
@[simp] theorem State.modWarp_pending (s : State) (k : Nat) (f : WarpArr → WarpArr) : (s.modWarp k f).pending = s.pending := rfl
@[simp] theorem State.modWarp_freeCtr (s : State) (k : Nat) (f : WarpArr → WarpArr) : (s.modWarp k f).freeCtr = s.freeCtr := rfl
@[simp] theorem State.modWarp_out (s : State) (k : Nat) (f : WarpArr → WarpArr) : (s.modWarp k f).out = s.out := rfl
@[simp] theorem State.modWarp_regs (s : State) (k : Nat) (f : WarpArr → WarpArr) : (s.modWarp k f).regs = s.regs := rfl
@[simp] theorem State.modWarp_live (s : State) (k : Nat) (f : WarpArr → WarpArr) : (s.modWarp k f).live = s.live := rfl
@[simp] theorem State.modWarp_ctxs (s : State) (k : Nat) (f : WarpArr → WarpArr) : (s.modWarp k f).ctxs = s.ctxs := rfl
@[simp] theorem State.modWarp_time (s : State) (k : Nat) (f : WarpArr → WarpArr) : (s.modWarp k f).time = s.time := rfl
@[simp] theorem State.modWarp_dists (s : State) (k : Nat) (f : WarpArr → WarpArr) : (s.modWarp k f).dists = s.dists := rfl
@[simp] theorem State.modWarp_spindles (s : State) (k : Nat) (f : WarpArr → WarpArr) : (s.modWarp k f).spindles = s.spindles := rfl
@[simp] theorem State.modWarp_tiles (s : State) (k : Nat) (f : WarpArr → WarpArr) : (s.modWarp k f).tiles = s.tiles := rfl
@[simp] theorem State.modWarp_slices (s : State) (k : Nat) (f : WarpArr → WarpArr) : (s.modWarp k f).slices = s.slices := rfl
@[simp] theorem State.modWarp_stackMem (s : State) (k : Nat) (f : WarpArr → WarpArr) : (s.modWarp k f).stackMem = s.stackMem := rfl
@[simp] theorem State.modWarp_wefts (s : State) (k : Nat) (f : WarpArr → WarpArr) : (s.modWarp k f).wefts = s.wefts := rfl
@[simp] theorem State.modWarp_adapters (s : State) (k : Nat) (f : WarpArr → WarpArr) : (s.modWarp k f).adapters = s.adapters := rfl
@[simp] theorem State.modWarp_parts (s : State) (k : Nat) (f : WarpArr → WarpArr) : (s.modWarp k f).parts = s.parts := rfl
@[simp] theorem State.modWarp_integ (s : State) (k : Nat) (f : WarpArr → WarpArr) : (s.modWarp k f).integ = s.integ := rfl
@[simp] theorem State.modWarp_events (s : State) (k : Nat) (f : WarpArr → WarpArr) : (s.modWarp k f).events = s.events := rfl
@[simp] theorem State.modWarp_svcDue (s : State) (k : Nat) (f : WarpArr → WarpArr) : (s.modWarp k f).svcDue = s.svcDue := rfl
@[simp] theorem State.modWarp_lanes (s : State) (k : Nat) (f : WarpArr → WarpArr) : (s.modWarp k f).lanes = s.lanes := rfl
@[simp] theorem State.modWarp_shares (s : State) (k : Nat) (f : WarpArr → WarpArr) : (s.modWarp k f).shares = s.shares := rfl
@[simp] theorem State.modWarp_flits (s : State) (k : Nat) (f : WarpArr → WarpArr) : (s.modWarp k f).flits = s.flits := rfl
@[simp] theorem State.modWarp_serve (s : State) (k : Nat) (f : WarpArr → WarpArr) : (s.modWarp k f).serve = s.serve := rfl
@[simp] theorem State.modWarp_net (s : State) (k : Nat) (f : WarpArr → WarpArr) : (s.modWarp k f).net = s.net := rfl
@[simp] theorem State.modWarp_wgt (s : State) (k : Nat) (f : WarpArr → WarpArr) : (s.modWarp k f).wgt = s.wgt := rfl
@[simp] theorem State.modWarp_cal (s : State) (k : Nat) (f : WarpArr → WarpArr) : (s.modWarp k f).cal = s.cal := rfl
@[simp] theorem State.modWarp_power (s : State) (k : Nat) (f : WarpArr → WarpArr) : (s.modWarp k f).power = s.power := rfl
@[simp] theorem State.modWarp_qps (s : State) (k : Nat) (f : WarpArr → WarpArr) : (s.modWarp k f).qps = s.qps := rfl
@[simp] theorem State.modWarp_boot (s : State) (k : Nat) (f : WarpArr → WarpArr) : (s.modWarp k f).boot = s.boot := rfl
@[simp] theorem State.modWeft_variant (s : State) (p : Nat) (f : WeftArr → WeftArr) : (s.modWeft p f).variant = s.variant := rfl
@[simp] theorem State.modWeft_pending (s : State) (p : Nat) (f : WeftArr → WeftArr) : (s.modWeft p f).pending = s.pending := rfl
@[simp] theorem State.modWeft_freeCtr (s : State) (p : Nat) (f : WeftArr → WeftArr) : (s.modWeft p f).freeCtr = s.freeCtr := rfl
@[simp] theorem State.modWeft_out (s : State) (p : Nat) (f : WeftArr → WeftArr) : (s.modWeft p f).out = s.out := rfl
@[simp] theorem State.modWeft_regs (s : State) (p : Nat) (f : WeftArr → WeftArr) : (s.modWeft p f).regs = s.regs := rfl
@[simp] theorem State.modWeft_live (s : State) (p : Nat) (f : WeftArr → WeftArr) : (s.modWeft p f).live = s.live := rfl
@[simp] theorem State.modWeft_ctxs (s : State) (p : Nat) (f : WeftArr → WeftArr) : (s.modWeft p f).ctxs = s.ctxs := rfl
@[simp] theorem State.modWeft_time (s : State) (p : Nat) (f : WeftArr → WeftArr) : (s.modWeft p f).time = s.time := rfl
@[simp] theorem State.modWeft_dists (s : State) (p : Nat) (f : WeftArr → WeftArr) : (s.modWeft p f).dists = s.dists := rfl
@[simp] theorem State.modWeft_spindles (s : State) (p : Nat) (f : WeftArr → WeftArr) : (s.modWeft p f).spindles = s.spindles := rfl
@[simp] theorem State.modWeft_tiles (s : State) (p : Nat) (f : WeftArr → WeftArr) : (s.modWeft p f).tiles = s.tiles := rfl
@[simp] theorem State.modWeft_slices (s : State) (p : Nat) (f : WeftArr → WeftArr) : (s.modWeft p f).slices = s.slices := rfl
@[simp] theorem State.modWeft_stackMem (s : State) (p : Nat) (f : WeftArr → WeftArr) : (s.modWeft p f).stackMem = s.stackMem := rfl
@[simp] theorem State.modWeft_warps (s : State) (p : Nat) (f : WeftArr → WeftArr) : (s.modWeft p f).warps = s.warps := rfl
@[simp] theorem State.modWeft_adapters (s : State) (p : Nat) (f : WeftArr → WeftArr) : (s.modWeft p f).adapters = s.adapters := rfl
@[simp] theorem State.modWeft_parts (s : State) (p : Nat) (f : WeftArr → WeftArr) : (s.modWeft p f).parts = s.parts := rfl
@[simp] theorem State.modWeft_integ (s : State) (p : Nat) (f : WeftArr → WeftArr) : (s.modWeft p f).integ = s.integ := rfl
@[simp] theorem State.modWeft_events (s : State) (p : Nat) (f : WeftArr → WeftArr) : (s.modWeft p f).events = s.events := rfl
@[simp] theorem State.modWeft_svcDue (s : State) (p : Nat) (f : WeftArr → WeftArr) : (s.modWeft p f).svcDue = s.svcDue := rfl
@[simp] theorem State.modWeft_lanes (s : State) (p : Nat) (f : WeftArr → WeftArr) : (s.modWeft p f).lanes = s.lanes := rfl
@[simp] theorem State.modWeft_shares (s : State) (p : Nat) (f : WeftArr → WeftArr) : (s.modWeft p f).shares = s.shares := rfl
@[simp] theorem State.modWeft_flits (s : State) (p : Nat) (f : WeftArr → WeftArr) : (s.modWeft p f).flits = s.flits := rfl
@[simp] theorem State.modWeft_serve (s : State) (p : Nat) (f : WeftArr → WeftArr) : (s.modWeft p f).serve = s.serve := rfl
@[simp] theorem State.modWeft_net (s : State) (p : Nat) (f : WeftArr → WeftArr) : (s.modWeft p f).net = s.net := rfl
@[simp] theorem State.modWeft_wgt (s : State) (p : Nat) (f : WeftArr → WeftArr) : (s.modWeft p f).wgt = s.wgt := rfl
@[simp] theorem State.modWeft_cal (s : State) (p : Nat) (f : WeftArr → WeftArr) : (s.modWeft p f).cal = s.cal := rfl
@[simp] theorem State.modWeft_power (s : State) (p : Nat) (f : WeftArr → WeftArr) : (s.modWeft p f).power = s.power := rfl
@[simp] theorem State.modWeft_qps (s : State) (p : Nat) (f : WeftArr → WeftArr) : (s.modWeft p f).qps = s.qps := rfl
@[simp] theorem State.modWeft_boot (s : State) (p : Nat) (f : WeftArr → WeftArr) : (s.modWeft p f).boot = s.boot := rfl
@[simp] theorem State.modAdapter_variant (s : State) (e : Nat) (f : Adapter → Adapter) : (s.modAdapter e f).variant = s.variant := rfl
@[simp] theorem State.modAdapter_pending (s : State) (e : Nat) (f : Adapter → Adapter) : (s.modAdapter e f).pending = s.pending := rfl
@[simp] theorem State.modAdapter_freeCtr (s : State) (e : Nat) (f : Adapter → Adapter) : (s.modAdapter e f).freeCtr = s.freeCtr := rfl
@[simp] theorem State.modAdapter_out (s : State) (e : Nat) (f : Adapter → Adapter) : (s.modAdapter e f).out = s.out := rfl
@[simp] theorem State.modAdapter_regs (s : State) (e : Nat) (f : Adapter → Adapter) : (s.modAdapter e f).regs = s.regs := rfl
@[simp] theorem State.modAdapter_live (s : State) (e : Nat) (f : Adapter → Adapter) : (s.modAdapter e f).live = s.live := rfl
@[simp] theorem State.modAdapter_ctxs (s : State) (e : Nat) (f : Adapter → Adapter) : (s.modAdapter e f).ctxs = s.ctxs := rfl
@[simp] theorem State.modAdapter_time (s : State) (e : Nat) (f : Adapter → Adapter) : (s.modAdapter e f).time = s.time := rfl
@[simp] theorem State.modAdapter_dists (s : State) (e : Nat) (f : Adapter → Adapter) : (s.modAdapter e f).dists = s.dists := rfl
@[simp] theorem State.modAdapter_spindles (s : State) (e : Nat) (f : Adapter → Adapter) : (s.modAdapter e f).spindles = s.spindles := rfl
@[simp] theorem State.modAdapter_tiles (s : State) (e : Nat) (f : Adapter → Adapter) : (s.modAdapter e f).tiles = s.tiles := rfl
@[simp] theorem State.modAdapter_slices (s : State) (e : Nat) (f : Adapter → Adapter) : (s.modAdapter e f).slices = s.slices := rfl
@[simp] theorem State.modAdapter_stackMem (s : State) (e : Nat) (f : Adapter → Adapter) : (s.modAdapter e f).stackMem = s.stackMem := rfl
@[simp] theorem State.modAdapter_warps (s : State) (e : Nat) (f : Adapter → Adapter) : (s.modAdapter e f).warps = s.warps := rfl
@[simp] theorem State.modAdapter_wefts (s : State) (e : Nat) (f : Adapter → Adapter) : (s.modAdapter e f).wefts = s.wefts := rfl
@[simp] theorem State.modAdapter_parts (s : State) (e : Nat) (f : Adapter → Adapter) : (s.modAdapter e f).parts = s.parts := rfl
@[simp] theorem State.modAdapter_integ (s : State) (e : Nat) (f : Adapter → Adapter) : (s.modAdapter e f).integ = s.integ := rfl
@[simp] theorem State.modAdapter_events (s : State) (e : Nat) (f : Adapter → Adapter) : (s.modAdapter e f).events = s.events := rfl
@[simp] theorem State.modAdapter_svcDue (s : State) (e : Nat) (f : Adapter → Adapter) : (s.modAdapter e f).svcDue = s.svcDue := rfl
@[simp] theorem State.modAdapter_lanes (s : State) (e : Nat) (f : Adapter → Adapter) : (s.modAdapter e f).lanes = s.lanes := rfl
@[simp] theorem State.modAdapter_shares (s : State) (e : Nat) (f : Adapter → Adapter) : (s.modAdapter e f).shares = s.shares := rfl
@[simp] theorem State.modAdapter_flits (s : State) (e : Nat) (f : Adapter → Adapter) : (s.modAdapter e f).flits = s.flits := rfl
@[simp] theorem State.modAdapter_serve (s : State) (e : Nat) (f : Adapter → Adapter) : (s.modAdapter e f).serve = s.serve := rfl
@[simp] theorem State.modAdapter_net (s : State) (e : Nat) (f : Adapter → Adapter) : (s.modAdapter e f).net = s.net := rfl
@[simp] theorem State.modAdapter_wgt (s : State) (e : Nat) (f : Adapter → Adapter) : (s.modAdapter e f).wgt = s.wgt := rfl
@[simp] theorem State.modAdapter_cal (s : State) (e : Nat) (f : Adapter → Adapter) : (s.modAdapter e f).cal = s.cal := rfl
@[simp] theorem State.modAdapter_power (s : State) (e : Nat) (f : Adapter → Adapter) : (s.modAdapter e f).power = s.power := rfl
@[simp] theorem State.modAdapter_qps (s : State) (e : Nat) (f : Adapter → Adapter) : (s.modAdapter e f).qps = s.qps := rfl
@[simp] theorem State.modAdapter_boot (s : State) (e : Nat) (f : Adapter → Adapter) : (s.modAdapter e f).boot = s.boot := rfl
@[simp] theorem State.modPart_variant (s : State) (p : Nat) (f : PartSt → PartSt) : (s.modPart p f).variant = s.variant := rfl
@[simp] theorem State.modPart_pending (s : State) (p : Nat) (f : PartSt → PartSt) : (s.modPart p f).pending = s.pending := rfl
@[simp] theorem State.modPart_freeCtr (s : State) (p : Nat) (f : PartSt → PartSt) : (s.modPart p f).freeCtr = s.freeCtr := rfl
@[simp] theorem State.modPart_out (s : State) (p : Nat) (f : PartSt → PartSt) : (s.modPart p f).out = s.out := rfl
@[simp] theorem State.modPart_regs (s : State) (p : Nat) (f : PartSt → PartSt) : (s.modPart p f).regs = s.regs := rfl
@[simp] theorem State.modPart_live (s : State) (p : Nat) (f : PartSt → PartSt) : (s.modPart p f).live = s.live := rfl
@[simp] theorem State.modPart_ctxs (s : State) (p : Nat) (f : PartSt → PartSt) : (s.modPart p f).ctxs = s.ctxs := rfl
@[simp] theorem State.modPart_time (s : State) (p : Nat) (f : PartSt → PartSt) : (s.modPart p f).time = s.time := rfl
@[simp] theorem State.modPart_dists (s : State) (p : Nat) (f : PartSt → PartSt) : (s.modPart p f).dists = s.dists := rfl
@[simp] theorem State.modPart_spindles (s : State) (p : Nat) (f : PartSt → PartSt) : (s.modPart p f).spindles = s.spindles := rfl
@[simp] theorem State.modPart_tiles (s : State) (p : Nat) (f : PartSt → PartSt) : (s.modPart p f).tiles = s.tiles := rfl
@[simp] theorem State.modPart_slices (s : State) (p : Nat) (f : PartSt → PartSt) : (s.modPart p f).slices = s.slices := rfl
@[simp] theorem State.modPart_stackMem (s : State) (p : Nat) (f : PartSt → PartSt) : (s.modPart p f).stackMem = s.stackMem := rfl
@[simp] theorem State.modPart_warps (s : State) (p : Nat) (f : PartSt → PartSt) : (s.modPart p f).warps = s.warps := rfl
@[simp] theorem State.modPart_wefts (s : State) (p : Nat) (f : PartSt → PartSt) : (s.modPart p f).wefts = s.wefts := rfl
@[simp] theorem State.modPart_adapters (s : State) (p : Nat) (f : PartSt → PartSt) : (s.modPart p f).adapters = s.adapters := rfl
@[simp] theorem State.modPart_integ (s : State) (p : Nat) (f : PartSt → PartSt) : (s.modPart p f).integ = s.integ := rfl
@[simp] theorem State.modPart_events (s : State) (p : Nat) (f : PartSt → PartSt) : (s.modPart p f).events = s.events := rfl
@[simp] theorem State.modPart_svcDue (s : State) (p : Nat) (f : PartSt → PartSt) : (s.modPart p f).svcDue = s.svcDue := rfl
@[simp] theorem State.modPart_lanes (s : State) (p : Nat) (f : PartSt → PartSt) : (s.modPart p f).lanes = s.lanes := rfl
@[simp] theorem State.modPart_shares (s : State) (p : Nat) (f : PartSt → PartSt) : (s.modPart p f).shares = s.shares := rfl
@[simp] theorem State.modPart_flits (s : State) (p : Nat) (f : PartSt → PartSt) : (s.modPart p f).flits = s.flits := rfl
@[simp] theorem State.modPart_serve (s : State) (p : Nat) (f : PartSt → PartSt) : (s.modPart p f).serve = s.serve := rfl
@[simp] theorem State.modPart_net (s : State) (p : Nat) (f : PartSt → PartSt) : (s.modPart p f).net = s.net := rfl
@[simp] theorem State.modPart_wgt (s : State) (p : Nat) (f : PartSt → PartSt) : (s.modPart p f).wgt = s.wgt := rfl
@[simp] theorem State.modPart_cal (s : State) (p : Nat) (f : PartSt → PartSt) : (s.modPart p f).cal = s.cal := rfl
@[simp] theorem State.modPart_power (s : State) (p : Nat) (f : PartSt → PartSt) : (s.modPart p f).power = s.power := rfl
@[simp] theorem State.modPart_qps (s : State) (p : Nat) (f : PartSt → PartSt) : (s.modPart p f).qps = s.qps := rfl
@[simp] theorem State.modPart_boot (s : State) (p : Nat) (f : PartSt → PartSt) : (s.modPart p f).boot = s.boot := rfl
@[simp] theorem State.modRow_variant (s : State) (r : Nat) (f : RowSt → RowSt) : (s.modRow r f).variant = s.variant := rfl
@[simp] theorem State.modRow_pending (s : State) (r : Nat) (f : RowSt → RowSt) : (s.modRow r f).pending = s.pending := rfl
@[simp] theorem State.modRow_freeCtr (s : State) (r : Nat) (f : RowSt → RowSt) : (s.modRow r f).freeCtr = s.freeCtr := rfl
@[simp] theorem State.modRow_out (s : State) (r : Nat) (f : RowSt → RowSt) : (s.modRow r f).out = s.out := rfl
@[simp] theorem State.modRow_regs (s : State) (r : Nat) (f : RowSt → RowSt) : (s.modRow r f).regs = s.regs := rfl
@[simp] theorem State.modRow_live (s : State) (r : Nat) (f : RowSt → RowSt) : (s.modRow r f).live = s.live := rfl
@[simp] theorem State.modRow_ctxs (s : State) (r : Nat) (f : RowSt → RowSt) : (s.modRow r f).ctxs = s.ctxs := rfl
@[simp] theorem State.modRow_time (s : State) (r : Nat) (f : RowSt → RowSt) : (s.modRow r f).time = s.time := rfl
@[simp] theorem State.modRow_dists (s : State) (r : Nat) (f : RowSt → RowSt) : (s.modRow r f).dists = s.dists := rfl
@[simp] theorem State.modRow_spindles (s : State) (r : Nat) (f : RowSt → RowSt) : (s.modRow r f).spindles = s.spindles := rfl
@[simp] theorem State.modRow_tiles (s : State) (r : Nat) (f : RowSt → RowSt) : (s.modRow r f).tiles = s.tiles := rfl
@[simp] theorem State.modRow_slices (s : State) (r : Nat) (f : RowSt → RowSt) : (s.modRow r f).slices = s.slices := rfl
@[simp] theorem State.modRow_stackMem (s : State) (r : Nat) (f : RowSt → RowSt) : (s.modRow r f).stackMem = s.stackMem := rfl
@[simp] theorem State.modRow_warps (s : State) (r : Nat) (f : RowSt → RowSt) : (s.modRow r f).warps = s.warps := rfl
@[simp] theorem State.modRow_wefts (s : State) (r : Nat) (f : RowSt → RowSt) : (s.modRow r f).wefts = s.wefts := rfl
@[simp] theorem State.modRow_adapters (s : State) (r : Nat) (f : RowSt → RowSt) : (s.modRow r f).adapters = s.adapters := rfl
@[simp] theorem State.modRow_parts (s : State) (r : Nat) (f : RowSt → RowSt) : (s.modRow r f).parts = s.parts := rfl
@[simp] theorem State.modRow_events (s : State) (r : Nat) (f : RowSt → RowSt) : (s.modRow r f).events = s.events := rfl
@[simp] theorem State.modRow_svcDue (s : State) (r : Nat) (f : RowSt → RowSt) : (s.modRow r f).svcDue = s.svcDue := rfl
@[simp] theorem State.modRow_lanes (s : State) (r : Nat) (f : RowSt → RowSt) : (s.modRow r f).lanes = s.lanes := rfl
@[simp] theorem State.modRow_shares (s : State) (r : Nat) (f : RowSt → RowSt) : (s.modRow r f).shares = s.shares := rfl
@[simp] theorem State.modRow_flits (s : State) (r : Nat) (f : RowSt → RowSt) : (s.modRow r f).flits = s.flits := rfl
@[simp] theorem State.modRow_serve (s : State) (r : Nat) (f : RowSt → RowSt) : (s.modRow r f).serve = s.serve := rfl
@[simp] theorem State.modRow_net (s : State) (r : Nat) (f : RowSt → RowSt) : (s.modRow r f).net = s.net := rfl
@[simp] theorem State.modRow_wgt (s : State) (r : Nat) (f : RowSt → RowSt) : (s.modRow r f).wgt = s.wgt := rfl
@[simp] theorem State.modRow_cal (s : State) (r : Nat) (f : RowSt → RowSt) : (s.modRow r f).cal = s.cal := rfl
@[simp] theorem State.modRow_power (s : State) (r : Nat) (f : RowSt → RowSt) : (s.modRow r f).power = s.power := rfl
@[simp] theorem State.modRow_qps (s : State) (r : Nat) (f : RowSt → RowSt) : (s.modRow r f).qps = s.qps := rfl
@[simp] theorem State.modRow_boot (s : State) (r : Nat) (f : RowSt → RowSt) : (s.modRow r f).boot = s.boot := rfl
@[simp] theorem State.modBare_variant (s : State) (u : Nat) (f : BareSt → BareSt) : (s.modBare u f).variant = s.variant := rfl
@[simp] theorem State.modBare_pending (s : State) (u : Nat) (f : BareSt → BareSt) : (s.modBare u f).pending = s.pending := rfl
@[simp] theorem State.modBare_freeCtr (s : State) (u : Nat) (f : BareSt → BareSt) : (s.modBare u f).freeCtr = s.freeCtr := rfl
@[simp] theorem State.modBare_out (s : State) (u : Nat) (f : BareSt → BareSt) : (s.modBare u f).out = s.out := rfl
@[simp] theorem State.modBare_regs (s : State) (u : Nat) (f : BareSt → BareSt) : (s.modBare u f).regs = s.regs := rfl
@[simp] theorem State.modBare_live (s : State) (u : Nat) (f : BareSt → BareSt) : (s.modBare u f).live = s.live := rfl
@[simp] theorem State.modBare_ctxs (s : State) (u : Nat) (f : BareSt → BareSt) : (s.modBare u f).ctxs = s.ctxs := rfl
@[simp] theorem State.modBare_time (s : State) (u : Nat) (f : BareSt → BareSt) : (s.modBare u f).time = s.time := rfl
@[simp] theorem State.modBare_dists (s : State) (u : Nat) (f : BareSt → BareSt) : (s.modBare u f).dists = s.dists := rfl
@[simp] theorem State.modBare_spindles (s : State) (u : Nat) (f : BareSt → BareSt) : (s.modBare u f).spindles = s.spindles := rfl
@[simp] theorem State.modBare_tiles (s : State) (u : Nat) (f : BareSt → BareSt) : (s.modBare u f).tiles = s.tiles := rfl
@[simp] theorem State.modBare_slices (s : State) (u : Nat) (f : BareSt → BareSt) : (s.modBare u f).slices = s.slices := rfl
@[simp] theorem State.modBare_stackMem (s : State) (u : Nat) (f : BareSt → BareSt) : (s.modBare u f).stackMem = s.stackMem := rfl
@[simp] theorem State.modBare_warps (s : State) (u : Nat) (f : BareSt → BareSt) : (s.modBare u f).warps = s.warps := rfl
@[simp] theorem State.modBare_wefts (s : State) (u : Nat) (f : BareSt → BareSt) : (s.modBare u f).wefts = s.wefts := rfl
@[simp] theorem State.modBare_adapters (s : State) (u : Nat) (f : BareSt → BareSt) : (s.modBare u f).adapters = s.adapters := rfl
@[simp] theorem State.modBare_parts (s : State) (u : Nat) (f : BareSt → BareSt) : (s.modBare u f).parts = s.parts := rfl
@[simp] theorem State.modBare_events (s : State) (u : Nat) (f : BareSt → BareSt) : (s.modBare u f).events = s.events := rfl
@[simp] theorem State.modBare_svcDue (s : State) (u : Nat) (f : BareSt → BareSt) : (s.modBare u f).svcDue = s.svcDue := rfl
@[simp] theorem State.modBare_lanes (s : State) (u : Nat) (f : BareSt → BareSt) : (s.modBare u f).lanes = s.lanes := rfl
@[simp] theorem State.modBare_shares (s : State) (u : Nat) (f : BareSt → BareSt) : (s.modBare u f).shares = s.shares := rfl
@[simp] theorem State.modBare_flits (s : State) (u : Nat) (f : BareSt → BareSt) : (s.modBare u f).flits = s.flits := rfl
@[simp] theorem State.modBare_serve (s : State) (u : Nat) (f : BareSt → BareSt) : (s.modBare u f).serve = s.serve := rfl
@[simp] theorem State.modBare_net (s : State) (u : Nat) (f : BareSt → BareSt) : (s.modBare u f).net = s.net := rfl
@[simp] theorem State.modBare_wgt (s : State) (u : Nat) (f : BareSt → BareSt) : (s.modBare u f).wgt = s.wgt := rfl
@[simp] theorem State.modBare_cal (s : State) (u : Nat) (f : BareSt → BareSt) : (s.modBare u f).cal = s.cal := rfl
@[simp] theorem State.modBare_power (s : State) (u : Nat) (f : BareSt → BareSt) : (s.modBare u f).power = s.power := rfl
@[simp] theorem State.modBare_qps (s : State) (u : Nat) (f : BareSt → BareSt) : (s.modBare u f).qps = s.qps := rfl
@[simp] theorem State.modBare_boot (s : State) (u : Nat) (f : BareSt → BareSt) : (s.modBare u f).boot = s.boot := rfl
@[simp] theorem State.modServPart_variant (s : State) (p : Nat) (f : ServPart → ServPart) : (s.modServPart p f).variant = s.variant := rfl
@[simp] theorem State.modServPart_pending (s : State) (p : Nat) (f : ServPart → ServPart) : (s.modServPart p f).pending = s.pending := rfl
@[simp] theorem State.modServPart_freeCtr (s : State) (p : Nat) (f : ServPart → ServPart) : (s.modServPart p f).freeCtr = s.freeCtr := rfl
@[simp] theorem State.modServPart_out (s : State) (p : Nat) (f : ServPart → ServPart) : (s.modServPart p f).out = s.out := rfl
@[simp] theorem State.modServPart_regs (s : State) (p : Nat) (f : ServPart → ServPart) : (s.modServPart p f).regs = s.regs := rfl
@[simp] theorem State.modServPart_live (s : State) (p : Nat) (f : ServPart → ServPart) : (s.modServPart p f).live = s.live := rfl
@[simp] theorem State.modServPart_ctxs (s : State) (p : Nat) (f : ServPart → ServPart) : (s.modServPart p f).ctxs = s.ctxs := rfl
@[simp] theorem State.modServPart_time (s : State) (p : Nat) (f : ServPart → ServPart) : (s.modServPart p f).time = s.time := rfl
@[simp] theorem State.modServPart_dists (s : State) (p : Nat) (f : ServPart → ServPart) : (s.modServPart p f).dists = s.dists := rfl
@[simp] theorem State.modServPart_spindles (s : State) (p : Nat) (f : ServPart → ServPart) : (s.modServPart p f).spindles = s.spindles := rfl
@[simp] theorem State.modServPart_tiles (s : State) (p : Nat) (f : ServPart → ServPart) : (s.modServPart p f).tiles = s.tiles := rfl
@[simp] theorem State.modServPart_slices (s : State) (p : Nat) (f : ServPart → ServPart) : (s.modServPart p f).slices = s.slices := rfl
@[simp] theorem State.modServPart_stackMem (s : State) (p : Nat) (f : ServPart → ServPart) : (s.modServPart p f).stackMem = s.stackMem := rfl
@[simp] theorem State.modServPart_warps (s : State) (p : Nat) (f : ServPart → ServPart) : (s.modServPart p f).warps = s.warps := rfl
@[simp] theorem State.modServPart_wefts (s : State) (p : Nat) (f : ServPart → ServPart) : (s.modServPart p f).wefts = s.wefts := rfl
@[simp] theorem State.modServPart_adapters (s : State) (p : Nat) (f : ServPart → ServPart) : (s.modServPart p f).adapters = s.adapters := rfl
@[simp] theorem State.modServPart_parts (s : State) (p : Nat) (f : ServPart → ServPart) : (s.modServPart p f).parts = s.parts := rfl
@[simp] theorem State.modServPart_integ (s : State) (p : Nat) (f : ServPart → ServPart) : (s.modServPart p f).integ = s.integ := rfl
@[simp] theorem State.modServPart_events (s : State) (p : Nat) (f : ServPart → ServPart) : (s.modServPart p f).events = s.events := rfl
@[simp] theorem State.modServPart_svcDue (s : State) (p : Nat) (f : ServPart → ServPart) : (s.modServPart p f).svcDue = s.svcDue := rfl
@[simp] theorem State.modServPart_lanes (s : State) (p : Nat) (f : ServPart → ServPart) : (s.modServPart p f).lanes = s.lanes := rfl
@[simp] theorem State.modServPart_shares (s : State) (p : Nat) (f : ServPart → ServPart) : (s.modServPart p f).shares = s.shares := rfl
@[simp] theorem State.modServPart_flits (s : State) (p : Nat) (f : ServPart → ServPart) : (s.modServPart p f).flits = s.flits := rfl
@[simp] theorem State.modServPart_net (s : State) (p : Nat) (f : ServPart → ServPart) : (s.modServPart p f).net = s.net := rfl
@[simp] theorem State.modServPart_wgt (s : State) (p : Nat) (f : ServPart → ServPart) : (s.modServPart p f).wgt = s.wgt := rfl
@[simp] theorem State.modServPart_cal (s : State) (p : Nat) (f : ServPart → ServPart) : (s.modServPart p f).cal = s.cal := rfl
@[simp] theorem State.modServPart_power (s : State) (p : Nat) (f : ServPart → ServPart) : (s.modServPart p f).power = s.power := rfl
@[simp] theorem State.modServPart_qps (s : State) (p : Nat) (f : ServPart → ServPart) : (s.modServPart p f).qps = s.qps := rfl
@[simp] theorem State.modServPart_boot (s : State) (p : Nat) (f : ServPart → ServPart) : (s.modServPart p f).boot = s.boot := rfl
@[simp] theorem State.modHank_variant (s : State) (q : Nat) (f : HankQ → HankQ) : (s.modHank q f).variant = s.variant := rfl
@[simp] theorem State.modHank_pending (s : State) (q : Nat) (f : HankQ → HankQ) : (s.modHank q f).pending = s.pending := rfl
@[simp] theorem State.modHank_freeCtr (s : State) (q : Nat) (f : HankQ → HankQ) : (s.modHank q f).freeCtr = s.freeCtr := rfl
@[simp] theorem State.modHank_out (s : State) (q : Nat) (f : HankQ → HankQ) : (s.modHank q f).out = s.out := rfl
@[simp] theorem State.modHank_regs (s : State) (q : Nat) (f : HankQ → HankQ) : (s.modHank q f).regs = s.regs := rfl
@[simp] theorem State.modHank_live (s : State) (q : Nat) (f : HankQ → HankQ) : (s.modHank q f).live = s.live := rfl
@[simp] theorem State.modHank_ctxs (s : State) (q : Nat) (f : HankQ → HankQ) : (s.modHank q f).ctxs = s.ctxs := rfl
@[simp] theorem State.modHank_time (s : State) (q : Nat) (f : HankQ → HankQ) : (s.modHank q f).time = s.time := rfl
@[simp] theorem State.modHank_dists (s : State) (q : Nat) (f : HankQ → HankQ) : (s.modHank q f).dists = s.dists := rfl
@[simp] theorem State.modHank_spindles (s : State) (q : Nat) (f : HankQ → HankQ) : (s.modHank q f).spindles = s.spindles := rfl
@[simp] theorem State.modHank_tiles (s : State) (q : Nat) (f : HankQ → HankQ) : (s.modHank q f).tiles = s.tiles := rfl
@[simp] theorem State.modHank_slices (s : State) (q : Nat) (f : HankQ → HankQ) : (s.modHank q f).slices = s.slices := rfl
@[simp] theorem State.modHank_stackMem (s : State) (q : Nat) (f : HankQ → HankQ) : (s.modHank q f).stackMem = s.stackMem := rfl
@[simp] theorem State.modHank_warps (s : State) (q : Nat) (f : HankQ → HankQ) : (s.modHank q f).warps = s.warps := rfl
@[simp] theorem State.modHank_wefts (s : State) (q : Nat) (f : HankQ → HankQ) : (s.modHank q f).wefts = s.wefts := rfl
@[simp] theorem State.modHank_adapters (s : State) (q : Nat) (f : HankQ → HankQ) : (s.modHank q f).adapters = s.adapters := rfl
@[simp] theorem State.modHank_parts (s : State) (q : Nat) (f : HankQ → HankQ) : (s.modHank q f).parts = s.parts := rfl
@[simp] theorem State.modHank_integ (s : State) (q : Nat) (f : HankQ → HankQ) : (s.modHank q f).integ = s.integ := rfl
@[simp] theorem State.modHank_events (s : State) (q : Nat) (f : HankQ → HankQ) : (s.modHank q f).events = s.events := rfl
@[simp] theorem State.modHank_svcDue (s : State) (q : Nat) (f : HankQ → HankQ) : (s.modHank q f).svcDue = s.svcDue := rfl
@[simp] theorem State.modHank_lanes (s : State) (q : Nat) (f : HankQ → HankQ) : (s.modHank q f).lanes = s.lanes := rfl
@[simp] theorem State.modHank_shares (s : State) (q : Nat) (f : HankQ → HankQ) : (s.modHank q f).shares = s.shares := rfl
@[simp] theorem State.modHank_flits (s : State) (q : Nat) (f : HankQ → HankQ) : (s.modHank q f).flits = s.flits := rfl
@[simp] theorem State.modHank_net (s : State) (q : Nat) (f : HankQ → HankQ) : (s.modHank q f).net = s.net := rfl
@[simp] theorem State.modHank_wgt (s : State) (q : Nat) (f : HankQ → HankQ) : (s.modHank q f).wgt = s.wgt := rfl
@[simp] theorem State.modHank_cal (s : State) (q : Nat) (f : HankQ → HankQ) : (s.modHank q f).cal = s.cal := rfl
@[simp] theorem State.modHank_power (s : State) (q : Nat) (f : HankQ → HankQ) : (s.modHank q f).power = s.power := rfl
@[simp] theorem State.modHank_qps (s : State) (q : Nat) (f : HankQ → HankQ) : (s.modHank q f).qps = s.qps := rfl
@[simp] theorem State.modHank_boot (s : State) (q : Nat) (f : HankQ → HankQ) : (s.modHank q f).boot = s.boot := rfl
@[simp] theorem State.modQp_variant (s : State) (k : Nat) (f : Qp → Qp) : (s.modQp k f).variant = s.variant := rfl
@[simp] theorem State.modQp_pending (s : State) (k : Nat) (f : Qp → Qp) : (s.modQp k f).pending = s.pending := rfl
@[simp] theorem State.modQp_freeCtr (s : State) (k : Nat) (f : Qp → Qp) : (s.modQp k f).freeCtr = s.freeCtr := rfl
@[simp] theorem State.modQp_out (s : State) (k : Nat) (f : Qp → Qp) : (s.modQp k f).out = s.out := rfl
@[simp] theorem State.modQp_regs (s : State) (k : Nat) (f : Qp → Qp) : (s.modQp k f).regs = s.regs := rfl
@[simp] theorem State.modQp_live (s : State) (k : Nat) (f : Qp → Qp) : (s.modQp k f).live = s.live := rfl
@[simp] theorem State.modQp_ctxs (s : State) (k : Nat) (f : Qp → Qp) : (s.modQp k f).ctxs = s.ctxs := rfl
@[simp] theorem State.modQp_time (s : State) (k : Nat) (f : Qp → Qp) : (s.modQp k f).time = s.time := rfl
@[simp] theorem State.modQp_dists (s : State) (k : Nat) (f : Qp → Qp) : (s.modQp k f).dists = s.dists := rfl
@[simp] theorem State.modQp_spindles (s : State) (k : Nat) (f : Qp → Qp) : (s.modQp k f).spindles = s.spindles := rfl
@[simp] theorem State.modQp_tiles (s : State) (k : Nat) (f : Qp → Qp) : (s.modQp k f).tiles = s.tiles := rfl
@[simp] theorem State.modQp_slices (s : State) (k : Nat) (f : Qp → Qp) : (s.modQp k f).slices = s.slices := rfl
@[simp] theorem State.modQp_stackMem (s : State) (k : Nat) (f : Qp → Qp) : (s.modQp k f).stackMem = s.stackMem := rfl
@[simp] theorem State.modQp_warps (s : State) (k : Nat) (f : Qp → Qp) : (s.modQp k f).warps = s.warps := rfl
@[simp] theorem State.modQp_wefts (s : State) (k : Nat) (f : Qp → Qp) : (s.modQp k f).wefts = s.wefts := rfl
@[simp] theorem State.modQp_adapters (s : State) (k : Nat) (f : Qp → Qp) : (s.modQp k f).adapters = s.adapters := rfl
@[simp] theorem State.modQp_parts (s : State) (k : Nat) (f : Qp → Qp) : (s.modQp k f).parts = s.parts := rfl
@[simp] theorem State.modQp_integ (s : State) (k : Nat) (f : Qp → Qp) : (s.modQp k f).integ = s.integ := rfl
@[simp] theorem State.modQp_events (s : State) (k : Nat) (f : Qp → Qp) : (s.modQp k f).events = s.events := rfl
@[simp] theorem State.modQp_svcDue (s : State) (k : Nat) (f : Qp → Qp) : (s.modQp k f).svcDue = s.svcDue := rfl
@[simp] theorem State.modQp_lanes (s : State) (k : Nat) (f : Qp → Qp) : (s.modQp k f).lanes = s.lanes := rfl
@[simp] theorem State.modQp_shares (s : State) (k : Nat) (f : Qp → Qp) : (s.modQp k f).shares = s.shares := rfl
@[simp] theorem State.modQp_flits (s : State) (k : Nat) (f : Qp → Qp) : (s.modQp k f).flits = s.flits := rfl
@[simp] theorem State.modQp_serve (s : State) (k : Nat) (f : Qp → Qp) : (s.modQp k f).serve = s.serve := rfl
@[simp] theorem State.modQp_net (s : State) (k : Nat) (f : Qp → Qp) : (s.modQp k f).net = s.net := rfl
@[simp] theorem State.modQp_wgt (s : State) (k : Nat) (f : Qp → Qp) : (s.modQp k f).wgt = s.wgt := rfl
@[simp] theorem State.modQp_cal (s : State) (k : Nat) (f : Qp → Qp) : (s.modQp k f).cal = s.cal := rfl
@[simp] theorem State.modQp_power (s : State) (k : Nat) (f : Qp → Qp) : (s.modQp k f).power = s.power := rfl
@[simp] theorem State.modQp_boot (s : State) (k : Nat) (f : Qp → Qp) : (s.modQp k f).boot = s.boot := rfl
/-- A message either has gone or is held: nothing else changes. -/
theorem State.send_eq (s : State) (m : OutMsg) : ∃ n o, s.send m = { s with net := n, out := o } := by
  unfold State.send
  split
  · split
    · exact ⟨_, s.out, rfl⟩
    · exact ⟨s.net, _, rfl⟩
  · exact ⟨s.net, _, rfl⟩
@[simp] theorem State.send_variant (s : State) (m : OutMsg) : (s.send m).variant = s.variant := by
  obtain ⟨_, _, e⟩ := s.send_eq m; rw [e]
@[simp] theorem State.send_pending (s : State) (m : OutMsg) : (s.send m).pending = s.pending := by
  obtain ⟨_, _, e⟩ := s.send_eq m; rw [e]
@[simp] theorem State.send_freeCtr (s : State) (m : OutMsg) : (s.send m).freeCtr = s.freeCtr := by
  obtain ⟨_, _, e⟩ := s.send_eq m; rw [e]
@[simp] theorem State.send_regs (s : State) (m : OutMsg) : (s.send m).regs = s.regs := by
  obtain ⟨_, _, e⟩ := s.send_eq m; rw [e]
@[simp] theorem State.send_live (s : State) (m : OutMsg) : (s.send m).live = s.live := by
  obtain ⟨_, _, e⟩ := s.send_eq m; rw [e]
@[simp] theorem State.send_ctxs (s : State) (m : OutMsg) : (s.send m).ctxs = s.ctxs := by
  obtain ⟨_, _, e⟩ := s.send_eq m; rw [e]
@[simp] theorem State.send_time (s : State) (m : OutMsg) : (s.send m).time = s.time := by
  obtain ⟨_, _, e⟩ := s.send_eq m; rw [e]
@[simp] theorem State.send_dists (s : State) (m : OutMsg) : (s.send m).dists = s.dists := by
  obtain ⟨_, _, e⟩ := s.send_eq m; rw [e]
@[simp] theorem State.send_spindles (s : State) (m : OutMsg) : (s.send m).spindles = s.spindles := by
  obtain ⟨_, _, e⟩ := s.send_eq m; rw [e]
@[simp] theorem State.send_tiles (s : State) (m : OutMsg) : (s.send m).tiles = s.tiles := by
  obtain ⟨_, _, e⟩ := s.send_eq m; rw [e]
@[simp] theorem State.send_slices (s : State) (m : OutMsg) : (s.send m).slices = s.slices := by
  obtain ⟨_, _, e⟩ := s.send_eq m; rw [e]
@[simp] theorem State.send_stackMem (s : State) (m : OutMsg) : (s.send m).stackMem = s.stackMem := by
  obtain ⟨_, _, e⟩ := s.send_eq m; rw [e]
@[simp] theorem State.send_warps (s : State) (m : OutMsg) : (s.send m).warps = s.warps := by
  obtain ⟨_, _, e⟩ := s.send_eq m; rw [e]
@[simp] theorem State.send_wefts (s : State) (m : OutMsg) : (s.send m).wefts = s.wefts := by
  obtain ⟨_, _, e⟩ := s.send_eq m; rw [e]
@[simp] theorem State.send_adapters (s : State) (m : OutMsg) : (s.send m).adapters = s.adapters := by
  obtain ⟨_, _, e⟩ := s.send_eq m; rw [e]
@[simp] theorem State.send_parts (s : State) (m : OutMsg) : (s.send m).parts = s.parts := by
  obtain ⟨_, _, e⟩ := s.send_eq m; rw [e]
@[simp] theorem State.send_integ (s : State) (m : OutMsg) : (s.send m).integ = s.integ := by
  obtain ⟨_, _, e⟩ := s.send_eq m; rw [e]
@[simp] theorem State.send_events (s : State) (m : OutMsg) : (s.send m).events = s.events := by
  obtain ⟨_, _, e⟩ := s.send_eq m; rw [e]
@[simp] theorem State.send_svcDue (s : State) (m : OutMsg) : (s.send m).svcDue = s.svcDue := by
  obtain ⟨_, _, e⟩ := s.send_eq m; rw [e]
@[simp] theorem State.send_lanes (s : State) (m : OutMsg) : (s.send m).lanes = s.lanes := by
  obtain ⟨_, _, e⟩ := s.send_eq m; rw [e]
@[simp] theorem State.send_shares (s : State) (m : OutMsg) : (s.send m).shares = s.shares := by
  obtain ⟨_, _, e⟩ := s.send_eq m; rw [e]
@[simp] theorem State.send_flits (s : State) (m : OutMsg) : (s.send m).flits = s.flits := by
  obtain ⟨_, _, e⟩ := s.send_eq m; rw [e]
@[simp] theorem State.send_serve (s : State) (m : OutMsg) : (s.send m).serve = s.serve := by
  obtain ⟨_, _, e⟩ := s.send_eq m; rw [e]
@[simp] theorem State.send_wgt (s : State) (m : OutMsg) : (s.send m).wgt = s.wgt := by
  obtain ⟨_, _, e⟩ := s.send_eq m; rw [e]
@[simp] theorem State.send_cal (s : State) (m : OutMsg) : (s.send m).cal = s.cal := by
  obtain ⟨_, _, e⟩ := s.send_eq m; rw [e]
@[simp] theorem State.send_power (s : State) (m : OutMsg) : (s.send m).power = s.power := by
  obtain ⟨_, _, e⟩ := s.send_eq m; rw [e]
@[simp] theorem State.send_qps (s : State) (m : OutMsg) : (s.send m).qps = s.qps := by
  obtain ⟨_, _, e⟩ := s.send_eq m; rw [e]
@[simp] theorem State.send_boot (s : State) (m : OutMsg) : (s.send m).boot = s.boot := by
  obtain ⟨_, _, e⟩ := s.send_eq m; rw [e]
@[simp] theorem State.setSliceByte_variant (s : State) (t a : Nat) (b : Byte) : (s.setSliceByte t a b).variant = s.variant := rfl
@[simp] theorem State.setSliceByte_pending (s : State) (t a : Nat) (b : Byte) : (s.setSliceByte t a b).pending = s.pending := rfl
@[simp] theorem State.setSliceByte_freeCtr (s : State) (t a : Nat) (b : Byte) : (s.setSliceByte t a b).freeCtr = s.freeCtr := rfl
@[simp] theorem State.setSliceByte_out (s : State) (t a : Nat) (b : Byte) : (s.setSliceByte t a b).out = s.out := rfl
@[simp] theorem State.setSliceByte_regs (s : State) (t a : Nat) (b : Byte) : (s.setSliceByte t a b).regs = s.regs := rfl
@[simp] theorem State.setSliceByte_live (s : State) (t a : Nat) (b : Byte) : (s.setSliceByte t a b).live = s.live := rfl
@[simp] theorem State.setSliceByte_ctxs (s : State) (t a : Nat) (b : Byte) : (s.setSliceByte t a b).ctxs = s.ctxs := rfl
@[simp] theorem State.setSliceByte_time (s : State) (t a : Nat) (b : Byte) : (s.setSliceByte t a b).time = s.time := rfl
@[simp] theorem State.setSliceByte_dists (s : State) (t a : Nat) (b : Byte) : (s.setSliceByte t a b).dists = s.dists := rfl
@[simp] theorem State.setSliceByte_spindles (s : State) (t a : Nat) (b : Byte) : (s.setSliceByte t a b).spindles = s.spindles := rfl
@[simp] theorem State.setSliceByte_tiles (s : State) (t a : Nat) (b : Byte) : (s.setSliceByte t a b).tiles = s.tiles := rfl
@[simp] theorem State.setSliceByte_stackMem (s : State) (t a : Nat) (b : Byte) : (s.setSliceByte t a b).stackMem = s.stackMem := rfl
@[simp] theorem State.setSliceByte_warps (s : State) (t a : Nat) (b : Byte) : (s.setSliceByte t a b).warps = s.warps := rfl
@[simp] theorem State.setSliceByte_wefts (s : State) (t a : Nat) (b : Byte) : (s.setSliceByte t a b).wefts = s.wefts := rfl
@[simp] theorem State.setSliceByte_adapters (s : State) (t a : Nat) (b : Byte) : (s.setSliceByte t a b).adapters = s.adapters := rfl
@[simp] theorem State.setSliceByte_parts (s : State) (t a : Nat) (b : Byte) : (s.setSliceByte t a b).parts = s.parts := rfl
@[simp] theorem State.setSliceByte_integ (s : State) (t a : Nat) (b : Byte) : (s.setSliceByte t a b).integ = s.integ := rfl
@[simp] theorem State.setSliceByte_events (s : State) (t a : Nat) (b : Byte) : (s.setSliceByte t a b).events = s.events := rfl
@[simp] theorem State.setSliceByte_svcDue (s : State) (t a : Nat) (b : Byte) : (s.setSliceByte t a b).svcDue = s.svcDue := rfl
@[simp] theorem State.setSliceByte_lanes (s : State) (t a : Nat) (b : Byte) : (s.setSliceByte t a b).lanes = s.lanes := rfl
@[simp] theorem State.setSliceByte_shares (s : State) (t a : Nat) (b : Byte) : (s.setSliceByte t a b).shares = s.shares := rfl
@[simp] theorem State.setSliceByte_flits (s : State) (t a : Nat) (b : Byte) : (s.setSliceByte t a b).flits = s.flits := rfl
@[simp] theorem State.setSliceByte_serve (s : State) (t a : Nat) (b : Byte) : (s.setSliceByte t a b).serve = s.serve := rfl
@[simp] theorem State.setSliceByte_net (s : State) (t a : Nat) (b : Byte) : (s.setSliceByte t a b).net = s.net := rfl
@[simp] theorem State.setSliceByte_wgt (s : State) (t a : Nat) (b : Byte) : (s.setSliceByte t a b).wgt = s.wgt := rfl
@[simp] theorem State.setSliceByte_cal (s : State) (t a : Nat) (b : Byte) : (s.setSliceByte t a b).cal = s.cal := rfl
@[simp] theorem State.setSliceByte_power (s : State) (t a : Nat) (b : Byte) : (s.setSliceByte t a b).power = s.power := rfl
@[simp] theorem State.setSliceByte_qps (s : State) (t a : Nat) (b : Byte) : (s.setSliceByte t a b).qps = s.qps := rfl
@[simp] theorem State.setSliceByte_boot (s : State) (t a : Nat) (b : Byte) : (s.setSliceByte t a b).boot = s.boot := rfl
@[simp] theorem State.setStackByte_variant (s : State) (a : Nat) (b : Byte) : (s.setStackByte a b).variant = s.variant := rfl
@[simp] theorem State.setStackByte_pending (s : State) (a : Nat) (b : Byte) : (s.setStackByte a b).pending = s.pending := rfl
@[simp] theorem State.setStackByte_freeCtr (s : State) (a : Nat) (b : Byte) : (s.setStackByte a b).freeCtr = s.freeCtr := rfl
@[simp] theorem State.setStackByte_out (s : State) (a : Nat) (b : Byte) : (s.setStackByte a b).out = s.out := rfl
@[simp] theorem State.setStackByte_regs (s : State) (a : Nat) (b : Byte) : (s.setStackByte a b).regs = s.regs := rfl
@[simp] theorem State.setStackByte_live (s : State) (a : Nat) (b : Byte) : (s.setStackByte a b).live = s.live := rfl
@[simp] theorem State.setStackByte_ctxs (s : State) (a : Nat) (b : Byte) : (s.setStackByte a b).ctxs = s.ctxs := rfl
@[simp] theorem State.setStackByte_time (s : State) (a : Nat) (b : Byte) : (s.setStackByte a b).time = s.time := rfl
@[simp] theorem State.setStackByte_dists (s : State) (a : Nat) (b : Byte) : (s.setStackByte a b).dists = s.dists := rfl
@[simp] theorem State.setStackByte_spindles (s : State) (a : Nat) (b : Byte) : (s.setStackByte a b).spindles = s.spindles := rfl
@[simp] theorem State.setStackByte_tiles (s : State) (a : Nat) (b : Byte) : (s.setStackByte a b).tiles = s.tiles := rfl
@[simp] theorem State.setStackByte_slices (s : State) (a : Nat) (b : Byte) : (s.setStackByte a b).slices = s.slices := rfl
@[simp] theorem State.setStackByte_warps (s : State) (a : Nat) (b : Byte) : (s.setStackByte a b).warps = s.warps := rfl
@[simp] theorem State.setStackByte_wefts (s : State) (a : Nat) (b : Byte) : (s.setStackByte a b).wefts = s.wefts := rfl
@[simp] theorem State.setStackByte_adapters (s : State) (a : Nat) (b : Byte) : (s.setStackByte a b).adapters = s.adapters := rfl
@[simp] theorem State.setStackByte_parts (s : State) (a : Nat) (b : Byte) : (s.setStackByte a b).parts = s.parts := rfl
@[simp] theorem State.setStackByte_integ (s : State) (a : Nat) (b : Byte) : (s.setStackByte a b).integ = s.integ := rfl
@[simp] theorem State.setStackByte_events (s : State) (a : Nat) (b : Byte) : (s.setStackByte a b).events = s.events := rfl
@[simp] theorem State.setStackByte_svcDue (s : State) (a : Nat) (b : Byte) : (s.setStackByte a b).svcDue = s.svcDue := rfl
@[simp] theorem State.setStackByte_lanes (s : State) (a : Nat) (b : Byte) : (s.setStackByte a b).lanes = s.lanes := rfl
@[simp] theorem State.setStackByte_shares (s : State) (a : Nat) (b : Byte) : (s.setStackByte a b).shares = s.shares := rfl
@[simp] theorem State.setStackByte_flits (s : State) (a : Nat) (b : Byte) : (s.setStackByte a b).flits = s.flits := rfl
@[simp] theorem State.setStackByte_serve (s : State) (a : Nat) (b : Byte) : (s.setStackByte a b).serve = s.serve := rfl
@[simp] theorem State.setStackByte_net (s : State) (a : Nat) (b : Byte) : (s.setStackByte a b).net = s.net := rfl
@[simp] theorem State.setStackByte_wgt (s : State) (a : Nat) (b : Byte) : (s.setStackByte a b).wgt = s.wgt := rfl
@[simp] theorem State.setStackByte_cal (s : State) (a : Nat) (b : Byte) : (s.setStackByte a b).cal = s.cal := rfl
@[simp] theorem State.setStackByte_power (s : State) (a : Nat) (b : Byte) : (s.setStackByte a b).power = s.power := rfl
@[simp] theorem State.setStackByte_qps (s : State) (a : Nat) (b : Byte) : (s.setStackByte a b).qps = s.qps := rfl
@[simp] theorem State.setStackByte_boot (s : State) (a : Nat) (b : Byte) : (s.setStackByte a b).boot = s.boot := rfl
@[simp] theorem State.fresh_variant (s : State) : s.fresh.2.variant = s.variant := rfl
@[simp] theorem State.fresh_pending (s : State) : s.fresh.2.pending = s.pending := rfl
@[simp] theorem State.fresh_out (s : State) : s.fresh.2.out = s.out := rfl
@[simp] theorem State.fresh_regs (s : State) : s.fresh.2.regs = s.regs := rfl
@[simp] theorem State.fresh_live (s : State) : s.fresh.2.live = s.live := rfl
@[simp] theorem State.fresh_ctxs (s : State) : s.fresh.2.ctxs = s.ctxs := rfl
@[simp] theorem State.fresh_time (s : State) : s.fresh.2.time = s.time := rfl
@[simp] theorem State.fresh_dists (s : State) : s.fresh.2.dists = s.dists := rfl
@[simp] theorem State.fresh_spindles (s : State) : s.fresh.2.spindles = s.spindles := rfl
@[simp] theorem State.fresh_tiles (s : State) : s.fresh.2.tiles = s.tiles := rfl
@[simp] theorem State.fresh_slices (s : State) : s.fresh.2.slices = s.slices := rfl
@[simp] theorem State.fresh_stackMem (s : State) : s.fresh.2.stackMem = s.stackMem := rfl
@[simp] theorem State.fresh_warps (s : State) : s.fresh.2.warps = s.warps := rfl
@[simp] theorem State.fresh_wefts (s : State) : s.fresh.2.wefts = s.wefts := rfl
@[simp] theorem State.fresh_adapters (s : State) : s.fresh.2.adapters = s.adapters := rfl
@[simp] theorem State.fresh_parts (s : State) : s.fresh.2.parts = s.parts := rfl
@[simp] theorem State.fresh_integ (s : State) : s.fresh.2.integ = s.integ := rfl
@[simp] theorem State.fresh_events (s : State) : s.fresh.2.events = s.events := rfl
@[simp] theorem State.fresh_svcDue (s : State) : s.fresh.2.svcDue = s.svcDue := rfl
@[simp] theorem State.fresh_lanes (s : State) : s.fresh.2.lanes = s.lanes := rfl
@[simp] theorem State.fresh_shares (s : State) : s.fresh.2.shares = s.shares := rfl
@[simp] theorem State.fresh_flits (s : State) : s.fresh.2.flits = s.flits := rfl
@[simp] theorem State.fresh_serve (s : State) : s.fresh.2.serve = s.serve := rfl
@[simp] theorem State.fresh_net (s : State) : s.fresh.2.net = s.net := rfl
@[simp] theorem State.fresh_wgt (s : State) : s.fresh.2.wgt = s.wgt := rfl
@[simp] theorem State.fresh_cal (s : State) : s.fresh.2.cal = s.cal := rfl
@[simp] theorem State.fresh_power (s : State) : s.fresh.2.power = s.power := rfl
@[simp] theorem State.fresh_qps (s : State) : s.fresh.2.qps = s.qps := rfl
@[simp] theorem State.fresh_boot (s : State) : s.fresh.2.boot = s.boot := rfl
@[simp] theorem State.fresh_freeCtr (s : State) : s.fresh.2.freeCtr = s.freeCtr + 1 := rfl

end Sys2Proof.Machine
end

