-- ==== Sys2Proof/Laws/Events.lean ====
section
/-! SUPPORT. What raising an event does, and what it leaves alone (R593-R597). -/

namespace Sys2Proof.Machine

variable {L : List Nat} {s0 s : State}

theorem OnlyEvents.refl : OnlyEvents L s s := ⟨fun _ _ _ _ _ => rfl, fun _ _ => rfl, rfl⟩
theorem OnlyEvents.setReg (a i v : Nat) (ha : a / 2 ^ 20 = Reg.cntStatus / 2 ^ 20 ∨ a ∈ L) (hb : a < 2 ^ 24) (h : OnlyEvents L s0 s) :
    OnlyEvents L s0 (s.setReg a i v) :=
  { h with
    regs := fun b j hb' hc hr => by
      rw [State.reg_setReg_ne, h.regs b j hb' hc hr]
      unfold regKey
      have hne : b ≠ a := fun e => by subst e; exact ha.elim hc hr
      omega }
theorem OnlyEvents.setFld (a i hi lo v : Nat) (ha : a / 2 ^ 20 = Reg.cntStatus / 2 ^ 20 ∨ a ∈ L) (hb : a < 2 ^ 24)
    (h : OnlyEvents L s0 s) : OnlyEvents L s0 (s.setFld a i hi lo v) := h.setReg a i _ ha hb
theorem OnlyEvents.setBit (a i b : Nat) (ha : a / 2 ^ 20 = Reg.cntStatus / 2 ^ 20 ∨ a ∈ L) (hb : a < 2 ^ 24) (h : OnlyEvents L s0 s) :
    OnlyEvents L s0 (s.setBit a i b) := h.setReg a i _ ha hb
theorem OnlyEvents.bump (a i n : Nat) (ha : a / 2 ^ 20 = Reg.cntStatus / 2 ^ 20 ∨ a ∈ L) (hb : a < 2 ^ 24) (h : OnlyEvents L s0 s) :
    OnlyEvents L s0 (s.bump a i n) := h.setReg a i _ ha hb
theorem OnlyEvents.events (e : EventSt) (h : OnlyEvents L s0 s) : OnlyEvents L s0 { s with events := e } := { h with }
theorem OnlyEvents.modHank (f : HankQ → HankQ) (h : OnlyEvents L s0 s) : OnlyEvents L s0 (s.modHank 16 f) :=
  { h with queues := fun q hq => by rw [State.hank_modHank_ne _ _ hq, h.queues q hq] }
theorem OnlyEvents.foldl {α : Type} (f : State → α → State) (hf : ∀ s x, OnlyEvents L s0 s → OnlyEvents L s0 (f s x)) (l : List α)
    (h : OnlyEvents L s0 s) : OnlyEvents L s0 (l.foldl f s) := by
  induction l generalizing s with
  | nil => exact h
  | cons x l ih => exact ih (hf s x h)
theorem OnlyEvents.ite {c : Prop} [Decidable c] {a b : State} (ha : OnlyEvents L s0 a) (hb : OnlyEvents L s0 b) :
    OnlyEvents L s0 (if c then a else b) := by
  split
  · exact ha
  · exact hb
theorem OnlyEvents.pushMsg (a b : Nat) (l : Bytes) (h : OnlyEvents L s0 s) : OnlyEvents L s0 (s.pushMsg 16 a b l) := by
  unfold State.pushMsg
  exact OnlyEvents.foldl _ (fun s w h => h.modHank _) _ h
theorem OnlyEvents.pushEvent (a : Nat) (l : List Bytes) (h : OnlyEvents L s0 s) : OnlyEvents L s0 (s.pushEvent a l) := by
  unfold State.pushEvent
  dsimp only
  split
  · exact OnlyEvents.events _ (h.pushMsg _ _ _)
  · have h1 := h.bump Reg.cntEvqDropCnt 0 1 (.inl (by decide)) (by decide)
    exact (h1.setBit Reg.cntStatus 0 0 (.inl (by decide)) (by decide)).events _
theorem OnlyEvents.logRecord (c : Nat) (r : Bytes) (h : OnlyEvents L s0 s) : OnlyEvents L s0 (s.logRecord c r) := by
  unfold State.logRecord
  split
  · exact h.events _
  · split
    · exact h.bump Reg.cntLogDropCnt 0 1 (.inl (by decide)) (by decide)
    · exact h.events _
/-- Raising an event changes the event machinery, the CNT registers and the event queue alone. -/
theorem OnlyEvents.raiseIn (a c src : Nat) (d : Bytes) (h : OnlyEvents L s0 s) : OnlyEvents L s0 (s.raiseIn a c src d) := by
  unfold State.raiseIn
  have h1 := (h.setReg Reg.cntEventSeq 0 s.events.seq.toNat (.inl (by decide)) (by decide)).events { s.events with seq := s.events.seq + 1 }
  have h2 : ∀ rs : List Bytes, OnlyEvents L s0 (rs.foldl (fun s r => s.logRecord c r)
      { s.setReg Reg.cntEventSeq 0 s.events.seq.toNat with events := { s.events with seq := s.events.seq + 1 } }) := fun rs =>
    OnlyEvents.foldl _ (fun s r h => h.logRecord _ _) _ h1
  refine OnlyEvents.ite (OnlyEvents.pushEvent _ _ (h2 _)) (OnlyEvents.ite (h2 _) ?_)
  exact OnlyEvents.events _ (h2 _)

/-- A record that the log takes. -/
theorem logRecord_log (c : Nat) (r : Bytes) (h : s.events.budget ≠ 0) :
    (s.logRecord c r).events.log = (r :: s.events.log).take 2097152 ∧ (s.logRecord c r).events.seq = s.events.seq ∧
      (s.logRecord c r).time = s.time ∧ s.events.budget ≤ (s.logRecord c r).events.budget + 1 := by
  unfold State.logRecord
  split
  · exact ⟨rfl, rfl, rfl, Nat.le_succ _⟩
  · exact ⟨rfl, rfl, rfl, by show s.events.budget ≤ s.events.budget - 1 + 1; omega⟩
theorem logRecord_seq (c : Nat) (r : Bytes) : (s.logRecord c r).events.seq = s.events.seq ∧ (s.logRecord c r).time = s.time := by
  unfold State.logRecord
  split
  · exact ⟨rfl, rfl⟩
  · split <;> exact ⟨rfl, rfl⟩
theorem foldl_logRecord_seq (c : Nat) (l : List Bytes) :
    (l.foldl (fun s r => s.logRecord c r) s).events.seq = s.events.seq ∧ (l.foldl (fun s r => s.logRecord c r) s).time = s.time := by
  induction l generalizing s with
  | nil => exact ⟨rfl, rfl⟩
  | cons r l ih => exact ⟨ih.1.trans (logRecord_seq c r).1, ih.2.trans (logRecord_seq c r).2⟩
theorem pushMsg_events (q a b : Nat) (l : Bytes) : (s.pushMsg q a b l).events = s.events ∧ (s.pushMsg q a b l).time = s.time := by
  unfold State.pushMsg
  generalize lengthWord l.length a b :: wordsOf l = ws
  induction ws generalizing s with
  | nil => exact ⟨rfl, rfl⟩
  | cons w ws ih => exact ih
theorem pushEvent_events (a : Nat) (l : List Bytes) : (s.pushEvent a l).events.seq = s.events.seq ∧
    (s.pushEvent a l).events.log = s.events.log ∧ (s.pushEvent a l).time = s.time := by
  unfold State.pushEvent
  dsimp only
  split
  · simp only [(pushMsg_events (s := s) 16 a 6 _).1]
    exact ⟨trivial, trivial, (pushMsg_events 16 a 6 _).2⟩
  · exact ⟨rfl, rfl, rfl⟩

theorem natLe_length (v n : Nat) : (natLe v n).length = n := by
  induction n generalizing v with
  | zero => rfl
  | succ n ih => simp [natLe, ih]
theorem byteAt_append_right (a b : Bytes) (i : Nat) : byteAt (a ++ b) (a.length + i) = byteAt b i := by
  unfold byteAt
  simp [List.getElem?_append_right]
theorem leNat_append_right (a b : Bytes) (i n : Nat) : leNat (a ++ b) (a.length + i) n = leNat b i n := by
  induction n generalizing i with
  | zero => rfl
  | succ n ih => simp only [leNat, byteAt_append_right]; rw [Nat.add_assoc, ih]
theorem leNat_natLe (v n : Nat) (l : Bytes) (h : v < 256 ^ n) : leNat (natLe v n ++ l) 0 n = v := by
  induction n generalizing v with
  | zero => simp at h; simp [leNat, h]
  | succ n ih =>
    have h2 := leNat_append_right [BitVec.ofNat 8 v] (natLe (v / 256) n ++ l) 0 n
    simp only [List.length_singleton, Nat.add_zero, List.singleton_append] at h2
    simp only [leNat, natLe, List.cons_append, Nat.zero_add]
    rw [h2, ih _ (by rw [Nat.pow_succ] at h; omega)]
    simp [byteAt]
    omega
theorem natLe_append_skip (v n k : Nat) (l : Bytes) (i : Nat) : leNat (natLe v n ++ l) (n + i) k = leNat l i k := by
  have h := leNat_append_right (natLe v n) l i k
  rwa [natLe_length] at h
/-- A field of a record, each part of known length. -/
theorem record_fields (c f src q t : Nat) (d : Bytes) (hc : c < 65536) (hq : q < 2 ^ 32) (ht : t < 2 ^ 64) :
    let r := natLe c 2 ++ natLe f 1 ++ natLe src 1 ++ natLe q 4 ++ natLe t 8 ++ padTo 16 d
    leNat r 0 2 = c ∧ leNat r 4 4 = q ∧ leNat r 8 8 = t ∧ r.drop 16 = padTo 16 d := by
  simp only [List.append_assoc]
  refine ⟨leNat_natLe _ _ _ hc, ?_, ?_, ?_⟩
  · rw [natLe_append_skip c 2 4 _ 2, natLe_append_skip f 1 4 _ 1, natLe_append_skip src 1 4 _ 0]
    exact leNat_natLe _ _ _ (by omega)
  · rw [natLe_append_skip c 2 8 _ 6, natLe_append_skip f 1 8 _ 5, natLe_append_skip src 1 8 _ 4, natLe_append_skip q 4 8 _ 0]
    exact leNat_natLe _ _ _ (by omega)
  · rfl

/-- Every event is raised with its own SEQ and stamp. -/
theorem raiseIn_raised (a c src : Nat) (d : Bytes) (hc : c < 65536) : Raised s (s.raiseIn a c src d) c d := by
  have key : ∀ (u : State) (rs : List Bytes), 2 ≤ u.events.budget → rs.length ≤ 2 → ∀ r ∈ rs,
      r ∈ ((rs.foldl (fun s r => s.logRecord c r) u).events.log).take 2 := by
    intro u rs hb hl r hr
    match rs, hl with
    | [x], _ =>
      simp only [List.mem_singleton] at hr; subst hr
      simp only [List.foldl]
      rw [(logRecord_log c r (by omega)).1]; simp
    | [x, y], _ =>
      simp only [List.foldl]
      have h1 := logRecord_log (s := u) c x (by omega)
      rw [(logRecord_log c y (by omega)).1, h1.1]
      simp at hr
      rcases hr with rfl | rfl <;> simp
  have fin : ∀ (flags : Nat) (u v : State), u.events.seq = s.events.seq + 1 → u.time = s.time → u.events.budget = s.events.budget →
      v.events.seq = ((eventRecords c flags src s.events.seq s.time.cnt d).foldl (fun s r => s.logRecord c r) u).events.seq →
      v.events.log = ((eventRecords c flags src s.events.seq s.time.cnt d).foldl (fun s r => s.logRecord c r) u).events.log →
      v.time = ((eventRecords c flags src s.events.seq s.time.cnt d).foldl (fun s r => s.logRecord c r) u).time →
      Raised s v c d := by
    intro flags u v h1 h2 h3 h4 h5 h6
    refine ⟨by rw [h4, (foldl_logRecord_seq c _).1, h1], fun hb => ?_⟩
    rw [h5, h6, (foldl_logRecord_seq c _).2, h2]
    refine ⟨_, key u _ (by omega) ?_ _ List.mem_cons_self, record_fields _ _ _ _ _ _ hc s.events.seq.isLt s.time.cnt.isLt⟩
    unfold eventRecords
    dsimp only
    split <;> simp
  unfold State.raiseIn
  dsimp only
  generalize (if s.events.running = true ∨ (s.fld Reg.cfgStatus 0 5 5 == 1) = true then 0 else 4) = flags
  have g := fin flags { s.setReg Reg.cntEventSeq 0 s.events.seq.toNat with events := { s.events with seq := s.events.seq + 1 } }
  split
  · exact g _ rfl rfl rfl (pushEvent_events _ _).1 (pushEvent_events _ _).2.1 (pushEvent_events _ _).2.2
  · split
    · exact g _ rfl rfl rfl rfl rfl rfl
    · exact g _ rfl rfl rfl rfl rfl rfl

end Sys2Proof.Machine
end

