-- ==== Sys2Proof/Laws/Issue.lean ====
section
/-! SUPPORT. The issue slot of a Spindle: what a ready word's slot answers, what slot accounting leaves alone, what retiring does. -/

namespace Sys2Proof.Machine

/-! ## What accounting leaves alone -/

variable {R : Nat → Bool} {s0 s : State} {p t : Nat}

theorem SlotFrame.refl : SlotFrame R s s p t :=
  ⟨fun _ _ _ _ => rfl, fun _ _ => rfl, fun _ _ => rfl, rfl, fun _ => rfl, fun _ _ => rfl, rfl⟩

/-- A register of `R` may be written. -/
theorem SlotFrame.setReg (a i v : Nat) (ha : R a = true) (hb : a < 2 ^ 24) (h : SlotFrame R s0 s p t) :
    SlotFrame R s0 (s.setReg a i v) p t :=
  { h with
    regs := fun b j hb' hr => by
      rw [State.reg_setReg_ne, h.regs b j hb' hr]
      unfold regKey
      have hne : b ≠ a := fun e => by subst e; simp [ha] at hr
      omega }
theorem SlotFrame.setFld (a i hi lo v : Nat) (ha : R a = true) (hb : a < 2 ^ 24) (h : SlotFrame R s0 s p t) :
    SlotFrame R s0 (s.setFld a i hi lo v) p t := h.setReg a i _ ha hb
theorem SlotFrame.setBit (a i b : Nat) (ha : R a = true) (hb : a < 2 ^ 24) (h : SlotFrame R s0 s p t) :
    SlotFrame R s0 (s.setBit a i b) p t := h.setReg a i _ ha hb
theorem SlotFrame.bump (a i n : Nat) (ha : R a = true) (hb : a < 2 ^ 24) (h : SlotFrame R s0 s p t) :
    SlotFrame R s0 (s.bump a i n) p t := h.setReg a i _ ha hb
/-- The event machinery may change. -/
theorem SlotFrame.events (e : EventSt) (h : SlotFrame R s0 s p t) : SlotFrame R s0 { s with events := e } p t := { h with }
/-- The tile's own Spindle may change. -/
theorem SlotFrame.modSpin (f : Spindle → Spindle) (h : SlotFrame R s0 s p t) : SlotFrame R s0 (s.modSpin t f) p t :=
  { h with spins := fun u hu => by rw [State.spin_modSpin_ne _ _ hu, h.spins u hu] }
/-- Whether the partition waits may change. -/
theorem SlotFrame.modPart (b c : Bool) (h : SlotFrame R s0 s p t) :
    SlotFrame R s0 (s.modPart p fun q => { q with stopped := b, told := c }) p t :=
  { h with
    parts := fun q hq => by rw [State.part_modPart_ne _ _ hq, h.parts q hq]
    part := by rw [State.part_modPart_self]; have := h.part; rw [this] }
/-- The event queue may change. -/
theorem SlotFrame.modHank (f : HankQ → HankQ) (h : SlotFrame R s0 s p t) : SlotFrame R s0 (s.modHank 16 f) p t :=
  { h with queues := fun q hq => by rw [State.hank_modHank_ne _ _ hq, h.queues q hq] }
/-- Event counters may change. -/
theorem SlotFrame.modTile (k : Nat) (f : PhysTile → PhysTile) (hf : ∀ x, (f x).besideCnt = x.besideCnt) (h : SlotFrame R s0 s p t) :
    SlotFrame R s0 (s.modTile k f) p t :=
  { h with
    tiles := fun q => by
      by_cases e : q = k
      · subst e; rw [State.tile_modTile_self, hf, h.tiles]
      · rw [State.tile_modTile_ne _ _ e, h.tiles q] }
theorem SlotFrame.foldl {α : Type} (f : State → α → State) (hf : ∀ s x, SlotFrame R s0 s p t → SlotFrame R s0 (f s x) p t)
    (l : List α) (h : SlotFrame R s0 s p t) : SlotFrame R s0 (l.foldl f s) p t := by
  induction l generalizing s with
  | nil => exact h
  | cons x l ih => exact ih (hf s x h)

theorem SlotFrame.ite {c : Prop} [Decidable c] {a b : State} (ha : SlotFrame R s0 a p t) (hb : SlotFrame R s0 b p t) :
    SlotFrame R s0 (if c then a else b) p t := by
  split
  · exact ha
  · exact hb

theorem addCnt_beside (x : PhysTile) (n k : Nat) : (x.addCnt n k).besideCnt = x.besideCnt := rfl

theorem SlotFrame.countO (k n m : Nat) (h : SlotFrame R s0 s p t) : SlotFrame R s0 (s.countO k n m) p t := by
  unfold State.countO
  split
  · exact h
  · exact h.modTile _ _ fun x => rfl
theorem slotFold_beside (l : List Nat) (x y : PhysTile) (h : y.besideCnt = x.besideCnt) :
    (l.foldl (fun q n => if q.mode n = 1 ∨ n ∉ x.prev then q.addCnt n 1 else q) y).besideCnt = x.besideCnt := by
  induction l generalizing y with
  | nil => exact h
  | cons n l ih =>
    apply ih
    dsimp only
    split
    · exact h
    · exact h
theorem SlotFrame.slotOf (l : List Nat) (h : SlotFrame R s0 s p t) : SlotFrame R s0 (s.slotOf t l) p t := by
  unfold State.slotOf State.slotConds
  exact SlotFrame.modSpin _ (h.modTile _ _ fun x => slotFold_beside _ x x rfl)
theorem SlotFrame.slotsOf (l : List Nat) (n : Nat) (h : SlotFrame R s0 s p t) : SlotFrame R s0 (s.slotsOf t l n) p t :=
  SlotFrame.foldl _ (fun _ _ h => h.slotOf l) _ h

/-- Registers that slots count in belong to `R`. -/
def SlotRegs (R : Nat → Bool) : Prop := ∀ a, slotReg a = true → R a = true

theorem SlotFrame.pushMsg (a b : Nat) (l : Bytes) (h : SlotFrame R s0 s p t) : SlotFrame R s0 (s.pushMsg 16 a b l) p t := by
  unfold State.pushMsg
  exact SlotFrame.foldl _ (fun s w h => h.modHank _) _ h
theorem SlotFrame.pushEvent (hR : SlotRegs R) (a : Nat) (l : List Bytes) (h : SlotFrame R s0 s p t) :
    SlotFrame R s0 (s.pushEvent a l) p t := by
  unfold State.pushEvent
  dsimp only
  split
  · exact SlotFrame.events _ (h.pushMsg _ _ _)
  · exact ((h.bump _ _ _ (hR _ rfl) (by decide)).setBit _ _ _ (hR _ rfl) (by decide)).events _
theorem SlotFrame.logRecord (hR : SlotRegs R) (c : Nat) (r : Bytes) (h : SlotFrame R s0 s p t) :
    SlotFrame R s0 (s.logRecord c r) p t := by
  unfold State.logRecord
  split
  · exact h.events _
  · split
    · exact h.bump _ _ _ (hR _ rfl) (by decide)
    · exact h.events _
theorem SlotFrame.raiseIn (hR : SlotRegs R) (a c src : Nat) (d : Bytes) (h : SlotFrame R s0 s p t) :
    SlotFrame R s0 (s.raiseIn a c src d) p t := by
  unfold State.raiseIn
  have h2 : ∀ rs : List Bytes, SlotFrame R s0 (rs.foldl (fun s r => s.logRecord c r)
      { s.setReg Reg.cntEventSeq 0 s.events.seq.toNat with events := { s.events with seq := s.events.seq + 1 } }) p t := fun rs =>
    SlotFrame.foldl _ (fun s r h => h.logRecord hR c r) rs ((h.setReg _ _ _ (hR _ rfl) (by decide)).events _)
  exact SlotFrame.ite ((h2 _).pushEvent hR _ _) (SlotFrame.ite (h2 _) (SlotFrame.events _ (h2 _)))

theorem halfOf_le (ht : t < 4096) : halfOf t ≤ 1 := by unfold halfOf; omega

theorem slotReg_samp (c k : Nat) (hk : k ≤ 1) (hc : c = Reg.cntSampStat ∨ c = Reg.cntSampLost) :
    slotReg (c + 32 * k) = true ∧ c + 32 * k < 2 ^ 24 := by
  have : k = 0 ∨ k = 1 := by omega
  rcases this with rfl | rfl <;> rcases hc with rfl | rfl <;> exact ⟨rfl, by decide⟩

theorem SlotFrame.stopSampling (hR : SlotRegs R) (k : Nat) (hk : k ≤ 1) (h : SlotFrame R s0 s p t) :
    SlotFrame R s0 (s.stopSampling k) p t := by
  unfold State.stopSampling
  have hs := slotReg_samp Reg.cntSampStat k hk (.inl rfl)
  split
  · exact h
  · exact (h.setBit _ _ _ (hR _ hs.1) hs.2).raiseIn hR _ _ _ _
theorem SlotFrame.pushSample (hR : SlotRegs R) (k : Nat) (r : Bytes) (hk : k ≤ 1) (h : SlotFrame R s0 s p t) :
    SlotFrame R s0 (s.pushSample k r) p t := by
  unfold State.pushSample
  have hl := slotReg_samp Reg.cntSampLost k hk (.inr rfl)
  have lost : ∀ {s}, SlotFrame R s0 s p t → SlotFrame R s0 ((s.bump (Reg.cntSampLost + 32 * k)).setBit Reg.cntStatus 0 1) p t :=
    fun h => (h.bump _ _ _ (hR _ hl.1) hl.2).setBit _ _ _ (hR _ rfl) (by decide)
  exact SlotFrame.ite (SlotFrame.ite (SlotFrame.stopSampling hR k hk (h.events _)) (h.events _))
    (SlotFrame.ite (lost (h.stopSampling hR k hk)) (h.events _))
theorem SlotFrame.sample (hR : SlotRegs R) (w : DWord) (wd : SMap Nat) (tn : DWord) (q : Nat) (ht : t < 4096)
    (h : SlotFrame R s0 s p t) : SlotFrame R s0 (s.sample q t w wd tn) p t := by
  unfold State.sample
  dsimp only
  split
  · split
    · exact (h.modSpin _).pushSample hR _ _ (halfOf_le ht)
    · exact h.modSpin _
  · exact h
theorem SlotFrame.wdgTick (hR : SlotRegs R) (q u : Nat) (h : SlotFrame R s0 s p t) : SlotFrame R s0 (s.wdgTick q u) p t := by
  unfold State.wdgTick
  exact SlotFrame.ite (h.setFld _ _ _ _ _ (hR _ rfl) (by decide)) h
theorem SlotFrame.progress (hR : SlotRegs R) (h : SlotFrame R s0 s p t) : SlotFrame R s0 (s.progress p) p t :=
  (h.modPart false false).setFld _ _ _ _ _ (hR _ rfl) (by decide)
theorem SlotFrame.retire (hR : SlotRegs R) (w : DWord) (n c : Nat) (ht : t < 4096) (h : SlotFrame R s0 s p t) :
    SlotFrame R s0 (s.retire p t w n c) p t := by
  unfold State.retire
  have h1 : ∀ k m, SlotFrame R s0 (((s.countO (s.physOf t) (16 + wCls w) 1).countO (s.physOf t) k m).slotsOf t [c] n) p t := fun k m =>
    ((h.countO _ _ _).countO _ _ _).slotsOf _ _
  split
  · exact ((h1 _ _).modSpin _).wdgTick hR _ _
  · exact (((h1 _ _).sample hR _ _ _ _ ht).modSpin _).progress hR

/-! ## What retiring does to the tile's own Spindle -/

theorem slotRegs_all : SlotRegs fun _ => true := fun _ _ => rfl

/-- `b` is `a` but for what its issued instructions hold, the Turns seen and the sampling count, which passing slots change. -/
def SlotsPass (a b : Spindle) : Prop :=
  ∃ h u l m k, b = { a with holds := h, uses := u, lineUses := l, minSeen := m, samp := k }
theorem SlotsPass.rfl (a : Spindle) : SlotsPass a a := ⟨_, _, _, _, _, Eq.refl _⟩
theorem SlotsPass.trans {a b c : Spindle} : SlotsPass a b → SlotsPass b c → SlotsPass a c := by
  rintro ⟨_, _, _, _, _, rfl⟩ ⟨h, u, l, m, k, rfl⟩
  exact ⟨h, u, l, m, k, Eq.refl _⟩
theorem SlotsPass.retired {a b : Spindle} (n : Nat) : SlotsPass a b → SlotsPass (a.retired n) (b.retired n) := by
  rintro ⟨h, u, l, m, k, rfl⟩
  exact ⟨h, u, l, m, k, Eq.refl _⟩
theorem SlotsPass.claim (a : Spindle) (w : DWord) (i : Issue) : SlotsPass a (a.claim w i) := ⟨_, _, _, _, _, Eq.refl _⟩

theorem countO_spin (k n m u : Nat) : (s.countO k n m).spin u = s.spin u :=
  (SlotFrame.refl (R := fun _ => true) (p := 0) (t := u + 1)).countO k n m |>.spins u (by omega)
theorem slotOf_spin (l : List Nat) : SlotsPass (s.spin t) ((s.slotOf t l).spin t) := by
  unfold State.slotOf
  dsimp only
  rw [State.spin_modSpin_self]
  exact ⟨_, _, _, _, _, rfl⟩
theorem slotsOf_spin (l : List Nat) (n : Nat) : SlotsPass (s.spin t) ((s.slotsOf t l n).spin t) := by
  unfold State.slotsOf
  generalize List.range n = ks
  induction ks generalizing s with
  | nil => exact SlotsPass.rfl _
  | cons k ks ih => exact (slotOf_spin l).trans ih
theorem pushSample_spin (k u : Nat) (r : Bytes) (hk : k ≤ 1) : (s.pushSample k r).spin u = s.spin u :=
  (SlotFrame.refl (R := fun _ => true) (p := 0) (t := u + 1)).pushSample slotRegs_all k r hk |>.spins u (by omega)
theorem sample_spin (w : DWord) (wd : SMap Nat) (tn : DWord) (ht : t < 4096) : SlotsPass (s.spin t) ((s.sample p t w wd tn).spin t) := by
  unfold State.sample
  dsimp only
  split
  · split
    · rw [pushSample_spin _ _ _ (halfOf_le ht), State.spin_modSpin_self]; exact ⟨_, _, _, _, _, rfl⟩
    · rw [State.spin_modSpin_self]; exact ⟨_, _, _, _, _, rfl⟩
  · exact SlotsPass.rfl _
theorem wdgTick_spin (q v u : Nat) : (s.wdgTick q v).spin u = s.spin u := by
  unfold State.wdgTick
  dsimp only
  split <;> rfl
theorem progress_spin (q u : Nat) : (s.progress q).spin u = s.spin u := rfl

/-- The tile's Spindle after a word has retired. -/
theorem retire_spin (w : DWord) (n c : Nat) (ht : t < 4096) : SlotsPass ((s.spin t).retired n) ((s.retire p t w n c).spin t) := by
  unfold State.retire
  have h1 : ∀ k m, SlotsPass (s.spin t) ((((s.countO (s.physOf t) (16 + wCls w) 1).countO (s.physOf t) k m).slotsOf t [c] n).spin t) := by
    intro k m
    have h := slotsOf_spin (s := (s.countO (s.physOf t) (16 + wCls w) 1).countO (s.physOf t) k m) (t := t) [c] n
    rwa [countO_spin, countO_spin] at h
  dsimp only
  by_cases hc : c = 1
  · simp only [hc, if_true, wdgTick_spin, State.spin_modSpin_self]
    simp only [hc] at h1
    exact (h1 _ _).retired n
  · simp only [hc, if_false, progress_spin, State.spin_modSpin_self]
    exact ((h1 _ _).trans (sample_spin _ _ _ ht)).retired n

/-! ## The slot of a ready word -/

theorem turnsOf_pos (w : DWord) : 1 ≤ turnsOf w := by
  unfold turnsOf
  split <;> omega
/-- With room for the word by the oldest value, nothing hangs on the value that the tree delivers. -/
theorem ReadyAt.closed {w : DWord} {n : Nat} (h : ReadyAt s t p w) (hn : n ≤ turnsOf w) : s.leadOpen p t n = false := by
  unfold State.leadOpen
  split
  · rename_i e
    have := h.lead _ e
    simp only [decide_eq_false_iff_not]
    omega
  · rfl
theorem ReadyAt.room {w : DWord} (h : ReadyAt s t p w) {r : Nat} (e : s.leadRoom p t 1 = some r) : r ≠ 0 := by
  unfold State.leadRoom at e
  rw [h.closed (turnsOf_pos w)] at e
  cases hl : s.leadRooms p t with
  | none => rw [hl] at e; cases e
  | some x =>
    rw [hl] at e
    simp only [Option.map_some, Bool.false_and, Bool.false_eq_true, if_false] at e
    cases e
    have := h.lead _ hl
    have := turnsOf_pos w
    omega
theorem meetAny_nil (a : List (Nat × Nat)) : meetAny a [] = false := by
  unfold meetAny
  simp
theorem ReadyAt.noHazard {w : DWord} (h : ReadyAt s t p w) (i : Issue) :
    (s.spin t).passWait i = false ∧ (s.spin t).hazard w i = false := by
  have hp : (s.spin t).passRegs = [] := by unfold Spindle.passRegs; rw [h.passes]; rfl
  have hr : (s.spin t).recvRegs = [] := by unfold Spindle.recvRegs; rw [h.recvs]; rfl
  have hl : (s.spin t).busyLines = [] := by unfold Spindle.busyLines; rw [h.recvs, h.lands]; rfl
  refine ⟨by unfold Spindle.passWait; rw [hp]; exact meetAny_nil _, ?_⟩
  unfold Spindle.hazard Spindle.regHazard Spindle.lineHazard
  simp [hp, hr, hl, meetAny_nil, h.free.2.1, h.free.2.2]

/-- A ready word with nothing to fault on and nothing to wait for takes what it holds, has its effect and retires. -/
theorem issue_ready {w : DWord} (f : State → Nat → Issue) (h : ReadyAt s t p w) (hf : (f s p).fault = none)
    (hw : (f s p).wait = none) :
    s.issue t w f =
      (f s p).post (((f s p).eff ((s.charge t w).modSpin t fun sp => sp.claim w (f s p))).retire p t w (f s p).turns 0) := by
  have hdue : s.sendDue p t = s := by unfold State.sendDue; rw [h.due]
  have hstop : s.stopReached p t = (false, s) := by unfold State.stopReached; simp [h.run]
  have hgrant : (s.spin t).grantFault w = none := by
    unfold Spindle.grantFault
    have := h.grant
    rw [if_neg]
    simp; omega
  have hclash : (s.spin t).clash ((s.spin t).holdsFor w (f s p)) = none := by
    unfold Spindle.clash
    simp [h.free.1]
  have hlead : (s.leadRoom p t 1 == some 0) = false := by
    rw [beq_eq_false_iff_ne]
    exact fun e => h.room e rfl
  have htok : decide ((s.spin t).tokens < tokenCost w ∨ (tokenCost w ≠ 0 ∧ (s.spin t).granted = false)) = false := by
    rw [decide_eq_false_iff_not]
    rintro (h1 | ⟨h1, h2⟩)
    · exact absurd h.tokens (by omega)
    · rw [h.granted h1] at h2; cases h2
  have hwait : s.firstWait p t w (f s p) = none := by
    unfold State.firstWait
    simp only [hw, hlead, hclash, htok]
    rfl
  have hprog : (s.part p).prog.isNone = false := by have := h.prog; cases hx : (s.part p).prog <;> simp_all
  unfold State.issue
  simp only [h.loaded, hprog, hdue, hstop, h.fetched, h.parity, h.legal, h.squash, h.entry, h.going, h.closed (Nat.le_refl _)]
  simp [State.issueWord, (h.noHazard (f s p)).1, (h.noHazard (f s p)).2, hf, hgrant, hwait, firstFault]

theorem tileOk_lt (h : tileOk t = true) : t < 4096 := by unfold tileOk at h; simp at h; exact h.1

/-- The command of a ready word answers the state after its effect has retired. -/
theorem instr_ready {b : BitVec 12} {w : DWord} (f : State → Nat → Nat → Issue) (h : ReadyAt s b.toNat p w)
    (hf : (f s p b.toNat).fault = none) (hw : (f s p b.toNat).wait = none) :
    instr s b w f = .next ((f s p b.toNat).post (((f s p b.toNat).eff ((s.charge b.toNat w).modSpin b.toNat fun sp =>
      sp.claim w (f s p b.toNat))).retire p b.toNat w (f s p b.toNat).turns 0)) := by
  unfold instr
  rw [if_pos h.tile, issue_ready (fun s p => f s p b.toNat) h hf hw]

theorem charge_spin (w : DWord) (u : Nat) :
    (s.charge t w).spin u = if u = t then { s.spin t with tokens := (s.spin t).tokens - tokenCost w } else s.spin u := by
  unfold State.charge
  split
  · rename_i h
    split
    · rename_i e; subst e; rw [h]; rfl
    · rfl
  · split
    · rename_i e; subst e; exact State.spin_modSpin_self _ _ _
    · rename_i e; exact State.spin_modSpin_ne _ _ e
theorem SlotFrame.charge (w : DWord) (h : SlotFrame R s0 s p t) : SlotFrame R s0 (s.charge t w) p t := by
  unfold State.charge
  exact SlotFrame.ite h (h.modSpin _)

/-! ## Words that retire -/

/-- Index registers follow from the field that holds them. -/
theorem Spindle.xr_congr {a b : Spindle} {i : Nat} (h : a.x = b.x) : a.xr i = b.xr i := by unfold Spindle.xr; rw [h]
theorem Spindle.xr_setX (sp : Spindle) (xd v i : Nat) : (sp.setX xd v).xr i = if i = xd ∧ i ≠ 0 then v % 2^32 else sp.xr i := by
  unfold Spindle.setX Spindle.xr
  by_cases h0 : i = 0
  · simp [h0]
  · by_cases hx : xd = 0
    · subst hx; simp [h0]
    · simp only [h0, hx, if_false]
      by_cases e : i = xd
      · subst e; simp [h0]
      · simp [e, SMap_get_set_ne _ _ _ e]

theorem charge_spin_self (s : State) (t : Nat) (w : DWord) : (s.charge t w).spin t = (s.spin t).spend (tokenCost w) := by
  rw [charge_spin, if_pos rfl]; rfl
theorem slotRegs_slot : SlotRegs slotReg := fun _ h => h

/-- The state that a ready word's effect starts from: its tokens charged, what it holds taken. -/
def State.started (s : State) (t : Nat) (w : DWord) (i : Issue) : State := (s.charge t w).modSpin t fun sp => sp.claim w i
theorem started_spin (s : State) (t : Nat) (w : DWord) (i : Issue) :
    SlotsPass ((s.spin t).spend (tokenCost w)) ((s.started t w i).spin t) := by
  unfold State.started
  rw [State.spin_modSpin_self, charge_spin_self]
  exact SlotsPass.claim _ _ _
theorem SlotFrame.started (w : DWord) (i : Issue) (h : SlotFrame R s0 s p t) : SlotFrame R s0 (s.started t w i) p t :=
  SlotFrame.modSpin _ (h.charge w)

/-- The slot of a ready word whose effect leaves its Spindle as `sp1`, what slots change apart, and which then ends with `post` on it. -/
theorem instr_next {R : Nat → Bool} {s : State} {t : BitVec 12} {p : Nat} {w : DWord} {f : State → Nat → Nat → Issue} (sp1 : Spindle)
    (post : Spindle → Spindle) (h : ReadyAt s t.toNat p w) (hf : (f s p t.toNat).fault = none) (hw : (f s p t.toNat).wait = none)
    (hR : SlotRegs R) (hs : SlotsPass sp1 (((f s p t.toNat).eff (s.started t.toNat w (f s p t.toNat))).spin t.toNat))
    (hfr : SlotFrame R s ((f s p t.toNat).eff (s.started t.toNat w (f s p t.toNat))) p t.toNat)
    (hp : ∀ s', ((f s p t.toNat).post s').spin t.toNat = post (s'.spin t.toNat))
    (hpf : ∀ s', SlotFrame R s s' p t.toNat → SlotFrame R s ((f s p t.toNat).post s') p t.toNat) :
    ∃ s' sp2, instr s t w f = .next s' ∧ SlotFrame R s s' p t.toNat ∧ s'.spin t.toNat = post sp2 ∧
      SlotsPass (sp1.retired (f s p t.toNat).turns) sp2 := by
  refine ⟨_, _, instr_ready f h hf hw, ?_, hp _, ?_⟩
  · exact hpf _ (SlotFrame.retire hR _ _ _ (tileOk_lt h.tile) hfr)
  · exact (hs.retired _).trans (retire_spin _ _ _ (tileOk_lt h.tile))

theorem started_slices (s : State) (t : Nat) (w : DWord) (i : Issue) : (s.started t w i).slices = s.slices := by
  unfold State.started State.charge
  split <;> rfl
theorem started_sliceRead (s : State) (t u a n : Nat) (w : DWord) (i : Issue) : (s.started t w i).sliceRead u a n = s.sliceRead u a n := by
  unfold State.sliceRead State.sliceByte; rw [started_slices]
theorem countO_slices (s : State) (a b c : Nat) : (s.countO a b c).slices = s.slices := by unfold State.countO; split <;> rfl

/-- A Spindle that changes in nothing but registers, grants and waits of PWR and SYNC. -/
structure SpinLike (sp sp1 : Spindle) : Prop where
  frame : SpinFrame sp sp1
  pc : sp1.pc = sp.pc
  frames : sp1.frames = sp.frames
  turn : sp1.turn = sp.turn
  occ : sp1.occ = sp.occ
  tokens : sp1.tokens = sp.tokens
  squash : sp1.squash = sp.squash
theorem SpinFrame.refl (sp : Spindle) : SpinFrame sp sp :=
  ⟨⟨rfl, rfl, rfl, rfl, rfl⟩, ⟨rfl, rfl⟩, ⟨rfl, rfl, rfl, rfl, rfl⟩, ⟨rfl, rfl⟩, ⟨rfl, rfl⟩⟩

theorem Retired.of_spin {s s' : State} {t : Nat} {w : DWord} {n : Nat} {sp1 : Spindle} (h : SlotsPass (sp1.retired n) (s'.spin t))
    (hsp : SpinLike ((s.spin t).spend (tokenCost w)) sp1) : Retired s s' t w n ∧ SpinFrame (s.spin t) (s'.spin t) := by
  have hf := hsp.frame
  obtain ⟨_, _, _, _, _, h'⟩ := h
  refine ⟨⟨?_, ?_, ?_, ?_, ?_, ?_, ?_⟩, ?_⟩
  · rw [h']; simp only [Spindle.retired, hsp.turn]; rfl
  · rw [h']; simp only [Spindle.retired, hsp.pc, hsp.frames, hf.store.2.2.2.1, hf.store.2.2.2.2]; rfl
  · rw [h']; simp only [Spindle.retired, hsp.pc, hsp.occ]
    exact SMap_get_set_self _ _ _ _
  · rw [h']; simp only [Spindle.retired, hsp.tokens]; rfl
  · rw [h']; exact hf.store.1
  · rw [h']; exact hf.store.2.1
  · rw [h']; exact hf.store.2.2.1
  · rw [h']; exact ⟨hf.store, hf.channels, hf.pending, hf.power, hf.records⟩

/-- What a word takes at its issue changes nothing that XENT reads. -/
theorem started_xent (s : State) (p t e f : Nat) (w : DWord) (i : Issue) : (s.started t w i).xent p t e f = s.xent p t e f := by
  have hs : ((s.started t w i).spin t).sync = (s.spin t).sync := by
    obtain ⟨_, _, _, _, _, h⟩ := started_spin s t w i
    rw [h]
    rfl
  have he : (s.started t w i).entryAt p t e = s.entryAt p t e := by
    have h1 : (s.started t w i).servPart p = s.servPart p ∧ (s.started t w i).entry p e = s.entry p e := by
      unfold State.started State.charge
      split <;> exact ⟨rfl, rfl⟩
    unfold State.entryAt
    rw [hs, h1.1, h1.2]
  have hw : (s.started t w i).weft ((s.started t w i).physOf t) = s.weft (s.physOf t) := by
    unfold State.started State.charge
    split <;> rfl
  unfold State.xent
  rw [he, hw]

theorem setX_like (sp : Spindle) (xd v : Nat) : SpinLike sp (sp.setX xd v) := by
  unfold Spindle.setX
  split
  · exact ⟨SpinFrame.refl sp, rfl, rfl, rfl, rfl, rfl, rfl⟩
  · exact ⟨⟨⟨rfl, rfl, rfl, rfl, rfl⟩, ⟨rfl, rfl⟩, ⟨rfl, rfl, rfl, rfl, rfl⟩, ⟨rfl, rfl⟩, ⟨rfl, rfl⟩⟩, rfl, rfl, rfl, rfl, rfl, rfl⟩
theorem setX_v (sp : Spindle) (xd v : Nat) : (sp.setX xd v).v = sp.v ∧ (sp.setX xd v).sync = sp.sync := by
  unfold Spindle.setX
  split
  · exact ⟨rfl, rfl⟩
  · exact ⟨rfl, rfl⟩
theorem vr_congr {a b : Spindle} {i : Nat} (h : a.v = b.v) : a.vr i = b.vr i := by unfold Spindle.vr; rw [h]

theorem WritesX.of_spin {s s' : State} {p t : Nat} {w : DWord} {xd v : Nat} (h : SlotFrame slotReg s s' p t)
    (hs : SlotsPass ((((s.spin t).spend (tokenCost w)).setX xd v).retired 1) (s'.spin t)) (hq : (s.spin t).squash = 0) :
    WritesX s p t w xd v s' := by
  have hl := setX_like ((s.spin t).spend (tokenCost w)) xd v
  have hv := setX_v ((s.spin t).spend (tokenCost w)) xd v
  have hr : Retired s s' t w 1 ∧ SpinFrame (s.spin t) (s'.spin t) := Retired.of_spin hs hl
  obtain ⟨_, _, _, _, _, hs⟩ := hs
  have hsq : (s'.spin t).squash = 0 := by rw [hs]; simp only [Spindle.retired, hl.squash]; simp [Spindle.spend, hq]
  refine ⟨hr.1, hr.2, h, ?_, ?_, ?_, hsq, ?_⟩
  · intro i
    rw [Spindle.xr_congr (b := ((s.spin t).spend (tokenCost w)).setX xd v) (by rw [hs]; rfl), Spindle.xr_setX]
    have e : ((s.spin t).spend (tokenCost w)).xr i = (s.spin t).xr i := Spindle.xr_congr rfl
    rw [e]
  · intro i; exact vr_congr (by rw [hs]; exact hv.1)
  · rw [hs]; exact hv.2
  · rw [hs]; simp only [Spindle.retired, hl.pc, hl.frames, hl.frame.store.2.2.2.1, hl.frame.store.2.2.2.2]; rfl

end Sys2Proof.Machine
end

