-- ==== Sys2Proof/Laws/Keeps.lean ====
section
/-! SUPPORT. What every operation of the model keeps: the variant, the queue, the canonical form of memory, programmed fuses, and the
count of free values used. The combinators here build the `_keeps` lemma of an operation from those of what it calls. -/

namespace Sys2Proof.Machine

/-- `t` may follow `s`. -/
structure Keeps (s t : State) : Prop where
  variant : t.variant = s.variant
  pending : t.pending = s.pending
  mem : s.memOk → t.memOk
  fuse : fuseLe s.boot.fuse t.boot.fuse
  free : s.freeCtr ≤ t.freeCtr

theorem fuseLe_refl (f : FuseSt) : fuseLe f f := ⟨rfl, rfl, rfl, Nat.le_refl _, Nat.le_refl _, Nat.le_refl _, fun _ h => h⟩
theorem fuseLe_trans {f g h : FuseSt} (a : fuseLe f g) (b : fuseLe g h) : fuseLe f h := by
  obtain ⟨a1, a2, a3, a4, a5, a6, a7⟩ := a
  obtain ⟨b1, b2, b3, b4, b5, b6, b7⟩ := b
  exact ⟨b1.trans a1, b2.trans a2, b3.trans a3, Nat.le_trans a4 b4, Nat.le_trans a5 b5, Nat.le_trans a6 b6, fun k h => b7 k (a7 k h)⟩

theorem Keeps.refl (s : State) : Keeps s s := ⟨rfl, rfl, id, fuseLe_refl _, Nat.le_refl _⟩
theorem Keeps.trans {s t u : State} (a : Keeps s t) (b : Keeps t u) : Keeps s u :=
  ⟨b.variant.trans a.variant, b.pending.trans a.pending, fun h => b.mem (a.mem h), fuseLe_trans a.fuse b.fuse, Nat.le_trans a.free b.free⟩

/-- An update of parts that `Keeps` does not speak of. -/
theorem Keeps.upd {s0 s t : State} (h : Keeps s0 s) (hv : t.variant = s.variant) (hp : t.pending = s.pending) (hf : t.freeCtr = s.freeCtr)
    (h1 : t.slices = s.slices) (h2 : t.stackMem = s.stackMem) (hb : t.boot.fuse = s.boot.fuse) : Keeps s0 t := by
  refine ⟨hv.trans h.variant, hp.trans h.pending, fun m => ?_, by rw [hb]; exact h.fuse, by rw [hf]; exact h.free⟩
  have := h.mem m
  exact ⟨by rw [h1]; exact this.1, by rw [h2]; exact this.2⟩
theorem Keeps.cut {s0 t : State} {P : Prop} (a : Keeps s0 t) (b : Keeps s0 t → P) : P := b a
/-- An update that leaves the variant, the queue, memory, fuses and the count of free values. -/
theorem Keeps.updMk {s0 s : State} {out : List OutMsg} {regs : SMap Word} {live : SMap Word} {ctxs : SMap Ctx} {time : TimeSt} {dists : SMap DistSt} {spindles : SMap Spindle} {tiles : SMap PhysTile} {warps : SMap WarpArr} {wefts : SMap WeftArr} {adapters : SMap Adapter} {parts : SMap PartSt} {integ : IntegSt} {events : EventSt} {svcDue : List SvcDue} {flits : List Flit} {lanes : SMap Nat} {shares : SMap SharePt} {serve : ServSt} {net : NetSt} {wgt : WgtSt} {cal : CalSt} {power : PowerSt} {qps : SMap Qp} {boot : BootSt}
    (hb : boot.fuse = s.boot.fuse) :
    Keeps s0 (State.mk s.variant s.pending s.freeCtr out regs live ctxs time dists spindles tiles s.slices s.stackMem warps wefts adapters parts integ events svcDue flits lanes shares serve net wgt cal power qps boot) ↔ Keeps s0 s :=
  ⟨fun h => Keeps.upd h rfl rfl rfl rfl rfl hb.symm, fun h => Keeps.upd h rfl rfl rfl rfl rfl hb⟩
theorem Keeps.fnLet {α : Type} {P : Prop} {f : α → State} (h : (f = f) → P) : P := h rfl
theorem Keeps.fnLet2 {α β : Type} {P : Prop} {f : α → β → State} (h : (f = f) → P) : P := h rfl
theorem Keeps.fnLet3 {α β γ : Type} {P : Prop} {f : α → β → γ → State} (h : (f = f) → P) : P := h rfl
theorem Keeps.bootLet {P : Prop} {f : BootSt} (h : (f = f) → P) : P := h rfl
theorem Keeps.fuseLet {P : Prop} {f : FuseSt} (h : (f = f) → P) : P := h rfl
theorem Keeps.fnLet4 {α β γ δ : Type} {P : Prop} {f : α → β → γ → δ → State} (h : (f = f) → P) : P := h rfl
theorem Keeps.fnLet5 {α β γ δ ε : Type} {P : Prop} {f : α → β → γ → δ → ε → State} (h : (f = f) → P) : P := h rfl
/-- The same with free values drawn. -/
theorem Keeps.draw {s0 s t : State} (h : Keeps s0 s) (hv : t.variant = s.variant) (hp : t.pending = s.pending) (hf : s.freeCtr ≤ t.freeCtr)
    (h1 : t.slices = s.slices) (h2 : t.stackMem = s.stackMem) (hb : t.boot.fuse = s.boot.fuse) : Keeps s0 t := by
  refine ⟨hv.trans h.variant, hp.trans h.pending, fun m => ?_, by rw [hb]; exact h.fuse, Nat.le_trans h.free hf⟩
  have := h.mem m
  exact ⟨by rw [h1]; exact this.1, by rw [h2]; exact this.2⟩

theorem Keeps.ite {s0 a b : State} {c : Prop} [Decidable c] (ha : Keeps s0 a) (hb : Keeps s0 b) : Keeps s0 (if c then a else b) := by
  split
  · exact ha
  · exact hb
theorem Keeps.snd {α : Type} {s0 t : State} {x : α × State} {a : α} (e : x = (a, t)) (h : Keeps s0 x.2) : Keeps s0 t := by
  rw [e] at h; exact h
theorem Keeps.fst {α : Type} {s0 t : State} {x : State × α} {a : α} (e : x = (t, a)) (h : Keeps s0 x.1) : Keeps s0 t := by
  rw [e] at h; exact h
theorem Keeps.third {α β : Type} {s0 t : State} {x : α × β × State} {a : α} {b : β} (e : x = (a, b, t)) (h : Keeps s0 x.2.2) : Keeps s0 t := by
  rw [e] at h; exact h
theorem Keeps.foldl {α : Type} {s0 s : State} {f : State → α → State} {l : List α} (h : Keeps s0 s)
    (hf : ∀ s x, Keeps s0 s → Keeps s0 (f s x)) : Keeps s0 (l.foldl f s) := by
  induction l generalizing s with
  | nil => exact h
  | cons a l ih => exact ih (hf s a h)
theorem Keeps.foldl_snd {α β : Type} {s0 : State} {f : β × State → α → β × State} {l : List α} {p : β × State} (h : Keeps s0 p.2)
    (hf : ∀ p x, Keeps s0 p.2 → Keeps s0 (f p x).2) : Keeps s0 (l.foldl f p).2 := by
  induction l generalizing p with
  | nil => exact h
  | cons a l ih => exact ih (hf p a h)

theorem Keeps.foldl_fst {α β : Type} {s0 : State} {f : State × β → α → State × β} {l : List α} {p : State × β} (h : Keeps s0 p.1)
    (hf : ∀ p x, Keeps s0 p.1 → Keeps s0 (f p x).1) : Keeps s0 (l.foldl f p).1 := by
  induction l generalizing p with
  | nil => exact h
  | cons a l ih => exact ih (hf p a h)

theorem Keeps.drawMk {s0 s : State} {out : List OutMsg} {regs : SMap Word} {live : SMap Word} {ctxs : SMap Ctx} {time : TimeSt} {dists : SMap DistSt} {spindles : SMap Spindle} {tiles : SMap PhysTile} {warps : SMap WarpArr} {wefts : SMap WeftArr} {adapters : SMap Adapter} {parts : SMap PartSt} {integ : IntegSt} {events : EventSt} {svcDue : List SvcDue} {flits : List Flit} {lanes : SMap Nat} {shares : SMap SharePt} {serve : ServSt} {net : NetSt} {wgt : WgtSt} {cal : CalSt} {power : PowerSt} {qps : SMap Qp} {boot : BootSt} {n : Nat}
    (h : Keeps s0 s) (hb : boot.fuse = s.boot.fuse) :
    Keeps s0 (State.mk s.variant s.pending (s.freeCtr + n) out regs live ctxs time dists spindles tiles s.slices s.stackMem warps wefts adapters parts integ events svcDue flits lanes shares serve net wgt cal power qps boot) :=
  Keeps.draw h rfl rfl (Nat.le_add_right _ _) rfl rfl hb

/-- What a command may answer. -/
def KeepsOut (s : State) : Host.Outcome State Fault Refusal → Prop
  | .next t => Keeps s t
  | .fault _ => True
  | .refused _ => False
theorem KeepsOut.next {s t : State} (h : Keeps s t) : KeepsOut s (.next t) := h
theorem KeepsOut.ite {s0 : State} {a b : Host.Outcome State Fault Refusal} {c : Prop} [Decidable c] (ha : KeepsOut s0 a) (hb : KeepsOut s0 b) :
    KeepsOut s0 (if c then a else b) := by
  split
  · exact ha
  · exact hb

/-! ## Canonical form of sparse maps -/

theorem SMap_rising_mono {α : Type} {m : SMap α} {a b : Nat} (h : a ≤ b) (hm : SMap.RisingFrom b m = true) : SMap.RisingFrom a m = true := by
  cases m with
  | nil => rfl
  | cons e m =>
    simp only [SMap.RisingFrom, Bool.and_eq_true, decide_eq_true_eq] at hm ⊢
    exact ⟨Nat.le_trans h hm.1, hm.2⟩
theorem SMap_rising_erase {α : Type} {m : SMap α} {a : Nat} (k : Nat) (hm : SMap.RisingFrom a m = true) : SMap.RisingFrom a (m.erase k) = true := by
  induction m generalizing a with
  | nil => rfl
  | cons e m ih =>
    simp only [SMap.RisingFrom, Bool.and_eq_true, decide_eq_true_eq] at hm
    simp only [SMap.erase]
    split
    · exact SMap_rising_mono (by omega) (ih hm.2)
    · simp [SMap.RisingFrom, hm.1, ih hm.2]
theorem SMap_rising_insert {α : Type} {m : SMap α} {a : Nat} {k : Nat} (v : α) (hk : a ≤ k) (hm : SMap.RisingFrom a m = true) :
    SMap.RisingFrom a (m.insert k v) = true := by
  induction m generalizing a with
  | nil => simp [SMap.insert, SMap.RisingFrom, hk]
  | cons e m ih =>
    simp only [SMap.RisingFrom, Bool.and_eq_true, decide_eq_true_eq] at hm
    simp only [SMap.insert]
    split
    · rename_i he
      subst he
      simp [SMap.RisingFrom, hk, hm.2]
    · split
      · simp only [SMap.RisingFrom, Bool.and_eq_true, decide_eq_true_eq]
        exact ⟨hk, by omega, hm.2⟩
      · simp only [SMap.RisingFrom, Bool.and_eq_true, decide_eq_true_eq]
        exact ⟨hm.1, ih (by omega) hm.2⟩
theorem SMap_rising_filter {α : Type} {m : SMap α} {a : Nat} (p : Nat × α → Bool) (hm : SMap.RisingFrom a m = true) :
    SMap.RisingFrom a (List.filter p m) = true := by
  induction m generalizing a with
  | nil => rfl
  | cons e m ih =>
    simp only [SMap.RisingFrom, Bool.and_eq_true, decide_eq_true_eq] at hm
    simp only [List.filter]
    split
    · simp [SMap.RisingFrom, hm.1, ih hm.2]
    · exact ih (SMap_rising_mono (by omega) hm.2)
theorem SMap_mem_erase {α : Type} {m : SMap α} {k : Nat} {e : Nat × α} (h : e ∈ m.erase k) : e ∈ m := by
  induction m with
  | nil => exact h
  | cons x m ih =>
    simp only [SMap.erase] at h
    split at h
    · exact List.mem_cons_of_mem _ (ih h)
    · rcases List.mem_cons.mp h with h | h
      · exact h ▸ List.mem_cons_self
      · exact List.mem_cons_of_mem _ (ih h)
theorem SMap_mem_insert {α : Type} {m : SMap α} {k : Nat} {v : α} {e : Nat × α} (h : e ∈ m.insert k v) : e = (k, v) ∨ e ∈ m := by
  induction m with
  | nil => simpa [SMap.insert] using h
  | cons x m ih =>
    simp only [SMap.insert] at h
    split at h
    · rcases List.mem_cons.mp h with h | h
      · exact .inl h
      · exact .inr (List.mem_cons_of_mem _ h)
    · split at h
      · rcases List.mem_cons.mp h with h | h
        · exact .inl h
        · exact .inr h
      · rcases List.mem_cons.mp h with h | h
        · exact .inr (h ▸ List.mem_cons_self)
        · rcases ih h with h | h
          · exact .inl h
          · exact .inr (List.mem_cons_of_mem _ h)
/-- A write keeps the canonical form. -/
theorem SMap_wf_set {α : Type} [DecidableEq α] {d : α} {m : SMap α} (k : Nat) (v : α) (h : SMap.wf d m = true) : SMap.wf d (m.set d k v) = true := by
  simp only [SMap.wf, Bool.and_eq_true, List.all_eq_true] at h ⊢
  simp only [SMap.set]
  split
  · exact ⟨SMap_rising_erase k h.1, fun e he => h.2 e (SMap_mem_erase he)⟩
  · rename_i hv
    refine ⟨SMap_rising_insert v (Nat.zero_le _) h.1, fun e he => ?_⟩
    rcases SMap_mem_insert he with rfl | he
    · simpa using hv
    · exact h.2 e he
/-- Dropping entries keeps the canonical form. -/
theorem SMap_wf_filter {α : Type} [DecidableEq α] {d : α} {m : SMap α} (p : Nat × α → Bool) (h : SMap.wf d m = true) :
    SMap.wf d (List.filter p m) = true := by
  simp only [SMap.wf, Bool.and_eq_true, List.all_eq_true] at h ⊢
  exact ⟨SMap_rising_filter p h.1, fun e he => h.2 e ((List.mem_filter.mp he).1)⟩

theorem Keeps.dropSlices {s0 s : State} {out : List OutMsg} {regs : SMap Word} {live : SMap Word} {ctxs : SMap Ctx} {time : TimeSt} {dists : SMap DistSt} {spindles : SMap Spindle} {tiles : SMap PhysTile} {warps : SMap WarpArr} {wefts : SMap WeftArr} {adapters : SMap Adapter} {parts : SMap PartSt} {integ : IntegSt} {events : EventSt} {svcDue : List SvcDue} {flits : List Flit} {lanes : SMap Nat} {shares : SMap SharePt} {serve : ServSt} {net : NetSt} {wgt : WgtSt} {cal : CalSt} {power : PowerSt} {qps : SMap Qp} {boot : BootSt} {f : Nat × Byte → Bool}
    (h : Keeps s0 s) (hb : boot.fuse = s.boot.fuse) :
    Keeps s0 (State.mk s.variant s.pending s.freeCtr out regs live ctxs time dists spindles tiles (List.filter f s.slices) s.stackMem warps wefts adapters parts integ events svcDue flits lanes shares serve net wgt cal power qps boot) :=
  ⟨h.variant, h.pending, fun m => ⟨SMap_wf_filter f (h.mem m).1, (h.mem m).2⟩, by rw [show fuseLe s0.boot.fuse boot.fuse = fuseLe s0.boot.fuse s.boot.fuse by rw [hb]]; exact h.fuse, h.free⟩
theorem Keeps.dropStacks {s0 s : State} {out : List OutMsg} {regs : SMap Word} {live : SMap Word} {ctxs : SMap Ctx} {time : TimeSt} {dists : SMap DistSt} {spindles : SMap Spindle} {tiles : SMap PhysTile} {warps : SMap WarpArr} {wefts : SMap WeftArr} {adapters : SMap Adapter} {parts : SMap PartSt} {integ : IntegSt} {events : EventSt} {svcDue : List SvcDue} {flits : List Flit} {lanes : SMap Nat} {shares : SMap SharePt} {serve : ServSt} {net : NetSt} {wgt : WgtSt} {cal : CalSt} {power : PowerSt} {qps : SMap Qp} {boot : BootSt} {f : Nat × Byte → Bool}
    (h : Keeps s0 s) (hb : boot.fuse = s.boot.fuse) :
    Keeps s0 (State.mk s.variant s.pending s.freeCtr out regs live ctxs time dists spindles tiles s.slices (List.filter f s.stackMem) warps wefts adapters parts integ events svcDue flits lanes shares serve net wgt cal power qps boot) :=
  ⟨h.variant, h.pending, fun m => ⟨(h.mem m).1, SMap_wf_filter f (h.mem m).2⟩, by rw [show fuseLe s0.boot.fuse boot.fuse = fuseLe s0.boot.fuse s.boot.fuse by rw [hb]]; exact h.fuse, h.free⟩
theorem Keeps.noMemory {s0 s : State} {out : List OutMsg} {regs : SMap Word} {live : SMap Word} {ctxs : SMap Ctx} {time : TimeSt} {dists : SMap DistSt} {spindles : SMap Spindle} {tiles : SMap PhysTile} {warps : SMap WarpArr} {wefts : SMap WeftArr} {adapters : SMap Adapter} {parts : SMap PartSt} {integ : IntegSt} {events : EventSt} {svcDue : List SvcDue} {flits : List Flit} {lanes : SMap Nat} {shares : SMap SharePt} {serve : ServSt} {net : NetSt} {wgt : WgtSt} {cal : CalSt} {power : PowerSt} {qps : SMap Qp} {boot : BootSt}
    (h : Keeps s0 s) (hb : boot.fuse = s.boot.fuse) :
    Keeps s0 (State.mk s.variant s.pending s.freeCtr out regs live ctxs time dists spindles tiles [] [] warps wefts adapters parts integ events svcDue flits lanes shares serve net wgt cal power qps boot) :=
  ⟨h.variant, h.pending, fun m => ⟨rfl, rfl⟩, by rw [show fuseLe s0.boot.fuse boot.fuse = fuseLe s0.boot.fuse s.boot.fuse by rw [hb]]; exact h.fuse, h.free⟩

end Sys2Proof.Machine
end

