-- ==== Sys2Proof/Laws/KeepsOps.lean ====
section
/-! SUPPORT. What the operations of Machine/Ops.lean keep: one lemma each, see Laws/Keeps.lean. -/

namespace Sys2Proof.Machine

theorem State.setReg_keeps {s0 s : State} (addr : Nat) (inst : Nat) (v : Nat) (h : Keeps s0 s) : Keeps s0 (State.setReg s addr inst v) := by
  unfold State.setReg
  repeat' first | with_reducible assumption | simp only [Keeps.updMk]
theorem State.setFld_keeps {s0 s : State} (addr : Nat) (inst : Nat) (hi : Nat) (lo : Nat) (v : Nat) (h : Keeps s0 s) : Keeps s0 (State.setFld s addr inst hi lo v) := by
  unfold State.setFld
  repeat' first | with_reducible assumption | with_reducible apply State.setReg_keeps
theorem State.setBit_keeps {s0 s : State} (addr : Nat) (inst : Nat) (b : Nat) (h : Keeps s0 s) : Keeps s0 (State.setBit s addr inst b) := by
  unfold State.setBit
  repeat' first | with_reducible assumption | with_reducible apply State.setFld_keeps
theorem State.clrBit_keeps {s0 s : State} (addr : Nat) (inst : Nat) (b : Nat) (h : Keeps s0 s) : Keeps s0 (State.clrBit s addr inst b) := by
  unfold State.clrBit
  repeat' first | with_reducible assumption | with_reducible apply State.setFld_keeps
theorem State.bump_keeps {s0 s : State} (addr : Nat) (inst : Nat) (n : Nat) (h : Keeps s0 s) : Keeps s0 (State.bump s addr inst n) := by
  unfold State.bump
  repeat' first | with_reducible assumption | with_reducible apply State.setReg_keeps
theorem State.bumpSat_keeps {s0 s : State} (addr : Nat) (inst : Nat) (hi : Nat) (lo : Nat) (n : Nat) (h : Keeps s0 s) : Keeps s0 (State.bumpSat s addr inst hi lo n) := by
  unfold State.bumpSat
  repeat' first | with_reducible assumption | with_reducible apply State.setFld_keeps
theorem State.setReg64_keeps {s0 s : State} (addr : Nat) (inst : Nat) (v : Nat) (h : Keeps s0 s) : Keeps s0 (State.setReg64 s addr inst v) := by
  unfold State.setReg64
  repeat' first | with_reducible assumption | with_reducible apply State.setReg_keeps
theorem State.applyLive_keeps {s0 s : State} (dom : Nat) (addr : Nat) (h : Keeps s0 s) : Keeps s0 (State.applyLive s dom addr) := by
  unfold State.applyLive
  repeat' first | with_reducible assumption | simp only [Keeps.updMk]
theorem State.modCtx_keeps {s0 s : State} (c : Nat) (f : Ctx → Ctx) (h : Keeps s0 s) : Keeps s0 (State.modCtx s c f) := by
  unfold State.modCtx
  repeat' first | with_reducible assumption | simp only [Keeps.updMk]
theorem State.modDist_keeps {s0 s : State} (d : Nat) (f : DistSt → DistSt) (h : Keeps s0 s) : Keeps s0 (State.modDist s d f) := by
  unfold State.modDist
  repeat' first | with_reducible assumption | simp only [Keeps.updMk]
theorem State.modSpin_keeps {s0 s : State} (t : Nat) (f : Spindle → Spindle) (h : Keeps s0 s) : Keeps s0 (State.modSpin s t f) := by
  unfold State.modSpin
  repeat' first | with_reducible assumption | simp only [Keeps.updMk]
theorem State.modTile_keeps {s0 s : State} (p : Nat) (f : PhysTile → PhysTile) (h : Keeps s0 s) : Keeps s0 (State.modTile s p f) := by
  unfold State.modTile
  repeat' first | with_reducible assumption | simp only [Keeps.updMk]
theorem State.modWarp_keeps {s0 s : State} (k : Nat) (f : WarpArr → WarpArr) (h : Keeps s0 s) : Keeps s0 (State.modWarp s k f) := by
  unfold State.modWarp
  repeat' first | with_reducible assumption | simp only [Keeps.updMk]
theorem State.modWeft_keeps {s0 s : State} (p : Nat) (f : WeftArr → WeftArr) (h : Keeps s0 s) : Keeps s0 (State.modWeft s p f) := by
  unfold State.modWeft
  repeat' first | with_reducible assumption | simp only [Keeps.updMk]
theorem State.modAdapter_keeps {s0 s : State} (e : Nat) (f : Adapter → Adapter) (h : Keeps s0 s) : Keeps s0 (State.modAdapter s e f) := by
  unfold State.modAdapter
  repeat' first | with_reducible assumption | simp only [Keeps.updMk]
theorem State.modPart_keeps {s0 s : State} (p : Nat) (f : PartSt → PartSt) (h : Keeps s0 s) : Keeps s0 (State.modPart s p f) := by
  unfold State.modPart
  repeat' first | with_reducible assumption | simp only [Keeps.updMk]
theorem State.modRow_keeps {s0 s : State} (r : Nat) (f : RowSt → RowSt) (h : Keeps s0 s) : Keeps s0 (State.modRow s r f) := by
  unfold State.modRow
  repeat' first | with_reducible assumption | simp only [Keeps.updMk]
theorem State.modBare_keeps {s0 s : State} (u : Nat) (f : BareSt → BareSt) (h : Keeps s0 s) : Keeps s0 (State.modBare s u f) := by
  unfold State.modBare
  repeat' first | with_reducible assumption | simp only [Keeps.updMk]
theorem State.modServPart_keeps {s0 s : State} (p : Nat) (f : ServPart → ServPart) (h : Keeps s0 s) : Keeps s0 (State.modServPart s p f) := by
  unfold State.modServPart
  repeat' first | with_reducible assumption | simp only [Keeps.updMk]
theorem State.modHank_keeps {s0 s : State} (q : Nat) (f : HankQ → HankQ) (h : Keeps s0 s) : Keeps s0 (State.modHank s q f) := by
  unfold State.modHank
  repeat' first | with_reducible assumption | simp only [Keeps.updMk]
theorem State.modQp_keeps {s0 s : State} (k : Nat) (f : Qp → Qp) (h : Keeps s0 s) : Keeps s0 (State.modQp s k f) := by
  unfold State.modQp
  repeat' first | with_reducible assumption | simp only [Keeps.updMk]
theorem State.fresh_keeps {s0 s : State} (h : Keeps s0 s) : Keeps s0 s.fresh.2 :=
  Keeps.draw h rfl rfl (Nat.le_succ _) rfl rfl rfl
theorem State.send_keeps {s0 s : State} (m : OutMsg) (h : Keeps s0 s) : Keeps s0 (State.send s m) := by
  unfold State.send
  repeat' first | with_reducible assumption | simp only [Keeps.updMk] | split
theorem State.setSliceByte_keeps {s0 s : State} (t a : Nat) (b : Byte) (h : Keeps s0 s) : Keeps s0 (State.setSliceByte s t a b) :=
  ⟨h.variant, h.pending, fun m => ⟨SMap_wf_set _ _ (h.mem m).1, (h.mem m).2⟩, h.fuse, h.free⟩
theorem State.sliceWrite_keeps {s0 s : State} (t a : Nat) (bs : Bytes) (h : Keeps s0 s) : Keeps s0 (State.sliceWrite s t a bs) := by
  induction bs generalizing s a with
  | nil => exact h
  | cons b bs ih => exact ih _ (State.setSliceByte_keeps t a b h)
theorem State.setStackByte_keeps {s0 s : State} (a : Nat) (b : Byte) (h : Keeps s0 s) : Keeps s0 (State.setStackByte s a b) :=
  ⟨h.variant, h.pending, fun m => ⟨(h.mem m).1, SMap_wf_set _ _ (h.mem m).2⟩, h.fuse, h.free⟩
theorem State.stackWrite_keeps {s0 s : State} (a : Nat) (bs : Bytes) (h : Keeps s0 s) : Keeps s0 (State.stackWrite s a bs) := by
  induction bs generalizing s a with
  | nil => exact h
  | cons b bs ih => exact ih _ (State.setStackByte_keeps a b h)
theorem State.hankPush_keeps {s0 s : State} (q : Nat) (w : DWord) (h : Keeps s0 s) : Keeps s0 (State.hankPush s q w) := by
  unfold State.hankPush
  repeat' first | with_reducible assumption | with_reducible apply State.modHank_keeps
theorem State.pushMsg_keeps {s0 s : State} (q : Nat) (part : Nat) (kind : Nat) (body : Bytes) (h : Keeps s0 s) : Keeps s0 (State.pushMsg s q part kind body) := by
  unfold State.pushMsg
  repeat' first | with_reducible assumption | with_reducible apply State.hankPush_keeps | with_reducible refine Keeps.foldl ?_ (fun _ _ _ => ?_)
theorem State.logRecord_keeps {s0 s : State} (code : Nat) (r : Bytes) (h : Keeps s0 s) : Keeps s0 (State.logRecord s code r) := by
  unfold State.logRecord
  repeat' first | with_reducible assumption | with_reducible apply State.bump_keeps | simp only [Keeps.updMk] | split
theorem State.pushEvent_keeps {s0 s : State} (part : Nat) (recs : List Bytes) (h : Keeps s0 s) : Keeps s0 (State.pushEvent s part recs) := by
  unfold State.pushEvent
  repeat' first | with_reducible assumption | with_reducible apply State.bump_keeps | with_reducible apply State.pushMsg_keeps | with_reducible apply State.setBit_keeps | simp only [Keeps.updMk] | split
theorem State.raiseIn_keeps {s0 s : State} (part : Nat) (code : Nat) (src : Nat) (detail : Bytes) (h : Keeps s0 s) : Keeps s0 (State.raiseIn s part code src detail) := by
  unfold State.raiseIn
  repeat' first | with_reducible assumption | with_reducible apply State.setReg_keeps | with_reducible apply State.pushEvent_keeps | with_reducible apply State.logRecord_keeps | with_reducible refine Keeps.foldl ?_ (fun _ _ _ => ?_) | simp only [Keeps.updMk] | split
theorem State.raise_keeps {s0 s : State} (code : Nat) (detail : Bytes) (src : Nat) (h : Keeps s0 s) : Keeps s0 (State.raise s code detail src) := by
  unfold State.raise
  repeat' first | with_reducible assumption | with_reducible apply State.raiseIn_keeps
theorem State.countO_keeps {s0 s : State} (phys : Nat) (n : Nat) (k : Nat) (h : Keeps s0 s) : Keeps s0 (State.countO s phys n k) := by
  unfold State.countO
  repeat' first | with_reducible assumption | with_reducible apply State.modTile_keeps | split
theorem State.slotConds_keeps {s0 s : State} (phys : Nat) (held : List Nat) (h : Keeps s0 s) : Keeps s0 (State.slotConds s phys held) := by
  unfold State.slotConds
  repeat' first | with_reducible assumption | with_reducible apply State.modTile_keeps
theorem State.oscCycles_keeps {s0 s : State} (n : Nat) (h : Keeps s0 s) : Keeps s0 (State.oscCycles s n) := by
  unfold State.oscCycles
  repeat' first | with_reducible assumption | simp only [Keeps.updMk]
theorem State.idleShares_keeps {s0 s : State} (cycles : Nat) (h : Keeps s0 s) : Keeps s0 (State.idleShares s cycles) := by
  unfold State.idleShares
  repeat' first | with_reducible assumption | simp only [Keeps.updMk]
theorem oscCycle_keeps {s0 s : State} (h : Keeps s0 s) : Keeps s0 (oscCycle s) := by
  unfold oscCycle
  repeat' first | with_reducible assumption | with_reducible apply State.oscCycles_keeps | with_reducible apply State.idleShares_keeps

end Sys2Proof.Machine
end

