-- ==== Sys2Proof/Laws/KeepsTime.lean ====
section
/-! SUPPORT. What the operations of Machine/Time.lean keep: one lemma each, see Laws/Keeps.lean. -/

namespace Sys2Proof.Machine

theorem State.setDisc_keeps {s0 s : State} (d : Disc) (h : Keeps s0 s) : Keeps s0 (State.setDisc s d) := by
  unfold State.setDisc
  repeat' first | with_reducible assumption | with_reducible apply State.setFld_keeps | simp only [Keeps.updMk]
theorem State.stepTime_keeps {s0 s : State} (v : Nat) (h : Keeps s0 s) : Keeps s0 (State.stepTime s v) := by
  unfold State.stepTime
  repeat' first | with_reducible assumption | with_reducible apply State.setBit_keeps | with_reducible apply State.raise_keeps | simp only [Keeps.updMk]
theorem State.loadTod_keeps {s0 s : State} (sec : DWord) (h : Keeps s0 s) : Keeps s0 (State.loadTod s sec) := by
  unfold State.loadTod
  repeat' first | with_reducible assumption | with_reducible apply State.setBit_keeps | with_reducible apply State.stepTime_keeps | with_reducible apply State.clrBit_keeps | simp only [Keeps.updMk]
theorem State.acceptEdge_keeps {s0 s : State} (h : Keeps s0 s) : Keeps s0 (State.acceptEdge s) := by
  unfold State.acceptEdge
  repeat' first | with_reducible assumption | with_reducible apply State.bump_keeps | with_reducible apply State.loadTod_keeps | simp only [Keeps.updMk] | split
theorem State.rejectEdge_keeps {s0 s : State} (h : Keeps s0 s) : Keeps s0 (State.rejectEdge s) := by
  unfold State.rejectEdge
  repeat' first | with_reducible assumption | with_reducible apply State.bump_keeps | with_reducible apply State.setBit_keeps | simp only [Keeps.updMk]
theorem State.toAcquire_keeps {s0 s : State} (h : Keeps s0 s) : Keeps s0 (State.toAcquire s) := by
  unfold State.toAcquire
  repeat' first | with_reducible assumption | with_reducible apply State.setDisc_keeps | with_reducible apply State.raise_keeps | simp only [Keeps.updMk]
theorem State.judgeEdge_keeps {s0 s : State} (err : Int) (h : Keeps s0 s) : Keeps s0 (State.judgeEdge s err) := by
  unfold State.judgeEdge
  repeat' first | with_reducible assumption | with_reducible apply State.setReg_keeps | with_reducible apply State.toAcquire_keeps | with_reducible apply State.setDisc_keeps | with_reducible apply State.raise_keeps | with_reducible apply State.stepTime_keeps | with_reducible apply State.acceptEdge_keeps | with_reducible apply State.rejectEdge_keeps | simp only [Keeps.updMk] | split
theorem State.takeEdge_keeps {s0 s : State} (h : Keeps s0 s) : Keeps s0 (State.takeEdge s) := by
  unfold State.takeEdge
  repeat' first | with_reducible assumption | with_reducible apply State.setReg_keeps | with_reducible apply State.toAcquire_keeps | with_reducible apply State.judgeEdge_keeps | with_reducible apply State.rejectEdge_keeps | simp only [Keeps.updMk] | split
theorem execPpsEdge_keeps (cycles : Nat) {s0 s : State} (h : Keeps s0 s) : KeepsOut s0 (execPpsEdge cycles s) := by
  unfold execPpsEdge
  repeat' first | with_reducible assumption | with_reducible apply KeepsOut.next | with_reducible apply State.oscCycles_keeps | with_reducible apply State.takeEdge_keeps | with_reducible apply State.idleShares_keeps | split
theorem execHoldoverEnter_keeps {s0 s : State} (h : Keeps s0 s) : KeepsOut s0 (execHoldoverEnter s) := by
  unfold execHoldoverEnter
  repeat' first | with_reducible assumption | with_reducible apply KeepsOut.next | with_reducible apply State.setDisc_keeps | with_reducible apply State.setBit_keeps | with_reducible apply State.raise_keeps | split
theorem execTodLoadAtSecond_keeps {s0 s : State} (h : Keeps s0 s) : KeepsOut s0 (execTodLoadAtSecond s) := by
  unfold execTodLoadAtSecond
  repeat' first | with_reducible assumption | with_reducible apply KeepsOut.next | with_reducible apply State.loadTod_keeps | split
theorem execTodLoadTimeout_keeps {s0 s : State} (h : Keeps s0 s) : KeepsOut s0 (execTodLoadTimeout s) := by
  unfold execTodLoadTimeout
  repeat' first | with_reducible assumption | with_reducible apply KeepsOut.next | with_reducible apply State.setBit_keeps | with_reducible apply State.raise_keeps | with_reducible apply State.clrBit_keeps | simp only [Keeps.updMk] | split
theorem State.todCtl_keeps {s0 s : State} (v : Nat) (h : Keeps s0 s) : Keeps s0 (State.todCtl s v) := by
  unfold State.todCtl
  repeat' first | with_reducible assumption | with_reducible apply State.setBit_keeps | with_reducible apply State.clrBit_keeps | simp only [Keeps.updMk] | split

end Sys2Proof.Machine
end

