-- ==== Sys2Proof/Laws/KeepsIntegOps.lean ====
section
/-! SUPPORT. What the operations of Machine/IntegOps.lean keep: one lemma each, see Laws/Keeps.lean. -/

namespace Sys2Proof.Machine

theorem State.setPower_keeps {s0 s : State} (new : Nat) (h : Keeps s0 s) : Keeps s0 (State.setPower s new) := by
  unfold State.setPower
  repeat' first | with_reducible assumption | with_reducible apply State.setFld_keeps | with_reducible apply State.raise_keeps | simp only [Keeps.updMk] | split
theorem State.enterDrain_keeps {s0 s : State} (cause : Nat) (h : Keeps s0 s) : Keeps s0 (State.enterDrain s cause) := by
  unfold State.enterDrain
  repeat' first | with_reducible assumption | with_reducible apply State.setBit_keeps | with_reducible apply State.setFld_keeps | with_reducible apply State.raise_keeps | with_reducible apply State.setPower_keeps | simp only [Keeps.updMk] | split
theorem State.setRegBytes_keeps {s0 s : State} (addr : Nat) (bs : Bytes) (h : Keeps s0 s) : Keeps s0 (State.setRegBytes s addr bs) := by
  unfold State.setRegBytes
  repeat' first | with_reducible assumption | with_reducible apply State.setReg_keeps | with_reducible refine Keeps.foldl ?_ (fun _ _ _ => ?_)
theorem State.suspect_keeps {s0 s : State} (kind : Nat) (cause : Nat) (phys : Nat) (ltile : Nat) (array : Nat) (part : Nat) (step : Nat) (detail : Nat) (h : Keeps s0 s) : Keeps s0 (State.suspect s kind cause phys ltile array part step detail) := by
  unfold State.suspect
  repeat' first | with_reducible assumption | with_reducible apply State.modRow_keeps | with_reducible apply State.setBit_keeps | with_reducible apply State.raiseIn_keeps | with_reducible apply State.enterDrain_keeps | with_reducible apply State.bumpSat_keeps | with_reducible apply State.setRegBytes_keeps | simp only [Keeps.updMk] | split
theorem State.stopTile_keeps {s0 s : State} (p : Nat) (t : Nat) (h : Keeps s0 s) : Keeps s0 (State.stopTile s p t) := by
  unfold State.stopTile
  repeat' first | with_reducible assumption | with_reducible apply State.modSpin_keeps | with_reducible apply State.modWeft_keeps | with_reducible apply State.modPart_keeps | simp only [Keeps.updMk] | split
theorem State.stopPart_keeps {s0 s : State} (p : Nat) (how : Stop) (t : (Option Nat)) (h : Keeps s0 s) : Keeps s0 (State.stopPart s p how t) := by
  unfold State.stopPart
  repeat' first | with_reducible assumption | with_reducible apply State.stopTile_keeps | with_reducible apply State.modPart_keeps | split
theorem State.faultStop_keeps {s0 s : State} (p : Nat) (t : Nat) (h : Keeps s0 s) : Keeps s0 (State.faultStop s p t) := by
  unfold State.faultStop
  repeat' first | with_reducible assumption | with_reducible apply State.bump_keeps | with_reducible apply State.stopPart_keeps | split
theorem State.abandonStep_keeps {s0 s : State} (p : Nat) (t : Nat) (detail : Nat) (h : Keeps s0 s) : Keeps s0 (State.abandonStep s p t detail) := by
  unfold State.abandonStep
  repeat' first | with_reducible assumption | with_reducible apply State.bump_keeps | with_reducible apply State.faultStop_keeps | with_reducible apply State.setBit_keeps | with_reducible apply State.raiseIn_keeps | with_reducible apply State.suspect_keeps
theorem State.beginRerun_keeps {s0 s : State} (p : Nat) (t : Nat) (standIn : Bool) (detail : Nat) (stepOnly : Bool) (h : Keeps s0 s) : Keeps s0 (State.beginRerun s p t standIn detail stepOnly) := by
  unfold State.beginRerun
  repeat' first | with_reducible assumption | with_reducible apply State.abandonStep_keeps | with_reducible apply State.stopPart_keeps | with_reducible apply State.modPart_keeps | split
theorem State.replayDisagree_keeps {s0 s : State} (p : Nat) (t : Nat) (arr : Nat) (mech : Nat) (detail : Nat) (h : Keeps s0 s) : Keeps s0 (State.replayDisagree s p t arr mech detail) := by
  unfold State.replayDisagree
  repeat' first | with_reducible assumption | with_reducible apply State.bump_keeps | with_reducible apply State.raiseIn_keeps | with_reducible apply State.abandonStep_keeps | with_reducible apply State.beginRerun_keeps | with_reducible apply State.suspect_keeps | simp only [Keeps.updMk] | split

end Sys2Proof.Machine
end

