-- ==== Sys2Proof/Laws/KeepsOperands.lean ====
section
/-! SUPPORT. What the operations of Machine/Operands.lean keep: one lemma each, see Laws/Keeps.lean. -/

namespace Sys2Proof.Machine

theorem State.writeLines_keeps {s0 s : State} (t : Nat) (line : Nat) (bs : Bytes) (h : Keeps s0 s) : Keeps s0 (State.writeLines s t line bs) := by
  unfold State.writeLines
  repeat' first | with_reducible assumption | with_reducible apply State.modSpin_keeps | with_reducible apply State.sliceWrite_keeps

end Sys2Proof.Machine
end

