-- ==== Sys2Proof/Laws/KeepsChannels.lean ====
section
/-! SUPPORT. What the operations of Machine/Channels.lean keep: one lemma each, see Laws/Keeps.lean. -/

namespace Sys2Proof.Machine

theorem State.countRoute_keeps {s0 s : State} (us : List Nat) (h : Keeps s0 s) : Keeps s0 (State.countRoute s us) := by
  unfold State.countRoute
  repeat' first | with_reducible assumption | with_reducible apply State.bump_keeps | with_reducible refine Keeps.foldl ?_ (fun _ _ _ => ?_)
theorem State.useSlot_keeps {s0 s : State} (k : Nat) (p : Option Nat) (h : Keeps s0 s) : Keeps s0 (State.useSlot s k p) := by
  unfold State.useSlot
  repeat' first | with_reducible assumption | simp only [Keeps.updMk]
theorem State.useSlots_keeps {s0 s : State} (k : Nat) (p : Nat) (n : Nat) (h : Keeps s0 s) : Keeps s0 (State.useSlots s k p n) := by
  unfold State.useSlots
  repeat' first | with_reducible assumption | simp only [Keeps.updMk]
theorem State.passPoints_keeps {s0 s : State} (part : Nat) (pts : List (Nat × Nat)) (h : Keeps s0 s) : Keeps s0 (State.passPoints s part pts) := by
  unfold State.passPoints
  repeat' first | with_reducible assumption | with_reducible apply State.useSlot_keeps | with_reducible refine Keeps.foldl ?_ (fun _ _ _ => ?_)
theorem State.countShareWait_keeps {s0 s : State} (e : Nat × Nat) (h : Keeps s0 s) : Keeps s0 (State.countShareWait s e) := by
  unfold State.countShareWait
  repeat' first | with_reducible assumption | with_reducible apply State.bump_keeps
theorem State.enterLane_keeps {s0 s : State} (us : List Nat) (h : Keeps s0 s) : Keeps s0 (State.enterLane s us) := by
  unfold State.enterLane
  repeat' first | with_reducible assumption | with_reducible apply State.setFld_keeps | simp only [Keeps.updMk] | split
theorem State.launch_keeps {s0 s : State} (f : Flit) (override : Option Nat) (h : Keeps s0 s) : Keeps s0 (State.launch s f override) := by
  unfold State.launch
  repeat' first | with_reducible assumption | with_reducible apply State.bump_keeps | with_reducible apply State.enterLane_keeps | with_reducible apply State.countO_keeps | simp only [Keeps.updMk] | split
theorem State.holdEgress_keeps {s0 s : State} (p : Nat) (f : Flit) (override : Option Nat) (h : Keeps s0 s) : Keeps s0 (State.holdEgress s p f override) := by
  unfold State.holdEgress
  repeat' first | with_reducible assumption | with_reducible apply State.bump_keeps | with_reducible apply State.countO_keeps | with_reducible apply State.launch_keeps | with_reducible apply State.setFld_keeps | with_reducible apply State.passPoints_keeps | with_reducible apply State.countRoute_keeps | with_reducible apply State.modPart_keeps | split
theorem State.sendCredit_keeps {s0 s : State} (p : Nat) (t : Nat) (ch : Nat) (n : Nat) (h : Keeps s0 s) : Keeps s0 (State.sendCredit s p t ch n) := by
  unfold State.sendCredit
  repeat' first | with_reducible assumption | with_reducible apply State.launch_keeps | split
theorem State.modRecv_keeps {s0 s : State} (t : Nat) (ch : Nat) (f : RecvCh → RecvCh) (h : Keeps s0 s) : Keeps s0 (State.modRecv s t ch f) := by
  unfold State.modRecv
  repeat' first | with_reducible assumption | with_reducible apply State.modSpin_keeps
theorem State.consume_keeps {s0 s : State} (t : Nat) (ch : Nat) (n : Nat) (h : Keeps s0 s) : Keeps s0 (State.consume s t ch n) := by
  unfold State.consume
  repeat' first | with_reducible assumption | with_reducible apply State.modSpin_keeps | with_reducible apply State.modRecv_keeps | simp only [Keeps.updMk] | split
theorem State.sendDue_keeps {s0 s : State} (p : Nat) (t : Nat) (h : Keeps s0 s) : Keeps s0 (State.sendDue s p t) := by
  unfold State.sendDue
  repeat' first | with_reducible assumption | with_reducible apply State.modSpin_keeps | with_reducible apply State.sendCredit_keeps | split
theorem State.modUnitSend_keeps {s0 s : State} (k : Nat) (f : UnitCh → UnitCh) (h : Keeps s0 s) : Keeps s0 (State.modUnitSend s k f) := by
  unfold State.modUnitSend
  repeat' first | with_reducible assumption | simp only [Keeps.updMk]
theorem State.freeIngress_keeps {s0 s : State} (o : Orig) (h : Keeps s0 s) : Keeps s0 (State.freeIngress s o) := by
  unfold State.freeIngress
  repeat' first | with_reducible assumption | simp only [Keeps.updMk]
theorem State.pumpUnit_keeps {s0 s : State} (k : Nat) (h : Keeps s0 s) : Keeps s0 (State.pumpUnit s k) := by
  unfold State.pumpUnit
  repeat' first | with_reducible assumption | with_reducible apply State.modUnitSend_keeps | with_reducible apply State.freeIngress_keeps | with_reducible apply State.launch_keeps | with_reducible refine Keeps.foldl ?_ (fun _ _ _ => ?_) | split
theorem State.passRoute_keeps {s0 s : State} (f : Flit) (h : Keeps s0 s) : Keeps s0 (State.passRoute s f) := by
  unfold State.passRoute
  repeat' first | with_reducible assumption | with_reducible apply State.passPoints_keeps | with_reducible apply State.countRoute_keeps
theorem State.crcDetect_keeps {s0 s : State} (f : Flit) (h : Keeps s0 s) : Keeps s0 (State.crcDetect s f) := by
  unfold State.crcDetect
  repeat' first | with_reducible assumption | with_reducible apply State.bump_keeps | with_reducible apply State.countO_keeps | with_reducible apply State.setBit_keeps | with_reducible apply State.raiseIn_keeps | with_reducible apply State.modRecv_keeps | with_reducible apply State.modPart_keeps | simp only [Keeps.updMk] | split
theorem State.acceptFlit_keeps {s0 s : State} (f : Flit) (h : Keeps s0 s) : Keeps s0 (State.acceptFlit s f) := by
  unfold State.acceptFlit
  repeat' first | with_reducible assumption | with_reducible apply State.bump_keeps | with_reducible apply State.countO_keeps | with_reducible apply State.modRecv_keeps

end Sys2Proof.Machine
end

