-- ==== Sys2Proof/Laws/KeepsFlags.lean ====
section
/-! SUPPORT. What the operations of Machine/Flags.lean keep: one lemma each, see Laws/Keeps.lean. -/

namespace Sys2Proof.Machine

theorem State.slotOf_keeps {s0 s : State} (t : Nat) (held : List Nat) (h : Keeps s0 s) : Keeps s0 (State.slotOf s t held) := by
  unfold State.slotOf
  repeat' first | with_reducible assumption | with_reducible apply State.modSpin_keeps | with_reducible apply State.slotConds_keeps
theorem State.slotsOf_keeps {s0 s : State} (t : Nat) (held : List Nat) (n : Nat) (h : Keeps s0 s) : Keeps s0 (State.slotsOf s t held n) := by
  unfold State.slotsOf
  repeat' first | with_reducible assumption | with_reducible apply State.slotOf_keeps | with_reducible refine Keeps.foldl ?_ (fun _ _ _ => ?_)
theorem State.stopSampling_keeps {s0 s : State} (half : Nat) (h : Keeps s0 s) : Keeps s0 (State.stopSampling s half) := by
  unfold State.stopSampling
  repeat' first | with_reducible assumption | with_reducible apply State.setBit_keeps | with_reducible apply State.raise_keeps | split
theorem State.pushSample_keeps {s0 s : State} (half : Nat) (r : Bytes) (h : Keeps s0 s) : Keeps s0 (State.pushSample s half r) := by
  unfold State.pushSample
  repeat' first | with_reducible assumption | with_reducible apply State.bump_keeps | with_reducible apply State.setBit_keeps | with_reducible apply State.stopSampling_keeps | simp only [Keeps.updMk] | split
theorem State.sample_keeps {s0 s : State} (p : Nat) (t : Nat) (w : DWord) (waited : SMap Nat) (turn : DWord) (h : Keeps s0 s) : Keeps s0 (State.sample s p t w waited turn) := by
  unfold State.sample
  repeat' first | with_reducible assumption | with_reducible apply State.modSpin_keeps | with_reducible apply State.pushSample_keeps | simp only [Keeps.updMk] | split

end Sys2Proof.Machine
end

