-- ==== Sys2Proof/Laws/KeepsIssue.lean ====
section
/-! SUPPORT. What the operations of Machine/Issue.lean keep: one lemma each, see Laws/Keeps.lean. -/

namespace Sys2Proof.Machine

/-- What the progress of a waiting slot keeps. -/
def WaitKeeps (x : Option (SpWait × (State → State))) : Prop :=
  ∀ {w : SpWait} {g : State → State}, x = some (w, g) → ∀ {s0 s : State}, Keeps s0 s → Keeps s0 (g s)
theorem WaitKeeps.none : WaitKeeps none := fun e => nomatch e
theorem WaitKeeps.some {w : SpWait} {g : State → State} (hg : ∀ {s0 s : State}, Keeps s0 s → Keeps s0 (g s)) : WaitKeeps (some (w, g)) :=
  fun e => by cases e; exact hg
theorem WaitKeeps.waits (code : Nat) (ch : Option Nat) : WaitKeeps (waits code ch) := WaitKeeps.some fun h => h
theorem WaitKeeps.ite {x y : Option (SpWait × (State → State))} {c : Prop} [Decidable c] (hx : WaitKeeps x) (hy : WaitKeeps y) :
    WaitKeeps (if c then x else y) := by
  split
  · exact hx
  · exact hy
/-- What an instruction's parts keep. -/
structure IssueKeeps (i : Issue) : Prop where
  eff : ∀ {s0 s : State}, Keeps s0 s → Keeps s0 (i.eff s)
  post : ∀ {s0 s : State}, Keeps s0 s → Keeps s0 (i.post s)
  wait : WaitKeeps i.wait
theorem IssueKeeps.of {reads writes : List (Nat × Nat)} {lines : Nat × Nat} {fault : Option FaultP}
    {wait : Option (SpWait × (State → State))} {turns : Nat} {holds : Option (List UnitHold)} {eff post : State → State}
    (he : ∀ {s0 s : State}, Keeps s0 s → Keeps s0 (eff s)) (hp : ∀ {s0 s : State}, Keeps s0 s → Keeps s0 (post s)) (hw : WaitKeeps wait) :
    IssueKeeps (Issue.mk reads writes lines fault wait turns holds eff post) := ⟨he, hp, hw⟩
theorem Keeps.idk {s0 s : State} (h : Keeps s0 s) : Keeps s0 (id s) := h
theorem State.wdgTick_keeps {s0 s : State} (p : Nat) (t : Nat) (h : Keeps s0 s) : Keeps s0 (State.wdgTick s p t) := by
  unfold State.wdgTick
  repeat' first | with_reducible assumption | with_reducible apply State.setFld_keeps | simp only [Keeps.updMk] | split
theorem State.progress_keeps {s0 s : State} (p : Nat) (h : Keeps s0 s) : Keeps s0 (State.progress s p) := by
  unfold State.progress
  repeat' first | with_reducible assumption | with_reducible apply State.setFld_keeps | with_reducible apply State.modPart_keeps
theorem State.waitSlot_keeps {s0 s : State} (p : Nat) (t : Nat) (w : SpWait) (h : Keeps s0 s) : Keeps s0 (State.waitSlot s p t w) := by
  unfold State.waitSlot
  repeat' first | with_reducible assumption | with_reducible apply State.modSpin_keeps | with_reducible apply State.wdgTick_keeps | with_reducible apply State.slotOf_keeps
theorem State.wasteSlot_keeps {s0 s : State} (p : Nat) (t : Nat) (h : Keeps s0 s) : Keeps s0 (State.wasteSlot s p t) := by
  unfold State.wasteSlot
  repeat' first | with_reducible assumption | with_reducible apply State.wdgTick_keeps | with_reducible apply State.slotOf_keeps
theorem State.recordFault_keeps {s0 s : State} (p : Nat) (t : Nat) (r : Bytes) (h : Keeps s0 s) : Keeps s0 (State.recordFault s p t r) := by
  unfold State.recordFault
  repeat' first | with_reducible assumption | with_reducible apply State.faultStop_keeps | with_reducible apply State.stopTile_keeps | with_reducible apply State.modPart_keeps | simp only [Keeps.updMk] | split
theorem State.takeFaultAt_keeps {s0 s : State} (p : Nat) (t : Nat) (site : Site) (f : FaultP) (h : Keeps s0 s) : Keeps s0 (State.takeFaultAt s p t site f) := by
  unfold State.takeFaultAt
  repeat' first | with_reducible assumption | with_reducible apply State.recordFault_keeps | with_reducible apply State.replayDisagree_keeps | split
theorem State.takeFault_keeps {s0 s : State} (p : Nat) (t : Nat) (w : DWord) (f : FaultP) (h : Keeps s0 s) : Keeps s0 (State.takeFault s p t w f) := by
  unfold State.takeFault
  repeat' first | with_reducible assumption | with_reducible apply State.takeFaultAt_keeps | with_reducible apply State.suspect_keeps | with_reducible apply State.wasteSlot_keeps | simp only [Keeps.updMk] | split
theorem State.retire_keeps {s0 s : State} (p : Nat) (t : Nat) (w : DWord) (turns : Nat) (cls : Nat) (h : Keeps s0 s) : Keeps s0 (State.retire s p t w turns cls) := by
  unfold State.retire
  repeat' first | with_reducible assumption | with_reducible apply State.countO_keeps | with_reducible apply State.sample_keeps | with_reducible apply State.modSpin_keeps | with_reducible apply State.slotsOf_keeps | with_reducible apply State.progress_keeps | with_reducible apply State.wdgTick_keeps | split
/-- The wait that a slot counts is one of the list. -/
theorem firstOf_mem {l : List (Option (SpWait × (State → State)))} {x : SpWait × (State → State)} (e : firstOf l = some x) : some x ∈ l := by
  induction l with
  | nil => cases e
  | cons y l ih =>
    cases y with
    | none => exact List.mem_cons_of_mem _ (ih e)
    | some y =>
      unfold firstOf at e
      split at e
      · rename_i z hz
        split at e
        · cases e; exact List.mem_cons_of_mem _ (ih hz)
        · cases e; exact List.mem_cons_self
      · cases e; exact List.mem_cons_self
theorem waitIf_keeps (c : Bool) (n : Nat) : WaitKeeps (waitIf c n) := by
  unfold waitIf
  exact WaitKeeps.ite (WaitKeeps.waits _ _) WaitKeeps.none
theorem State.firstWait_keeps {s1 : State} {p t : Nat} {w : DWord} {i : Issue} (hi : IssueKeeps i) : WaitKeeps (s1.firstWait p t w i) := by
  intro wt g e s0 s h
  unfold State.firstWait at e
  have hm := firstOf_mem e
  simp only [List.mem_cons, List.not_mem_nil, or_false] at hm
  rcases hm with hm | hm | hm | hm
  · exact hi.wait hm.symm h
  · exact waitIf_keeps _ _ hm.symm h
  · split at hm
    · exact WaitKeeps.waits _ _ hm.symm h
    · cases hm
  · exact waitIf_keeps _ _ hm.symm h
theorem State.charge_keeps {s0 s : State} (t : Nat) (w : DWord) (h : Keeps s0 s) : Keeps s0 (State.charge s t w) := by
  unfold State.charge
  repeat' first | with_reducible assumption | with_reducible apply State.modSpin_keeps | split
theorem State.issueWord_keeps {s0 s : State} (p t : Nat) (w : DWord) (i : Issue) (hi : IssueKeeps i) (h : Keeps s0 s) :
    Keeps s0 (State.issueWord s p t w i) := by
  unfold State.issueWord
  dsimp only
  split
  · split
    · exact State.waitSlot_keeps _ _ _ h
    · exact h
  · split
    · exact State.takeFault_keeps _ _ _ _ h
    · split
      · rename_i e; exact State.waitSlot_keeps _ _ _ (State.firstWait_keeps hi e h)
      · exact hi.post (State.retire_keeps _ _ _ _ _ (hi.eff (State.modSpin_keeps _ _ (State.charge_keeps _ _ h))))
theorem State.stopReached_keeps {s0 s : State} (p : Nat) (t : Nat) (h : Keeps s0 s) : Keeps s0 (State.stopReached s p t).2 := by
  unfold State.stopReached
  repeat' first | with_reducible assumption | with_reducible apply State.stopTile_keeps | with_reducible apply State.modPart_keeps | with_reducible apply State.fresh_keeps | simp only [Keeps.updMk] | split
theorem State.issue_keeps {s0 s : State} (t : Nat) (w : DWord) (f : State → Nat → Issue) (hf : ∀ s p, IssueKeeps (f s p)) (h : Keeps s0 s) :
    Keeps s0 (State.issue s t w f) := by
  have drawn : ∀ (c : Bool) (u : State), Keeps s0 u → Keeps s0 (if c then { u with freeCtr := u.freeCtr + 1 } else u) := by
    intro c u hu
    split
    · exact Keeps.draw hu rfl rfl (Nat.le_succ _) rfl rfl rfl
    · exact hu
  unfold State.issue
  split
  · exact h
  · split
    · exact h
    · dsimp only
      have h1 := fun p => State.stopReached_keeps (s0 := s0) p t (State.sendDue_keeps p t h)
      split
      · exact h
      · split
        · exact State.wasteSlot_keeps _ _ (h1 _)
        · split
          · exact State.waitSlot_keeps _ _ _ (h1 _)
          · split
            · exact State.takeFault_keeps _ _ _ _ (h1 _)
            · split
              · refine drawn _ _ ?_
                split
                · exact State.waitSlot_keeps _ _ _ (h1 _)
                · exact State.retire_keeps _ _ _ _ _ (h1 _)
              · exact drawn _ _ (State.issueWord_keeps _ _ _ _ (hf _ _) (h1 _))
theorem instr_keeps {s0 s : State} {t : BitVec 12} {w : DWord} {f : State → Nat → Nat → Issue} (hf : ∀ s p u, IssueKeeps (f s p u))
    (h : Keeps s0 s) : KeepsOut s0 (instr s t w f) := by
  unfold instr
  split
  · exact State.issue_keeps _ _ _ (fun _ _ => hf _ _ _) h
  · exact True.intro

end Sys2Proof.Machine
end

