-- ==== Sys2Proof/Laws/KeepsCtxStore.lean ====
section
/-! SUPPORT. What the operations of Machine/CtxStore.lean keep: one lemma each, see Laws/Keeps.lean. -/

namespace Sys2Proof.Machine

theorem State.ctxWrite_keeps {s0 s : State} (a : CtxAddr) (off : Nat) (bs : Bytes) (h : Keeps s0 s) : Keeps s0 (State.ctxWrite s a off bs) := by
  unfold State.ctxWrite
  repeat' first | with_reducible assumption | with_reducible apply State.stackWrite_keeps | with_reducible apply State.sliceWrite_keeps | split
theorem State.carry_keeps {s0 s : State} (p : Nat) (src : Nat) (dst : Nat) (h : Keeps s0 s) : Keeps s0 (State.carry s p src dst) := by
  unfold State.carry
  repeat' first | with_reducible assumption | with_reducible apply State.bump_keeps | with_reducible apply State.countO_keeps | with_reducible apply State.passPoints_keeps | with_reducible apply State.countRoute_keeps | split
theorem State.carryAll_keeps {s0 s : State} (p : Nat) (src : Nat) (dsts : List Nat) (h : Keeps s0 s) : Keeps s0 (State.carryAll s p src dsts) := by
  unfold State.carryAll
  repeat' first | with_reducible assumption | with_reducible apply State.carry_keeps | with_reducible refine Keeps.foldl ?_ (fun _ _ _ => ?_)
theorem State.usePort_keeps {s0 s : State} (p : Nat) (slot : Nat) (bytes : Nat) (h : Keeps s0 s) : Keeps s0 (State.usePort s p slot bytes) := by
  unfold State.usePort
  repeat' first | with_reducible assumption | with_reducible apply State.useSlots_keeps
theorem State.shareWait_waits {s : State} (p src : Nat) (l : List Nat) : WaitKeeps (s.shareWait p src l) := by
  unfold State.shareWait
  split
  · exact WaitKeeps.some fun h => State.countShareWait_keeps _ h
  · exact WaitKeeps.none
theorem State.putToken_keeps {s0 s : State} (a : CtxAddr) (d : Nat) (k : Nat) (v : Bytes) (h : Keeps s0 s) : Keeps s0 (State.putToken s a d k v) := by
  unfold State.putToken
  repeat' first | with_reducible assumption | with_reducible apply State.ctxWrite_keeps | with_reducible refine Keeps.foldl ?_ (fun _ _ _ => ?_)

end Sys2Proof.Machine
end

