-- ==== Sys2Proof/Laws/KeepsLinkOps.lean ====
section
/-! SUPPORT. What the operations of Machine/LinkOps.lean keep: one lemma each, see Laws/Keeps.lean. -/

namespace Sys2Proof.Machine

theorem State.modLink_keeps {s0 s : State} (l : Nat) (f : LinkSt → LinkSt) (h : Keeps s0 s) : Keeps s0 (State.modLink s l f) := by
  unfold State.modLink
  repeat' first | with_reducible assumption | simp only [Keeps.updMk]
theorem State.putLea_keeps {s0 s : State} (l : Nat) (kind : Nat) (nak : Bool) (seq : Nat) (cls : Nat) (flits : Bytes) (h : Keeps s0 s) : Keeps s0 (State.putLea s l kind nak seq cls flits) := by
  unfold State.putLea
  repeat' first | with_reducible assumption | with_reducible apply State.modLink_keeps | with_reducible apply State.send_keeps | with_reducible apply State.fresh_keeps
theorem State.sendLea_keeps {s0 s : State} (l : Nat) (cls : Nat) (h : Keeps s0 s) : Keeps s0 (State.sendLea s l cls) := by
  unfold State.sendLea
  repeat' first | with_reducible assumption | with_reducible apply State.modLink_keeps | with_reducible apply State.putLea_keeps | with_reducible apply State.bump_keeps
theorem State.pumpClass_keeps {s0 s : State} (l : Nat) (cls : Nat) (a : Nat) (h : Keeps s0 s) : Keeps s0 (State.pumpClass s l cls a) := by
  induction a generalizing s with
  | zero =>
    unfold State.pumpClass
    repeat' first | with_reducible assumption | with_reducible apply State.sendLea_keeps | simp only [Keeps.updMk] | split | with_reducible apply ih
  | succ n ih =>
    unfold State.pumpClass
    repeat' first | with_reducible assumption | with_reducible apply State.sendLea_keeps | simp only [Keeps.updMk] | split | with_reducible apply ih
theorem State.pumpLink_keeps {s0 s : State} (l : Nat) (h : Keeps s0 s) : Keeps s0 (State.pumpLink s l) := by
  unfold State.pumpLink
  repeat' first | with_reducible assumption | with_reducible apply State.pumpClass_keeps | with_reducible refine Keeps.foldl ?_ (fun _ _ _ => ?_)
theorem State.resend_keeps {s0 s : State} (l : Nat) (h : Keeps s0 s) : Keeps s0 (State.resend s l) := by
  unfold State.resend
  repeat' first | with_reducible assumption | with_reducible apply State.modLink_keeps | with_reducible apply State.putLea_keeps | with_reducible apply State.bump_keeps | with_reducible refine Keeps.foldl ?_ (fun _ _ _ => ?_) | simp only [Keeps.updMk] | split
theorem State.linkSend_keeps {s0 s : State} (l : Nat) (cls : Nat) (msg : Bytes) (h : Keeps s0 s) : Keeps s0 (State.linkSend s l cls msg) := by
  unfold State.linkSend
  repeat' first | with_reducible assumption | with_reducible apply State.modLink_keeps | with_reducible apply State.pumpLink_keeps | simp only [Keeps.updMk] | split
theorem State.setDescCred_keeps {s0 s : State} (unit : Nat) (p : Nat) (c : Nat) (n : Nat) (h : Keeps s0 s) : Keeps s0 (State.setDescCred s unit p c n) := by
  unfold State.setDescCred
  repeat' first | with_reducible assumption | with_reducible apply State.setFld_keeps | simp only [Keeps.updMk] | split
theorem State.sendTensor_keeps {s0 s : State} (m : EgMsg) (h : Keeps s0 s) : Keeps s0 (State.sendTensor s m) := by
  unfold State.sendTensor
  repeat' first | with_reducible assumption | with_reducible apply State.setDescCred_keeps | with_reducible apply State.linkSend_keeps | with_reducible apply State.send_keeps | simp only [Keeps.updMk] | split
theorem State.pumpMsgs_keeps {s0 s : State} (a : Nat) (h : Keeps s0 s) : Keeps s0 (State.pumpMsgs s a) := by
  induction a generalizing s with
  | zero =>
    unfold State.pumpMsgs
    repeat' first | with_reducible assumption | with_reducible apply State.sendTensor_keeps | with_reducible apply State.useSlots_keeps | simp only [Keeps.updMk] | split | with_reducible apply ih
  | succ n ih =>
    unfold State.pumpMsgs
    repeat' first | with_reducible assumption | with_reducible apply State.sendTensor_keeps | with_reducible apply State.useSlots_keeps | simp only [Keeps.updMk] | split | with_reducible apply ih
theorem State.pumpEgress_keeps {s0 s : State} (h : Keeps s0 s) : Keeps s0 (State.pumpEgress s) := by
  unfold State.pumpEgress
  repeat' first | with_reducible assumption | with_reducible apply State.pumpMsgs_keeps
theorem State.idleCycle_keeps {s0 s : State} (h : Keeps s0 s) : Keeps s0 (State.idleCycle s) := by
  unfold State.idleCycle
  repeat' first | with_reducible assumption | with_reducible apply oscCycle_keeps | with_reducible apply State.pumpEgress_keeps
theorem State.dropEgress_keeps {s0 s : State} (unit : Nat) (p : Nat) (c : Nat) (h : Keeps s0 s) : Keeps s0 (State.dropEgress s unit p c) := by
  unfold State.dropEgress
  repeat' first | with_reducible assumption | with_reducible apply State.bump_keeps | with_reducible apply State.setBit_keeps | with_reducible apply State.raiseIn_keeps | split
theorem State.releaseEgress_keeps {s0 s : State} (p : Nat) (step : Nat) (h : Keeps s0 s) : Keeps s0 (State.releaseEgress s p step) := by
  unfold State.releaseEgress
  repeat' first | with_reducible assumption | with_reducible apply State.dropEgress_keeps | with_reducible apply State.pumpEgress_keeps | with_reducible apply State.modPart_keeps | with_reducible refine Keeps.foldl ?_ (fun _ _ _ => ?_) | simp only [Keeps.updMk] | split
theorem State.sendContext_keeps {s0 s : State} (dev : Nat) (spart : Nat) (dpart : Nat) (session : Word) (body : Bytes) (h : Keeps s0 s) : Keeps s0 (State.sendContext s dev spart dpart session body) := by
  unfold State.sendContext
  repeat' first | with_reducible assumption | with_reducible apply State.linkSend_keeps | with_reducible apply State.fresh_keeps | simp only [Keeps.updMk] | split
theorem State.setLink_keeps {s0 s : State} (l : Nat) (st : Nat) (h : Keeps s0 s) : Keeps s0 (State.setLink s l st) := by
  unfold State.setLink
  repeat' first | with_reducible assumption | with_reducible apply State.setFld_keeps
theorem State.setRoles_keeps {s0 s : State} (l : Nat) (roles : List Nat) (h : Keeps s0 s) : Keeps s0 (State.setRoles s l roles) := by
  unfold State.setRoles
  repeat' first | with_reducible assumption | with_reducible apply State.modLink_keeps | with_reducible apply State.setFld_keeps | with_reducible refine Keeps.foldl ?_ (fun _ _ _ => ?_)
theorem State.leaveUp_keeps {s0 s : State} (l : Nat) (st : Nat) (h : Keeps s0 s) : Keeps s0 (State.leaveUp s l st) := by
  unfold State.leaveUp
  repeat' first | with_reducible assumption | with_reducible apply State.modLink_keeps | with_reducible apply State.bump_keeps | with_reducible apply State.setRoles_keeps | with_reducible apply State.setBit_keeps | with_reducible apply State.raise_keeps | with_reducible apply State.setLink_keeps | simp only [Keeps.updMk] | split
theorem State.enterUp_keeps {s0 s : State} (l : Nat) (h : Keeps s0 s) : Keeps s0 (State.enterUp s l) := by
  unfold State.enterUp
  repeat' first | with_reducible assumption | with_reducible apply State.modLink_keeps | with_reducible apply State.setDescCred_keeps | with_reducible apply State.raise_keeps | with_reducible apply State.setLink_keeps | with_reducible apply State.pumpEgress_keeps | with_reducible refine Keeps.foldl ?_ (fun _ _ _ => ?_) | simp only [Keeps.updMk] | split
theorem State.showQp_keeps {s0 s : State} (k : Nat) (h : Keeps s0 s) : Keeps s0 (State.showQp s k) := by
  unfold State.showQp
  repeat' first | with_reducible assumption | with_reducible apply State.setReg_keeps
theorem State.resetCtx_keeps {s0 s : State} (c : Nat) (h : Keeps s0 s) : Keeps s0 (State.resetCtx s c) := by
  unfold State.resetCtx
  repeat' first | with_reducible assumption | with_reducible apply State.setReg_keeps | with_reducible apply State.modCtx_keeps
theorem State.freeQp_keeps {s0 s : State} (k : Nat) (h : Keeps s0 s) : Keeps s0 (State.freeQp s k) := by
  unfold State.freeQp
  repeat' first | with_reducible assumption | with_reducible apply State.setReg_keeps | with_reducible apply State.showQp_keeps | with_reducible apply State.modQp_keeps | with_reducible apply State.resetCtx_keeps | split
theorem State.qpError_keeps {s0 s : State} (k : Nat) (h : Keeps s0 s) : Keeps s0 (State.qpError s k) := by
  unfold State.qpError
  repeat' first | with_reducible assumption | with_reducible apply State.setBit_keeps | with_reducible apply State.raise_keeps | with_reducible apply State.freeQp_keeps | split

end Sys2Proof.Machine
end

