-- ==== Sys2Proof/Laws/KeepsAdapterOps.lean ====
section
/-! SUPPORT. What the operations of Machine/AdapterOps.lean keep: one lemma each, see Laws/Keeps.lean. -/

namespace Sys2Proof.Machine

theorem State.modJob_keeps {s0 s : State} (j : Nat) (f : Job → Job) (h : Keeps s0 s) : Keeps s0 (State.modJob s j f) := by
  unfold State.modJob
  repeat' first | with_reducible assumption | simp only [Keeps.updMk]
theorem State.modModel_keeps {s0 s : State} (m : Nat) (f : ModelSt → ModelSt) (h : Keeps s0 s) : Keeps s0 (State.modModel s m f) := by
  unfold State.modModel
  repeat' first | with_reducible assumption | simp only [Keeps.updMk]
theorem State.endJob_keeps {s0 s : State} (j : Nat) (result : Nat) (index : Nat) (h : Keeps s0 s) : Keeps s0 (State.endJob s j result index) := by
  unfold State.endJob
  repeat' first | with_reducible assumption | with_reducible apply State.setBit_keeps | with_reducible apply State.setFld_keeps | with_reducible apply State.modJob_keeps | with_reducible apply State.raise_keeps | split
theorem State.notReady_keeps {s0 s : State} (m : Nat) (reason : Nat) (h : Keeps s0 s) : Keeps s0 (State.notReady s m reason) := by
  unfold State.notReady
  repeat' first | with_reducible assumption | with_reducible apply State.raise_keeps | with_reducible apply State.modModel_keeps | simp only [Keeps.updMk] | split
theorem State.adptResult_keeps {s0 s : State} (e : Nat) (r : Nat) (h : Keeps s0 s) : Keeps s0 (State.adptResult s e r) := by
  unfold State.adptResult
  repeat' first | with_reducible assumption | with_reducible apply State.setReg_keeps
theorem State.modFoot_keeps {s0 s : State} (e : Nat) (f : Bool → WeftSlot → WeftSlot) (h : Keeps s0 s) : Keeps s0 (State.modFoot s e f) := by
  unfold State.modFoot
  repeat' first | with_reducible assumption | with_reducible apply State.modWeft_keeps | with_reducible refine Keeps.foldl ?_ (fun _ _ _ => ?_)
theorem State.freeEntry_keeps {s0 s : State} (e : Nat) (h : Keeps s0 s) : Keeps s0 (State.freeEntry s e) := by
  unfold State.freeEntry
  repeat' first | with_reducible assumption | with_reducible apply State.raiseIn_keeps | with_reducible apply State.modAdapter_keeps | with_reducible apply State.modFoot_keeps
theorem State.freeUnused_keeps {s0 s : State} (e : Nat) (h : Keeps s0 s) : Keeps s0 (State.freeUnused s e) := by
  unfold State.freeUnused
  repeat' first | with_reducible assumption | with_reducible apply State.freeEntry_keeps | simp only [Keeps.updMk] | split
theorem State.freeEntries_keeps {s0 s : State} (p : Nat) (h : Keeps s0 s) : Keeps s0 (State.freeEntries s p) := by
  unfold State.freeEntries
  repeat' first | with_reducible assumption | with_reducible apply State.freeUnused_keeps | with_reducible refine Keeps.foldl ?_ (fun _ _ _ => ?_)
theorem State.dropRef_keeps {s0 s : State} (e : Nat) (h : Keeps s0 s) : Keeps s0 (State.dropRef s e) := by
  unfold State.dropRef
  repeat' first | with_reducible assumption | with_reducible apply State.modAdapter_keeps | with_reducible apply State.freeUnused_keeps | simp only [Keeps.updMk] | split
theorem State.keepImages_keeps {s0 s : State} (e : Nat) (h : Keeps s0 s) : Keeps s0 (State.keepImages s e) := by
  unfold State.keepImages
  repeat' first | with_reducible assumption | with_reducible apply State.modAdapter_keeps
theorem State.applyAdptCmd_keeps {s0 s : State} (e : Nat) (op : Nat) (h : Keeps s0 s) : Keeps s0 (State.applyAdptCmd s e op) := by
  unfold State.applyAdptCmd
  repeat' first | with_reducible assumption | with_reducible apply State.adptResult_keeps | with_reducible apply State.modAdapter_keeps | with_reducible apply State.keepImages_keeps | with_reducible apply State.freeEntry_keeps | with_reducible apply State.modFoot_keeps | simp only [Keeps.updMk] | split
theorem State.goLive_keeps {s0 s : State} (e : Nat) (h : Keeps s0 s) : Keeps s0 (State.goLive s e) := by
  unfold State.goLive
  repeat' first | with_reducible assumption | with_reducible apply State.adptResult_keeps | with_reducible apply State.raiseIn_keeps | with_reducible apply State.modAdapter_keeps | with_reducible apply State.freeEntry_keeps | with_reducible apply State.modFoot_keeps | with_reducible apply State.endJob_keeps | with_reducible refine Keeps.foldl ?_ (fun _ _ _ => ?_) | simp only [Keeps.updMk] | split
theorem State.flip_keeps {s0 s : State} (e : Nat) (h : Keeps s0 s) : Keeps s0 (State.flip s e) := by
  unfold State.flip
  repeat' first | with_reducible assumption | with_reducible apply State.modAdapter_keeps | with_reducible apply State.modFoot_keeps | split
theorem State.boundaryAdapters_keeps {s0 s : State} (p : Nat) (h : Keeps s0 s) : Keeps s0 (State.boundaryAdapters s p) := by
  unfold State.boundaryAdapters
  repeat' first | with_reducible assumption | with_reducible apply State.applyAdptCmd_keeps | with_reducible apply State.freeEntries_keeps | with_reducible apply State.goLive_keeps | with_reducible apply State.flip_keeps | with_reducible refine Keeps.foldl ?_ (fun _ _ _ => ?_)

end Sys2Proof.Machine
end

