-- ==== Sys2Proof/Laws/KeepsServeOps.lean ====
section
/-! SUPPORT. What the operations of Machine/ServeOps.lean keep: one lemma each, see Laws/Keeps.lean. -/

namespace Sys2Proof.Machine

theorem State.modSession_keeps {s0 s : State} (id : Word) (f : Session → Session) (h : Keeps s0 s) : Keeps s0 (State.modSession s id f) := by
  unfold State.modSession
  repeat' first | with_reducible assumption | simp only [Keeps.updMk]
theorem State.pushFrame_keeps {s0 s : State} (p : Nat) (kind : Nat) (body : Bytes) (h : Keeps s0 s) : Keeps s0 (State.pushFrame s p kind body) := by
  unfold State.pushFrame
  repeat' first | with_reducible assumption | with_reducible apply State.modServPart_keeps | with_reducible apply State.pushMsg_keeps
theorem State.closeNotice_keeps {s0 s : State} (p : Nat) (h : Keeps s0 s) : Keeps s0 (State.closeNotice s p) := by
  unfold State.closeNotice
  repeat' first | with_reducible assumption | with_reducible apply State.modServPart_keeps | with_reducible apply State.pushFrame_keeps | simp only [Keeps.updMk] | split
theorem State.notice_keeps {s0 s : State} (p : Nat) (id : Word) (rtag : Word) (op : Nat) (status : Nat) (h : Keeps s0 s) : Keeps s0 (State.notice s p id rtag op status) := by
  unfold State.notice
  repeat' first | with_reducible assumption | with_reducible apply State.modServPart_keeps | with_reducible apply State.closeNotice_keeps | simp only [Keeps.updMk] | split
theorem State.setTokenLine_keeps {s0 s : State} (p : Nat) (pg : Nat) (ts : List Word) (h : Keeps s0 s) : Keeps s0 (State.setTokenLine s p pg ts) := by
  unfold State.setTokenLine
  repeat' first | with_reducible assumption | with_reducible apply State.ctxWrite_keeps
theorem State.layBraid_keeps {s0 s : State} (p : Nat) (h : Keeps s0 s) : Keeps s0 (State.layBraid s p) := by
  unfold State.layBraid
  repeat' first | with_reducible assumption | with_reducible apply State.ctxWrite_keeps | with_reducible refine Keeps.foldl ?_ (fun _ _ _ => ?_)
theorem State.refNode_keeps {s0 s : State} (p : Nat) (n : Nat) (up : Bool) (h : Keeps s0 s) : Keeps s0 (State.refNode s p n up) := by
  unfold State.refNode
  repeat' first | with_reducible assumption | with_reducible apply State.modServPart_keeps
theorem State.evict_keeps {s0 s : State} (p : Nat) (h : Keeps s0 s) : Keeps s0 (State.evict s p) := by
  unfold State.evict
  repeat' first | with_reducible assumption | with_reducible apply State.refNode_keeps | with_reducible apply State.modServPart_keeps | with_reducible apply State.bump_keeps | simp only [Keeps.updMk] | split
theorem State.collide_keeps {s0 s : State} (p : Nat) (id : Word) (h : Keeps s0 s) : Keeps s0 (State.collide s p id) := by
  unfold State.collide
  repeat' first | with_reducible assumption | with_reducible apply State.bump_keeps | with_reducible apply State.raiseIn_keeps
theorem State.walkBraid_keeps {s0 s : State} (p : Nat) (id : Word) (parent : Option Nat) (d : DWord) (ts : List Word) (a : Nat) (h : Keeps s0 s) : Keeps s0 (State.walkBraid s p id parent d ts a).2 := by
  induction a generalizing s parent d ts with
  | zero =>
    unfold State.walkBraid
    repeat' first | with_reducible assumption | with_reducible apply State.refNode_keeps | with_reducible apply State.collide_keeps | simp only [Keeps.updMk] | split | with_reducible apply ih
  | succ n ih =>
    unfold State.walkBraid
    repeat' first | with_reducible assumption | with_reducible apply State.refNode_keeps | with_reducible apply State.collide_keeps | simp only [Keeps.updMk] | split | with_reducible apply ih
theorem State.insertBlock_keeps {s0 s : State} (id : Word) (k : Nat) (h : Keeps s0 s) : Keeps s0 (State.insertBlock s id k) := by
  unfold State.insertBlock
  repeat' first | with_reducible assumption | with_reducible apply State.refNode_keeps | with_reducible apply State.modSession_keeps | with_reducible apply State.modServPart_keeps | with_reducible apply State.bump_keeps | with_reducible apply State.collide_keeps | with_reducible apply State.evict_keeps | simp only [Keeps.updMk] | split
theorem State.insertFrom_keeps {s0 s : State} (id : Word) (c0 : Nat) (h : Keeps s0 s) : Keeps s0 (State.insertFrom s id c0) := by
  unfold State.insertFrom
  repeat' first | with_reducible assumption | with_reducible apply State.setTokenLine_keeps | with_reducible apply State.layBraid_keeps | with_reducible apply State.insertBlock_keeps | with_reducible refine Keeps.foldl ?_ (fun _ _ _ => ?_) | split
theorem State.drawPages_keeps {s0 s : State} (l : List Nat) (a : Nat) (h : Keeps s0 s) : Keeps s0 (State.drawPages s l a).2 := by
  induction a generalizing s l with
  | zero =>
    unfold State.drawPages
    repeat' first | with_reducible assumption | with_reducible apply State.fresh_keeps | simp only [Keeps.updMk] | split | with_reducible apply ih
  | succ n ih =>
    unfold State.drawPages
    repeat' first | with_reducible assumption | with_reducible apply State.fresh_keeps | simp only [Keeps.updMk] | split | with_reducible apply ih
theorem State.makeFree_keeps {s0 s : State} (p : Nat) (lo : Nat) (n : Nat) (need : Nat) (a : Nat) (h : Keeps s0 s) : Keeps s0 (State.makeFree s p lo n need a) := by
  induction a generalizing s with
  | zero =>
    unfold State.makeFree
    repeat' first | with_reducible assumption | with_reducible apply State.evict_keeps | split | with_reducible apply ih
  | succ n ih =>
    unfold State.makeFree
    repeat' first | with_reducible assumption | with_reducible apply State.evict_keeps | split | with_reducible apply ih
theorem State.reserve_keeps {s0 s : State} (x : Session) (h : Keeps s0 s) : Keeps s0 (State.reserve s x).2 := by
  unfold State.reserve
  repeat' first | with_reducible assumption | with_reducible apply State.modSession_keeps | with_reducible apply State.makeFree_keeps | with_reducible apply State.drawPages_keeps | simp only [Keeps.updMk] | split
theorem State.dropSession_keeps {s0 s : State} (x : Session) (h : Keeps s0 s) : Keeps s0 (State.dropSession s x) := by
  unfold State.dropSession
  repeat' first | with_reducible assumption | with_reducible apply State.refNode_keeps | with_reducible apply State.modServPart_keeps | with_reducible apply State.layBraid_keeps | with_reducible apply State.dropRef_keeps | with_reducible refine Keeps.foldl ?_ (fun _ _ _ => ?_) | simp only [Keeps.updMk] | split
theorem State.endEvent_keeps {s0 s : State} (p : Nat) (id : Word) (status : Nat) (h : Keeps s0 s) : Keeps s0 (State.endEvent s p id status) := by
  unfold State.endEvent
  repeat' first | with_reducible assumption | with_reducible apply State.setBit_keeps | with_reducible apply State.raiseIn_keeps | split
theorem State.endSession_keeps {s0 s : State} (id : Word) (op : Nat) (status : Nat) (h : Keeps s0 s) : Keeps s0 (State.endSession s id op status) := by
  unfold State.endSession
  repeat' first | with_reducible assumption | with_reducible apply State.dropSession_keeps | with_reducible apply State.endEvent_keeps | with_reducible apply State.notice_keeps | split
theorem State.endAtTick_keeps {s0 s : State} (id : Word) (op : Nat) (status : Nat) (h : Keeps s0 s) : Keeps s0 (State.endAtTick s id op status) := by
  unfold State.endAtTick
  repeat' first | with_reducible assumption | with_reducible apply State.modSession_keeps | with_reducible apply State.endSession_keeps | split
theorem State.publish_keeps {s0 s : State} (p : Nat) (h : Keeps s0 s) : Keeps s0 (State.publish s p) := by
  unfold State.publish
  repeat' first | with_reducible assumption | with_reducible apply State.modSession_keeps | with_reducible apply State.modServPart_keeps | with_reducible apply State.bump_keeps | with_reducible apply State.setBit_keeps | with_reducible apply State.modPart_keeps | with_reducible refine Keeps.foldl ?_ (fun _ _ _ => ?_) | simp only [Keeps.updMk] | split

end Sys2Proof.Machine
end

