-- ==== Sys2Proof/Laws/KeepsServing.lean ====
section
/-! SUPPORT. What the operations of Machine/Serving.lean keep: one lemma each, see Laws/Keeps.lean. -/

namespace Sys2Proof.Machine

theorem State.refuse_keeps {s0 s : State} (m : Bytes) (status : Nat) (h : Keeps s0 s) : Keeps s0 (State.refuse s m status) := by
  unfold State.refuse
  repeat' first | with_reducible assumption | with_reducible apply State.bump_keeps | with_reducible apply State.setBit_keeps | with_reducible apply State.notice_keeps | split
theorem State.appendToks_keeps {s0 s : State} (x : Session) (interrupt : Bool) (ts : List Word) (h : Keeps s0 s) : Keeps s0 (State.appendToks s x interrupt ts) := by
  unfold State.appendToks
  repeat' first | with_reducible assumption | with_reducible apply State.modSession_keeps
theorem State.takeRequest_keeps {s0 s : State} (m : Bytes) (h : Keeps s0 s) : Keeps s0 (State.takeRequest s m) := by
  unfold State.takeRequest
  repeat' first | with_reducible assumption | with_reducible apply State.modSession_keeps | with_reducible apply State.modServPart_keeps | with_reducible apply State.appendToks_keeps | with_reducible apply State.refuse_keeps | with_reducible apply State.endSession_keeps | simp only [Keeps.updMk] | split
theorem arriveReq_keeps (slot : BitVec 9) (m : Bytes) {s0 s : State} (h : Keeps s0 s) : KeepsOut s0 (arriveReq slot m s) := by
  unfold arriveReq
  repeat' first | with_reducible assumption | exact True.intro | with_reducible apply KeepsOut.next | with_reducible apply State.modServPart_keeps | with_reducible apply State.bump_keeps | with_reducible apply State.refuse_keeps | with_reducible apply State.send_keeps | simp only [Keeps.updMk] | split
theorem execOpenReq_keeps (slot : BitVec 9) (msg : Bytes) {s0 s : State} (h : Keeps s0 s) : KeepsOut s0 (execOpenReq slot msg s) := by
  unfold execOpenReq
  repeat' first | with_reducible assumption | with_reducible apply arriveReq_keeps
theorem execAppendReq_keeps (slot : BitVec 9) (msg : Bytes) {s0 s : State} (h : Keeps s0 s) : KeepsOut s0 (execAppendReq slot msg s) := by
  unfold execAppendReq
  repeat' first | with_reducible assumption | with_reducible apply arriveReq_keeps
theorem execDraftReq_keeps (slot : BitVec 9) (msg : Bytes) {s0 s : State} (h : Keeps s0 s) : KeepsOut s0 (execDraftReq slot msg s) := by
  unfold execDraftReq
  repeat' first | with_reducible assumption | with_reducible apply arriveReq_keeps
theorem execCloseReq_keeps (slot : BitVec 9) (msg : Bytes) {s0 s : State} (h : Keeps s0 s) : KeepsOut s0 (execCloseReq slot msg s) := by
  unfold execCloseReq
  repeat' first | with_reducible assumption | with_reducible apply arriveReq_keeps
theorem execRingCredit_keeps (slot : BitVec 9) (msg : Bytes) {s0 s : State} (h : Keeps s0 s) : KeepsOut s0 (execRingCredit slot msg s) := by
  unfold execRingCredit
  repeat' first | with_reducible assumption | with_reducible apply arriveReq_keeps
theorem State.lookup_keeps {s0 s : State} (x : Session) (h : Keeps s0 s) : Keeps s0 (State.lookup s x) := by
  unfold State.lookup
  repeat' first | with_reducible assumption | with_reducible apply State.modSession_keeps | with_reducible apply State.bump_keeps | with_reducible apply State.walkBraid_keeps
theorem State.tryReserve_keeps {s0 s : State} (id : Word) (h : Keeps s0 s) : Keeps s0 (State.tryReserve s id) := by
  unfold State.tryReserve
  repeat' first | with_reducible assumption | with_reducible apply State.reserve_keeps | split
theorem State.tryAdmit_keeps {s0 s : State} (id : Word) (h : Keeps s0 s) : Keeps s0 (State.tryAdmit s id) := by
  unfold State.tryAdmit
  repeat' first | with_reducible assumption | with_reducible apply State.modSession_keeps | with_reducible apply State.modAdapter_keeps | with_reducible apply State.endSession_keeps | with_reducible apply State.notice_keeps | simp only [Keeps.updMk] | split
theorem execOpenLookupDone_keeps (session : Word) {s0 s : State} (h : Keeps s0 s) : KeepsOut s0 (execOpenLookupDone session s) := by
  unfold execOpenLookupDone
  repeat' first | with_reducible assumption | with_reducible apply KeepsOut.next | with_reducible apply State.tryReserve_keeps | with_reducible apply State.layBraid_keeps | with_reducible apply State.lookup_keeps | split
theorem execPendingAdmit_keeps (session : Word) {s0 s : State} (h : Keeps s0 s) : KeepsOut s0 (execPendingAdmit session s) := by
  unfold execPendingAdmit
  repeat' first | with_reducible assumption | with_reducible apply KeepsOut.next | with_reducible apply State.tryReserve_keeps | with_reducible apply State.layBraid_keeps | with_reducible apply State.tryAdmit_keeps | simp only [Keeps.updMk] | split
theorem execPendingTimeout_keeps (session : Word) {s0 s : State} (h : Keeps s0 s) : KeepsOut s0 (execPendingTimeout session s) := by
  unfold execPendingTimeout
  repeat' first | with_reducible assumption | with_reducible apply KeepsOut.next | with_reducible apply State.endAtTick_keeps | split
theorem execHoldIdleTimeout_keeps (session : Word) {s0 s : State} (h : Keeps s0 s) : KeepsOut s0 (execHoldIdleTimeout session s) := by
  unfold execHoldIdleTimeout
  repeat' first | with_reducible assumption | with_reducible apply KeepsOut.next | with_reducible apply State.endAtTick_keeps | split
theorem State.endAll_keeps {s0 s : State} (p : Nat) (status : Nat) (q : Session → Bool) (h : Keeps s0 s) : Keeps s0 (State.endAll s p status q) := by
  unfold State.endAll
  repeat' first | with_reducible assumption | with_reducible apply State.endSession_keeps | with_reducible refine Keeps.foldl ?_ (fun _ _ _ => ?_)
theorem execSuspendTimeout_keeps (p : BitVec 4) {s0 s : State} (h : Keeps s0 s) : KeepsOut s0 (execSuspendTimeout p s) := by
  unfold execSuspendTimeout
  repeat' first | with_reducible assumption | with_reducible apply KeepsOut.next | with_reducible apply State.endAll_keeps
theorem State.modXfer_keeps {s0 s : State} (id : Word) (f : Xfer → Xfer) (h : Keeps s0 s) : Keeps s0 (State.modXfer s id f) := by
  unfold State.modXfer
  repeat' first | with_reducible assumption | simp only [Keeps.updMk]
theorem State.sendOffer_keeps {s0 s : State} (x : Session) (h : Keeps s0 s) : Keeps s0 (State.sendOffer s x) := by
  unfold State.sendOffer
  repeat' first | with_reducible assumption | with_reducible apply State.sendContext_keeps | simp only [Keeps.updMk]
theorem State.carryXfer_keeps {s0 s : State} (x : Session) (l : Nat) (h : Keeps s0 s) : Keeps s0 (State.carryXfer s x l) := by
  unfold State.carryXfer
  repeat' first | with_reducible assumption | with_reducible apply State.carry_keeps | simp only [Keeps.updMk] | split
theorem State.sendData_keeps {s0 s : State} (x : Session) (y : Xfer) (i : Nat) (h : Keeps s0 s) : Keeps s0 (State.sendData s x y i) := by
  unfold State.sendData
  repeat' first | with_reducible assumption | with_reducible apply State.carryXfer_keeps | with_reducible apply State.sendContext_keeps | with_reducible refine Keeps.foldl ?_ (fun _ _ _ => ?_)
theorem State.finishImport_keeps {s0 s : State} (id : Word) (h : Keeps s0 s) : Keeps s0 (State.finishImport s id) := by
  unfold State.finishImport
  repeat' first | with_reducible assumption | with_reducible apply State.modSession_keeps | with_reducible apply State.insertFrom_keeps | with_reducible apply State.notice_keeps | simp only [Keeps.updMk] | split
theorem State.endDecided_keeps {s0 s : State} (p : Nat) (statuses : List Nat) (h : Keeps s0 s) : Keeps s0 (State.endDecided s p statuses) := by
  unfold State.endDecided
  repeat' first | with_reducible assumption | with_reducible apply State.endSession_keeps | with_reducible refine Keeps.foldl ?_ (fun _ _ _ => ?_) | split
theorem State.tickFirst_keeps {s0 s : State} (p : Nat) (rs : List PendReq) (h : Keeps s0 s) : Keeps s0 (State.tickFirst s p rs) := by
  unfold State.tickFirst
  repeat' first | with_reducible assumption | with_reducible apply State.modSession_keeps | with_reducible apply State.endDecided_keeps | with_reducible apply State.finishImport_keeps | with_reducible refine Keeps.foldl ?_ (fun _ _ _ => ?_) | split
theorem State.tickEnds_keeps {s0 s : State} (p : Nat) (h : Keeps s0 s) : Keeps s0 (State.tickEnds s p) := by
  unfold State.tickEnds
  repeat' first | with_reducible assumption | with_reducible apply State.endAll_keeps | with_reducible apply State.endSession_keeps | with_reducible refine Keeps.foldl ?_ (fun _ _ _ => ?_) | split
theorem execEngineTick_keeps (p : BitVec 4) {s0 s : State} (h : Keeps s0 s) : KeepsOut s0 (execEngineTick p s) := by
  unfold execEngineTick
  repeat' first | with_reducible assumption | with_reducible apply KeepsOut.next | with_reducible apply State.modServPart_keeps | with_reducible apply State.sendOffer_keeps | with_reducible apply State.tickEnds_keeps | with_reducible apply State.publish_keeps | with_reducible apply State.takeRequest_keeps | with_reducible apply State.tryAdmit_keeps | with_reducible apply State.tickFirst_keeps | with_reducible apply State.applyLive_keeps | with_reducible refine Keeps.foldl ?_ (fun _ _ _ => ?_) | split
theorem State.assignOpen_keeps {s0 s : State} (x : Session) (h : Keeps s0 s) : Keeps s0 (State.assignOpen s x) := by
  unfold State.assignOpen
  repeat' first | with_reducible assumption | with_reducible apply State.modSession_keeps | with_reducible apply State.ctxWrite_keeps | with_reducible refine Keeps.foldl ?_ (fun _ _ _ => ?_) | with_reducible refine Keeps.foldl_snd ?_ (fun _ _ _ => ?_) | split
theorem State.sendIntake_keeps {s0 s : State} (p : Nat) (h : Keeps s0 s) : Keeps s0 (State.sendIntake s p) := by
  unfold State.sendIntake
  repeat' first | with_reducible assumption | with_reducible apply State.modUnitSend_keeps | with_reducible apply State.pumpUnit_keeps | with_reducible refine Keeps.foldl ?_ (fun _ _ _ => ?_)
theorem State.applyStepLive_keeps {s0 s : State} (p : Nat) (h : Keeps s0 s) : Keeps s0 (State.applyStepLive s p) := by
  unfold State.applyStepLive
  repeat' first | with_reducible assumption | with_reducible apply State.modSpin_keeps | with_reducible apply State.applyLive_keeps | with_reducible refine Keeps.foldl ?_ (fun _ _ _ => ?_) | split
theorem State.measureSkew_keeps {s0 s : State} (p : Nat) (h : Keeps s0 s) : Keeps s0 (State.measureSkew s p) := by
  unfold State.measureSkew
  repeat' first | with_reducible assumption | with_reducible apply State.setReg_keeps | with_reducible apply State.fresh_keeps | simp only [Keeps.updMk] | split
theorem execStepBoundary_keeps (p : BitVec 4) {s0 s : State} (h : Keeps s0 s) : KeepsOut s0 (execStepBoundary p s) := by
  unfold execStepBoundary
  repeat' first | with_reducible assumption | with_reducible apply KeepsOut.next | with_reducible apply State.modServPart_keeps | with_reducible apply State.boundaryAdapters_keeps | with_reducible apply State.modSpin_keeps | with_reducible apply State.setReg64_keeps | with_reducible apply State.measureSkew_keeps | with_reducible apply State.assignOpen_keeps | with_reducible apply State.applyStepLive_keeps | with_reducible apply State.modPart_keeps | with_reducible apply State.sendIntake_keeps | with_reducible refine Keeps.foldl ?_ (fun _ _ _ => ?_) | split
theorem State.commitSession_keeps {s0 s : State} (p : Nat) (id : Word) (es : List (Nat × BatchE)) (h : Keeps s0 s) : Keeps s0 (State.commitSession s p id es).2 := by
  unfold State.commitSession
  repeat' first | with_reducible assumption | with_reducible apply State.modSession_keeps | with_reducible apply State.modServPart_keeps | with_reducible apply State.bump_keeps | with_reducible apply State.insertFrom_keeps | with_reducible apply State.dropSession_keeps | with_reducible apply State.endEvent_keeps | with_reducible apply Keeps.ite | split
theorem State.commitStep_keeps {s0 s : State} (p : Nat) (stamp : Nat) (h : Keeps s0 s) : Keeps s0 (State.commitStep s p stamp) := by
  unfold State.commitStep
  repeat' first | with_reducible assumption | with_reducible apply State.modServPart_keeps | with_reducible apply State.pushFrame_keeps | with_reducible apply State.commitSession_keeps | with_reducible refine Keeps.foldl_snd ?_ (fun _ _ _ => ?_)
theorem State.endStandIn_keeps {s0 s : State} (t : Nat) (h : Keeps s0 s) : Keeps s0 (State.endStandIn s t) := by
  unfold State.endStandIn
  repeat' first | with_reducible assumption | with_reducible apply State.modRow_keeps | with_reducible apply State.modWeft_keeps
theorem execMilestone_keeps (p : BitVec 4) {s0 s : State} (h : Keeps s0 s) : KeepsOut s0 (execMilestone p s) := by
  unfold execMilestone
  repeat' first | with_reducible assumption | with_reducible apply KeepsOut.next | with_reducible apply State.modSpin_keeps | with_reducible apply State.setReg64_keeps | with_reducible apply State.endStandIn_keeps | with_reducible apply State.commitStep_keeps | with_reducible apply State.releaseEgress_keeps | with_reducible apply State.modPart_keeps | with_reducible refine Keeps.foldl ?_ (fun _ _ _ => ?_) | split
theorem execOpenPageCopyDone_keeps (session : Word) (block : Nat) {s0 s : State} (h : Keeps s0 s) : KeepsOut s0 (execOpenPageCopyDone session block s) := by
  unfold execOpenPageCopyDone
  repeat' first | with_reducible assumption | with_reducible apply KeepsOut.next | with_reducible apply State.modSession_keeps | with_reducible apply State.carry_keeps | with_reducible apply State.modServPart_keeps | with_reducible apply State.ctxWrite_keeps | with_reducible refine Keeps.foldl ?_ (fun _ _ _ => ?_) | simp only [Keeps.updMk] | split
theorem State.readFrame_keeps {s0 s : State} (p : Nat) (n : Nat) (h : Keeps s0 s) : Keeps s0 (State.readFrame s p n).2 := by
  unfold State.readFrame
  repeat' first | with_reducible assumption | with_reducible apply State.bump_keeps | with_reducible apply State.setBit_keeps | with_reducible refine Keeps.foldl_snd ?_ (fun _ _ _ => ?_) | split
theorem State.frameBad_keeps {s0 s : State} (p : Nat) (n : Nat) (rebuilt : Bool) (len : DWord) (body : Bytes) (h : Keeps s0 s) : Keeps s0 (State.frameBad s p n rebuilt len body) := by
  unfold State.frameBad
  repeat' first | with_reducible assumption | with_reducible apply State.modServPart_keeps | with_reducible apply State.raiseIn_keeps | with_reducible apply State.modHank_keeps | with_reducible apply State.endAtTick_keeps | with_reducible refine Keeps.foldl ?_ (fun _ _ _ => ?_) | split
theorem State.ringWrite_keeps {s0 s : State} (p : Nat) (len : DWord) (body : Bytes) (h : Keeps s0 s) : Keeps s0 (State.ringWrite s p len body) := by
  unfold State.ringWrite
  repeat' first | with_reducible assumption | with_reducible apply State.modServPart_keeps | with_reducible apply State.usePort_keeps | with_reducible apply State.modHank_keeps | with_reducible apply State.send_keeps | simp only [Keeps.updMk] | split
theorem execFrameWrite_keeps (p : BitVec 4) {s0 s : State} (h : Keeps s0 s) : KeepsOut s0 (execFrameWrite p s) := by
  unfold execFrameWrite
  repeat' first | with_reducible assumption | with_reducible apply KeepsOut.next | with_reducible apply State.ringWrite_keeps | with_reducible apply State.frameBad_keeps | with_reducible apply State.readFrame_keeps | simp only [Keeps.updMk] | split
theorem execNoticeClose_keeps (p : BitVec 4) {s0 s : State} (h : Keeps s0 s) : KeepsOut s0 (execNoticeClose p s) := by
  unfold execNoticeClose
  repeat' first | with_reducible assumption | with_reducible apply KeepsOut.next | with_reducible apply State.closeNotice_keeps
theorem execFrameRingFull_keeps (p : BitVec 4) {s0 s : State} (h : Keeps s0 s) : KeepsOut s0 (execFrameRingFull p s) := by
  unfold execFrameRingFull
  repeat' first | with_reducible assumption | with_reducible apply KeepsOut.next | with_reducible apply State.modServPart_keeps | with_reducible apply State.setBit_keeps | with_reducible apply State.raiseIn_keeps | split
theorem State.takeXfer_keeps {s0 s : State} (m : Bytes) (h : Keeps s0 s) : Keeps s0 (State.takeXfer s m) := by
  unfold State.takeXfer
  repeat' first | with_reducible assumption | simp only [Keeps.updMk]
theorem xferRow_keeps (m : Bytes) (type : Nat) (f : State → State) {s0 s : State} (hf : ∀ {s0 s : State}, Keeps s0 s → Keeps s0 (f s)) (h : Keeps s0 s) : KeepsOut s0 (xferRow m type f s) := by
  unfold xferRow
  repeat' first | with_reducible assumption | with_reducible apply KeepsOut.next | with_reducible apply State.takeXfer_keeps | with_reducible apply hf | split
theorem State.xferFail_keeps {s0 s : State} (id : Word) (h : Keeps s0 s) : Keeps s0 (State.xferFail s id) := by
  unfold State.xferFail
  repeat' first | with_reducible assumption | with_reducible apply State.endAtTick_keeps
theorem execXferOffer_keeps (msg : Bytes) {s0 s : State} (h : Keeps s0 s) : KeepsOut s0 (execXferOffer msg s) := by
  unfold execXferOffer
  repeat' first | with_reducible assumption | refine @fun s0 s (h : Keeps s0 s) => ?_ | with_reducible apply State.sendContext_keeps | with_reducible apply State.xferFail_keeps | with_reducible apply xferRow_keeps | simp only [Keeps.updMk] | split
theorem execXferAccept_keeps (msg : Bytes) {s0 s : State} (h : Keeps s0 s) : KeepsOut s0 (execXferAccept msg s) := by
  unfold execXferAccept
  repeat' first | with_reducible assumption | refine @fun s0 s (h : Keeps s0 s) => ?_ | with_reducible apply State.sendData_keeps | with_reducible apply State.sendContext_keeps | with_reducible apply State.modXfer_keeps | with_reducible apply xferRow_keeps | with_reducible refine Keeps.foldl ?_ (fun _ _ _ => ?_) | simp only [Keeps.updMk] | split
theorem execXferRefuse_keeps (msg : Bytes) {s0 s : State} (h : Keeps s0 s) : KeepsOut s0 (execXferRefuse msg s) := by
  unfold execXferRefuse
  repeat' first | with_reducible assumption | refine @fun s0 s (h : Keeps s0 s) => ?_ | with_reducible apply State.xferFail_keeps | with_reducible apply xferRow_keeps | simp only [Keeps.updMk] | split
theorem State.storeXfer_keeps {s0 s : State} (x : Session) (i : Nat) (blk : Bytes) (h : Keeps s0 s) : Keeps s0 (State.storeXfer s x i blk) := by
  unfold State.storeXfer
  repeat' first | with_reducible assumption | with_reducible apply State.ctxWrite_keeps | with_reducible refine Keeps.foldl ?_ (fun _ _ _ => ?_) | simp only [Keeps.updMk] | split
theorem State.xferCheck_keeps {s0 s : State} (id : Word) (h : Keeps s0 s) : Keeps s0 (State.xferCheck s id) := by
  unfold State.xferCheck
  repeat' first | with_reducible assumption | with_reducible apply State.sendContext_keeps | with_reducible apply State.finishImport_keeps | simp only [Keeps.updMk] | split
theorem execXferData_keeps (msg : Bytes) {s0 s : State} (h : Keeps s0 s) : KeepsOut s0 (execXferData msg s) := by
  unfold execXferData
  repeat' first | with_reducible assumption | refine @fun s0 s (h : Keeps s0 s) => ?_ | with_reducible apply State.storeXfer_keeps | with_reducible apply State.xferCheck_keeps | with_reducible apply State.modXfer_keeps | with_reducible apply xferRow_keeps | simp only [Keeps.updMk] | split
theorem execXferEnd_keeps (msg : Bytes) {s0 s : State} (h : Keeps s0 s) : KeepsOut s0 (execXferEnd msg s) := by
  unfold execXferEnd
  repeat' first | with_reducible assumption | refine @fun s0 s (h : Keeps s0 s) => ?_ | with_reducible apply State.xferCheck_keeps | with_reducible apply State.modXfer_keeps | with_reducible apply xferRow_keeps | simp only [Keeps.updMk] | split
theorem execXferNack_keeps (msg : Bytes) {s0 s : State} (h : Keeps s0 s) : KeepsOut s0 (execXferNack msg s) := by
  unfold execXferNack
  repeat' first | with_reducible assumption | refine @fun s0 s (h : Keeps s0 s) => ?_ | with_reducible apply State.sendData_keeps | with_reducible apply State.sendContext_keeps | with_reducible apply State.modXfer_keeps | with_reducible apply State.xferFail_keeps | with_reducible apply xferRow_keeps | with_reducible refine Keeps.foldl ?_ (fun _ _ _ => ?_) | simp only [Keeps.updMk] | split
theorem execXferDone_keeps (msg : Bytes) {s0 s : State} (h : Keeps s0 s) : KeepsOut s0 (execXferDone msg s) := by
  unfold execXferDone
  repeat' first | with_reducible assumption | refine @fun s0 s (h : Keeps s0 s) => ?_ | with_reducible apply State.endAtTick_keeps | with_reducible apply xferRow_keeps | simp only [Keeps.updMk] | split
theorem State.sendNack_keeps {s0 s : State} (x : Session) (y : Xfer) (miss : List Nat) (h : Keeps s0 s) : Keeps s0 (State.sendNack s x y miss) := by
  unfold State.sendNack
  repeat' first | with_reducible assumption | with_reducible apply State.sendContext_keeps
theorem execXferWaitExpiry_keeps (session : Word) {s0 s : State} (h : Keeps s0 s) : KeepsOut s0 (execXferWaitExpiry session s) := by
  unfold execXferWaitExpiry
  repeat' first | with_reducible assumption | with_reducible apply KeepsOut.next | with_reducible apply State.sendNack_keeps | with_reducible apply State.xferCheck_keeps | with_reducible apply State.xferFail_keeps | with_reducible refine Keeps.foldl ?_ (fun _ _ _ => ?_) | simp only [Keeps.updMk] | split
theorem execOfferTimeout_keeps (session : Word) {s0 s : State} (h : Keeps s0 s) : KeepsOut s0 (execOfferTimeout session s) := by
  unfold execOfferTimeout
  repeat' first | with_reducible assumption | with_reducible apply KeepsOut.next | with_reducible apply State.xferFail_keeps | split

end Sys2Proof.Machine
end

