-- ==== Sys2Proof/Laws/KeepsHank.lean ====
section
/-! SUPPORT. What the operations of Machine/Hank.lean keep: one lemma each, see Laws/Keeps.lean. -/

namespace Sys2Proof.Machine

theorem State.hankCorr_keeps {s0 s : State} (q : Nat) (h : Keeps s0 s) : Keeps s0 (State.hankCorr s q) := by
  unfold State.hankCorr
  repeat' first | with_reducible assumption | with_reducible apply State.bump_keeps
theorem State.hankUncorr_keeps {s0 s : State} (q : Nat) (h : Keeps s0 s) : Keeps s0 (State.hankUncorr s q) := by
  unfold State.hankUncorr
  repeat' first | with_reducible assumption | with_reducible apply State.bump_keeps | with_reducible apply State.setBit_keeps | with_reducible apply State.raise_keeps
theorem State.popHank_keeps {s0 s : State} (q : Nat) (h : Keeps s0 s) : Keeps s0 (State.popHank s q).2 := by
  unfold State.popHank
  repeat' first | with_reducible assumption | with_reducible apply State.hankCorr_keeps | with_reducible apply State.hankUncorr_keeps | with_reducible apply State.modHank_keeps | with_reducible apply State.fresh_keeps | simp only [Keeps.updMk] | with_reducible refine Keeps.drawMk ?_ rfl | split
theorem State.stageHank_keeps {s0 s : State} (c : Nat) (q : Nat) (v : Word) (h : Keeps s0 s) : Keeps s0 (State.stageHank s c q v) := by
  unfold State.stageHank
  repeat' first | with_reducible assumption | with_reducible apply State.modCtx_keeps
theorem State.pushHank_keeps {s0 s : State} (c : Nat) (q : Nat) (v : Word) (h : Keeps s0 s) : Keeps s0 (State.pushHank s c q v) := by
  unfold State.pushHank
  repeat' first | with_reducible assumption | with_reducible apply State.modCtx_keeps | with_reducible apply State.hankPush_keeps | simp only [Keeps.updMk] | split
theorem State.clearOverflow_keeps {s0 s : State} (q : Nat) (h : Keeps s0 s) : Keeps s0 (State.clearOverflow s q) := by
  unfold State.clearOverflow
  repeat' first | with_reducible assumption | with_reducible apply State.modHank_keeps

end Sys2Proof.Machine
end

