-- ==== Sys2Proof/Laws/KeepsLoader.lean ====
section
/-! SUPPORT. What the operations of Machine/Loader.lean keep: one lemma each, see Laws/Keeps.lean. -/

namespace Sys2Proof.Machine

theorem State.takeWords_keeps {s0 s : State} (q : Nat) (n : Nat) (h : Keeps s0 s) : Keeps s0 (State.takeWords s q n) := by
  unfold State.takeWords
  repeat' first | with_reducible assumption | with_reducible apply State.hankCorr_keeps | with_reducible apply State.hankUncorr_keeps | with_reducible apply State.modHank_keeps | with_reducible refine Keeps.foldl ?_ (fun _ _ _ => ?_) | split
theorem State.takeCommand_keeps {s0 s : State} (c : Nat) (h : Keeps s0 s) : Keeps s0 (State.takeCommand s c) := by
  unfold State.takeCommand
  repeat' first | with_reducible assumption | with_reducible apply State.takeWords_keeps | simp only [Keeps.updMk]
theorem State.respond_keeps {s0 s : State} (c : Nat) (head : Bytes) (result : Nat) (tile : Nat) (index : Nat) (sites : Nat) (detail : Bytes) (h : Keeps s0 s) : Keeps s0 (State.respond s c head result tile index sites detail) := by
  unfold State.respond
  repeat' first | with_reducible assumption | with_reducible apply State.pushMsg_keeps
theorem loaderRow_keeps (op : Nat) (f : Nat → Bytes → State → State) {s0 s : State} (hf : ∀ {s0 s : State} (m0 : Nat) (m1 : Bytes), Keeps s0 s → Keeps s0 (f m0 m1 s)) (h : Keeps s0 s) : KeepsOut s0 (loaderRow op f s) := by
  unfold loaderRow
  repeat' first | with_reducible assumption | with_reducible apply KeepsOut.next | with_reducible apply State.takeCommand_keeps | with_reducible apply hf | split
theorem execMailboxBadMessage_keeps (ctx : BitVec 3) {s0 s : State} (h : Keeps s0 s) : KeepsOut s0 (execMailboxBadMessage ctx s) := by
  unfold execMailboxBadMessage
  repeat' first | with_reducible assumption | exact True.intro | with_reducible apply KeepsOut.next | with_reducible apply State.takeWords_keeps | with_reducible apply State.takeCommand_keeps | with_reducible apply State.modHank_keeps | with_reducible apply State.respond_keeps | simp only [Keeps.updMk] | split
theorem State.clearProgram_keeps {s0 s : State} (p : Nat) (h : Keeps s0 s) : Keeps s0 (State.clearProgram s p) := by
  unfold State.clearProgram
  repeat' first | with_reducible assumption | with_reducible apply State.setReg_keeps | with_reducible apply State.modServPart_keeps | with_reducible apply State.freeIngress_keeps | with_reducible apply State.modSpin_keeps | with_reducible apply State.modPart_keeps | with_reducible refine Keeps.foldl ?_ (fun _ _ _ => ?_) | simp only [Keeps.updMk]
theorem State.loadChannel_keeps {s0 s : State} (p : Nat) (c : ImgChan) (h : Keeps s0 s) : Keeps s0 (State.loadChannel s p c) := by
  unfold State.loadChannel
  repeat' first | with_reducible assumption | with_reducible apply State.modUnitSend_keeps | with_reducible apply State.modSpin_keeps | with_reducible apply State.modRecv_keeps | simp only [Keeps.updMk] | split
theorem State.clearSpills_keeps {s0 s : State} (p : Nat) (h : Keeps s0 s) : Keeps s0 (State.clearSpills s p) := by
  unfold State.clearSpills
  repeat' first | with_reducible assumption | with_reducible apply State.setReg_keeps | with_reducible refine Keeps.foldl ?_ (fun _ _ _ => ?_)
theorem State.resumeSessions_keeps {s0 s : State} (p : Nat) (model : Nat) (h : Keeps s0 s) : Keeps s0 (State.resumeSessions s p model) := by
  unfold State.resumeSessions
  repeat' first | with_reducible assumption | with_reducible apply State.modSession_keeps | with_reducible apply State.endSession_keeps | with_reducible refine Keeps.foldl ?_ (fun _ _ _ => ?_) | split
theorem State.commitImage_keeps {s0 s : State} (p : Nat) (ctag : Nat) (start : Nat) (b : Bytes) (h : Keeps s0 s) : Keeps s0 (State.commitImage s p ctag start b) := by
  unfold State.commitImage
  repeat' first | with_reducible assumption | with_reducible apply State.resumeSessions_keeps | with_reducible apply State.setReg_keeps | with_reducible apply State.modSpin_keeps | with_reducible apply State.raiseIn_keeps | with_reducible apply State.clearProgram_keeps | with_reducible apply State.loadChannel_keeps | with_reducible apply State.layBraid_keeps | with_reducible apply State.modPart_keeps | with_reducible apply State.clearSpills_keeps | with_reducible apply State.setPower_keeps | with_reducible refine Keeps.foldl ?_ (fun _ _ _ => ?_) | split
theorem execLoad_keeps {s0 s : State} (h : Keeps s0 s) : KeepsOut s0 (execLoad s) := by
  unfold execLoad
  repeat' first | with_reducible assumption | refine @fun s0 s _ _ (h : Keeps s0 s) => ?_ | with_reducible apply State.respond_keeps | with_reducible apply State.send_keeps | with_reducible apply loaderRow_keeps | simp only [Keeps.updMk] | split
theorem execLoadImageArrived_keeps (image : Bytes) {s0 s : State} (h : Keeps s0 s) : KeepsOut s0 (execLoadImageArrived image s) := by
  unfold execLoadImageArrived
  repeat' first | with_reducible assumption | with_reducible apply KeepsOut.next | with_reducible apply State.respond_keeps | with_reducible apply State.commitImage_keeps | simp only [Keeps.updMk] | split
theorem execLoadFetchTimeout_keeps {s0 s : State} (h : Keeps s0 s) : KeepsOut s0 (execLoadFetchTimeout s) := by
  unfold execLoadFetchTimeout
  repeat' first | with_reducible assumption | with_reducible apply KeepsOut.next | with_reducible apply State.respond_keeps | simp only [Keeps.updMk] | split
theorem State.patchSite_keeps {s0 s : State} (p : Nat) (v : Nat) (x : PatchSite) (h : Keeps s0 s) : Keeps s0 (State.patchSite s p v x) := by
  unfold State.patchSite
  repeat' first | with_reducible assumption | with_reducible apply State.modSpin_keeps | with_reducible apply State.modPart_keeps | split
theorem execPatch_keeps {s0 s : State} (h : Keeps s0 s) : KeepsOut s0 (execPatch s) := by
  unfold execPatch
  repeat' first | with_reducible assumption | refine @fun s0 s _ _ (h : Keeps s0 s) => ?_ | with_reducible apply State.respond_keeps | with_reducible apply State.patchSite_keeps | with_reducible apply loaderRow_keeps | with_reducible refine Keeps.foldl ?_ (fun _ _ _ => ?_) | simp only [Keeps.updMk] | split
theorem execUnload_keeps {s0 s : State} (h : Keeps s0 s) : KeepsOut s0 (execUnload s) := by
  unfold execUnload
  repeat' first | with_reducible assumption | refine @fun s0 s _ _ (h : Keeps s0 s) => ?_ | with_reducible apply State.clearProgram_keeps | with_reducible apply State.respond_keeps | with_reducible apply State.setPower_keeps | with_reducible apply State.endSession_keeps | with_reducible apply loaderRow_keeps | with_reducible refine Keeps.foldl ?_ (fun _ _ _ => ?_) | simp only [Keeps.updMk] | split

end Sys2Proof.Machine
end

