-- ==== Sys2Proof/Laws/KeepsArrays.lean ====
section
/-! SUPPORT. What the operations of Machine/Arrays.lean keep: one lemma each, see Laws/Keeps.lean. -/

namespace Sys2Proof.Machine

theorem State.queueSvc_keeps {s0 s : State} (phys : Nat) (idx : Nat) (op : Nat) (h : Keeps s0 s) : Keeps s0 (State.queueSvc s phys idx op) := by
  unfold State.queueSvc
  repeat' first | with_reducible assumption | with_reducible apply State.modWarp_keeps | with_reducible apply State.modTile_keeps | simp only [Keeps.updMk] | split
theorem State.svcWait_keeps {s0 s : State} (key : Nat) (op : Nat) (fw : Bool) (h : Keeps s0 s) : Keeps s0 (State.svcWait s key op fw) := by
  unfold State.svcWait
  repeat' first | with_reducible assumption | simp only [Keeps.updMk]
theorem State.svcRequest_keeps {s0 s : State} (phys : Nat) (idx : Nat) (op : Nat) (h : Keeps s0 s) : Keeps s0 (State.svcRequest s phys idx op) := by
  unfold State.svcRequest
  repeat' first | with_reducible assumption | with_reducible apply State.svcWait_keeps | with_reducible apply State.setReg_keeps
theorem State.shadowDue_keeps {s0 s : State} (t : Nat) (r : HoldRec) (h : Keeps s0 s) : Keeps s0 (State.shadowDue s t r) := by
  unfold State.shadowDue
  repeat' first | with_reducible assumption | with_reducible apply State.modPart_keeps | simp only [Keeps.updMk] | split
theorem State.addHold_keeps {s0 s : State} (t : Nat) (r : HoldRec) (h : Keeps s0 s) : Keeps s0 (State.addHold s t r) := by
  unfold State.addHold
  repeat' first | with_reducible assumption | with_reducible apply State.countO_keeps | with_reducible apply State.modSpin_keeps | with_reducible apply State.shadowDue_keeps | split
theorem State.report_keeps {s0 s : State} (p : Nat) (t : Nat) (d : Detection) (addr : Nat) (occ : Nat) (h : Keeps s0 s) : Keeps s0 (State.report s p t d addr occ) := by
  unfold State.report
  repeat' first | with_reducible assumption | with_reducible apply State.modPart_keeps
theorem State.enterRecal_keeps {s0 s : State} (phys : Nat) (h : Keeps s0 s) : Keeps s0 (State.enterRecal s phys) := by
  unfold State.enterRecal
  repeat' first | with_reducible assumption | with_reducible apply State.bump_keeps | with_reducible apply State.setBit_keeps | with_reducible apply State.bumpSat_keeps | with_reducible apply State.modWeft_keeps | split

end Sys2Proof.Machine
end

