-- ==== Sys2Proof/Laws/KeepsVec.lean ====
section
/-! SUPPORT. What the operations of Machine/Vec.lean keep: one lemma each, see Laws/Keeps.lean. -/

namespace Sys2Proof.Machine

theorem vec2_keeps (t : BitVec 12) (op : Nat) (f : VecF) (g : Nat → Word → Word → Word) {s0 s : State} (h : Keeps s0 s) : KeepsOut s0 (vec2 t op f g s) := by
  unfold vec2
  repeat' first | with_reducible assumption | refine instr_keeps (fun _ _ _ => ?_) (by with_reducible assumption) | with_reducible apply IssueKeeps.of | with_reducible exact WaitKeeps.none | with_reducible apply Keeps.idk | refine @fun s0 s (h : Keeps s0 s) => ?_ | with_reducible apply State.modSpin_keeps
theorem execVecFma_keeps (t : BitVec 12) (f : VecF) {s0 s : State} (h : Keeps s0 s) : KeepsOut s0 (execVecFma t f s) := by
  unfold execVecFma
  repeat' first | with_reducible assumption | refine instr_keeps (fun _ _ _ => ?_) (by with_reducible assumption) | with_reducible apply IssueKeeps.of | with_reducible exact WaitKeeps.none | with_reducible apply Keeps.idk | refine @fun s0 s (h : Keeps s0 s) => ?_ | with_reducible apply State.modSpin_keeps
theorem execVecAdd_keeps (t : BitVec 12) (f : VecF) {s0 s : State} (h : Keeps s0 s) : KeepsOut s0 (execVecAdd t f s) := by
  unfold execVecAdd
  repeat' first | with_reducible assumption | with_reducible apply vec2_keeps
theorem execVecMul_keeps (t : BitVec 12) (f : VecF) {s0 s : State} (h : Keeps s0 s) : KeepsOut s0 (execVecMul t f s) := by
  unfold execVecMul
  repeat' first | with_reducible assumption | with_reducible apply vec2_keeps
theorem execVecMax_keeps (t : BitVec 12) (f : VecF) {s0 s : State} (h : Keeps s0 s) : KeepsOut s0 (execVecMax t f s) := by
  unfold execVecMax
  repeat' first | with_reducible assumption | with_reducible apply vec2_keeps
theorem execVecMin_keeps (t : BitVec 12) (f : VecF) {s0 s : State} (h : Keeps s0 s) : KeepsOut s0 (execVecMin t f s) := by
  unfold execVecMin
  repeat' first | with_reducible assumption | with_reducible apply vec2_keeps
theorem vecHelper_keeps (t : BitVec 12) (op : Nat) (f : VecF) (g : Num → Word) {s0 s : State} (h : Keeps s0 s) : KeepsOut s0 (vecHelper t op f g s) := by
  unfold vecHelper
  repeat' first | with_reducible assumption | refine instr_keeps (fun _ _ _ => ?_) (by with_reducible assumption) | with_reducible apply IssueKeeps.of | with_reducible exact WaitKeeps.none | with_reducible apply Keeps.idk | refine @fun s0 s (h : Keeps s0 s) => ?_ | with_reducible apply State.modSpin_keeps
theorem execVecExp_keeps (t : BitVec 12) (f : VecF) {s0 s : State} (h : Keeps s0 s) : KeepsOut s0 (execVecExp t f s) := by
  unfold execVecExp
  repeat' first | with_reducible assumption | with_reducible apply vecHelper_keeps
theorem execVecRsqrt_keeps (t : BitVec 12) (f : VecF) {s0 s : State} (h : Keeps s0 s) : KeepsOut s0 (execVecRsqrt t f s) := by
  unfold execVecRsqrt
  repeat' first | with_reducible assumption | with_reducible apply vecHelper_keeps
theorem execVecRcp_keeps (t : BitVec 12) (f : VecF) {s0 s : State} (h : Keeps s0 s) : KeepsOut s0 (execVecRcp t f s) := by
  unfold execVecRcp
  repeat' first | with_reducible assumption | with_reducible apply vecHelper_keeps
theorem vecReduce_keeps (t : BitVec 12) (op : Nat) (f : VecF) (g : Word → Word → Word) {s0 s : State} (h : Keeps s0 s) : KeepsOut s0 (vecReduce t op f g s) := by
  unfold vecReduce
  repeat' first | with_reducible assumption | refine instr_keeps (fun _ _ _ => ?_) (by with_reducible assumption) | with_reducible apply IssueKeeps.of | with_reducible exact WaitKeeps.none | with_reducible apply Keeps.idk | refine @fun s0 s (h : Keeps s0 s) => ?_ | with_reducible apply State.modSpin_keeps
theorem execVecRsum_keeps (t : BitVec 12) (f : VecF) {s0 s : State} (h : Keeps s0 s) : KeepsOut s0 (execVecRsum t f s) := by
  unfold execVecRsum
  repeat' first | with_reducible assumption | with_reducible apply vecReduce_keeps
theorem execVecRmax_keeps (t : BitVec 12) (f : VecF) {s0 s : State} (h : Keeps s0 s) : KeepsOut s0 (execVecRmax t f s) := by
  unfold execVecRmax
  repeat' first | with_reducible assumption | with_reducible apply vecReduce_keeps
theorem execVecImac_keeps (t : BitVec 12) (f : VecF) {s0 s : State} (h : Keeps s0 s) : KeepsOut s0 (execVecImac t f s) := by
  unfold execVecImac
  repeat' first | with_reducible assumption | refine instr_keeps (fun _ _ _ => ?_) (by with_reducible assumption) | with_reducible apply IssueKeeps.of | with_reducible exact WaitKeeps.none | with_reducible apply Keeps.idk | refine @fun s0 s (h : Keeps s0 s) => ?_ | with_reducible apply State.modSpin_keeps
theorem execVecLd_keeps (t : BitVec 12) (f : VecF) {s0 s : State} (h : Keeps s0 s) : KeepsOut s0 (execVecLd t f s) := by
  unfold execVecLd
  repeat' first | with_reducible assumption | refine instr_keeps (fun _ _ _ => ?_) (by with_reducible assumption) | with_reducible apply IssueKeeps.of | with_reducible exact WaitKeeps.none | with_reducible apply Keeps.idk | refine @fun s0 s (h : Keeps s0 s) => ?_ | with_reducible apply State.countO_keeps | with_reducible apply State.modSpin_keeps
theorem execVecSt_keeps (t : BitVec 12) (f : VecF) {s0 s : State} (h : Keeps s0 s) : KeepsOut s0 (execVecSt t f s) := by
  unfold execVecSt
  repeat' first | with_reducible assumption | refine instr_keeps (fun _ _ _ => ?_) (by with_reducible assumption) | with_reducible apply IssueKeeps.of | with_reducible exact WaitKeeps.none | with_reducible apply Keeps.idk | refine @fun s0 s (h : Keeps s0 s) => ?_ | with_reducible apply State.countO_keeps | with_reducible apply State.writeLines_keeps
theorem vecMove_keeps (t : BitVec 12) (op : Nat) (f : VecF) (g : VReg → List Word) {s0 s : State} (h : Keeps s0 s) : KeepsOut s0 (vecMove t op f g s) := by
  unfold vecMove
  repeat' first | with_reducible assumption | refine instr_keeps (fun _ _ _ => ?_) (by with_reducible assumption) | with_reducible apply IssueKeeps.of | with_reducible exact WaitKeeps.none | with_reducible apply Keeps.idk | refine @fun s0 s (h : Keeps s0 s) => ?_ | with_reducible apply State.modSpin_keeps
theorem execVecBcast_keeps (t : BitVec 12) (f : VecF) {s0 s : State} (h : Keeps s0 s) : KeepsOut s0 (execVecBcast t f s) := by
  unfold execVecBcast
  repeat' first | with_reducible assumption | with_reducible apply vecMove_keeps
theorem execVecRot_keeps (t : BitVec 12) (f : VecF) {s0 s : State} (h : Keeps s0 s) : KeepsOut s0 (execVecRot t f s) := by
  unfold execVecRot
  repeat' first | with_reducible assumption | with_reducible apply vecMove_keeps
theorem execVecSel_keeps (t : BitVec 12) (f : VecF) {s0 s : State} (h : Keeps s0 s) : KeepsOut s0 (execVecSel t f s) := by
  unfold execVecSel
  repeat' first | with_reducible assumption | refine instr_keeps (fun _ _ _ => ?_) (by with_reducible assumption) | with_reducible apply IssueKeeps.of | with_reducible exact WaitKeeps.none | with_reducible apply Keeps.idk | refine @fun s0 s (h : Keeps s0 s) => ?_ | with_reducible apply State.modSpin_keeps

end Sys2Proof.Machine
end

