-- ==== Sys2Proof/Laws/KeepsWarp.lean ====
section
/-! SUPPORT. What the operations of Machine/Warp.lean keep: one lemma each, see Laws/Keeps.lean. -/

namespace Sys2Proof.Machine

theorem State.countSpill_keeps {s0 s : State} (p : Nat) (tag : Nat) (key : Nat) (o : WarpOut) (h : Keeps s0 s) : Keeps s0 (State.countSpill s p tag key o) := by
  unfold State.countSpill
  repeat' first | with_reducible assumption | with_reducible apply State.bump_keeps | with_reducible apply State.setBit_keeps | with_reducible apply State.raiseIn_keeps | with_reducible apply State.setFld_keeps | simp only [Keeps.updMk] | split
theorem State.refDrift_keeps {s0 s : State} (p : Nat) (t : Nat) (phys : Nat) (idx : Nat) (dev : Nat) (h : Keeps s0 s) : Keeps s0 (State.refDrift s p t phys idx dev) := by
  unfold State.refDrift
  repeat' first | with_reducible assumption | with_reducible apply State.raiseIn_keeps | with_reducible apply State.setFld_keeps | with_reducible apply State.svcRequest_keeps | simp only [Keeps.updMk] | split
theorem State.csumDetect_keeps {s0 s : State} (p : Nat) (t : Nat) (arr : Nat) (key : Nat) (addr : Nat) (occ : Nat) (bad : List (Nat × Nat)) (h : Keeps s0 s) : Keeps s0 (State.csumDetect s p t arr key addr occ bad) := by
  unfold State.csumDetect
  repeat' first | with_reducible assumption | with_reducible apply State.bump_keeps | with_reducible apply State.setBit_keeps | with_reducible apply State.report_keeps | with_reducible refine Keeps.foldl ?_ (fun _ _ _ => ?_)
theorem State.warpRan_keeps {s0 s : State} (p : Nat) (t : Nat) (phys : Nat) (idx : Nat) (tag : Nat) (o : WarpOut) (h : Keeps s0 s) : Keeps s0 (State.warpRan s p t phys idx tag o) := by
  unfold State.warpRan
  repeat' first | with_reducible assumption | with_reducible apply State.bump_keeps | with_reducible apply State.countSpill_keeps | with_reducible apply State.refDrift_keeps | with_reducible apply State.modWarp_keeps
theorem State.runWarp_keeps {s0 s : State} (p : Nat) (t : Nat) (f : WarpF) (an : WarpAnalog) (acc : Bool) (w : DWord) (h : Keeps s0 s) : Keeps s0 (State.runWarp s p t f an acc w) := by
  unfold State.runWarp
  repeat' first | with_reducible assumption | with_reducible apply State.countO_keeps | with_reducible apply State.modSpin_keeps | with_reducible apply State.warpRan_keeps | with_reducible apply State.addHold_keeps | with_reducible apply State.csumDetect_keeps
theorem warpInstr_keeps (t : BitVec 12) (op : Nat) (f : WarpF) (an : WarpAnalog) {s0 s : State} (h : Keeps s0 s) : KeepsOut s0 (warpInstr t op f an s) := by
  unfold warpInstr
  repeat' first | with_reducible assumption | refine instr_keeps (fun _ _ _ => ?_) (by with_reducible assumption) | with_reducible apply IssueKeeps.of | with_reducible exact WaitKeeps.none | with_reducible exact WaitKeeps.waits _ _ | with_reducible apply Keeps.idk | refine @fun s0 s (h : Keeps s0 s) => ?_ | with_reducible apply State.runWarp_keeps | split
theorem execWarpPass_keeps (t : BitVec 12) (f : WarpF) (a : WarpAnalog) {s0 s : State} (h : Keeps s0 s) : KeepsOut s0 (execWarpPass t f a s) := by
  unfold execWarpPass
  repeat' first | with_reducible assumption | with_reducible apply warpInstr_keeps
theorem execWarpPassa_keeps (t : BitVec 12) (f : WarpF) (a : WarpAnalog) {s0 s : State} (h : Keeps s0 s) : KeepsOut s0 (execWarpPassa t f a s) := by
  unfold execWarpPassa
  repeat' first | with_reducible assumption | with_reducible apply warpInstr_keeps
theorem execWarpPassEnd_keeps (t : BitVec 12) (arr : BitVec 4) {s0 s : State} (h : Keeps s0 s) : KeepsOut s0 (execWarpPassEnd t arr s) := by
  unfold execWarpPassEnd
  repeat' first | with_reducible assumption | exact True.intro | with_reducible apply KeepsOut.next | with_reducible apply State.modSpin_keeps | simp only [Keeps.updMk] | split
theorem State.weftRan_keeps {s0 s : State} (phys : Nat) (k : Option Bool) (up : Bool) (gs : Nat) (xs : List Int) (an : WeftAnalog) (h : Keeps s0 s) : Keeps s0 (State.weftRan s phys k up gs xs an).2 := by
  unfold State.weftRan
  repeat' first | with_reducible assumption | with_reducible apply State.enterRecal_keeps | with_reducible apply State.bump_keeps | with_reducible apply State.setBit_keeps | with_reducible apply State.setFld_keeps | simp only [Keeps.updMk] | split
theorem State.runWeft_keeps {s0 s : State} (p : Nat) (t : Nat) (f : WeftF) (an : WeftAnalog) (acc : Bool) (w : DWord) (h : Keeps s0 s) : Keeps s0 (State.runWeft s p t f an acc w) := by
  unfold State.runWeft
  repeat' first | with_reducible assumption | with_reducible apply State.bump_keeps | with_reducible apply State.countO_keeps | with_reducible apply State.modSpin_keeps | with_reducible apply State.report_keeps | with_reducible apply State.addHold_keeps | with_reducible apply State.weftRan_keeps | split
theorem weftInstr_keeps (t : BitVec 12) (op : Nat) (f : WeftF) (an : WeftAnalog) {s0 s : State} (h : Keeps s0 s) : KeepsOut s0 (weftInstr t op f an s) := by
  unfold weftInstr
  repeat' first | with_reducible assumption | refine instr_keeps (fun _ _ _ => ?_) (by with_reducible assumption) | with_reducible apply IssueKeeps.of | with_reducible exact WaitKeeps.none | with_reducible exact WaitKeeps.waits _ _ | with_reducible apply Keeps.idk | refine @fun s0 s (h : Keeps s0 s) => ?_ | with_reducible apply State.runWeft_keeps | split
theorem execWeftPass_keeps (t : BitVec 12) (f : WeftF) (a : WeftAnalog) {s0 s : State} (h : Keeps s0 s) : KeepsOut s0 (execWeftPass t f a s) := by
  unfold execWeftPass
  repeat' first | with_reducible assumption | with_reducible apply weftInstr_keeps
theorem execWeftPassa_keeps (t : BitVec 12) (f : WeftF) (a : WeftAnalog) {s0 s : State} (h : Keeps s0 s) : KeepsOut s0 (execWeftPassa t f a s) := by
  unfold execWeftPassa
  repeat' first | with_reducible assumption | with_reducible apply weftInstr_keeps
theorem execWeftFlip_keeps (t : BitVec 12) {s0 s : State} (h : Keeps s0 s) : KeepsOut s0 (execWeftFlip t s) := by
  unfold execWeftFlip
  repeat' first | with_reducible assumption | refine instr_keeps (fun _ _ _ => ?_) (by with_reducible assumption) | with_reducible apply IssueKeeps.of | with_reducible exact WaitKeeps.none | with_reducible apply Keeps.idk | refine @fun s0 s (h : Keeps s0 s) => ?_ | with_reducible apply State.modAdapter_keeps | split

end Sys2Proof.Machine
end

