-- ==== Sys2Proof/Laws/KeepsCvt.lean ====
section
/-! SUPPORT. What the operations of Machine/Cvt.lean keep: one lemma each, see Laws/Keeps.lean. -/

namespace Sys2Proof.Machine

theorem State.writeCvt_keeps {s0 s : State} (t : Nat) (line : Nat) (r : Bytes × Nat) (draws : Nat) (h : Keeps s0 s) : Keeps s0 (State.writeCvt s t line r draws) := by
  unfold State.writeCvt
  repeat' first | with_reducible assumption | with_reducible apply State.countO_keeps | with_reducible apply State.writeLines_keeps
theorem execCvtPack_keeps (t : BitVec 12) (f : CvtF) {s0 s : State} (h : Keeps s0 s) : KeepsOut s0 (execCvtPack t f s) := by
  unfold execCvtPack
  repeat' first | with_reducible assumption | refine instr_keeps (fun _ _ _ => ?_) (by with_reducible assumption) | with_reducible apply IssueKeeps.of | with_reducible exact WaitKeeps.none | with_reducible apply Keeps.idk | refine @fun s0 s (h : Keeps s0 s) => ?_ | with_reducible apply State.writeCvt_keeps
theorem execCvtUnpk_keeps (t : BitVec 12) (f : CvtF) {s0 s : State} (h : Keeps s0 s) : KeepsOut s0 (execCvtUnpk t f s) := by
  unfold execCvtUnpk
  repeat' first | with_reducible assumption | refine instr_keeps (fun _ _ _ => ?_) (by with_reducible assumption) | with_reducible apply IssueKeeps.of | with_reducible exact WaitKeeps.none | with_reducible apply Keeps.idk | refine @fun s0 s (h : Keeps s0 s) => ?_ | with_reducible apply State.countO_keeps | with_reducible apply State.modSpin_keeps
theorem execCvtGrad_keeps (t : BitVec 12) (f : CvtF) {s0 s : State} (h : Keeps s0 s) : KeepsOut s0 (execCvtGrad t f s) := by
  unfold execCvtGrad
  repeat' first | with_reducible assumption | refine instr_keeps (fun _ _ _ => ?_) (by with_reducible assumption) | with_reducible apply IssueKeeps.of | with_reducible exact WaitKeeps.none | with_reducible apply Keeps.idk | refine @fun s0 s (h : Keeps s0 s) => ?_ | with_reducible apply State.writeCvt_keeps
theorem cvtInPlace_keeps (t : BitVec 12) (op : Nat) (f : CvtF) (src : Nat) (dst : Nat) {s0 s : State} (h : Keeps s0 s) : KeepsOut s0 (cvtInPlace t op f src dst s) := by
  unfold cvtInPlace
  repeat' first | with_reducible assumption | refine instr_keeps (fun _ _ _ => ?_) (by with_reducible assumption) | with_reducible apply IssueKeeps.of | with_reducible exact WaitKeeps.none | with_reducible apply Keeps.idk | refine @fun s0 s (h : Keeps s0 s) => ?_ | with_reducible apply State.modSpin_keeps
theorem execCvtNarw_keeps (t : BitVec 12) (f : CvtF) {s0 s : State} (h : Keeps s0 s) : KeepsOut s0 (execCvtNarw t f s) := by
  unfold execCvtNarw
  repeat' first | with_reducible assumption | with_reducible apply cvtInPlace_keeps
theorem execCvtWide_keeps (t : BitVec 12) (f : CvtF) {s0 s : State} (h : Keeps s0 s) : KeepsOut s0 (execCvtWide t f s) := by
  unfold execCvtWide
  repeat' first | with_reducible assumption | with_reducible apply cvtInPlace_keeps
theorem execCvtQw_keeps (t : BitVec 12) (f : CvtF) {s0 s : State} (h : Keeps s0 s) : KeepsOut s0 (execCvtQw t f s) := by
  unfold execCvtQw
  repeat' first | with_reducible assumption | refine instr_keeps (fun _ _ _ => ?_) (by with_reducible assumption) | with_reducible apply IssueKeeps.of | with_reducible exact WaitKeeps.none | with_reducible exact WaitKeeps.waits _ _ | with_reducible apply Keeps.idk | refine @fun s0 s (h : Keeps s0 s) => ?_ | with_reducible apply State.bump_keeps | with_reducible apply State.countO_keeps | with_reducible apply State.modWeft_keeps | split

end Sys2Proof.Machine
end

