-- ==== Sys2Proof/Laws/KeepsWgtOps.lean ====
section
/-! SUPPORT. What the operations of Machine/WgtOps.lean keep: one lemma each, see Laws/Keeps.lean. -/

namespace Sys2Proof.Machine

theorem State.setGold_keeps {s0 s : State} (t : Nat) (g : Gold) (h : Keeps s0 s) : Keeps s0 (State.setGold s t g) := by
  unfold State.setGold
  repeat' first | with_reducible assumption | simp only [Keeps.updMk] | split
theorem State.dropGold_keeps {s0 s : State} (ts : List Nat) (h : Keeps s0 s) : Keeps s0 (State.dropGold s ts) := by
  unfold State.dropGold
  repeat' first | with_reducible assumption | simp only [Keeps.updMk]
theorem State.addRequest_keeps {s0 s : State} (model : Nat) (epoch : Nat) (layer : Nat) (shard : Nat) (e : Option Nat) (h : Keeps s0 s) : Keeps s0 (State.addRequest s model epoch layer shard e) := by
  unfold State.addRequest
  repeat' first | with_reducible assumption | with_reducible apply State.setBit_keeps | with_reducible apply State.raise_keeps | simp only [Keeps.updMk] | split
theorem State.requestShard_keeps {s0 s : State} (t : Nat) (h : Keeps s0 s) : Keeps s0 (State.requestShard s t) := by
  unfold State.requestShard
  repeat' first | with_reducible assumption | with_reducible apply State.addRequest_keeps | split
theorem State.requestFix_keeps {s0 s : State} (t : Nat) (h : Keeps s0 s) : Keeps s0 (State.requestFix s t) := by
  unfold State.requestFix
  repeat' first | with_reducible assumption | with_reducible apply State.requestShard_keeps | simp only [Keeps.updMk] | split
theorem State.dropRequests_keeps {s0 s : State} (q : ShardReq → Bool) (h : Keeps s0 s) : Keeps s0 (State.dropRequests s q) := by
  unfold State.dropRequests
  repeat' first | with_reducible assumption | simp only [Keeps.updMk]
theorem State.endModelSessions_keeps {s0 s : State} (id : Nat) (status : Nat) (q : Session → Bool) (h : Keeps s0 s) : Keeps s0 (State.endModelSessions s id status q) := by
  unfold State.endModelSessions
  repeat' first | with_reducible assumption | with_reducible apply State.endAtTick_keeps | with_reducible refine Keeps.foldl ?_ (fun _ _ _ => ?_)
theorem State.recheckArray_keeps {s0 s : State} (t : Nat) (v : Bool) (g : Bool) (h : Keeps s0 s) : Keeps s0 (State.recheckArray s t v g) := by
  unfold State.recheckArray
  repeat' first | with_reducible assumption | with_reducible apply State.setGold_keeps | with_reducible apply State.requestFix_keeps | with_reducible apply State.svcRequest_keeps | split
theorem State.recheckShard_keeps {s0 s : State} (m : Nat) (l : Nat) (x1 : Nat) (reads : List (Nat × Bool)) (h : Keeps s0 s) : Keeps s0 (State.recheckShard s m l x1 reads) := by
  unfold State.recheckShard
  repeat' first | with_reducible assumption | with_reducible apply State.bump_keeps | with_reducible apply State.setBit_keeps | with_reducible apply State.raise_keeps | with_reducible apply State.recheckArray_keeps | with_reducible refine Keeps.foldl ?_ (fun _ _ _ => ?_) | simp only [Keeps.updMk] | split
theorem State.recheck_keeps {s0 s : State} (t : Nat) (ok : Bool) (h : Keeps s0 s) : Keeps s0 (State.recheck s t ok) := by
  unfold State.recheck
  repeat' first | with_reducible assumption | with_reducible apply State.recheckShard_keeps | with_reducible apply State.modModel_keeps | simp only [Keeps.updMk] | split

end Sys2Proof.Machine
end

