-- ==== Sys2Proof/Laws/KeepsServices.lean ====
section
/-! SUPPORT. What the operations of Machine/Services.lean keep: one lemma each, see Laws/Keeps.lean. -/

namespace Sys2Proof.Machine

theorem State.svcResult_keeps {s0 s : State} (phys : Nat) (idx : Nat) (op : Nat) (r : Nat) (h : Keeps s0 s) : Keeps s0 (State.svcResult s phys idx op r) := by
  unfold State.svcResult
  repeat' first | with_reducible assumption | with_reducible apply State.setReg_keeps
theorem State.unqueue_keeps {s0 s : State} (phys : Nat) (idx : Nat) (h : Keeps s0 s) : Keeps s0 (State.unqueue s phys idx) := by
  unfold State.unqueue
  repeat' first | with_reducible assumption | with_reducible apply State.modWarp_keeps | with_reducible apply State.modTile_keeps
theorem State.countWrite_keeps {s0 s : State} (phys : Nat) (idx : Nat) (h : Keeps s0 s) : Keeps s0 (State.countWrite s phys idx) := by
  unfold State.countWrite
  repeat' first | with_reducible assumption | with_reducible apply State.setReg_keeps | with_reducible apply State.bump_keeps | with_reducible apply State.setBit_keeps | with_reducible apply State.raiseIn_keeps | with_reducible apply State.bumpSat_keeps | simp only [Keeps.updMk] | split
theorem State.wornOut_keeps {s0 s : State} (phys : Nat) (idx : Nat) (h : Keeps s0 s) : Keeps s0 (State.wornOut s phys idx) := by
  unfold State.wornOut
  repeat' first | with_reducible assumption | with_reducible apply State.raiseIn_keeps | with_reducible apply State.suspect_keeps
theorem State.refuseWorn_keeps {s0 s : State} (phys : Nat) (idx : Nat) (op : Nat) (h : Keeps s0 s) : Keeps s0 (State.refuseWorn s phys idx op) := by
  unfold State.refuseWorn
  repeat' first | with_reducible assumption | with_reducible apply State.svcResult_keeps | with_reducible apply State.wornOut_keeps
theorem State.askFor_keeps {s0 s : State} (phys : Nat) (idx : Nat) (op : Nat) (h : Keeps s0 s) : Keeps s0 (State.askFor s phys idx op) := by
  unfold State.askFor
  repeat' first | with_reducible assumption | with_reducible apply State.svcRequest_keeps | split
theorem State.scanNext_keeps (a : List Nat) {s0 s : State} (h : Keeps s0 s) : Keeps s0 (State.scanNext a s) := by
  induction a generalizing s with
  | nil =>
    unfold State.scanNext
    repeat' first | with_reducible assumption | with_reducible apply State.askFor_keeps | with_reducible apply State.setFld_keeps | simp only [Keeps.updMk] | split | with_reducible apply ih
  | cons a l ih =>
    unfold State.scanNext
    repeat' first | with_reducible assumption | with_reducible apply State.askFor_keeps | with_reducible apply State.setFld_keeps | simp only [Keeps.updMk] | split | with_reducible apply ih
theorem State.setCalHalf_keeps {s0 s : State} (x1 : Nat) (x : CalHalf) (h : Keeps s0 s) : Keeps s0 (State.setCalHalf s x1 x) := by
  unfold State.setCalHalf
  repeat' first | with_reducible assumption | simp only [Keeps.updMk]
theorem State.calIndex_keeps {s0 s : State} (x1 : Nat) (i : Nat) (h : Keeps s0 s) : Keeps s0 (State.calIndex s x1 i) := by
  unfold State.calIndex
  repeat' first | with_reducible assumption | with_reducible apply State.askFor_keeps | with_reducible apply State.modTile_keeps | with_reducible apply State.setCalHalf_keeps | with_reducible refine Keeps.foldl ?_ (fun _ _ _ => ?_) | split
theorem State.calOn_keeps (a : Nat) (x1 : Nat) {s0 s : State} (h : Keeps s0 s) : Keeps s0 (State.calOn a x1 s) := by
  induction a generalizing s x1 with
  | zero =>
    unfold State.calOn
    repeat' first | with_reducible assumption | with_reducible apply State.setFld_keeps | with_reducible apply State.calIndex_keeps | with_reducible apply State.setCalHalf_keeps | simp only [Keeps.updMk] | split | with_reducible apply ih
  | succ n ih =>
    unfold State.calOn
    repeat' first | with_reducible assumption | with_reducible apply State.setFld_keeps | with_reducible apply State.calIndex_keeps | with_reducible apply State.setCalHalf_keeps | simp only [Keeps.updMk] | split | with_reducible apply ih
theorem State.calEnded_keeps {s0 s : State} (phys : Nat) (idx : Nat) (done : Bool) (h : Keeps s0 s) : Keeps s0 (State.calEnded s phys idx done) := by
  unfold State.calEnded
  repeat' first | with_reducible assumption | with_reducible apply State.calOn_keeps | with_reducible apply State.setFld_keeps | with_reducible apply State.modTile_keeps | split
theorem State.svcEnded_keeps {s0 s : State} (phys : Nat) (idx : Nat) (op : Nat) (done : Bool) (h : Keeps s0 s) : Keeps s0 (State.svcEnded s phys idx op done) := by
  unfold State.svcEnded
  repeat' first | with_reducible assumption | with_reducible apply State.calEnded_keeps | with_reducible apply State.scanNext_keeps | simp only [Keeps.updMk] | split
theorem State.roundBoundary_keeps {s0 s : State} (d : Nat) (h : Keeps s0 s) : Keeps s0 (State.roundBoundary s d) := by
  unfold State.roundBoundary
  repeat' first | with_reducible assumption | with_reducible apply State.calOn_keeps | with_reducible apply State.askFor_keeps | with_reducible apply State.scanNext_keeps | with_reducible apply State.modTile_keeps | with_reducible refine Keeps.foldl ?_ (fun _ _ _ => ?_) | split
theorem execMarginScanRound_keeps {s0 s : State} (h : Keeps s0 s) : KeepsOut s0 (execMarginScanRound s) := by
  unfold execMarginScanRound
  repeat' first | with_reducible assumption | with_reducible apply KeepsOut.next | with_reducible apply State.setFld_keeps | with_reducible apply State.scanNext_keeps | simp only [Keeps.updMk] | split
theorem execCalRoundPeriodic_keeps (half : Bool) (d : Nat) {s0 s : State} (h : Keeps s0 s) : KeepsOut s0 (execCalRoundPeriodic half d s) := by
  unfold execCalRoundPeriodic
  repeat' first | with_reducible assumption | exact True.intro | with_reducible apply KeepsOut.next | with_reducible apply State.calOn_keeps | with_reducible apply State.setReg_keeps | with_reducible apply State.setFld_keeps | with_reducible apply State.calIndex_keeps | simp only [Keeps.updMk] | split
theorem execCalRetemp_keeps (phys : BitVec 12) (arr : BitVec 4) {s0 s : State} (h : Keeps s0 s) : KeepsOut s0 (execCalRetemp phys arr s) := by
  unfold execCalRetemp
  repeat' first | with_reducible assumption | exact True.intro | with_reducible apply KeepsOut.next | with_reducible apply State.askFor_keeps | simp only [Keeps.updMk] | split
theorem State.unqueueSpare_keeps {s0 s : State} (phys : Nat) (idx : Nat) (h : Keeps s0 s) : Keeps s0 (State.unqueueSpare s phys idx) := by
  unfold State.unqueueSpare
  repeat' first | with_reducible assumption | with_reducible apply State.modWarp_keeps | with_reducible apply State.modTile_keeps | with_reducible apply State.unqueue_keeps | simp only [Keeps.updMk] | split
theorem State.svcCommand_keeps {s0 s : State} (phys : Nat) (idx : Nat) (op : Nat) (fw : Bool) (h : Keeps s0 s) : Keeps s0 (State.svcCommand s phys idx op fw) := by
  unfold State.svcCommand
  repeat' first | with_reducible assumption | with_reducible apply State.svcWait_keeps | with_reducible apply State.refuseWorn_keeps | with_reducible apply State.svcEnded_keeps | with_reducible apply State.queueSvc_keeps | with_reducible apply State.unqueueSpare_keeps | with_reducible apply State.svcResult_keeps | with_reducible apply State.modTile_keeps | simp only [Keeps.updMk] | split
theorem State.goldFor_keeps {s0 s : State} (t : Nat) (op : Nat) (h : Keeps s0 s) : Keeps s0 (State.goldFor s t op).2 := by
  unfold State.goldFor
  repeat' first | with_reducible assumption | with_reducible apply State.setGold_keeps | with_reducible apply State.requestShard_keeps | split
theorem execSpareLoadStart_keeps (t : BitVec 12) {s0 s : State} (h : Keeps s0 s) : KeepsOut s0 (execSpareLoadStart t s) := by
  unfold execSpareLoadStart
  repeat' first | with_reducible assumption | exact True.intro | with_reducible apply KeepsOut.next | with_reducible apply State.requestShard_keeps | with_reducible apply State.refuseWorn_keeps | with_reducible apply State.svcEnded_keeps | with_reducible apply State.modWarp_keeps | with_reducible apply State.svcResult_keeps | with_reducible apply State.modTile_keeps | with_reducible apply State.unqueue_keeps | with_reducible apply State.goldFor_keeps | simp only [Keeps.updMk] | split
theorem State.abortSvc_keeps {s0 s : State} (phys : Nat) (idx : Nat) (op : Nat) (r : Nat) (h : Keeps s0 s) : Keeps s0 (State.abortSvc s phys idx op r) := by
  unfold State.abortSvc
  repeat' first | with_reducible assumption | with_reducible apply State.raiseIn_keeps | with_reducible apply State.svcEnded_keeps | with_reducible apply State.modWarp_keeps | with_reducible apply State.svcResult_keeps | with_reducible apply State.modTile_keeps | with_reducible apply State.unqueue_keeps
theorem execSpareLoadDone_keeps (t : BitVec 12) (c : ArrayCheck) {s0 s : State} (h : Keeps s0 s) : KeepsOut s0 (execSpareLoadDone t c s) := by
  unfold execSpareLoadDone
  repeat' first | with_reducible assumption | exact True.intro | with_reducible apply KeepsOut.next | with_reducible apply State.raiseIn_keeps | with_reducible apply State.abortSvc_keeps | with_reducible apply State.modWarp_keeps | with_reducible apply State.suspect_keeps | with_reducible apply State.countWrite_keeps | with_reducible apply State.modTile_keeps | simp only [Keeps.updMk] | split
theorem execSpareShardTimeout_keeps (t : BitVec 12) {s0 s : State} (h : Keeps s0 s) : KeepsOut s0 (execSpareShardTimeout t s) := by
  unfold execSpareShardTimeout
  repeat' first | with_reducible assumption | exact True.intro | with_reducible apply KeepsOut.next | with_reducible apply State.abortSvc_keeps | simp only [Keeps.updMk] | split
theorem State.noteMargin_keeps {s0 s : State} (k : Nat) (c : ArrayCheck) (h : Keeps s0 s) : Keeps s0 (State.noteMargin s k c) := by
  unfold State.noteMargin
  repeat' first | with_reducible assumption | with_reducible apply State.setReg_keeps
theorem State.applyCal_keeps {s0 s : State} (phys : Nat) (idx : Nat) (c : ArrayCheck) (again : Bool) (h : Keeps s0 s) : Keeps s0 (State.applyCal s phys idx c again) := by
  unfold State.applyCal
  repeat' first | with_reducible assumption | with_reducible apply State.setReg_keeps | with_reducible apply State.setReg64_keeps | with_reducible apply State.modWarp_keeps
theorem State.failArray_keeps {s0 s : State} (phys : Nat) (idx : Nat) (h : Keeps s0 s) : Keeps s0 (State.failArray s phys idx) := by
  unfold State.failArray
  repeat' first | with_reducible assumption | with_reducible apply State.modWarp_keeps | with_reducible apply State.suspect_keeps
theorem State.awaitHandback_keeps {s0 s : State} (phys : Nat) (idx : Nat) (op : Nat) (h : Keeps s0 s) : Keeps s0 (State.awaitHandback s phys idx op) := by
  unfold State.awaitHandback
  repeat' first | with_reducible assumption | with_reducible apply State.modTile_keeps
theorem State.rewriteArray_keeps {s0 s : State} (phys : Nat) (idx : Nat) (img : Bytes) (ok : Bool) (h : Keeps s0 s) : Keeps s0 (State.rewriteArray s phys idx img ok) := by
  unfold State.rewriteArray
  repeat' first | with_reducible assumption | with_reducible apply State.modWarp_keeps | with_reducible apply State.countWrite_keeps
theorem State.finishCal_keeps {s0 s : State} (phys : Nat) (idx : Nat) (c : ArrayCheck) (h : Keeps s0 s) : Keeps s0 (State.finishCal s phys idx c) := by
  unfold State.finishCal
  repeat' first | with_reducible assumption | with_reducible apply State.setReg_keeps | with_reducible apply State.bump_keeps | with_reducible apply State.setBit_keeps | with_reducible apply State.raiseIn_keeps | with_reducible apply State.failArray_keeps | with_reducible apply State.noteMargin_keeps | with_reducible apply State.rewriteArray_keeps | with_reducible apply State.refuseWorn_keeps | with_reducible apply State.svcEnded_keeps | with_reducible apply State.applyCal_keeps | with_reducible apply State.modWarp_keeps | with_reducible apply State.awaitHandback_keeps | with_reducible apply State.svcResult_keeps | with_reducible apply State.modTile_keeps | simp only [Keeps.updMk] | split
theorem execServiceComplete_keeps (t : BitVec 12) (c : ArrayCheck) {s0 s : State} (h : Keeps s0 s) : KeepsOut s0 (execServiceComplete t c s) := by
  unfold execServiceComplete
  repeat' first | with_reducible assumption | exact True.intro | with_reducible apply KeepsOut.next | with_reducible apply State.finishCal_keeps | with_reducible apply State.raiseIn_keeps | with_reducible apply State.recheck_keeps | with_reducible apply State.failArray_keeps | with_reducible apply State.noteMargin_keeps | with_reducible apply State.rewriteArray_keeps | with_reducible apply State.svcEnded_keeps | with_reducible apply State.awaitHandback_keeps | with_reducible apply State.svcRequest_keeps | simp only [Keeps.updMk] | split
theorem State.svcBoundary_keeps {s0 s : State} (p : Nat) (h : Keeps s0 s) : Keeps s0 (State.svcBoundary s p) := by
  unfold State.svcBoundary
  repeat' first | with_reducible assumption | with_reducible apply State.raiseIn_keeps | with_reducible apply State.bumpSat_keeps | with_reducible apply State.setFld_keeps | with_reducible apply State.svcEnded_keeps | with_reducible apply State.applyCal_keeps | with_reducible apply State.modWarp_keeps | with_reducible apply State.svcResult_keeps | with_reducible apply State.modTile_keeps | split

end Sys2Proof.Machine
end

