-- ==== Sys2Proof/Laws/KeepsWeights.lean ====
section
/-! SUPPORT. What the operations of Machine/Weights.lean keep: one lemma each, see Laws/Keeps.lean. -/

namespace Sys2Proof.Machine

theorem State.readList_keeps {s0 s : State} (j : Nat) (i : Nat) (n : Nat) (h : Keeps s0 s) : Keeps s0 (State.readList s j i n) := by
  unfold State.readList
  repeat' first | with_reducible assumption | with_reducible apply State.send_keeps
theorem State.fetchShard_keeps {s0 s : State} (j : Nat) (i : Nat) (e : ListEntry) (h : Keeps s0 s) : Keeps s0 (State.fetchShard s j i e) := by
  unfold State.fetchShard
  repeat' first | with_reducible assumption | with_reducible apply State.send_keeps
theorem State.setProgress_keeps {s0 s : State} (j : Nat) (shards : Nat) (arrays : Nat) (h : Keeps s0 s) : Keeps s0 (State.setProgress s j shards arrays) := by
  unfold State.setProgress
  repeat' first | with_reducible assumption | with_reducible apply State.setReg_keeps
theorem State.countArray_keeps {s0 s : State} (j : Nat) (h : Keeps s0 s) : Keeps s0 (State.countArray s j) := by
  unfold State.countArray
  repeat' first | with_reducible assumption | with_reducible apply State.setFld_keeps
theorem State.startJobWrites_keeps {s0 s : State} (j : Nat) (h : Keeps s0 s) : Keeps s0 (State.startJobWrites s j) := by
  unfold State.startJobWrites
  repeat' first | with_reducible assumption | with_reducible apply State.modWarp_keeps | with_reducible refine Keeps.foldl ?_ (fun _ _ _ => ?_) | simp only [Keeps.updMk] | split
theorem State.startWrites_keeps {s0 s : State} (h : Keeps s0 s) : Keeps s0 (State.startWrites s) := by
  unfold State.startWrites
  repeat' first | with_reducible assumption | with_reducible apply State.startJobWrites_keeps | with_reducible refine Keeps.foldl ?_ (fun _ _ _ => ?_)
theorem State.failJob_keeps {s0 s : State} (j : Nat) (result : Nat) (index : Nat) (h : Keeps s0 s) : Keeps s0 (State.failJob s j result index) := by
  unfold State.failJob
  repeat' first | with_reducible assumption | with_reducible apply State.notReady_keeps | with_reducible apply State.startWrites_keeps | with_reducible apply State.modWarp_keeps | with_reducible apply State.endJob_keeps | with_reducible refine Keeps.foldl ?_ (fun _ _ _ => ?_) | simp only [Keeps.updMk] | split
theorem State.dropSvc_keeps {s0 s : State} (t : Nat) (r : Nat) (h : Keeps s0 s) : Keeps s0 (State.dropSvc s t r) := by
  unfold State.dropSvc
  repeat' first | with_reducible assumption | with_reducible apply State.svcEnded_keeps | with_reducible apply State.unqueueSpare_keeps | with_reducible apply State.svcResult_keeps | simp only [Keeps.updMk] | split
theorem State.emptyArray_keeps {s0 s : State} (t : Nat) (h : Keeps s0 s) : Keeps s0 (State.emptyArray s t) := by
  unfold State.emptyArray
  repeat' first | with_reducible assumption | with_reducible apply State.dropSvc_keeps | with_reducible apply State.modWarp_keeps
theorem State.putResid_keeps {s0 s : State} (id : Nat) (r : Option ResidRec) (h : Keeps s0 s) : Keeps s0 (State.putResid s id r) := by
  unfold State.putResid
  repeat' first | with_reducible assumption | simp only [Keeps.updMk]
theorem State.unloadModel_keeps {s0 s : State} (j : Nat) (m : Nat) (h : Keeps s0 s) : Keeps s0 (State.unloadModel s j m) := by
  unfold State.unloadModel
  repeat' first | with_reducible assumption | with_reducible apply State.dropRequests_keeps | with_reducible apply State.dropGold_keeps | with_reducible apply State.emptyArray_keeps | with_reducible apply State.modModel_keeps | with_reducible apply State.endJob_keeps | with_reducible apply State.putResid_keeps | with_reducible refine Keeps.foldl ?_ (fun _ _ _ => ?_)
theorem State.goJob_keeps {s0 s : State} (j : Nat) (ctx : Nat) (h : Keeps s0 s) : Keeps s0 (State.goJob s j ctx) := by
  unfold State.goJob
  repeat' first | with_reducible assumption | with_reducible apply State.readList_keeps | with_reducible apply State.setReg_keeps | with_reducible apply State.unloadModel_keeps | with_reducible apply State.setFld_keeps | with_reducible apply State.modJob_keeps | with_reducible apply State.setProgress_keeps | with_reducible apply State.endJob_keeps | simp only [Keeps.updMk] | split
theorem State.startLoad_keeps {s0 s : State} (x : Job) (h : Keeps s0 s) : Keeps s0 (State.startLoad s x) := by
  unfold State.startLoad
  repeat' first | with_reducible assumption | with_reducible apply State.notReady_keeps | with_reducible apply State.modModel_keeps | split
theorem State.takeList_keeps {s0 s : State} (j : Nat) (op : Nat) (b : Option Bytes) (h : Keeps s0 s) : Keeps s0 (State.takeList s j op b) := by
  unfold State.takeList
  repeat' first | with_reducible assumption | with_reducible apply State.startLoad_keeps | with_reducible apply State.modJob_keeps | with_reducible apply State.fetchShard_keeps | with_reducible apply State.endJob_keeps | with_reducible refine Keeps.foldl ?_ (fun _ _ _ => ?_) | simp only [Keeps.updMk] | split
theorem State.restoreArray_keeps {s0 s : State} (t : Nat) (img : Bytes) (fix : List Nat) (h : Keeps s0 s) : Keeps s0 (State.restoreArray s t img fix) := by
  unfold State.restoreArray
  repeat' first | with_reducible assumption | with_reducible apply State.setGold_keeps | with_reducible apply State.modWarp_keeps | with_reducible apply State.svcRequest_keeps | simp only [Keeps.updMk] | split
theorem State.restoreShard_keeps {s0 s : State} (id : Nat) (e : Staged) (h : Keeps s0 s) : Keeps s0 (State.restoreShard s id e) := by
  unfold State.restoreShard
  repeat' first | with_reducible assumption | with_reducible apply State.restoreArray_keeps | with_reducible apply State.dropRequests_keeps | with_reducible refine Keeps.foldl ?_ (fun _ _ _ => ?_)
theorem State.restoreSlot_keeps {s0 s : State} (e : Nat) (t : Nat) (img : Bytes) (h : Keeps s0 s) : Keeps s0 (State.restoreSlot s e t img) := by
  unfold State.restoreSlot
  repeat' first | with_reducible assumption | with_reducible apply State.modAdapter_keeps
theorem State.finishRestore_keeps {s0 s : State} (j : Nat) (h : Keeps s0 s) : Keeps s0 (State.finishRestore s j) := by
  unfold State.finishRestore
  repeat' first | with_reducible assumption | with_reducible apply State.failJob_keeps | with_reducible apply State.dropRequests_keeps | with_reducible apply State.restoreSlot_keeps | with_reducible apply State.modModel_keeps | with_reducible apply State.restoreShard_keeps | with_reducible apply State.endJob_keeps | with_reducible refine Keeps.foldl ?_ (fun _ _ _ => ?_) | simp only [Keeps.updMk] | split
theorem State.adapterEnds_keeps {s0 s : State} (j : Nat) (e : Nat) (r : Nat) (h : Keeps s0 s) : Keeps s0 (State.adapterEnds s j e r) := by
  unfold State.adapterEnds
  repeat' first | with_reducible assumption | with_reducible apply State.adptResult_keeps | with_reducible apply State.failJob_keeps
theorem State.loadSlots_keeps {s0 s : State} (e : Nat) (rank : Nat) (train : Bool) (f : FootTile) (h : Keeps s0 s) : Keeps s0 (State.loadSlots s e rank train f) := by
  unfold State.loadSlots
  repeat' first | with_reducible assumption | with_reducible apply State.modWeft_keeps
theorem State.placeAdapter_keeps {s0 s : State} (j : Nat) (h : Keeps s0 s) : Keeps s0 (State.placeAdapter s j) := by
  unfold State.placeAdapter
  repeat' first | with_reducible assumption | with_reducible apply State.failJob_keeps | with_reducible apply State.modAdapter_keeps | with_reducible apply State.setFld_keeps | with_reducible apply State.modJob_keeps | with_reducible apply State.loadSlots_keeps | with_reducible apply State.adapterEnds_keeps | with_reducible refine Keeps.foldl ?_ (fun _ _ _ => ?_) | simp only [Keeps.updMk] | split
theorem State.allStaged_keeps {s0 s : State} (j : Nat) (h : Keeps s0 s) : Keeps s0 (State.allStaged s j) := by
  unfold State.allStaged
  repeat' first | with_reducible assumption | with_reducible apply State.failJob_keeps | with_reducible apply State.setFld_keeps | with_reducible apply State.finishRestore_keeps | with_reducible apply State.placeAdapter_keeps | simp only [Keeps.updMk] | split
theorem State.refuseShard_keeps {s0 s : State} (j : Nat) (index : Nat) (again : Bytes) (h : Keeps s0 s) : Keeps s0 (State.refuseShard s j index again) := by
  unfold State.refuseShard
  repeat' first | with_reducible assumption | with_reducible apply State.readList_keeps | with_reducible apply State.bump_keeps | with_reducible apply State.failJob_keeps | with_reducible apply State.modJob_keeps | with_reducible apply State.raise_keeps | with_reducible apply State.fetchShard_keeps | simp only [Keeps.updMk] | split
theorem execShardArrived_keeps (job : BitVec 4) (index : Nat) (d : ShardRead) {s0 s : State} (h : Keeps s0 s) : KeepsOut s0 (execShardArrived job index d s) := by
  unfold execShardArrived
  repeat' first | with_reducible assumption | with_reducible apply KeepsOut.next | with_reducible apply State.failJob_keeps | with_reducible apply State.setFld_keeps | with_reducible apply State.allStaged_keeps | with_reducible apply State.modJob_keeps | with_reducible apply State.refuseShard_keeps | with_reducible apply Keeps.ite | split
theorem execShardFetchTimeout_keeps (job : BitVec 4) (index : Nat) {s0 s : State} (h : Keeps s0 s) : KeepsOut s0 (execShardFetchTimeout job index s) := by
  unfold execShardFetchTimeout
  repeat' first | with_reducible assumption | with_reducible apply KeepsOut.next | with_reducible apply State.failJob_keeps | split
theorem State.takeGold_keeps {s0 s : State} (x : Job) (h : Keeps s0 s) : Keeps s0 (State.takeGold s x) := by
  unfold State.takeGold
  repeat' first | with_reducible assumption | with_reducible apply State.setGold_keeps | with_reducible refine Keeps.foldl ?_ (fun _ _ _ => ?_)
theorem State.finishLoad_keeps {s0 s : State} (j : Nat) (h : Keeps s0 s) : Keeps s0 (State.finishLoad s j) := by
  unfold State.finishLoad
  repeat' first | with_reducible assumption | with_reducible apply State.dropRequests_keeps | with_reducible apply State.dropGold_keeps | with_reducible apply State.modModel_keeps | with_reducible apply State.takeGold_keeps | with_reducible apply State.endJob_keeps | with_reducible apply State.putResid_keeps | simp only [Keeps.updMk] | split
theorem execLoadLayerWrite_keeps (job : BitVec 4) (layer : BitVec 12) {s0 s : State} (h : Keeps s0 s) : KeepsOut s0 (execLoadLayerWrite job layer s) := by
  unfold execLoadLayerWrite
  repeat' first | with_reducible assumption | with_reducible apply KeepsOut.next | with_reducible apply State.finishLoad_keeps | with_reducible apply State.modJob_keeps | with_reducible apply State.startWrites_keeps | with_reducible apply State.emptyArray_keeps | with_reducible refine Keeps.foldl ?_ (fun _ _ _ => ?_) | split
theorem State.writeGood_keeps {s0 s : State} (j : Nat) (t : Nat) (phys : Nat) (idx : Nat) (h : Keeps s0 s) : Keeps s0 (State.writeGood s j t phys idx) := by
  unfold State.writeGood
  repeat' first | with_reducible assumption | with_reducible apply State.modRow_keeps | with_reducible apply State.dropSvc_keeps | with_reducible apply State.countArray_keeps | with_reducible apply State.modJob_keeps | with_reducible apply State.startWrites_keeps | with_reducible apply State.modWarp_keeps | with_reducible apply State.countWrite_keeps | split
theorem State.freeStaged_keeps {s0 s : State} (j : Nat) (h : Keeps s0 s) : Keeps s0 (State.freeStaged s j) := by
  unfold State.freeStaged
  repeat' first | with_reducible assumption | with_reducible apply State.modJob_keeps | simp only [Keeps.updMk] | split
theorem execArrayWriteDone_keeps (phys : BitVec 12) (arr : BitVec 4) (c : ArrayCheck) {s0 s : State} (h : Keeps s0 s) : KeepsOut s0 (execArrayWriteDone phys arr c s) := by
  unfold execArrayWriteDone
  repeat' first | with_reducible assumption | exact True.intro | with_reducible apply KeepsOut.next | with_reducible apply State.freeStaged_keeps | with_reducible apply State.failJob_keeps | with_reducible apply State.failArray_keeps | with_reducible apply State.setFld_keeps | with_reducible apply State.finishLoad_keeps | with_reducible apply State.writeGood_keeps | with_reducible apply State.modJob_keeps | with_reducible apply State.startWrites_keeps | with_reducible apply State.modWarp_keeps | with_reducible apply State.countWrite_keeps | with_reducible refine Keeps.foldl ?_ (fun _ _ _ => ?_) | simp only [Keeps.updMk] | split
theorem execBarrierRaise_keeps (job : BitVec 4) {s0 s : State} (h : Keeps s0 s) : KeepsOut s0 (execBarrierRaise job s) := by
  unfold execBarrierRaise
  repeat' first | with_reducible assumption | with_reducible apply KeepsOut.next | with_reducible apply State.setReg_keeps | with_reducible apply State.failJob_keeps | with_reducible apply State.setFld_keeps | with_reducible apply State.modModel_keeps | simp only [Keeps.updMk] | split
theorem execBarrierDrained_keeps (job : BitVec 4) {s0 s : State} (h : Keeps s0 s) : KeepsOut s0 (execBarrierDrained job s) := by
  unfold execBarrierDrained
  repeat' first | with_reducible assumption | with_reducible apply KeepsOut.next | with_reducible apply State.setFld_keeps | with_reducible apply State.modJob_keeps | with_reducible apply State.startWrites_keeps | split
theorem execReplaceCommit_keeps (job : BitVec 4) {s0 s : State} (h : Keeps s0 s) : KeepsOut s0 (execReplaceCommit job s) := by
  unfold execReplaceCommit
  repeat' first | with_reducible assumption | with_reducible apply KeepsOut.next | with_reducible apply State.putResid_keeps | split
theorem execBarrierRelease_keeps (job : BitVec 4) {s0 s : State} (h : Keeps s0 s) : KeepsOut s0 (execBarrierRelease job s) := by
  unfold execBarrierRelease
  repeat' first | with_reducible assumption | with_reducible apply KeepsOut.next | with_reducible apply State.modSession_keeps | with_reducible apply State.setReg_keeps | with_reducible apply State.dropRequests_keeps | with_reducible apply State.notReady_keeps | with_reducible apply State.raise_keeps | with_reducible apply State.endModelSessions_keeps | with_reducible apply State.modModel_keeps | with_reducible apply State.takeGold_keeps | with_reducible apply State.endJob_keeps | with_reducible refine Keeps.foldl ?_ (fun _ _ _ => ?_) | simp only [Keeps.updMk] | split
theorem execShardRequestTimeout_keeps (req : BitVec 16) {s0 s : State} (h : Keeps s0 s) : KeepsOut s0 (execShardRequestTimeout req s) := by
  unfold execShardRequestTimeout
  repeat' first | with_reducible assumption | with_reducible apply KeepsOut.next | with_reducible apply State.setBit_keeps | with_reducible apply State.notReady_keeps | with_reducible apply State.raise_keeps | with_reducible apply State.endModelSessions_keeps | simp only [Keeps.updMk] | split
theorem State.fixArray_keeps {s0 s : State} (phys : Nat) (idx : Nat) (h : Keeps s0 s) : Keeps s0 (State.fixArray s phys idx) := by
  unfold State.fixArray
  repeat' first | with_reducible assumption | with_reducible apply State.svcRequest_keeps | simp only [Keeps.updMk] | split
theorem execGoldenCompare_keeps (phys : BitVec 12) (arr : BitVec 4) (verifyOk : Bool) {s0 s : State} (h : Keeps s0 s) : KeepsOut s0 (execGoldenCompare phys arr verifyOk s) := by
  unfold execGoldenCompare
  repeat' first | with_reducible assumption | exact True.intro | with_reducible apply KeepsOut.next | with_reducible apply State.setGold_keeps | with_reducible apply State.bump_keeps | with_reducible apply State.setBit_keeps | with_reducible apply State.fixArray_keeps | with_reducible apply State.raise_keeps | with_reducible apply State.recheckArray_keeps | simp only [Keeps.updMk] | split

end Sys2Proof.Machine
end

