-- ==== Sys2Proof/Laws/KeepsWeftRows.lean ====
section
/-! SUPPORT. What the operations of Machine/WeftRows.lean keep: one lemma each, see Laws/Keeps.lean. -/

namespace Sys2Proof.Machine

theorem State.modSlot_keeps {s0 s : State} (p : Nat) (k : Bool) (f : WeftSlot → WeftSlot) (h : Keeps s0 s) : Keeps s0 (State.modSlot s p k f) := by
  unfold State.modSlot
  repeat' first | with_reducible assumption | with_reducible apply State.modWeft_keeps
theorem State.slotWritten_keeps {s0 s : State} (p : Nat) (h : Keeps s0 s) : Keeps s0 (State.slotWritten s p) := by
  unfold State.slotWritten
  repeat' first | with_reducible assumption | with_reducible apply State.bump_keeps | with_reducible apply State.modTile_keeps
theorem execWeftSlotWriteDone_keeps (t : BitVec 12) (slot : Bool) {s0 s : State} (h : Keeps s0 s) : KeepsOut s0 (execWeftSlotWriteDone t slot s) := by
  unfold execWeftSlotWriteDone
  repeat' first | with_reducible assumption | exact True.intro | with_reducible apply KeepsOut.next | with_reducible apply State.slotWritten_keeps | with_reducible apply State.modSlot_keeps | simp only [Keeps.updMk] | split
theorem State.toRestore_keeps {s0 s : State} (p : Nat) (slot : Bool) (h : Keeps s0 s) : Keeps s0 (State.toRestore s p slot) := by
  unfold State.toRestore
  repeat' first | with_reducible assumption | with_reducible apply State.addRequest_keeps | with_reducible apply State.modSlot_keeps | simp only [Keeps.updMk] | split
theorem State.scrubError_keeps {s0 s : State} (p : Nat) (row : Nat) (slot : Bool) (h : Keeps s0 s) : Keeps s0 (State.scrubError s p row slot) := by
  unfold State.scrubError
  repeat' first | with_reducible assumption | with_reducible apply State.bump_keeps | with_reducible apply State.setBit_keeps | with_reducible apply State.raiseIn_keeps | with_reducible apply State.modSlot_keeps | with_reducible apply State.toRestore_keeps | simp only [Keeps.updMk] | split
theorem execWeftScrubRead_keeps (t : BitVec 12) (bad0 : Bool) (bad1 : Bool) {s0 s : State} (h : Keeps s0 s) : KeepsOut s0 (execWeftScrubRead t bad0 bad1 s) := by
  unfold execWeftScrubRead
  repeat' first | with_reducible assumption | exact True.intro | with_reducible apply KeepsOut.next | with_reducible apply State.modWeft_keeps | with_reducible apply State.scrubError_keeps | simp only [Keeps.updMk] | split
theorem execWeftRestoreDone_keeps (t : BitVec 12) (slot : Bool) {s0 s : State} (h : Keeps s0 s) : KeepsOut s0 (execWeftRestoreDone t slot s) := by
  unfold execWeftRestoreDone
  repeat' first | with_reducible assumption | exact True.intro | with_reducible apply KeepsOut.next | with_reducible apply State.bump_keeps | with_reducible apply State.modAdapter_keeps | with_reducible apply State.slotWritten_keeps | with_reducible apply State.modSlot_keeps | simp only [Keeps.updMk] | with_reducible refine Keeps.drawMk ?_ rfl | split
theorem execAdapterRestoreTimeout_keeps (e : BitVec 10) {s0 s : State} (h : Keeps s0 s) : KeepsOut s0 (execAdapterRestoreTimeout e s) := by
  unfold execAdapterRestoreTimeout
  repeat' first | with_reducible assumption | with_reducible apply KeepsOut.next | with_reducible apply State.raiseIn_keeps | with_reducible apply State.modAdapter_keeps | with_reducible apply State.dropRequests_keeps | with_reducible apply State.freeUnused_keeps | with_reducible apply State.endAtTick_keeps | with_reducible refine Keeps.foldl ?_ (fun _ _ _ => ?_) | simp only [Keeps.updMk] | split
theorem execWeftRecalDone_keeps (t : BitVec 12) (margin : Nat) {s0 s : State} (h : Keeps s0 s) : KeepsOut s0 (execWeftRecalDone t margin s) := by
  unfold execWeftRecalDone
  repeat' first | with_reducible assumption | exact True.intro | with_reducible apply KeepsOut.next | with_reducible apply State.setReg_keeps | with_reducible apply State.raiseIn_keeps | with_reducible apply State.setFld_keeps | with_reducible apply State.modWeft_keeps | with_reducible apply State.suspect_keeps | with_reducible apply State.fresh_keeps | simp only [Keeps.updMk] | split
theorem execWeftRecalPeriodic_keeps (d : Nat) {s0 s : State} (h : Keeps s0 s) : KeepsOut s0 (execWeftRecalPeriodic d s) := by
  unfold execWeftRecalPeriodic
  repeat' first | with_reducible assumption | exact True.intro | with_reducible apply KeepsOut.next | with_reducible apply State.enterRecal_keeps | simp only [Keeps.updMk] | split
theorem execAdapterAllocRetry_keeps (job : BitVec 4) {s0 s : State} (h : Keeps s0 s) : KeepsOut s0 (execAdapterAllocRetry job s) := by
  unfold execAdapterAllocRetry
  repeat' first | with_reducible assumption | with_reducible apply KeepsOut.next | with_reducible apply State.placeAdapter_keeps | split
theorem execAdapterWaitTimeout_keeps (job : BitVec 4) {s0 s : State} (h : Keeps s0 s) : KeepsOut s0 (execAdapterWaitTimeout job s) := by
  unfold execAdapterWaitTimeout
  repeat' first | with_reducible assumption | with_reducible apply KeepsOut.next | with_reducible apply State.setBit_keeps | with_reducible apply State.raiseIn_keeps | with_reducible apply State.adapterEnds_keeps | split
theorem execAdapterLoadVerified_keeps (e : BitVec 10) (ok : Bool) {s0 s : State} (h : Keeps s0 s) : KeepsOut s0 (execAdapterLoadVerified e ok s) := by
  unfold execAdapterLoadVerified
  repeat' first | with_reducible assumption | with_reducible apply KeepsOut.next | with_reducible apply State.adptResult_keeps | with_reducible apply State.raiseIn_keeps | with_reducible apply State.modAdapter_keeps | with_reducible apply State.modFoot_keeps | with_reducible apply State.endJob_keeps | simp only [Keeps.updMk] | split

end Sys2Proof.Machine
end

