-- ==== Sys2Proof/Laws/KeepsDark.lean ====
section
/-! SUPPORT. What the operations of Machine/Dark.lean keep: one lemma each, see Laws/Keeps.lean. -/

namespace Sys2Proof.Machine

theorem State.variantRegs_keeps {s0 s : State} (h : Keeps s0 s) : Keeps s0 (State.variantRegs s) := by
  unfold State.variantRegs
  repeat' first | with_reducible assumption | with_reducible apply State.setReg_keeps | simp only [Keeps.updMk] | split
theorem State.off_keeps {s0 s : State} (h : Keeps s0 s) : Keeps s0 (State.off s) := by
  unfold State.off
  refine State.variantRegs_keeps ⟨h.variant, h.pending, fun _ => ⟨rfl, rfl⟩, h.fuse, Nat.le_trans h.free (Nat.le_succ _)⟩
theorem State.setPin_keeps {s0 s : State} (n : Nat) (b : Bool) (h : Keeps s0 s) : Keeps s0 (State.setPin s n b) := by
  unfold State.setPin
  repeat' first | with_reducible assumption | with_reducible apply State.send_keeps | simp only [Keeps.updMk]
theorem State.dark_keeps {s0 s : State} (state : Nat) (h : Keeps s0 s) : Keeps s0 (State.dark s state) := by
  unfold State.dark
  repeat' first | with_reducible assumption | with_reducible apply State.setFld_keeps | with_reducible apply State.off_keeps | with_reducible apply State.setPin_keeps | with_reducible apply State.setPower_keeps | simp only [Keeps.updMk]
theorem State.powerLoss_keeps {s0 s : State} (cause : Nat) (h : Keeps s0 s) : Keeps s0 (State.powerLoss s cause) := by
  unfold State.powerLoss
  repeat' first | with_reducible assumption | with_reducible apply State.bump_keeps | with_reducible apply State.raise_keeps | with_reducible apply State.setPin_keeps | with_reducible apply State.dark_keeps | split
theorem State.thermalLatch_keeps {s0 s : State} (sensor : Nat) (reading : Nat) (h : Keeps s0 s) : Keeps s0 (State.thermalLatch s sensor reading) := by
  unfold State.thermalLatch
  repeat' first | with_reducible assumption | with_reducible apply State.bump_keeps | with_reducible apply State.raise_keeps | with_reducible apply State.setPin_keeps | with_reducible apply State.dark_keeps | simp only [Keeps.updMk]

end Sys2Proof.Machine
end

