-- ==== Sys2Proof/Laws/KeepsSelfTest.lean ====
section
/-! SUPPORT. What the operations of Machine/SelfTest.lean keep: one lemma each, see Laws/Keeps.lean. -/

namespace Sys2Proof.Machine

theorem State.modFlash_keeps {s0 s : State} (f : FlashSt → FlashSt) (h : Keeps s0 s) : Keeps s0 (State.modFlash s f) := by
  unfold State.modFlash
  repeat' first | with_reducible assumption | simp only [Keeps.updMk]
theorem State.writeRecord_keeps {s0 s : State} (r : Bytes) (fails : List (List Nat)) (h : Keeps s0 s) : Keeps s0 (State.writeRecord s r fails) := by
  unfold State.writeRecord
  repeat' first | with_reducible assumption | with_reducible apply State.modFlash_keeps
theorem State.reportRecord_keeps {s0 s : State} (r : Bytes) (h : Keeps s0 s) : Keeps s0 (State.reportRecord s r) := by
  unfold State.reportRecord
  repeat' first | with_reducible assumption | with_reducible apply State.raise_keeps | with_reducible refine Keeps.foldl ?_ (fun _ _ _ => ?_)
theorem State.rebuildGold_keeps {s0 s : State} (h : Keeps s0 s) : Keeps s0 (State.rebuildGold s) := by
  unfold State.rebuildGold
  repeat' first | with_reducible assumption | with_reducible apply State.setGold_keeps | with_reducible refine Keeps.foldl ?_ (fun _ _ _ => ?_) | split
theorem State.destroy_keeps {s0 s : State} (cls : Nat) (unit : Option Nat) (h : Keeps s0 s) : Keeps s0 (State.destroy s cls unit) := by
  unfold State.destroy
  repeat' first | with_reducible assumption | with_reducible apply State.bumpSat_keeps | with_reducible apply State.modWarp_keeps | with_reducible apply State.fresh_keeps | with_reducible refine Keeps.foldl ?_ (fun _ _ _ => ?_) | simp only [Keeps.updMk] | with_reducible refine Keeps.dropSlices ?_ rfl | with_reducible refine Keeps.dropStacks ?_ rfl | split
theorem State.beginTest_keeps {s0 s : State} (t : TestRun) (h : Keeps s0 s) : Keeps s0 (State.beginTest s t) := by
  unfold State.beginTest
  repeat' first | with_reducible assumption | with_reducible apply State.setReg_keeps | with_reducible apply State.setFld_keeps | simp only [Keeps.updMk]
theorem State.runTestSet_keeps {s0 s : State} (set : Nat) (h : Keeps s0 s) : Keeps s0 (State.runTestSet s set) := by
  unfold State.runTestSet
  repeat' first | with_reducible assumption | with_reducible apply State.setReg_keeps | with_reducible apply State.beginTest_keeps | simp only [Keeps.updMk] | split
theorem State.rawRun_keeps {s0 s : State} (h : Keeps s0 s) : Keeps s0 (State.rawRun s) := by
  unfold State.rawRun
  repeat' first | with_reducible assumption | with_reducible apply State.setReg_keeps | with_reducible apply State.beginTest_keeps | simp only [Keeps.updMk] | split
theorem execSetDone_keeps (classes : List (List Nat)) (fails : List (List Nat)) (us : Nat) {s0 s : State} (h : Keeps s0 s) : KeepsOut s0 (execSetDone classes fails us s) := by
  unfold execSetDone
  repeat' first | with_reducible assumption | with_reducible apply KeepsOut.next | with_reducible apply State.writeRecord_keeps | with_reducible apply State.setReg_keeps | with_reducible apply State.destroy_keeps | with_reducible apply State.setBit_keeps | with_reducible apply State.setFld_keeps | with_reducible apply State.rebuildGold_keeps | with_reducible apply State.reportRecord_keeps | with_reducible refine Keeps.foldl ?_ (fun _ _ _ => ?_) | simp only [Keeps.updMk] | split
theorem State.shutOff_keeps {s0 s : State} (h : Keeps s0 s) : Keeps s0 (State.shutOff s) := by
  unfold State.shutOff
  repeat' first | with_reducible assumption | with_reducible apply State.bump_keeps | with_reducible apply State.dark_keeps
theorem execShutdownTest_keeps {s0 s : State} (h : Keeps s0 s) : KeepsOut s0 (execShutdownTest s) := by
  unfold execShutdownTest
  repeat' first | with_reducible assumption | with_reducible apply KeepsOut.next | with_reducible apply State.modFlash_keeps | with_reducible apply State.setFld_keeps | with_reducible apply State.shutOff_keeps | with_reducible apply State.setPower_keeps | simp only [Keeps.updMk] | split
theorem execShutdownTestDone_keeps (classes : List (List Nat)) (fails : List (List Nat)) (us : Nat) {s0 s : State} (h : Keeps s0 s) : KeepsOut s0 (execShutdownTestDone classes fails us s) := by
  unfold execShutdownTestDone
  repeat' first | with_reducible assumption | with_reducible apply KeepsOut.next | with_reducible apply State.writeRecord_keeps | with_reducible apply State.shutOff_keeps | split
theorem State.takeSample_keeps {s0 s : State} (ctx : Nat) (t : Nat) (n : Nat) (h : Keeps s0 s) : Keeps s0 (State.takeSample s ctx t n) := by
  unfold State.takeSample
  repeat' first | with_reducible assumption | with_reducible apply State.modCtx_keeps
theorem State.sampleDrop_keeps {s0 s : State} (half : Nat) (h : Keeps s0 s) : Keeps s0 (State.sampleDrop s half) := by
  unfold State.sampleDrop
  repeat' first | with_reducible assumption | simp only [Keeps.updMk] | split
theorem execLogBudgetRefill_keeps {s0 s : State} (h : Keeps s0 s) : KeepsOut s0 (execLogBudgetRefill s) := by
  unfold execLogBudgetRefill
  repeat' first | with_reducible assumption | with_reducible apply KeepsOut.next | simp only [Keeps.updMk]

end Sys2Proof.Machine
end

