-- ==== Sys2Proof/Laws/KeepsGauge.lean ====
section
/-! SUPPORT. What the operations of Machine/Gauge.lean keep: one lemma each, see Laws/Keeps.lean. -/

namespace Sys2Proof.Machine

theorem State.modGauge_keeps {s0 s : State} (f : GaugeSt → GaugeSt) (h : Keeps s0 s) : Keeps s0 (State.modGauge s f) := by
  unfold State.modGauge
  repeat' first | with_reducible assumption | simp only [Keeps.updMk]
theorem State.gaugeKick_keeps {s0 s : State} (h : Keeps s0 s) : Keeps s0 (State.gaugeKick s) := by
  unfold State.gaugeKick
  repeat' first | with_reducible assumption | with_reducible apply State.setBit_keeps | with_reducible apply State.modGauge_keeps | with_reducible apply State.clrBit_keeps | simp only [Keeps.updMk] | split
theorem State.gaugeTrigger_keeps {s0 s : State} (src : Nat) (h : Keeps s0 s) : Keeps s0 (State.gaugeTrigger s src) := by
  unfold State.gaugeTrigger
  repeat' first | with_reducible assumption | with_reducible apply State.bump_keeps | with_reducible apply State.setBit_keeps | with_reducible apply State.gaugeKick_keeps | split
theorem execGaugeInjectedTrigger_keeps (source : BitVec 2) {s0 s : State} (h : Keeps s0 s) : KeepsOut s0 (execGaugeInjectedTrigger source s) := by
  unfold execGaugeInjectedTrigger
  repeat' first | with_reducible assumption | with_reducible apply KeepsOut.next | with_reducible apply State.gaugeTrigger_keeps
theorem State.gaugeStartReg_keeps {s0 s : State} (h : Keeps s0 s) : Keeps s0 (State.gaugeStartReg s) := by
  unfold State.gaugeStartReg
  repeat' first | with_reducible assumption | with_reducible apply State.setBit_keeps | with_reducible apply State.gaugeKick_keeps | with_reducible apply State.modGauge_keeps | split
theorem State.gaugeEndReg_keeps {s0 s : State} (h : Keeps s0 s) : Keeps s0 (State.gaugeEndReg s) := by
  unfold State.gaugeEndReg
  repeat' first | with_reducible assumption | with_reducible apply State.modGauge_keeps | with_reducible apply State.clrBit_keeps
theorem State.gaugeStopReg_keeps {s0 s : State} (h : Keeps s0 s) : Keeps s0 (State.gaugeStopReg s) := by
  unfold State.gaugeStopReg
  repeat' first | with_reducible assumption | with_reducible apply State.modGauge_keeps | with_reducible apply State.gaugeEndReg_keeps | split
theorem State.gaugeResult_keeps {s0 s : State} (c : Nat) (code : Int) (injected : Bool) (h : Keeps s0 s) : Keeps s0 (State.gaugeResult s c code injected) := by
  unfold State.gaugeResult
  repeat' first | with_reducible assumption | with_reducible apply State.setReg_keeps | with_reducible apply State.bump_keeps | with_reducible apply State.setReg64_keeps | with_reducible apply State.setFld_keeps | split
theorem State.gaugeAdvance_keeps {s0 s : State} (h : Keeps s0 s) : Keeps s0 (State.gaugeAdvance s) := by
  unfold State.gaugeAdvance
  repeat' first | with_reducible assumption | with_reducible apply State.bump_keeps | with_reducible apply State.modGauge_keeps | with_reducible apply State.gaugeEndReg_keeps | simp only [Keeps.updMk] | split
theorem State.injectAdvance_keeps {s0 s : State} (h : Keeps s0 s) : Keeps s0 (State.injectAdvance s) := by
  unfold State.injectAdvance
  repeat' first | with_reducible assumption | with_reducible apply State.modGauge_keeps | with_reducible apply State.clrBit_keeps | split
theorem execGaugeConversionDone_keeps (code : Int) {s0 s : State} (h : Keeps s0 s) : KeepsOut s0 (execGaugeConversionDone code s) := by
  unfold execGaugeConversionDone
  repeat' first | with_reducible assumption | with_reducible apply KeepsOut.next | with_reducible apply State.injectAdvance_keeps | with_reducible apply State.gaugeAdvance_keeps | with_reducible apply State.gaugeResult_keeps | with_reducible apply State.gaugeKick_keeps | with_reducible apply State.modGauge_keeps | with_reducible apply State.gaugeEndReg_keeps | split
theorem execGaugePassGap_keeps {s0 s : State} (h : Keeps s0 s) : KeepsOut s0 (execGaugePassGap s) := by
  unfold execGaugePassGap
  repeat' first | with_reducible assumption | with_reducible apply KeepsOut.next | with_reducible apply State.gaugeKick_keeps | with_reducible apply State.modGauge_keeps | split
theorem execGaugeRefReady_keeps {s0 s : State} (h : Keeps s0 s) : KeepsOut s0 (execGaugeRefReady s) := by
  unfold execGaugeRefReady
  repeat' first | with_reducible assumption | with_reducible apply KeepsOut.next | with_reducible apply State.setBit_keeps | with_reducible apply State.gaugeKick_keeps | split
theorem execGaugeRefCheck_keeps (bandgap : Int) (bufIn : Int) (bufOut : Int) (ground : Int) (half : Int) {s0 s : State} (h : Keeps s0 s) : KeepsOut s0 (execGaugeRefCheck bandgap bufIn bufOut ground half s) := by
  unfold execGaugeRefCheck
  repeat' first | with_reducible assumption | with_reducible apply KeepsOut.next | with_reducible apply State.setBit_keeps | with_reducible apply State.setFld_keeps | with_reducible apply State.gaugeResult_keeps | with_reducible apply State.raise_keeps | with_reducible apply State.modGauge_keeps | with_reducible refine Keeps.foldl ?_ (fun _ _ _ => ?_) | split

end Sys2Proof.Machine
end

