-- ==== Sys2Proof/Laws/KeepsWindows.lean ====
section
/-! SUPPORT. What the operations of Machine/Windows.lean keep: one lemma each, see Laws/Keeps.lean. -/

namespace Sys2Proof.Machine

theorem State.windowBand_keeps {s0 s : State} (d : Nat) (h : Keeps s0 s) : Keeps s0 (State.windowBand s d) := by
  unfold State.windowBand
  repeat' first | with_reducible assumption | with_reducible apply State.setReg_keeps | with_reducible apply State.setFld_keeps | with_reducible apply State.modDist_keeps
theorem State.windowLive_keeps {s0 s : State} (d : Nat) (h : Keeps s0 s) : Keeps s0 (State.windowLive s d) := by
  unfold State.windowLive
  repeat' first | with_reducible assumption | with_reducible apply State.svcCommand_keeps | with_reducible apply State.applyLive_keeps | with_reducible apply State.modTile_keeps | with_reducible refine Keeps.foldl ?_ (fun _ _ _ => ?_) | simp only [Keeps.updMk]
theorem State.windowCaps_keeps {s0 s : State} (d : Nat) (h : Keeps s0 s) : Keeps s0 (State.windowCaps s d) := by
  unfold State.windowCaps
  repeat' first | with_reducible assumption | with_reducible apply State.setFld_keeps | with_reducible apply State.modDist_keeps
theorem State.grantTokens_keeps {s0 s : State} (d : Nat) (t : Nat) (h : Keeps s0 s) : Keeps s0 (State.grantTokens s d t) := by
  unfold State.grantTokens
  repeat' first | with_reducible assumption | with_reducible apply State.modSpin_keeps
theorem State.windowMargins_keeps {s0 s : State} (d : Nat) (h : Keeps s0 s) : Keeps s0 (State.windowMargins s d) := by
  unfold State.windowMargins
  repeat' first | with_reducible assumption | simp only [Keeps.updMk]
theorem execDistrictWindowBoundary_keeps (d : Nat) {s0 s : State} (h : Keeps s0 s) : KeepsOut s0 (execDistrictWindowBoundary d s) := by
  unfold execDistrictWindowBoundary
  repeat' first | with_reducible assumption | exact True.intro | with_reducible apply KeepsOut.next | with_reducible apply State.windowMargins_keeps | with_reducible apply State.countO_keeps | with_reducible apply State.windowLive_keeps | with_reducible apply State.windowBand_keeps | with_reducible apply State.windowCaps_keeps | with_reducible apply State.svcBoundary_keeps | with_reducible apply State.grantTokens_keeps | with_reducible apply State.roundBoundary_keeps | with_reducible refine Keeps.foldl ?_ (fun _ _ _ => ?_) | split
theorem execPartitionStopEnter_keeps (p : BitVec 4) {s0 s : State} (h : Keeps s0 s) : KeepsOut s0 (execPartitionStopEnter p s) := by
  unfold execPartitionStopEnter
  repeat' first | with_reducible assumption | with_reducible apply KeepsOut.next | with_reducible apply State.bump_keeps | with_reducible apply State.modPart_keeps | split
theorem execPartitionStopped_keeps (p : BitVec 4) {s0 s : State} (h : Keeps s0 s) : KeepsOut s0 (execPartitionStopped p s) := by
  unfold execPartitionStopped
  repeat' first | with_reducible assumption | with_reducible apply KeepsOut.next | with_reducible apply State.raiseIn_keeps | with_reducible apply State.modPart_keeps | split
theorem execWatchdogExpiry_keeps (p : BitVec 4) {s0 s : State} (h : Keeps s0 s) : KeepsOut s0 (execWatchdogExpiry p s) := by
  unfold execWatchdogExpiry
  repeat' first | with_reducible assumption | with_reducible apply KeepsOut.next | with_reducible apply State.recordFault_keeps | split
theorem State.suspendSessions_keeps {s0 s : State} (p : Nat) (h : Keeps s0 s) : Keeps s0 (State.suspendSessions s p) := by
  unfold State.suspendSessions
  repeat' first | with_reducible assumption | with_reducible apply State.modSession_keeps | with_reducible apply State.raiseIn_keeps | with_reducible refine Keeps.foldl ?_ (fun _ _ _ => ?_) | simp only [Keeps.updMk] | split
theorem execPartitionFaultClear_keeps (p : BitVec 4) {s0 s : State} (h : Keeps s0 s) : KeepsOut s0 (execPartitionFaultClear p s) := by
  unfold execPartitionFaultClear
  repeat' first | with_reducible assumption | with_reducible apply KeepsOut.next | with_reducible apply State.raiseIn_keeps | with_reducible apply State.clearProgram_keeps | with_reducible apply State.freeEntries_keeps | with_reducible apply State.suspendSessions_keeps | with_reducible apply State.setPower_keeps | with_reducible refine Keeps.foldl ?_ (fun _ _ _ => ?_) | simp only [Keeps.updMk] | split

end Sys2Proof.Machine
end

