-- ==== Sys2Proof/Laws/KeepsThermal.lean ====
section
/-! SUPPORT. What the operations of Machine/Thermal.lean keep: one lemma each, see Laws/Keeps.lean. -/

namespace Sys2Proof.Machine

theorem State.excludeSensor_keeps {s0 s : State} (i : Nat) (dev : Int) (h : Keeps s0 s) : Keeps s0 (State.excludeSensor s i dev) := by
  unfold State.excludeSensor
  repeat' first | with_reducible assumption | with_reducible apply State.bump_keeps | with_reducible apply State.setBit_keeps | with_reducible apply State.raise_keeps
theorem State.checkSensor_keeps {s0 s : State} (valid : List Nat) (i : Nat) (h : Keeps s0 s) : Keeps s0 (State.checkSensor s valid i) := by
  unfold State.checkSensor
  repeat' first | with_reducible assumption | with_reducible apply State.setReg_keeps | with_reducible apply State.excludeSensor_keeps | simp only [Keeps.updMk] | split
theorem State.districtMax_keeps {s0 s : State} (d : Nat) (h : Keeps s0 s) : Keeps s0 (State.districtMax s d) := by
  unfold State.districtMax
  repeat' first | with_reducible assumption | with_reducible apply State.setBit_keeps | with_reducible apply State.setFld_keeps | with_reducible apply State.raise_keeps | simp only [Keeps.updMk] | split
theorem State.scanMaxima_keeps {s0 s : State} (h : Keeps s0 s) : Keeps s0 (State.scanMaxima s) := by
  unfold State.scanMaxima
  repeat' first | with_reducible assumption | with_reducible apply State.setReg_keeps | with_reducible apply State.setFld_keeps | simp only [Keeps.updMk] | split
theorem State.readSensors_keeps {s0 s : State} (readings : List Int) (h : Keeps s0 s) : Keeps s0 (State.readSensors s readings) := by
  unfold State.readSensors
  repeat' first | with_reducible assumption | with_reducible apply State.bump_keeps | with_reducible apply State.checkSensor_keeps | with_reducible apply State.setFld_keeps | with_reducible apply State.scanMaxima_keeps | with_reducible apply State.districtMax_keeps | with_reducible refine Keeps.foldl ?_ (fun _ _ _ => ?_)
theorem State.thermWarn_keeps {s0 s : State} (h : Keeps s0 s) : Keeps s0 (State.thermWarn s) := by
  unfold State.thermWarn
  repeat' first | with_reducible assumption | with_reducible apply State.setBit_keeps | with_reducible apply State.raise_keeps | with_reducible apply State.gaugeTrigger_keeps | with_reducible apply State.clrBit_keeps | simp only [Keeps.updMk] | split
theorem State.thermThrottle_keeps {s0 s : State} (h : Keeps s0 s) : Keeps s0 (State.thermThrottle s) := by
  unfold State.thermThrottle
  repeat' first | with_reducible assumption | with_reducible apply State.bump_keeps | with_reducible apply State.setBit_keeps | with_reducible apply State.raise_keeps | with_reducible apply State.gaugeTrigger_keeps | with_reducible apply State.clrBit_keeps | simp only [Keeps.updMk] | split
theorem execThermalScan_keeps (readings : List Int) {s0 s : State} (h : Keeps s0 s) : KeepsOut s0 (execThermalScan readings s) := by
  unfold execThermalScan
  repeat' first | with_reducible assumption | with_reducible apply KeepsOut.next | with_reducible apply State.thermalLatch_keeps | with_reducible apply State.thermWarn_keeps | with_reducible apply State.thermThrottle_keeps | with_reducible apply State.readSensors_keeps | simp only [Keeps.updMk] | split

end Sys2Proof.Machine
end

