-- ==== Sys2Proof/Laws/KeepsLinks.lean ====
section
/-! SUPPORT. What the operations of Machine/Links.lean keep: one lemma each, see Laws/Keeps.lean. -/

namespace Sys2Proof.Machine

theorem State.ingressTensor_keeps {s0 s : State} (unit : Nat) (m : Bytes) (h : Keeps s0 s) : Keeps s0 (State.ingressTensor s unit m) := by
  unfold State.ingressTensor
  repeat' first | with_reducible assumption | with_reducible apply State.modUnitSend_keeps | with_reducible apply State.pumpUnit_keeps | with_reducible apply State.bump_keeps | with_reducible apply State.setBit_keeps | with_reducible apply State.raiseIn_keeps | simp only [Keeps.updMk] | split
theorem State.ingressReturn_keeps {s0 s : State} (unit : Nat) (m : Bytes) (h : Keeps s0 s) : Keeps s0 (State.ingressReturn s unit m) := by
  unfold State.ingressReturn
  repeat' first | with_reducible assumption | with_reducible apply State.setDescCred_keeps | with_reducible apply State.pumpEgress_keeps | with_reducible refine Keeps.foldl ?_ (fun _ _ _ => ?_) | simp only [Keeps.updMk] | split
theorem State.ingressContext_keeps {s0 s : State} (unit : Nat) (m : Bytes) (h : Keeps s0 s) : Keeps s0 (State.ingressContext s unit m) := by
  unfold State.ingressContext
  repeat' first | with_reducible assumption | with_reducible apply State.bump_keeps | simp only [Keeps.updMk] | split
theorem State.unitSendMsg_keeps {s0 s : State} (unit : Nat) (dev : Nat) (cls : Nat) (msg : Bytes) (h : Keeps s0 s) : Keeps s0 (State.unitSendMsg s unit dev cls msg) := by
  unfold State.unitSendMsg
  repeat' first | with_reducible assumption | with_reducible apply State.linkSend_keeps | with_reducible apply State.send_keeps | split
theorem State.ingressService_keeps {s0 s : State} (unit : Nat) (m : Bytes) (h : Keeps s0 s) : Keeps s0 (State.ingressService s unit m) := by
  unfold State.ingressService
  repeat' first | with_reducible assumption | with_reducible apply State.unitSendMsg_keeps | split
theorem State.fpDrop_keeps {s0 s : State} (unit : Nat) (m : Bytes) (h : Keeps s0 s) : Keeps s0 (State.fpDrop s unit m) := by
  unfold State.fpDrop
  repeat' first | with_reducible assumption | with_reducible apply State.modLink_keeps | with_reducible apply State.bump_keeps | with_reducible apply State.setBit_keeps | with_reducible apply State.raise_keeps | simp only [Keeps.updMk] | split
theorem State.ingress_keeps {s0 s : State} (unit : Nat) (m : Bytes) (h : Keeps s0 s) : Keeps s0 (State.ingress s unit m) := by
  unfold State.ingress
  repeat' first | with_reducible assumption | with_reducible apply State.bump_keeps | with_reducible apply State.ingressContext_keeps | with_reducible apply State.setBit_keeps | with_reducible apply State.raise_keeps | with_reducible apply State.fpDrop_keeps | with_reducible apply State.ingressTensor_keeps | with_reducible apply State.ingressReturn_keeps | with_reducible apply State.ingressService_keeps | split
theorem arrive_keeps (unit : Nat) (m : Bytes) (want : Bytes → Bool) {s0 s : State} (h : Keeps s0 s) : KeepsOut s0 (arrive unit m want s) := by
  unfold arrive
  repeat' first | with_reducible assumption | exact True.intro | with_reducible apply KeepsOut.next | with_reducible apply State.ingress_keeps | split
theorem execMessageIngress_keeps (link : Nat) (msg : Bytes) {s0 s : State} (h : Keeps s0 s) : KeepsOut s0 (execMessageIngress link msg s) := by
  unfold execMessageIngress
  repeat' first | with_reducible assumption | with_reducible apply arrive_keeps
theorem execReturnReceive_keeps (link : Nat) (msg : Bytes) {s0 s : State} (h : Keeps s0 s) : KeepsOut s0 (execReturnReceive link msg s) := by
  unfold execReturnReceive
  repeat' first | with_reducible assumption | with_reducible apply arrive_keeps
theorem execEcho_keeps (link : Nat) (msg : Bytes) {s0 s : State} (h : Keeps s0 s) : KeepsOut s0 (execEcho link msg s) := by
  unfold execEcho
  repeat' first | with_reducible assumption | with_reducible apply arrive_keeps
theorem execEchoReply_keeps (link : Nat) (msg : Bytes) {s0 s : State} (h : Keeps s0 s) : KeepsOut s0 (execEchoReply link msg s) := by
  unfold execEchoReply
  repeat' first | with_reducible assumption | with_reducible apply arrive_keeps
theorem State.sendReturn_keeps {s0 s : State} (unit : Nat) (dev : Nat) (es : List Freed) (h : Keeps s0 s) : Keeps s0 (State.sendReturn s unit dev es) := by
  unfold State.sendReturn
  repeat' first | with_reducible assumption | with_reducible apply State.unitSendMsg_keeps | with_reducible apply State.fresh_keeps
theorem execReturnSend_keeps (link : Nat) {s0 s : State} (h : Keeps s0 s) : KeepsOut s0 (execReturnSend link s) := by
  unfold execReturnSend
  repeat' first | with_reducible assumption | exact True.intro | with_reducible apply KeepsOut.next | with_reducible apply State.sendReturn_keeps | simp only [Keeps.updMk] | split
theorem State.rxFlit_keeps {s0 s : State} (l : Nat) (cls : Nat) (f : Bytes) (h : Keeps s0 s) : Keeps s0 (State.rxFlit s l cls f) := by
  unfold State.rxFlit
  repeat' first | with_reducible assumption | with_reducible apply State.modLink_keeps | with_reducible apply State.ingress_keeps | simp only [Keeps.updMk] | split
theorem State.acceptLea_keeps {s0 s : State} (l : Nat) (seq : Nat) (cls : Nat) (flits : Bytes) (h : Keeps s0 s) : Keeps s0 (State.acceptLea s l seq cls flits) := by
  unfold State.acceptLea
  repeat' first | with_reducible assumption | with_reducible apply State.modLink_keeps | with_reducible apply State.bump_keeps | with_reducible apply State.rxFlit_keeps | with_reducible refine Keeps.foldl ?_ (fun _ _ _ => ?_) | simp only [Keeps.updMk] | split
theorem State.nakBack_keeps {s0 s : State} (l : Nat) (h : Keeps s0 s) : Keeps s0 (State.nakBack s l) := by
  unfold State.nakBack
  repeat' first | with_reducible assumption | with_reducible apply State.modLink_keeps | with_reducible apply State.putLea_keeps
theorem State.leaAck_keeps {s0 s : State} (l : Nat) (hdr : Nat) (h : Keeps s0 s) : Keeps s0 (State.leaAck s l hdr) := by
  unfold State.leaAck
  repeat' first | with_reducible assumption | with_reducible apply State.modLink_keeps | with_reducible apply State.resend_keeps | with_reducible apply State.pumpLink_keeps | split
theorem execLeaReceive_keeps (link : BitVec 3) (lea : Bytes) (fec : FecCount) {s0 s : State} (h : Keeps s0 s) : KeepsOut s0 (execLeaReceive link lea fec s) := by
  unfold execLeaReceive
  repeat' first | with_reducible assumption | exact True.intro | with_reducible apply KeepsOut.next | with_reducible apply State.bump_keeps | with_reducible apply State.leaAck_keeps | with_reducible apply State.acceptLea_keeps | with_reducible apply State.nakBack_keeps | simp only [Keeps.updMk] | split
theorem execLeaNak_keeps (link : BitVec 3) (ack : BitVec 12) {s0 s : State} (h : Keeps s0 s) : KeepsOut s0 (execLeaNak link ack s) := by
  unfold execLeaNak
  repeat' first | with_reducible assumption | exact True.intro | with_reducible apply KeepsOut.next | with_reducible apply State.modLink_keeps | with_reducible apply State.resend_keeps | simp only [Keeps.updMk] | split
theorem execLeaAckTimeout_keeps (link : BitVec 3) {s0 s : State} (h : Keeps s0 s) : KeepsOut s0 (execLeaAckTimeout link s) := by
  unfold execLeaAckTimeout
  repeat' first | with_reducible assumption | exact True.intro | with_reducible apply KeepsOut.next | with_reducible apply State.resend_keeps | split
theorem State.recalLane_keeps {s0 s : State} (l : Nat) (k : Nat) (h : Keeps s0 s) : Keeps s0 (State.recalLane s l k) := by
  unfold State.recalLane
  repeat' first | with_reducible assumption | with_reducible apply State.modLink_keeps | with_reducible apply State.bump_keeps | with_reducible apply State.setRoles_keeps | with_reducible apply State.raise_keeps | simp only [Keeps.updMk] | split
theorem State.failLink_keeps {s0 s : State} (l : Nat) (h : Keeps s0 s) : Keeps s0 (State.failLink s l) := by
  unfold State.failLink
  repeat' first | with_reducible assumption | with_reducible apply State.leaveUp_keeps | with_reducible apply State.raise_keeps
theorem laneRow_keeps (link : BitVec 3) (f : State → Nat → State) {s0 s : State} (hf : ∀ {s0 s : State} (m1 : Nat), Keeps s0 s → Keeps s0 (f s m1)) (h : Keeps s0 s) : KeepsOut s0 (laneRow link f s) := by
  unfold laneRow
  repeat' first | with_reducible assumption | exact True.intro | with_reducible apply KeepsOut.next | with_reducible apply hf | split
theorem execLaneSwap_keeps (link : BitVec 3) (lane : BitVec 3) {s0 s : State} (h : Keeps s0 s) : KeepsOut s0 (execLaneSwap link lane s) := by
  unfold execLaneSwap
  repeat' first | with_reducible assumption | refine @fun s0 s _ (h : Keeps s0 s) => ?_ | exact True.intro | with_reducible apply State.recalLane_keeps | with_reducible apply laneRow_keeps | split
theorem execSknRetryLimit_keeps (link : BitVec 3) {s0 s : State} (h : Keeps s0 s) : KeepsOut s0 (execSknRetryLimit link s) := by
  unfold execSknRetryLimit
  repeat' first | with_reducible assumption | refine @fun s0 s _ (h : Keeps s0 s) => ?_ | with_reducible apply State.modLink_keeps | with_reducible apply State.failLink_keeps | with_reducible apply State.recalLane_keeps | with_reducible apply laneRow_keeps | simp only [Keeps.updMk] | split
theorem State.setEye_keeps {s0 s : State} (l : Nat) (k : Nat) (w : Nat) (x1 : Nat) (h : Keeps s0 s) : Keeps s0 (State.setEye s l k w x1) := by
  unfold State.setEye
  repeat' first | with_reducible assumption | with_reducible apply State.setReg_keeps
theorem execEyeMeasure_keeps (link : BitVec 3) (lane : BitVec 3) (width : BitVec 16) (height : BitVec 16) {s0 s : State} (h : Keeps s0 s) : KeepsOut s0 (execEyeMeasure link lane width height s) := by
  unfold execEyeMeasure
  repeat' first | with_reducible assumption | refine @fun s0 s _ (h : Keeps s0 s) => ?_ | exact True.intro | with_reducible apply State.recalLane_keeps | with_reducible apply State.setBit_keeps | with_reducible apply State.setEye_keeps | with_reducible apply State.raise_keeps | with_reducible apply laneRow_keeps | simp only [Keeps.updMk] | split
theorem execLaneRecalPeriodic_keeps (link : BitVec 3) {s0 s : State} (h : Keeps s0 s) : KeepsOut s0 (execLaneRecalPeriodic link s) := by
  unfold execLaneRecalPeriodic
  repeat' first | with_reducible assumption | refine @fun s0 s _ (h : Keeps s0 s) => ?_ | with_reducible apply State.modLink_keeps | with_reducible apply State.recalLane_keeps | with_reducible apply laneRow_keeps | split
theorem execLaneRecalDone_keeps (link : BitVec 3) (width : BitVec 16) (height : BitVec 16) {s0 s : State} (h : Keeps s0 s) : KeepsOut s0 (execLaneRecalDone link width height s) := by
  unfold execLaneRecalDone
  repeat' first | with_reducible assumption | refine @fun s0 s _ (h : Keeps s0 s) => ?_ | with_reducible apply State.modLink_keeps | with_reducible apply State.failLink_keeps | with_reducible apply State.bump_keeps | with_reducible apply State.setRoles_keeps | with_reducible apply State.setEye_keeps | with_reducible apply State.raise_keeps | with_reducible apply laneRow_keeps | simp only [Keeps.updMk] | split
theorem execSknSignalDetect_keeps (link : BitVec 3) {s0 s : State} (h : Keeps s0 s) : KeepsOut s0 (execSknSignalDetect link s) := by
  unfold execSknSignalDetect
  repeat' first | with_reducible assumption | refine @fun s0 s _ (h : Keeps s0 s) => ?_ | with_reducible apply State.setLink_keeps | with_reducible apply laneRow_keeps | split
theorem execSknLossOfSignal_keeps (link : BitVec 3) {s0 s : State} (h : Keeps s0 s) : KeepsOut s0 (execSknLossOfSignal link s) := by
  unfold execSknLossOfSignal
  repeat' first | with_reducible assumption | refine @fun s0 s _ (h : Keeps s0 s) => ?_ | with_reducible apply State.leaveUp_keeps | with_reducible apply State.setFld_keeps | with_reducible apply laneRow_keeps | split
theorem execTrainingRecord_keeps (link : BitVec 3) (record : Bytes) {s0 s : State} (h : Keeps s0 s) : KeepsOut s0 (execTrainingRecord link record s) := by
  unfold execTrainingRecord
  repeat' first | with_reducible assumption | refine @fun s0 s _ (h : Keeps s0 s) => ?_ | with_reducible apply State.putLea_keeps | with_reducible apply State.setReg_keeps | with_reducible apply State.setReg64_keeps | with_reducible apply State.setBit_keeps | with_reducible apply State.setFld_keeps | with_reducible apply State.raise_keeps | with_reducible apply State.setLink_keeps | with_reducible apply State.enterUp_keeps | with_reducible apply laneRow_keeps | simp only [Keeps.updMk] | split
theorem State.sknCommand_keeps {s0 s : State} (l : Nat) (op : Nat) (h : Keeps s0 s) : Keeps s0 (State.sknCommand s l op) := by
  unfold State.sknCommand
  repeat' first | with_reducible assumption | with_reducible apply State.leaveUp_keeps | with_reducible apply State.modLink_keeps | with_reducible apply State.setFld_keeps | simp only [Keeps.updMk] | split
theorem State.pathResult_keeps {s0 s : State} (l : Nat) (job : Nat) (r : Nat) (h : Keeps s0 s) : Keeps s0 (State.pathResult s l job r) := by
  unfold State.pathResult
  repeat' first | with_reducible assumption | with_reducible apply State.setReg_keeps | with_reducible apply State.raise_keeps | split
theorem State.pathCommand_keeps {s0 s : State} (op : Nat) (l : Nat) (job : Nat) (h : Keeps s0 s) : Keeps s0 (State.pathCommand s op l job) := by
  unfold State.pathCommand
  repeat' first | with_reducible assumption | with_reducible apply State.setReg_keeps | with_reducible apply State.setFld_keeps | with_reducible apply State.pathResult_keeps | simp only [Keeps.updMk] | split
theorem State.openQp_keeps {s0 s : State} (k : Nat) (port : Nat) (src : List Word) (rqpn : Nat) (h : Keeps s0 s) : Keeps s0 (State.openQp s k port src rqpn) := by
  unfold State.openQp
  repeat' first | with_reducible assumption | with_reducible apply State.showQp_keeps | with_reducible apply State.modQp_keeps | with_reducible apply State.modCtx_keeps | with_reducible apply State.fresh_keeps | simp only [Keeps.updMk] | split
theorem execCmReq_keeps (port : BitVec 2) (service : DWord) (src : List Word) (mtu : Nat) (rqpn : BitVec 24) {s0 s : State} (h : Keeps s0 s) : KeepsOut s0 (execCmReq port service src mtu rqpn s) := by
  unfold execCmReq
  repeat' first | with_reducible assumption | with_reducible apply KeepsOut.next | with_reducible apply State.bump_keeps | with_reducible apply State.openQp_keeps | with_reducible apply State.setBit_keeps | with_reducible apply State.raise_keeps | with_reducible apply State.send_keeps | split
theorem State.peerConnect_keeps {s0 s : State} (v : Nat) (h : Keeps s0 s) : Keeps s0 (State.peerConnect s v) := by
  unfold State.peerConnect
  repeat' first | with_reducible assumption | with_reducible apply State.showQp_keeps | with_reducible apply State.modQp_keeps | with_reducible apply State.send_keeps | simp only [Keeps.updMk] | split
theorem execCmRep_keeps (slot : BitVec 9) (accepted : Bool) (rqpn : BitVec 24) {s0 s : State} (h : Keeps s0 s) : KeepsOut s0 (execCmRep slot accepted rqpn s) := by
  unfold execCmRep
  repeat' first | with_reducible assumption | exact True.intro | with_reducible apply KeepsOut.next | with_reducible apply State.showQp_keeps | with_reducible apply State.modQp_keeps | with_reducible apply State.freeQp_keeps | with_reducible apply State.pumpEgress_keeps | with_reducible apply State.fresh_keeps | simp only [Keeps.updMk] | split
theorem qpRow_keeps (slot : BitVec 9) (f : State → Nat → State) {s0 s : State} (hf : ∀ {s0 s : State} (m1 : Nat), Keeps s0 s → Keeps s0 (f s m1)) (h : Keeps s0 s) : KeepsOut s0 (qpRow slot f s) := by
  unfold qpRow
  repeat' first | with_reducible assumption | exact True.intro | with_reducible apply KeepsOut.next | with_reducible apply hf | split
theorem execQpTeardown_keeps (slot : BitVec 9) {s0 s : State} (h : Keeps s0 s) : KeepsOut s0 (execQpTeardown slot s) := by
  unfold execQpTeardown
  repeat' first | with_reducible assumption | with_reducible apply State.freeQp_keeps | with_reducible apply qpRow_keeps
theorem execLocalAckTimeout_keeps (slot : BitVec 9) {s0 s : State} (h : Keeps s0 s) : KeepsOut s0 (execLocalAckTimeout slot s) := by
  unfold execLocalAckTimeout
  repeat' first | with_reducible assumption | refine @fun s0 s _ (h : Keeps s0 s) => ?_ | with_reducible apply State.bump_keeps | with_reducible apply State.qpError_keeps | with_reducible apply qpRow_keeps
theorem execInvalidRequest_keeps (slot : BitVec 9) {s0 s : State} (h : Keeps s0 s) : KeepsOut s0 (execInvalidRequest slot s) := by
  unfold execInvalidRequest
  repeat' first | with_reducible assumption | refine @fun s0 s _ (h : Keeps s0 s) => ?_ | with_reducible apply State.qpError_keeps | with_reducible apply State.send_keeps | with_reducible apply qpRow_keeps
theorem execCePacket_keeps (slot : BitVec 9) {s0 s : State} (h : Keeps s0 s) : KeepsOut s0 (execCePacket slot s) := by
  unfold execCePacket
  repeat' first | with_reducible assumption | refine @fun s0 s _ (h : Keeps s0 s) => ?_ | with_reducible apply State.bump_keeps | with_reducible apply State.modQp_keeps | with_reducible apply State.send_keeps | with_reducible apply qpRow_keeps | simp only [Keeps.updMk] | split
theorem execCnpReceive_keeps (slot : BitVec 9) {s0 s : State} (h : Keeps s0 s) : KeepsOut s0 (execCnpReceive slot s) := by
  unfold execCnpReceive
  repeat' first | with_reducible assumption | refine @fun s0 s _ (h : Keeps s0 s) => ?_ | with_reducible apply State.bump_keeps | with_reducible apply State.setBit_keeps | with_reducible apply State.modQp_keeps | with_reducible apply State.setFld_keeps | with_reducible apply qpRow_keeps | simp only [Keeps.updMk] | split
theorem execRateRaise_keeps (slot : BitVec 9) {s0 s : State} (h : Keeps s0 s) : KeepsOut s0 (execRateRaise slot s) := by
  unfold execRateRaise
  repeat' first | with_reducible assumption | refine @fun s0 s _ (h : Keeps s0 s) => ?_ | with_reducible apply State.modQp_keeps | with_reducible apply State.setFld_keeps | with_reducible apply qpRow_keeps | split
theorem State.unpause_keeps {s0 s : State} (p : Nat) (h : Keeps s0 s) : Keeps s0 (State.unpause s p) := by
  unfold State.unpause
  repeat' first | with_reducible assumption | simp only [Keeps.updMk]
theorem execPfcPauseReceive_keeps (port : BitVec 2) (prio : BitVec 3) (pause : Bool) {s0 s : State} (h : Keeps s0 s) : KeepsOut s0 (execPfcPauseReceive port prio pause s) := by
  unfold execPfcPauseReceive
  repeat' first | with_reducible assumption | with_reducible apply KeepsOut.next | with_reducible apply State.bump_keeps | with_reducible apply State.unpause_keeps | simp only [Keeps.updMk] | split
theorem execPfcBufferThreshold_keeps (port : BitVec 2) (above75 : Bool) {s0 s : State} (h : Keeps s0 s) : KeepsOut s0 (execPfcBufferThreshold port above75 s) := by
  unfold execPfcBufferThreshold
  repeat' first | with_reducible assumption | with_reducible apply KeepsOut.next | with_reducible apply State.bump_keeps | with_reducible apply State.send_keeps | simp only [Keeps.updMk] | split
theorem State.frameFor_keeps {s0 s : State} (p : Nat) (r : Option OutMsg) (h : Keeps s0 s) : Keeps s0 (State.frameFor s p r) := by
  unfold State.frameFor
  repeat' first | with_reducible assumption | with_reducible apply State.bump_keeps | with_reducible apply State.send_keeps | split
theorem execArpRequest_keeps (port : BitVec 2) (target : Word) {s0 s : State} (h : Keeps s0 s) : KeepsOut s0 (execArpRequest port target s) := by
  unfold execArpRequest
  repeat' first | with_reducible assumption | with_reducible apply KeepsOut.next | with_reducible apply State.frameFor_keeps
theorem execNeighborSolicitation_keeps (port : BitVec 2) (target : List Word) {s0 s : State} (h : Keeps s0 s) : KeepsOut s0 (execNeighborSolicitation port target s) := by
  unfold execNeighborSolicitation
  repeat' first | with_reducible assumption | with_reducible apply KeepsOut.next | with_reducible apply State.frameFor_keeps
theorem execIcmpEcho_keeps (port : BitVec 2) (v6 : Bool) (target : List Word) (payload : Bytes) {s0 s : State} (h : Keeps s0 s) : KeepsOut s0 (execIcmpEcho port v6 target payload s) := by
  unfold execIcmpEcho
  repeat' first | with_reducible assumption | with_reducible apply KeepsOut.next | with_reducible apply State.frameFor_keeps
theorem execEthPortUp_keeps (port : BitVec 2) (pmd : BitVec 2) (watts : Nat) {s0 s : State} (h : Keeps s0 s) : KeepsOut s0 (execEthPortUp port pmd watts s) := by
  unfold execEthPortUp
  repeat' first | with_reducible assumption | with_reducible apply KeepsOut.next | with_reducible apply State.setReg_keeps | with_reducible apply State.setBit_keeps | with_reducible apply State.raise_keeps | split
theorem State.portDown_keeps {s0 s : State} (p : Nat) (h : Keeps s0 s) : Keeps s0 (State.portDown s p) := by
  unfold State.portDown
  repeat' first | with_reducible assumption | with_reducible apply State.setReg_keeps | with_reducible apply State.setBit_keeps | with_reducible apply State.raise_keeps | split
theorem execEthPortDown_keeps (port : BitVec 2) {s0 s : State} (h : Keeps s0 s) : KeepsOut s0 (execEthPortDown port s) := by
  unfold execEthPortDown
  repeat' first | with_reducible assumption | with_reducible apply KeepsOut.next | with_reducible apply State.portDown_keeps
theorem State.railsOff_keeps {s0 s : State} (h : Keeps s0 s) : Keeps s0 (State.railsOff s) := by
  unfold State.railsOff
  repeat' first | with_reducible assumption | with_reducible apply State.leaveUp_keeps | with_reducible apply State.setReg_keeps | with_reducible apply State.portDown_keeps | with_reducible refine Keeps.foldl ?_ (fun _ _ _ => ?_) | with_reducible refine Keeps.noMemory ?_ rfl | split

end Sys2Proof.Machine
end

