-- ==== Sys2Proof/Laws/KeepsStart.lean ====
section
/-! SUPPORT. What the operations of Machine/Start.lean keep: one lemma each, see Laws/Keeps.lean. -/

namespace Sys2Proof.Machine

theorem andThen_keeps {s0 : State} (r : State × StartFail) (f : State → State × StartFail)
    (hf : ∀ {s0 s : State}, Keeps s0 s → Keeps s0 (f s).1) (h : Keeps s0 r.1) : Keeps s0 (andThen r f).1 := by
  unfold andThen
  split
  · exact h
  · exact hf h
theorem need_keeps {s0 : State} (ok : Bool) (reason detail : Nat) {s : State} (h : Keeps s0 s) : Keeps s0 (need ok reason detail s).1 := h
theorem State.showStart_keeps {s0 s : State} (h : Keeps s0 s) : Keeps s0 (State.showStart s) := by
  unfold State.showStart
  repeat' first | with_reducible assumption | with_reducible apply State.setReg_keeps | with_reducible apply State.setFld_keeps
theorem State.setStep_keeps {s0 s : State} (n : Nat) (h : Keeps s0 s) : Keeps s0 (State.setStep s n) := by
  unfold State.setStep
  repeat' first | with_reducible assumption | with_reducible apply State.setFld_keeps
theorem State.flashRead_keeps {s0 s : State} (i : StartIn) (n : Nat) (h : Keeps s0 s) : Keeps s0 (State.flashRead s i n).1 := by
  unfold State.flashRead
  repeat' first | with_reducible assumption | with_reducible apply State.setStep_keeps | with_reducible apply need_keeps
theorem State.showLife_keeps {s0 s : State} (h : Keeps s0 s) : Keeps s0 (State.showLife s) := by
  unfold State.showLife
  repeat' first | with_reducible assumption | with_reducible apply State.setReg_keeps | with_reducible apply State.setFld_keeps
theorem State.modFuse_keeps {s0 s : State} (f : FuseSt → FuseSt) (hf : fuseLe s.boot.fuse (f s.boot.fuse)) (h : Keeps s0 s) :
    Keeps s0 (State.modFuse s f) :=
  ⟨h.variant, h.pending, h.mem, fuseLe_trans h.fuse hf, h.free⟩
theorem FuseSt.base_of_life {b : BootSt} {k n : Nat} (hk : tokenFits k b.life = true) (h : (k = 1 ∧ n = 2) ∨ (k = 4 ∧ n = 3) ∨ (k = 5 ∧ n = 4)) :
    b.fuse.base ≤ n := by
  unfold BootSt.life FuseSt.baseState at hk
  rcases h with ⟨rfl, rfl⟩ | ⟨rfl, rfl⟩ | ⟨rfl, rfl⟩
  all_goals
    simp only [tokenFits, Bool.or_eq_true, beq_iff_eq] at hk
    split at hk
    · omega
    · split at hk <;> omega
theorem tokenFits_kind {k lc : Nat} (h : tokenFits k lc = true) : k = 1 ∨ k = 2 ∨ k = 3 ∨ k = 4 ∨ k = 5 := by
  unfold tokenFits at h
  split at h
  · exact .inl rfl
  · exact .inr (.inl rfl)
  · exact .inr (.inr (.inl rfl))
  · exact .inr (.inr (.inr (.inl rfl)))
  · exact .inr (.inr (.inr (.inr rfl)))
  · cases h
theorem fuseLe_base {f : FuseSt} {n : Nat} (h : f.base ≤ n) : fuseLe f { f with base := n } :=
  ⟨rfl, rfl, rfl, h, Nat.le_refl _, Nat.le_refl _, fun _ h => h⟩
theorem State.drawNonce_keeps {s0 s : State} (h : Keeps s0 s) : Keeps s0 (State.drawNonce s) := by
  unfold State.drawNonce
  repeat' first | with_reducible assumption | with_reducible apply State.setReg_keeps | with_reducible apply State.fresh_keeps | with_reducible refine Keeps.foldl ?_ (fun _ _ _ => ?_)
theorem State.countStart_keeps {s0 s : State} (h : Keeps s0 s) : Keeps s0 (State.countStart s) := by
  unfold State.countStart
  repeat' first | with_reducible assumption | with_reducible apply State.modFlash_keeps | with_reducible apply State.showStart_keeps
theorem State.stepRom_keeps {s0 s : State} (i : StartIn) (h : Keeps s0 s) : Keeps s0 (State.stepRom s i).1 := by
  unfold State.stepRom
  repeat' first | with_reducible assumption | with_reducible apply State.setStep_keeps | with_reducible apply State.setFld_keeps | with_reducible apply State.setRegBytes_keeps | with_reducible apply State.showLife_keeps | with_reducible apply State.countStart_keeps | with_reducible apply State.drawNonce_keeps | simp only [Keeps.updMk] | split
theorem State.lifeChanged_keeps {s0 s : State} (old : Nat) (h : Keeps s0 s) : Keeps s0 (State.lifeChanged s old) := by
  unfold State.lifeChanged
  repeat' first | with_reducible assumption | with_reducible apply State.raise_keeps
theorem State.serviceStart_keeps {s0 s : State} (h : Keeps s0 s) : Keeps s0 (State.serviceStart s) := by
  unfold State.serviceStart
  repeat' first | with_reducible assumption | with_reducible apply State.modFlash_keeps | with_reducible apply State.lifeChanged_keeps | split
theorem State.wipe_keeps {s0 s : State} (h : Keeps s0 s) : Keeps s0 (State.wipe s) := by
  unfold State.wipe
  repeat' first | with_reducible assumption | with_reducible apply State.modFlash_keeps | with_reducible apply State.bumpSat_keeps | with_reducible refine Keeps.foldl ?_ (fun _ _ _ => ?_) | simp only [Keeps.updMk]
theorem State.applyToken_keeps {s0 s : State} (h : Keeps s0 s) : Keeps s0 (State.applyToken s) := by
  unfold State.applyToken
  split
  · exact h
  · rename_i tok _
    dsimp only
    have hm := State.modFlash_keeps (fun f => { f with pendTok := none }) h
    split
    · exact hm
    · rename_i hn
      have hk : tokenFits (byteAt tok 4) s.boot.life = true := by
        cases hx : tokenFits (byteAt tok 4) s.boot.life with
        | true => rfl
        | false => exact absurd (.inl hx) hn
      refine State.lifeChanged_keeps _ ?_
      split
      · rename_i e
        rw [e] at hk
        exact State.modFuse_keeps _ (fuseLe_base (FuseSt.base_of_life hk (.inl ⟨rfl, rfl⟩))) hm
      · exact State.modFlash_keeps _ hm
      · exact State.modFlash_keeps _ hm
      · rename_i e
        rw [e] at hk
        exact State.wipe_keeps (State.modFlash_keeps _
          (State.modFuse_keeps _ (fuseLe_base (FuseSt.base_of_life hk (.inr (.inl ⟨rfl, rfl⟩)))) hm))
      · rename_i n1 n2 n3 n4
        have e : byteAt tok 4 = 5 := by
          rcases tokenFits_kind hk with e | e | e | e | e
          · exact absurd e n1
          · exact absurd e n2
          · exact absurd e n3
          · exact absurd e n4
          · exact e
        rw [e] at hk
        exact State.modFuse_keeps _ (fuseLe_base (FuseSt.base_of_life hk (.inr (.inr ⟨rfl, rfl⟩)))) hm
theorem State.revoke_keeps {s0 s : State} (mask : Nat) (h : Keeps s0 s) : Keeps s0 (State.revoke s mask) := by
  unfold State.revoke
  dsimp only
  split
  · exact h
  · refine State.raise_keeps _ _ _ (State.modFuse_keeps _ ?_ h)
    refine ⟨rfl, rfl, rfl, Nat.le_refl _, Nat.le_refl _, Nat.le_refl _, fun k hk => ?_⟩
    rw [Nat.testBit_or, hk, Bool.true_or]
theorem State.commitSvn_keeps {s0 s : State} (h : Keeps s0 s) : Keeps s0 (State.commitSvn s) := by
  unfold State.commitSvn
  dsimp only
  refine State.modFlash_keeps _ ?_
  have h1 : Keeps s0 (if s.boot.fuse.bootMin < s.boot.flash.svnBoot then
      (s.modFuse fun x => { x with bootMin := s.boot.flash.svnBoot }).raise 0x9008 (le1 1 ++ le2 s.boot.flash.svnBoot) else s) := by
    split
    · rename_i hb
      exact State.raise_keeps _ _ _ (State.modFuse_keeps _ ⟨rfl, rfl, rfl, Nat.le_refl _, Nat.le_of_lt hb, Nat.le_refl _, fun _ h => h⟩ h)
    · exact h
  refine Keeps.cut h1 ?_
  generalize (if s.boot.fuse.bootMin < s.boot.flash.svnBoot then
      (s.modFuse fun x => { x with bootMin := s.boot.flash.svnBoot }).raise 0x9008 (le1 1 ++ le2 s.boot.flash.svnBoot) else s) = t
  intro ht
  split
  · rename_i hb
    exact State.raise_keeps _ _ _ (State.modFuse_keeps _ ⟨rfl, rfl, rfl, Nat.le_refl _, Nat.le_refl _, Nat.le_of_lt hb, fun _ h => h⟩ ht)
  · exact ht
theorem State.takeConfig_keeps {s0 s : State} (i : StartIn) (b : Bool) (h : Keeps s0 s) : Keeps s0 (State.takeConfig s i b).1 := by
  unfold State.takeConfig
  repeat' first | with_reducible assumption | with_reducible apply State.applyToken_keeps | with_reducible apply State.setRegBytes_keeps | with_reducible apply State.showLife_keeps | with_reducible apply State.showStart_keeps | with_reducible apply State.serviceStart_keeps | with_reducible apply State.revoke_keeps | with_reducible apply State.commitSvn_keeps | with_reducible apply need_keeps | simp only [Keeps.updMk] | split
theorem State.stepConfig_keeps {s0 s : State} (i : StartIn) (h : Keeps s0 s) : Keeps s0 (State.stepConfig s i).1 := by
  unfold State.stepConfig
  repeat' first | with_reducible assumption | with_reducible apply State.bump_keeps | with_reducible apply State.setStep_keeps | with_reducible apply State.takeConfig_keeps | simp only [Keeps.updMk] | split
theorem State.firstScan_keeps {s0 s : State} (i : StartIn) (h : Keeps s0 s) : Keeps s0 (State.firstScan s i) := by
  unfold State.firstScan
  repeat' first | with_reducible assumption | with_reducible apply State.bump_keeps | with_reducible apply State.windowBand_keeps | with_reducible apply State.setBit_keeps | with_reducible apply State.readSensors_keeps | with_reducible refine Keeps.foldl ?_ (fun _ _ _ => ?_)
theorem State.diesUp_keeps {s0 s : State} (i : StartIn) (h : Keeps s0 s) : Keeps s0 (State.diesUp s i).1 := by
  unfold State.diesUp
  repeat' first | with_reducible assumption | refine @fun s0 s (h : Keeps s0 s) => ?_ | with_reducible apply State.setReg_keeps | with_reducible apply State.firstScan_keeps | with_reducible apply State.setBit_keeps | with_reducible apply need_keeps | with_reducible apply andThen_keeps | with_reducible apply need_keeps
theorem State.sparing_keeps {s0 s : State} (h : Keeps s0 s) : Keeps s0 (State.sparing s).1 := by
  unfold State.sparing
  repeat' first | with_reducible assumption | with_reducible apply State.modRow_keeps | with_reducible apply need_keeps | with_reducible apply need_keeps | with_reducible refine Keeps.foldl ?_ (fun _ _ _ => ?_)
theorem State.allocate_keeps {s0 s : State} (h : Keeps s0 s) : Keeps s0 (State.allocate s).1 := by
  unfold State.allocate
  repeat' first | with_reducible assumption | with_reducible apply State.setReg_keeps | with_reducible apply need_keeps | with_reducible apply need_keeps | with_reducible refine Keeps.foldl ?_ (fun _ _ _ => ?_)
theorem State.stepDies_keeps {s0 s : State} (i : StartIn) (h : Keeps s0 s) : Keeps s0 (State.stepDies s i).1 := by
  unfold State.stepDies
  repeat' first | with_reducible assumption | refine @fun s0 s (h : Keeps s0 s) => ?_ | with_reducible apply State.setReg_keeps | with_reducible apply State.setStep_keeps | with_reducible apply State.setFld_keeps | with_reducible apply State.diesUp_keeps | with_reducible apply State.sparing_keeps | with_reducible apply State.allocate_keeps | with_reducible apply andThen_keeps | split
theorem writeAll_keeps {α : Type} {f : State → α → Option State} (hf : ∀ {s0 s t : State} {a : α}, Keeps s0 s → f s a = some t → Keeps s0 t)
    {s0 s t : State} {l : List α} (h : Keeps s0 s) (e : writeAll f l s = some t) : Keeps s0 t := by
  induction l generalizing s with
  | nil => cases e; exact h
  | cons a l ih =>
    unfold writeAll at e
    split at e
    · cases e
    · rename_i e1
      exact ih (hf h e1) e
theorem State.bootField_keeps {s0 s t : State} {w : BootField} (h : Keeps s0 s) (e : s.bootField w = some t) : Keeps s0 t := by
  unfold State.bootField at e
  split at e
  · cases e
  · dsimp only at e
    repeat' split at e
    all_goals first | (cases e; exact State.setFld_keeps _ _ _ _ _ h) | cases e
theorem State.bootReg_keeps {s0 s t : State} {w : Bytes} (h : Keeps s0 s) (e : s.bootReg w = some t) : Keeps s0 t := by
  unfold State.bootReg at e
  dsimp only at e
  split at e
  · cases e
  · split at e
    · cases e
    · cases e
      have h1 : ∀ (l : List Nat) (a v : Nat), Keeps s0 (l.foldl (fun s k => s.setReg a k v) s) := fun l a v =>
        Keeps.foldl h fun s x hs => State.setReg_keeps _ _ _ hs
      split
      · exact Keeps.foldl (h1 _ _ _) fun s x hs => State.applyLive_keeps _ _ hs
      · exact h1 _ _ _
theorem State.writeConfig_keeps {s0 s t : State} {fp : Nat} {l : List Section} {c : Bytes} (h : Keeps s0 s) (e : s.writeConfig fp l c = some t) :
    Keeps s0 t := by
  unfold State.writeConfig at e
  split at e
  · cases e
  · rename_i e1
    exact writeAll_keeps State.bootReg_keeps (writeAll_keeps State.bootField_keeps h e1) e
theorem State.takeLists_keeps {s0 s : State} (l : List Section) (c : Bytes) (h : Keeps s0 s) : Keeps s0 (State.takeLists s l c) := by
  unfold State.takeLists
  repeat' first | with_reducible assumption | with_reducible apply State.setRegBytes_keeps | simp only [Keeps.updMk]
theorem State.stepProtect_keeps {s0 s : State} (h : Keeps s0 s) : Keeps s0 (State.stepProtect s).1 := by
  unfold State.stepProtect
  dsimp only
  split
  · exact State.setStep_keeps _ h
  · rename_i e
    have ht := State.takeLists_keeps s.sections s.boot.applied (State.writeConfig_keeps (State.setStep_keeps 5 h) e)
    dsimp only
    split
    · exact State.setBit_keeps _ _ _ ht
    · exact ht
theorem State.memtest_keeps {s0 s : State} (fail : Option (Nat × Nat × Nat)) (h : Keeps s0 s) : Keeps s0 (State.memtest s fail) := by
  unfold State.memtest
  repeat' first | with_reducible assumption | with_reducible apply State.writeRecord_keeps | with_reducible apply State.setBit_keeps | with_reducible apply State.raise_keeps | with_reducible apply State.fresh_keeps | simp only [Keeps.updMk] | split
theorem State.testMemory_keeps {s0 s : State} (i : StartIn) (h : Keeps s0 s) : Keeps s0 (State.testMemory s i).1 := by
  unfold State.testMemory
  repeat' first | with_reducible assumption | with_reducible apply State.memtest_keeps | simp only [Keeps.updMk] | split
theorem State.stepFirmware_keeps {s0 s : State} (h : Keeps s0 s) : Keeps s0 (State.stepFirmware s).1 := by
  unfold State.stepFirmware
  repeat' first | with_reducible assumption | with_reducible apply State.setStep_keeps | with_reducible apply State.setFld_keeps | with_reducible apply State.setRegBytes_keeps | simp only [Keeps.updMk] | split
theorem State.startModel_keeps {s0 s : State} (bad : List Nat) (e : Nat × ResidRec) (h : Keeps s0 s) : Keeps s0 (State.startModel s bad e) := by
  unfold State.startModel
  repeat' first | with_reducible assumption | with_reducible apply State.raise_keeps | with_reducible apply State.modModel_keeps | simp only [Keeps.updMk] | split
theorem State.startArrays_keeps {s0 s : State} (h : Keeps s0 s) : Keeps s0 (State.startArrays s) := by
  unfold State.startArrays
  repeat' first | with_reducible assumption | simp only [Keeps.updMk]
theorem State.stepWeights_keeps {s0 s : State} (i : StartIn) (h : Keeps s0 s) : Keeps s0 (State.stepWeights s i) := by
  unfold State.stepWeights
  repeat' first | with_reducible assumption | with_reducible apply State.startArrays_keeps | with_reducible apply State.rebuildGold_keeps | with_reducible apply State.startModel_keeps | with_reducible refine Keeps.foldl ?_ (fun _ _ _ => ?_) | simp only [Keeps.updMk]
theorem State.flushEarly_keeps {s0 s : State} (h : Keeps s0 s) : Keeps s0 (State.flushEarly s) := by
  unfold State.flushEarly
  repeat' first | with_reducible assumption | with_reducible apply State.pushEvent_keeps | with_reducible refine Keeps.foldl ?_ (fun _ _ _ => ?_) | simp only [Keeps.updMk]
theorem State.stepReady_keeps {s0 s : State} (ms : Nat) (h : Keeps s0 s) : Keeps s0 (State.stepReady s ms) := by
  unfold State.stepReady
  repeat' first | with_reducible assumption | with_reducible apply State.setReg_keeps | with_reducible apply State.modFlash_keeps | with_reducible apply State.setStep_keeps | with_reducible apply State.flushEarly_keeps | with_reducible apply State.raise_keeps | with_reducible apply State.svcRequest_keeps | with_reducible apply State.reportRecord_keeps | with_reducible apply State.setPower_keeps | with_reducible refine Keeps.foldl ?_ (fun _ _ _ => ?_) | simp only [Keeps.updMk] | split
theorem State.fallbackNet_keeps {s0 s : State} (h : Keeps s0 s) : Keeps s0 (State.fallbackNet s) := by
  unfold State.fallbackNet
  repeat' first | with_reducible assumption | with_reducible apply State.setReg_keeps | with_reducible apply State.setFld_keeps | with_reducible refine Keeps.foldl ?_ (fun _ _ _ => ?_) | split
theorem State.enterFallback_keeps {s0 s : State} (h : Keeps s0 s) : Keeps s0 (State.enterFallback s) := by
  unfold State.enterFallback
  repeat' first | with_reducible assumption | with_reducible apply State.fallbackNet_keeps | with_reducible apply State.setBit_keeps | with_reducible apply State.raise_keeps | with_reducible apply State.showLife_keeps | with_reducible apply State.setPin_keeps | with_reducible apply State.setPower_keeps | simp only [Keeps.updMk]
theorem State.afterFail_keeps {s0 s : State} (h : Keeps s0 s) : Keeps s0 (State.afterFail s) := by
  unfold State.afterFail
  repeat' first | with_reducible assumption | with_reducible apply State.enterFallback_keeps | with_reducible apply State.setPower_keeps | simp only [Keeps.updMk] | split
theorem State.failStart_keeps {s0 s : State} (reason : Nat) (detail : Nat) (h : Keeps s0 s) : Keeps s0 (State.failStart s reason detail) := by
  unfold State.failStart
  repeat' first | with_reducible assumption | with_reducible apply State.thermalLatch_keeps | with_reducible apply State.modFlash_keeps | with_reducible apply State.railsOff_keeps | with_reducible apply State.raise_keeps | with_reducible apply State.showStart_keeps | with_reducible apply State.afterFail_keeps | simp only [Keeps.updMk] | split
theorem State.earlySteps_keeps {s0 s : State} (i : StartIn) (h : Keeps s0 s) : Keeps s0 (State.earlySteps s i).1 := by
  have step : ∀ (n : Nat) {f : State → State × StartFail}, (∀ {s0 s : State}, Keeps s0 s → Keeps s0 (f s).1) → ∀ {s0 s : State}, Keeps s0 s →
      Keeps s0 (andThen (s.flashRead i n) f).1 := fun n _ hf _ _ h => andThen_keeps _ _ hf (State.flashRead_keeps i n h)
  unfold State.earlySteps
  exact andThen_keeps _ _ (fun h => andThen_keeps _ _ (fun h => andThen_keeps _ _ (fun h => step 6 (fun h => State.stepFirmware_keeps h) h)
    (step 5 (fun h => State.stepProtect_keeps h) h)) (step 4 (fun h => State.stepDies_keeps i h) h)) (step 3 (fun h => State.stepConfig_keeps i h) h)
theorem finish_keeps {s0 : State} (r : State × StartFail) (f : State → State)
    (hf : ∀ {s0 s : State}, Keeps s0 s → Keeps s0 (f s)) (h : Keeps s0 r.1) : Keeps s0 (finish r f) := by
  unfold finish
  split
  · exact State.failStart_keeps _ _ h
  · exact hf h
theorem State.startUp_keeps {s0 s : State} (i : StartIn) (h : Keeps s0 s) : Keeps s0 (State.startUp s i) := by
  unfold State.startUp
  repeat' first | with_reducible assumption | refine @fun s0 s (h : Keeps s0 s) => ?_ | with_reducible apply State.setStep_keeps | with_reducible apply State.stepWeights_keeps | with_reducible apply State.stepReady_keeps | with_reducible apply State.setPin_keeps | with_reducible apply State.enterFallback_keeps | with_reducible apply finish_keeps | with_reducible apply State.stepRom_keeps | with_reducible apply State.flashRead_keeps | with_reducible apply State.earlySteps_keeps | with_reducible apply State.testMemory_keeps | with_reducible apply andThen_keeps | simp only [Keeps.updMk] | split
theorem execPowerGood_keeps (i : StartIn) {s0 s : State} (h : Keeps s0 s) : KeepsOut s0 (execPowerGood i s) := by
  unfold execPowerGood
  repeat' first | with_reducible assumption | with_reducible apply KeepsOut.next | with_reducible apply State.off_keeps | with_reducible apply State.setPin_keeps | with_reducible apply State.startUp_keeps | split
theorem execStartTimeout_keeps {s0 s : State} (h : Keeps s0 s) : KeepsOut s0 (execStartTimeout s) := by
  unfold execStartTimeout
  repeat' first | with_reducible assumption | with_reducible apply KeepsOut.next | with_reducible apply State.failStart_keeps | split
theorem execFwStartTimeout_keeps {s0 s : State} (h : Keeps s0 s) : KeepsOut s0 (execFwStartTimeout s) := by
  unfold execFwStartTimeout
  repeat' first | with_reducible assumption | with_reducible apply KeepsOut.next | with_reducible apply State.failStart_keeps | split
theorem execStartRetryReset_keeps (i : StartIn) {s0 s : State} (h : Keeps s0 s) : KeepsOut s0 (execStartRetryReset i s) := by
  unfold execStartRetryReset
  repeat' first | with_reducible assumption | with_reducible apply KeepsOut.next | with_reducible apply State.off_keeps | with_reducible apply State.startUp_keeps | split
theorem execDelayedRestart_keeps (i : StartIn) {s0 s : State} (h : Keeps s0 s) : KeepsOut s0 (execDelayedRestart i s) := by
  unfold execDelayedRestart
  repeat' first | with_reducible assumption | with_reducible apply KeepsOut.next | with_reducible apply State.off_keeps | with_reducible apply State.setPin_keeps | with_reducible apply State.startUp_keeps | split
theorem execReady60s_keeps {s0 s : State} (h : Keeps s0 s) : KeepsOut s0 (execReady60s s) := by
  unfold execReady60s
  repeat' first | with_reducible assumption | with_reducible apply KeepsOut.next | with_reducible apply State.modFlash_keeps | with_reducible apply State.showStart_keeps | split

end Sys2Proof.Machine
end

