-- ==== Sys2Proof/Laws/KeepsCfgCmd.lean ====
section
/-! SUPPORT. What the operations of Machine/CfgCmd.lean keep: one lemma each, see Laws/Keeps.lean. -/

namespace Sys2Proof.Machine

theorem State.cfgBegin_keeps {s0 s : State} (op : Nat) (h : Keeps s0 s) : Keeps s0 (State.cfgBegin s op) := by
  unfold State.cfgBegin
  repeat' first | with_reducible assumption | with_reducible apply State.setReg_keeps
theorem State.cfgEnd_keeps {s0 s : State} (op : Nat) (r : Nat) (h : Keeps s0 s) : Keeps s0 (State.cfgEnd s op r) := by
  unfold State.cfgEnd
  repeat' first | with_reducible assumption | with_reducible apply State.setReg_keeps
theorem State.writeRegion_keeps {s0 s : State} (op : Nat) (v : Bytes) (h : Keeps s0 s) : Keeps s0 (State.writeRegion s op v) := by
  unfold State.writeRegion
  repeat' first | with_reducible assumption | with_reducible apply State.modFlash_keeps
theorem State.restartSoon_keeps {s0 s : State} (h : Keeps s0 s) : Keeps s0 (State.restartSoon s) := by
  unfold State.restartSoon
  repeat' first | with_reducible assumption | with_reducible apply State.modFlash_keeps | with_reducible apply State.showStart_keeps | simp only [Keeps.updMk]
theorem State.showStaged_keeps {s0 s : State} (body : Bytes) (h : Keeps s0 s) : Keeps s0 (State.showStaged s body) := by
  unfold State.showStaged
  repeat' first | with_reducible assumption | with_reducible apply State.setReg_keeps | with_reducible apply State.setReg64_keeps | with_reducible apply State.setBit_keeps
theorem State.clearStaged_keeps {s0 s : State} (h : Keeps s0 s) : Keeps s0 (State.clearStaged s) := by
  unfold State.clearStaged
  repeat' first | with_reducible assumption | with_reducible apply State.setReg_keeps | with_reducible apply State.setReg64_keeps | with_reducible apply State.clrBit_keeps
theorem execPushFetched_keeps (push : Bytes) (flashOk : Bool) {s0 s : State} (h : Keeps s0 s) : KeepsOut s0 (execPushFetched push flashOk s) := by
  unfold execPushFetched
  repeat' first | with_reducible assumption | with_reducible apply KeepsOut.next | with_reducible apply State.showStaged_keeps | with_reducible apply State.cfgEnd_keeps | with_reducible apply State.restartSoon_keeps | with_reducible apply State.writeRegion_keeps | with_reducible apply State.raise_keeps | with_reducible apply State.clearStaged_keeps | simp only [Keeps.updMk] | split
theorem State.takeToken_keeps {s0 s : State} (t : Option Bytes) (h : Keeps s0 s) : Keeps s0 (State.takeToken s t) := by
  unfold State.takeToken
  repeat' first | with_reducible assumption | with_reducible apply State.modFlash_keeps | with_reducible apply State.cfgEnd_keeps | with_reducible apply State.raise_keeps | with_reducible apply State.showStart_keeps | simp only [Keeps.updMk] | split
theorem State.discard_keeps {s0 s : State} (h : Keeps s0 s) : Keeps s0 (State.discard s) := by
  unfold State.discard
  repeat' first | with_reducible assumption | with_reducible apply State.cfgEnd_keeps | with_reducible apply State.writeRegion_keeps | with_reducible apply State.clearStaged_keeps | split
theorem State.revertCopy_keeps {s0 s : State} (h : Keeps s0 s) : Keeps s0 (State.revertCopy s) := by
  unfold State.revertCopy
  repeat' first | with_reducible assumption | with_reducible apply State.modFlash_keeps | with_reducible apply State.cfgEnd_keeps | with_reducible apply State.restartSoon_keeps | simp only [Keeps.updMk] | split
theorem State.cfgCommand_keeps {s0 s : State} (ctx : Nat) (op : Nat) (h : Keeps s0 s) : Keeps s0 (State.cfgCommand s ctx op) := by
  unfold State.cfgCommand
  repeat' first | with_reducible assumption | with_reducible apply State.cfgEnd_keeps | with_reducible apply State.setRegBytes_keeps | with_reducible apply State.revertCopy_keeps | with_reducible apply State.cfgBegin_keeps | with_reducible apply State.restartSoon_keeps | with_reducible apply State.discard_keeps | with_reducible apply State.send_keeps | split
theorem State.answer_keeps {s0 s : State} (op : Nat) (req : Bytes) (body : Bytes) (h : Keeps s0 s) : Keeps s0 (State.answer s op req body) := by
  unfold State.answer
  repeat' first | with_reducible assumption | with_reducible apply State.send_keeps | simp only [Keeps.updMk] | split
theorem execFallbackStatus_keeps (req : Bytes) {s0 s : State} (h : Keeps s0 s) : KeepsOut s0 (execFallbackStatus req s) := by
  unfold execFallbackStatus
  repeat' first | with_reducible assumption | with_reducible apply KeepsOut.next | with_reducible apply State.answer_keeps
theorem execFallbackLog_keeps (req : Bytes) {s0 s : State} (h : Keeps s0 s) : KeepsOut s0 (execFallbackLog req s) := by
  unfold execFallbackLog
  repeat' first | with_reducible assumption | with_reducible apply KeepsOut.next | with_reducible apply State.answer_keeps

end Sys2Proof.Machine
end

