-- ==== Sys2Proof/Laws/KeepsCtl.lean ====
section
/-! SUPPORT. What the operations of Machine/Ctl.lean keep: one lemma each, see Laws/Keeps.lean. -/

namespace Sys2Proof.Machine

theorem execCtlNop_keeps (t : BitVec 12) (n : BitVec 12) {s0 s : State} (h : Keeps s0 s) : KeepsOut s0 (execCtlNop t n s) := by
  unfold execCtlNop
  repeat' first | with_reducible assumption | refine instr_keeps (fun _ _ _ => ?_) (by with_reducible assumption) | with_reducible apply IssueKeeps.of | with_reducible exact WaitKeeps.none | with_reducible refine WaitKeeps.some ?_ | with_reducible apply Keeps.idk | refine @fun s0 s (h : Keeps s0 s) => ?_ | with_reducible apply State.modSpin_keeps | with_reducible apply State.slotsOf_keeps | with_reducible apply State.progress_keeps | split
theorem execCtlLoop_keeps (t : BitVec 12) (count : BitVec 16) (body : BitVec 12) {s0 s : State} (h : Keeps s0 s) : KeepsOut s0 (execCtlLoop t count body s) := by
  unfold execCtlLoop
  repeat' first | with_reducible assumption | refine instr_keeps (fun _ _ _ => ?_) (by with_reducible assumption) | with_reducible apply IssueKeeps.of | with_reducible exact WaitKeeps.none | with_reducible apply Keeps.idk | refine @fun s0 s (h : Keeps s0 s) => ?_ | with_reducible apply State.modSpin_keeps
theorem execCtlSkip_keeps (t : BitVec 12) (f : SkipF) {s0 s : State} (h : Keeps s0 s) : KeepsOut s0 (execCtlSkip t f s) := by
  unfold execCtlSkip
  repeat' first | with_reducible assumption | refine instr_keeps (fun _ _ _ => ?_) (by with_reducible assumption) | with_reducible apply IssueKeeps.of | with_reducible exact WaitKeeps.none | with_reducible apply Keeps.idk | refine @fun s0 s (h : Keeps s0 s) => ?_ | with_reducible apply State.modSpin_keeps
theorem execCtlXset_keeps (t : BitVec 12) (xd : BitVec 4) (imm : Word) {s0 s : State} (h : Keeps s0 s) : KeepsOut s0 (execCtlXset t xd imm s) := by
  unfold execCtlXset
  repeat' first | with_reducible assumption | refine instr_keeps (fun _ _ _ => ?_) (by with_reducible assumption) | with_reducible apply IssueKeeps.of | with_reducible exact WaitKeeps.none | with_reducible apply Keeps.idk | refine @fun s0 s (h : Keeps s0 s) => ?_ | with_reducible apply State.modSpin_keeps
theorem execCtlXadd_keeps (t : BitVec 12) (xd : BitVec 4) (xa : BitVec 4) (imm : Word) {s0 s : State} (h : Keeps s0 s) : KeepsOut s0 (execCtlXadd t xd xa imm s) := by
  unfold execCtlXadd
  repeat' first | with_reducible assumption | refine instr_keeps (fun _ _ _ => ?_) (by with_reducible assumption) | with_reducible apply IssueKeeps.of | with_reducible exact WaitKeeps.none | with_reducible apply Keeps.idk | refine @fun s0 s (h : Keeps s0 s) => ?_ | with_reducible apply State.modSpin_keeps
theorem execCtlXld_keeps (t : BitVec 12) (xd : BitVec 4) (lop : Lop) (word : BitVec 4) {s0 s : State} (h : Keeps s0 s) : KeepsOut s0 (execCtlXld t xd lop word s) := by
  unfold execCtlXld
  repeat' first | with_reducible assumption | refine instr_keeps (fun _ _ _ => ?_) (by with_reducible assumption) | with_reducible apply IssueKeeps.of | with_reducible exact WaitKeeps.none | with_reducible apply Keeps.idk | refine @fun s0 s (h : Keeps s0 s) => ?_ | with_reducible apply State.countO_keeps | with_reducible apply State.modSpin_keeps
theorem execCtlXent_keeps (t : BitVec 12) (xd : BitVec 4) (ent : Ent) (field : BitVec 4) {s0 s : State} (h : Keeps s0 s) : KeepsOut s0 (execCtlXent t xd ent field s) := by
  unfold execCtlXent
  repeat' first | with_reducible assumption | refine instr_keeps (fun _ _ _ => ?_) (by with_reducible assumption) | with_reducible apply IssueKeeps.of | with_reducible exact WaitKeeps.none | with_reducible apply Keeps.idk | refine @fun s0 s (h : Keeps s0 s) => ?_ | with_reducible apply State.modSpin_keeps
theorem execPwrDecl_keeps (t : BitVec 12) (tokens : BitVec 12) {s0 s : State} (h : Keeps s0 s) : KeepsOut s0 (execPwrDecl t tokens s) := by
  unfold execPwrDecl
  repeat' first | with_reducible assumption | refine instr_keeps (fun _ _ _ => ?_) (by with_reducible assumption) | with_reducible apply IssueKeeps.of | with_reducible exact WaitKeeps.none | with_reducible apply Keeps.idk | refine @fun s0 s (h : Keeps s0 s) => ?_ | with_reducible apply State.modSpin_keeps
theorem execPwrWaitwin_keeps (t : BitVec 12) {s0 s : State} (h : Keeps s0 s) : KeepsOut s0 (execPwrWaitwin t s) := by
  unfold execPwrWaitwin
  repeat' first | with_reducible assumption | refine instr_keeps (fun _ _ _ => ?_) (by with_reducible assumption) | with_reducible apply IssueKeeps.of | with_reducible exact WaitKeeps.none | with_reducible refine WaitKeeps.some ?_ | with_reducible apply Keeps.idk | refine @fun s0 s (h : Keeps s0 s) => ?_ | with_reducible apply State.modSpin_keeps | split
theorem execSyncStep_keeps (t : BitVec 12) {s0 s : State} (h : Keeps s0 s) : KeepsOut s0 (execSyncStep t s) := by
  unfold execSyncStep
  repeat' first | with_reducible assumption | refine instr_keeps (fun _ _ _ => ?_) (by with_reducible assumption) | with_reducible apply IssueKeeps.of | with_reducible exact WaitKeeps.none | with_reducible refine WaitKeeps.some ?_ | with_reducible apply Keeps.idk | refine @fun s0 s (h : Keeps s0 s) => ?_ | with_reducible apply State.countO_keeps | with_reducible apply State.modSpin_keeps | split
theorem execSyncMile_keeps (t : BitVec 12) {s0 s : State} (h : Keeps s0 s) : KeepsOut s0 (execSyncMile t s) := by
  unfold execSyncMile
  repeat' first | with_reducible assumption | refine instr_keeps (fun _ _ _ => ?_) (by with_reducible assumption) | with_reducible apply IssueKeeps.of | with_reducible exact WaitKeeps.none | with_reducible exact WaitKeeps.waits _ _ | with_reducible apply Keeps.idk | refine @fun s0 s (h : Keeps s0 s) => ?_ | with_reducible apply State.modSpin_keeps | split
theorem State.emitRecord_keeps {s0 s : State} (p : Nat) (e : Nat) (rkind : Nat) (bs : Bytes) (h : Keeps s0 s) : Keeps s0 (State.emitRecord s p e rkind bs) := by
  unfold State.emitRecord
  repeat' first | with_reducible assumption | with_reducible apply State.modServPart_keeps | with_reducible apply State.bump_keeps | simp only [Keeps.updMk] | split
theorem execSyncEmit_keeps (t : BitVec 12) (f : EmitF) {s0 s : State} (h : Keeps s0 s) : KeepsOut s0 (execSyncEmit t f s) := by
  unfold execSyncEmit
  repeat' first | with_reducible assumption | refine instr_keeps (fun _ _ _ => ?_) (by with_reducible assumption) | with_reducible exact State.shareWait_waits _ _ _ | with_reducible apply IssueKeeps.of | with_reducible exact WaitKeeps.none | with_reducible apply Keeps.idk | refine @fun s0 s (h : Keeps s0 s) => ?_ | with_reducible apply State.carry_keeps | with_reducible apply State.bump_keeps | with_reducible apply State.countO_keeps | with_reducible apply State.emitRecord_keeps | simp only [Keeps.updMk] | split

end Sys2Proof.Machine
end

