-- ==== Sys2Proof/Laws/KeepsCtx.lean ====
section
/-! SUPPORT. What the operations of Machine/Ctx.lean keep: one lemma each, see Laws/Keeps.lean. -/

namespace Sys2Proof.Machine

theorem Spindle.ctxWait_waits (sp : Spindle) : WaitKeeps sp.ctxWait := WaitKeeps.ite (WaitKeeps.waits _ _) WaitKeeps.none
theorem execCtxPut_keeps (t : BitVec 12) (f : PutF) {s0 s : State} (h : Keeps s0 s) : KeepsOut s0 (execCtxPut t f s) := by
  unfold execCtxPut
  repeat' first | with_reducible assumption | refine instr_keeps (fun _ _ _ => ?_) (by with_reducible assumption) | with_reducible exact State.shareWait_waits _ _ _ | with_reducible apply IssueKeeps.of | with_reducible apply Keeps.idk | refine @fun s0 s (h : Keeps s0 s) => ?_ | with_reducible apply State.countO_keeps | with_reducible apply State.putToken_keeps | with_reducible apply State.carryAll_keeps
theorem State.request_keeps {s0 s : State} (p : Nat) (t : Nat) (line : Nat) (bs : Bytes) (src : List Nat) (h : Keeps s0 s) : Keeps s0 (State.request s p t line bs src) := by
  unfold State.request
  repeat' first | with_reducible assumption | with_reducible apply State.bump_keeps | with_reducible apply State.countO_keeps | with_reducible apply State.modSpin_keeps | with_reducible apply State.passPoints_keeps | with_reducible apply State.countRoute_keeps
theorem execCtxGet_keeps (t : BitVec 12) (f : GetF) {s0 s : State} (h : Keeps s0 s) : KeepsOut s0 (execCtxGet t f s) := by
  unfold execCtxGet
  repeat' first | with_reducible assumption | refine instr_keeps (fun _ _ _ => ?_) (by with_reducible assumption) | with_reducible exact Spindle.ctxWait_waits _ | with_reducible apply IssueKeeps.of | with_reducible apply Keeps.idk | refine @fun s0 s (h : Keeps s0 s) => ?_ | with_reducible apply State.request_keeps
theorem execCtxAttn_keeps (t : BitVec 12) (f : AttnF) {s0 s : State} (h : Keeps s0 s) : KeepsOut s0 (execCtxAttn t f s) := by
  unfold execCtxAttn
  repeat' first | with_reducible assumption | refine instr_keeps (fun _ _ _ => ?_) (by with_reducible assumption) | with_reducible apply IssueKeeps.of | with_reducible exact WaitKeeps.none | with_reducible apply Keeps.idk | refine @fun s0 s (h : Keeps s0 s) => ?_ | with_reducible apply State.countO_keeps | with_reducible apply State.modSpin_keeps
theorem execCtxXget_keeps (t : BitVec 12) (f : XferF) {s0 s : State} (h : Keeps s0 s) : KeepsOut s0 (execCtxXget t f s) := by
  unfold execCtxXget
  repeat' first | with_reducible assumption | refine instr_keeps (fun _ _ _ => ?_) (by with_reducible assumption) | with_reducible exact Spindle.ctxWait_waits _ | with_reducible apply IssueKeeps.of | with_reducible apply Keeps.idk | refine @fun s0 s (h : Keeps s0 s) => ?_ | with_reducible apply State.request_keeps
theorem execCtxXput_keeps (t : BitVec 12) (f : XferF) {s0 s : State} (h : Keeps s0 s) : KeepsOut s0 (execCtxXput t f s) := by
  unfold execCtxXput
  repeat' first | with_reducible assumption | refine instr_keeps (fun _ _ _ => ?_) (by with_reducible assumption) | with_reducible exact State.shareWait_waits _ _ _ | with_reducible apply IssueKeeps.of | with_reducible exact WaitKeeps.waits _ _ | with_reducible apply Keeps.idk | refine @fun s0 s (h : Keeps s0 s) => ?_ | with_reducible apply State.countO_keeps | with_reducible apply State.usePort_keeps | with_reducible apply State.stackWrite_keeps | with_reducible apply State.carryAll_keeps | with_reducible apply State.send_keeps | split
theorem State.landOn_keeps {s0 s : State} (t : Nat) (unit : Nat) (h : Keeps s0 s) : Keeps s0 (State.landOn s t unit) := by
  unfold State.landOn
  repeat' first | with_reducible assumption | with_reducible apply State.modUnitSend_keeps | with_reducible apply State.modSpin_keeps | split
theorem State.land_keeps {s0 s : State} (p : Nat) (t : Nat) (l : LandP) (ls : List LandP) (h : Keeps s0 s) : Keeps s0 (State.land s p t l ls) := by
  unfold State.land
  repeat' first | with_reducible assumption | with_reducible apply State.carry_keeps | with_reducible apply State.countO_keeps | with_reducible apply State.modSpin_keeps | with_reducible apply State.landOn_keeps | with_reducible apply State.writeLines_keeps
theorem execCtxLanding_keeps (t : BitVec 12) {s0 s : State} (h : Keeps s0 s) : KeepsOut s0 (execCtxLanding t s) := by
  unfold execCtxLanding
  repeat' first | with_reducible assumption | exact True.intro | with_reducible apply KeepsOut.next | with_reducible apply State.land_keeps | with_reducible apply State.countShareWait_keeps | split

end Sys2Proof.Machine
end

