-- ==== Sys2Proof/Laws/KeepsIntegrity.lean ====
section
/-! SUPPORT. What the operations of Machine/Integrity.lean keep: one lemma each, see Laws/Keeps.lean. -/

namespace Sys2Proof.Machine

theorem State.inPlace_keeps {s0 s : State} (p : Nat) (t : Nat) (tr : Trigger) (kind : Nat) (detail : Nat) (h : Keeps s0 s) : Keeps s0 (State.inPlace s p t tr kind detail) := by
  unfold State.inPlace
  repeat' first | with_reducible assumption | with_reducible apply State.abandonStep_keeps | with_reducible apply State.beginRerun_keeps | with_reducible apply State.suspect_keeps | with_reducible apply State.modPart_keeps | simp only [Keeps.updMk] | split
theorem State.addReplay_keeps {s0 s : State} (p : Nat) (t : Nat) (r : HoldRec) (shadow : Option (List Word)) (detail : Nat) (h : Keeps s0 s) : Keeps s0 (State.addReplay s p t r shadow detail) := by
  unfold State.addReplay
  repeat' first | with_reducible assumption | with_reducible apply State.modSpin_keeps | with_reducible apply State.inPlace_keeps | simp only [Keeps.updMk] | split
theorem State.passDetected_keeps {s0 s : State} (p : Nat) (t : Nat) (d : Detection) (r : Option HoldRec) (addr : Nat) (occ : Nat) (h : Keeps s0 s) : Keeps s0 (State.passDetected s p t d r addr occ) := by
  unfold State.passDetected
  repeat' first | with_reducible assumption | with_reducible apply State.bump_keeps | with_reducible apply State.abandonStep_keeps | with_reducible apply State.addReplay_keeps | with_reducible apply State.inPlace_keeps | simp only [Keeps.updMk] | split
theorem State.parityDetected_keeps {s0 s : State} (p : Nat) (t : Nat) (line : Nat) (h : Keeps s0 s) : Keeps s0 (State.parityDetected s p t line) := by
  unfold State.parityDetected
  repeat' first | with_reducible assumption | with_reducible apply State.raiseIn_keeps | with_reducible apply State.abandonStep_keeps | with_reducible apply State.inPlace_keeps | split
theorem execIntegrityDetection_keeps (t : BitVec 12) (d : Detection) {s0 s : State} (h : Keeps s0 s) : KeepsOut s0 (execIntegrityDetection t d s) := by
  unfold execIntegrityDetection
  repeat' first | with_reducible assumption | exact True.intro | with_reducible apply KeepsOut.next | with_reducible apply KeepsOut.ite | with_reducible apply State.bump_keeps | with_reducible apply State.countO_keeps | with_reducible apply State.setBit_keeps | with_reducible apply State.passDetected_keeps | with_reducible apply State.suspect_keeps | with_reducible apply State.inPlace_keeps | with_reducible apply State.modPart_keeps | with_reducible apply State.parityDetected_keeps | simp only [Keeps.updMk] | split
theorem State.warpAgain_keeps {s0 s : State} (p : Nat) (t : Nat) (phys : Nat) (idx : Nat) (r : HoldRec) (an : WarpAnalog) (key0 : Nat) (cap : Nat) (epoch : Nat) (band0 : Nat) (h : Keeps s0 s) : Keeps s0 (State.warpAgain s p t phys idx r an key0 cap epoch band0).2 := by
  unfold State.warpAgain
  repeat' first | with_reducible assumption | with_reducible apply State.bump_keeps | with_reducible apply State.setBit_keeps | with_reducible apply State.warpRan_keeps | simp only [Keeps.updMk] | split
theorem State.runAgain_keeps {s0 s : State} (p : Nat) (t : Nat) (r : HoldRec) (an : WarpAnalog) (wn : WeftAnalog) (h : Keeps s0 s) : Keeps s0 (State.runAgain s p t r an wn).2 := by
  unfold State.runAgain
  repeat' first | with_reducible assumption | with_reducible apply State.bump_keeps | with_reducible apply State.weftRan_keeps | with_reducible apply State.warpAgain_keeps | split
theorem execReplayStart_keeps (r : ReplayBegin) {s0 s : State} (h : Keeps s0 s) : KeepsOut s0 (execReplayStart r s) := by
  unfold execReplayStart
  repeat' first | with_reducible assumption | exact True.intro | with_reducible apply KeepsOut.next | with_reducible apply State.bump_keeps | with_reducible apply State.countO_keeps | with_reducible apply State.modSpin_keeps | with_reducible apply State.toRestore_keeps | with_reducible apply State.wasteSlot_keeps | simp only [Keeps.updMk] | split
theorem execReplayDecide_keeps (t : BitVec 12) (clean : Bool) (a : WarpAnalog) (w : WeftAnalog) {s0 s : State} (h : Keeps s0 s) : KeepsOut s0 (execReplayDecide t clean a w s) := by
  unfold execReplayDecide
  repeat' first | with_reducible assumption | exact True.intro | with_reducible apply KeepsOut.next | with_reducible apply State.bump_keeps | with_reducible apply State.modSpin_keeps | with_reducible apply State.replayDisagree_keeps | with_reducible apply State.runAgain_keeps | simp only [Keeps.updMk] | split
theorem execShadowPass_keeps (t : BitVec 12) (a : WarpAnalog) {s0 s : State} (h : Keeps s0 s) : KeepsOut s0 (execShadowPass t a s) := by
  unfold execShadowPass
  repeat' first | with_reducible assumption | exact True.intro | with_reducible apply KeepsOut.next | with_reducible apply State.bump_keeps | with_reducible apply State.setBit_keeps | with_reducible apply State.addReplay_keeps | with_reducible apply State.modWarp_keeps | with_reducible apply State.modPart_keeps | with_reducible apply State.warpAgain_keeps | simp only [Keeps.updMk] | split
theorem State.disputeB_keeps {s0 s : State} (p : Nat) (t : Nat) (key : Nat) (h : Keeps s0 s) : Keeps s0 (State.disputeB s p t key) := by
  unfold State.disputeB
  repeat' first | with_reducible assumption | with_reducible apply State.beginRerun_keeps | with_reducible apply State.modWarp_keeps | with_reducible apply State.suspect_keeps | with_reducible apply State.svcRequest_keeps | simp only [Keeps.updMk] | split
theorem execShadowDispute_keeps (t : BitVec 12) (clean : Bool) (a : WarpAnalog) {s0 s : State} (h : Keeps s0 s) : KeepsOut s0 (execShadowDispute t clean a s) := by
  unfold execShadowDispute
  repeat' first | with_reducible assumption | exact True.intro | with_reducible apply KeepsOut.next | with_reducible apply State.modSpin_keeps | with_reducible apply State.raiseIn_keeps | with_reducible apply State.beginRerun_keeps | with_reducible apply State.replayDisagree_keeps | with_reducible apply State.disputeB_keeps | with_reducible apply State.runAgain_keeps | simp only [Keeps.updMk] | split
theorem State.copyImage_keeps {s0 s : State} (src : Nat) (i : Nat) (c : CopyCheck) (h : Keeps s0 s) : Keeps s0 (State.copyImage s src i c).2 := by
  unfold State.copyImage
  repeat' first | with_reducible assumption | with_reducible apply State.requestFix_keeps | simp only [Keeps.updMk] | split
theorem State.copyWrite_keeps {s0 s : State} (src : Nat) (spare : Nat) (i : Nat) (img : Bytes) (ok : Bool) (h : Keeps s0 s) : Keeps s0 (State.copyWrite s src spare i img ok).2 := by
  unfold State.copyWrite
  repeat' first | with_reducible assumption | with_reducible apply State.failArray_keeps | with_reducible apply State.modWarp_keeps | with_reducible apply State.countWrite_keeps | with_reducible apply State.wornOut_keeps | split
theorem State.copyImages_keeps {s0 s : State} (src : Nat) (spare : Nat) (cs : List CopyCheck) (h : Keeps s0 s) : Keeps s0 (State.copyImages s src spare cs).2 := by
  unfold State.copyImages
  repeat' first | with_reducible assumption | with_reducible apply State.copyWrite_keeps | with_reducible apply State.copyImage_keeps | with_reducible refine Keeps.foldl_snd ?_ (fun _ _ _ => ?_) | simp only [Keeps.updMk] | split | refine Keeps.snd (by with_reducible assumption) ?_
theorem execMirrorAdvance_keeps (half : Bool) (c : MirrorCopy) {s0 s : State} (h : Keeps s0 s) : KeepsOut s0 (execMirrorAdvance half c s) := by
  unfold execMirrorAdvance
  repeat' first | with_reducible assumption | with_reducible apply KeepsOut.next | with_reducible apply State.modRow_keeps | with_reducible apply State.modWarp_keeps | with_reducible apply State.copyImages_keeps | with_reducible refine Keeps.foldl ?_ (fun _ _ _ => ?_) | split
theorem State.resetUnits_keeps {s0 s : State} (ts : List Nat) (h : Keeps s0 s) : Keeps s0 (State.resetUnits s ts) := by
  unfold State.resetUnits
  repeat' first | with_reducible assumption | with_reducible apply State.modUnitSend_keeps | with_reducible apply State.freeIngress_keeps | with_reducible refine Keeps.foldl ?_ (fun _ _ _ => ?_)
theorem State.resume_keeps {s0 s : State} (p : Nat) (r : Rerun) (h : Keeps s0 s) : Keeps s0 (State.resume s p r) := by
  unfold State.resume
  repeat' first | with_reducible assumption | with_reducible apply State.setReg_keeps | with_reducible apply State.modServPart_keeps | with_reducible apply State.bump_keeps | with_reducible apply State.countO_keeps | with_reducible apply State.modSpin_keeps | with_reducible apply State.setBit_keeps | with_reducible apply State.raiseIn_keeps | with_reducible apply State.resetUnits_keeps | with_reducible apply State.modPart_keeps | with_reducible apply State.sendIntake_keeps | with_reducible refine Keeps.foldl ?_ (fun _ _ _ => ?_) | simp only [Keeps.updMk] | split
theorem execRerunDrained_keeps (p : BitVec 4) {s0 s : State} (h : Keeps s0 s) : KeepsOut s0 (execRerunDrained p s) := by
  unfold execRerunDrained
  repeat' first | with_reducible assumption | with_reducible apply KeepsOut.next | with_reducible apply State.modSpin_keeps | with_reducible apply State.resume_keeps | with_reducible apply State.modPart_keeps | with_reducible refine Keeps.foldl ?_ (fun _ _ _ => ?_) | split
theorem State.prepareStandIn_keeps {s0 s : State} (t : Nat) (cs : List CopyCheck) (h : Keeps s0 s) : Keeps s0 (State.prepareStandIn s t cs).2 := by
  unfold State.prepareStandIn
  repeat' first | with_reducible assumption | with_reducible apply State.modRow_keeps | with_reducible apply State.modWeft_keeps | with_reducible apply State.copyImages_keeps | simp only [Keeps.updMk] | split
theorem execStandinReady_keeps (c : StandInCopy) {s0 s : State} (h : Keeps s0 s) : KeepsOut s0 (execStandinReady c s) := by
  unfold execStandinReady
  repeat' first | with_reducible assumption | with_reducible apply KeepsOut.next | with_reducible apply State.resume_keeps | with_reducible apply State.modPart_keeps | with_reducible apply State.prepareStandIn_keeps | simp only [Keeps.updMk] | split
theorem State.takeMargin_keeps {s0 s : State} (u : BareUnit) (h : Keeps s0 s) : Keeps s0 (State.takeMargin s u) := by
  unfold State.takeMargin
  repeat' first | with_reducible assumption | with_reducible apply State.raise_keeps | with_reducible apply State.modBare_keeps | with_reducible apply State.suspect_keeps | simp only [Keeps.updMk] | split
theorem execIxcRetryLimit_keeps (u : BareUnit) {s0 s : State} (h : Keeps s0 s) : KeepsOut s0 (execIxcRetryLimit u s) := by
  unfold execIxcRetryLimit
  repeat' first | with_reducible assumption | exact True.intro | with_reducible apply KeepsOut.next | with_reducible apply State.setBit_keeps | with_reducible apply State.raise_keeps | with_reducible apply State.takeMargin_keeps | simp only [Keeps.updMk] | split
theorem execMarginRaiseObserved_keeps (u : BareUnit) (exceeded : Bool) {s0 s : State} (h : Keeps s0 s) : KeepsOut s0 (execMarginRaiseObserved u exceeded s) := by
  unfold execMarginRaiseObserved
  repeat' first | with_reducible assumption | exact True.intro | with_reducible apply KeepsOut.next | with_reducible apply State.modBare_keeps | with_reducible apply State.takeMargin_keeps | split
theorem execStackPhyParityError_keeps (stack : BitVec 2) {s0 s : State} (h : Keeps s0 s) : KeepsOut s0 (execStackPhyParityError stack s) := by
  unfold execStackPhyParityError
  repeat' first | with_reducible assumption | exact True.intro | with_reducible apply KeepsOut.next | with_reducible apply State.modBare_keeps | with_reducible apply State.takeMargin_keeps | simp only [Keeps.updMk] | split

end Sys2Proof.Machine
end

