-- ==== Sys2Proof/Laws/KeepsMov.lean ====
section
/-! SUPPORT. What the operations of Machine/Mov.lean keep: one lemma each, see Laws/Keeps.lean. -/

namespace Sys2Proof.Machine

theorem State.sendFlit_keeps {s0 s : State} (p : Nat) (t : Nat) (ch : Nat) (kind : Nat) (fmt : Nat) (tag : Nat) (payload : Bytes) (h : Keeps s0 s) : Keeps s0 (State.sendFlit s p t ch kind fmt tag payload) := by
  unfold State.sendFlit
  repeat' first | with_reducible assumption | with_reducible apply State.modSpin_keeps | with_reducible apply State.launch_keeps | with_reducible apply State.holdEgress_keeps | simp only [Keeps.updMk] | split
theorem State.sendAll_keeps {s0 s : State} (p : Nat) (t : Nat) (ch : Nat) (kind : Nat) (fmt : Nat) (tag : Nat) (ps : List Bytes) (h : Keeps s0 s) : Keeps s0 (State.sendAll s p t ch kind fmt tag ps) := by
  unfold State.sendAll
  repeat' first | with_reducible assumption | with_reducible apply State.sendFlit_keeps | with_reducible refine Keeps.foldl ?_ (fun _ _ _ => ?_)
theorem Spindle.recvWait_waits (sp : Spindle) (ch : Nat) : WaitKeeps (sp.recvWait ch) := WaitKeeps.ite (WaitKeeps.waits _ _) WaitKeeps.none
theorem State.sendIssue_issue {s : State} {p t : Nat} {f : MovF} {kind fmt : Nat} {ps : List Bytes} {i : Issue} (hi : IssueKeeps i) :
    IssueKeeps (s.sendIssue p t f kind fmt ps i) := by
  unfold State.sendIssue
  dsimp only
  refine ⟨fun h => hi.eff (State.sendAll_keeps _ _ _ _ _ _ _ h), hi.post, WaitKeeps.ite (WaitKeeps.some fun h => ?_) WaitKeeps.none⟩
  exact State.modSpin_keeps _ _ (State.sendAll_keeps _ _ _ _ _ _ _ h)
theorem execMovSend_keeps (t : BitVec 12) (f : MovF) {s0 s : State} (h : Keeps s0 s) : KeepsOut s0 (execMovSend t f s) := by
  unfold execMovSend
  repeat' first | with_reducible assumption | refine instr_keeps (fun _ _ _ => ?_) (by with_reducible assumption) | with_reducible apply State.sendIssue_issue | with_reducible apply IssueKeeps.of | with_reducible exact WaitKeeps.none | with_reducible apply Keeps.idk | refine @fun s0 s (h : Keeps s0 s) => ?_ | with_reducible apply State.countO_keeps
theorem execMovSendv_keeps (t : BitVec 12) (f : MovF) {s0 s : State} (h : Keeps s0 s) : KeepsOut s0 (execMovSendv t f s) := by
  unfold execMovSendv
  repeat' first | refine instr_keeps (fun _ _ _ => ?_) (by with_reducible assumption) | with_reducible apply State.sendIssue_issue | with_reducible apply IssueKeeps.of | with_reducible exact WaitKeeps.none | with_reducible apply Keeps.idk
theorem execTokPost_keeps (t : BitVec 12) (f : MovF) {s0 s : State} (h : Keeps s0 s) : KeepsOut s0 (execTokPost t f s) := by
  unfold execTokPost
  repeat' first | refine instr_keeps (fun _ _ _ => ?_) (by with_reducible assumption) | with_reducible apply State.sendIssue_issue | with_reducible apply IssueKeeps.of | with_reducible exact WaitKeeps.none | with_reducible apply Keeps.idk
theorem State.takeFlit_keeps {s0 s : State} (p : Nat) (t : Nat) (k : Nat) (r : RecvP) (f : Flit) (h : Keeps s0 s) : Keeps s0 (State.takeFlit s p t k r f) := by
  unfold State.takeFlit
  repeat' first | with_reducible assumption | with_reducible apply State.countO_keeps | with_reducible apply State.modSpin_keeps | with_reducible apply State.consume_keeps | with_reducible apply State.writeLines_keeps | split
theorem State.pumpRecv_keeps {s0 s : State} (p : Nat) (t : Nat) (a : Nat) (h : Keeps s0 s) : Keeps s0 (State.pumpRecv s p t a) := by
  induction a generalizing s with
  | zero =>
    unfold State.pumpRecv
    repeat' first | with_reducible assumption | with_reducible apply State.takeFaultAt_keeps | with_reducible apply State.takeFlit_keeps | split | with_reducible apply ih
  | succ n ih =>
    unfold State.pumpRecv
    repeat' first | with_reducible assumption | with_reducible apply State.takeFaultAt_keeps | with_reducible apply State.takeFlit_keeps | split | with_reducible apply ih
theorem State.startRecv_keeps {s0 s : State} (t : Nat) (cls : Nat) (f : MovF) (dest : RecvTo) (h : Keeps s0 s) : Keeps s0 (State.startRecv s t cls f dest) := by
  unfold State.startRecv
  repeat' first | with_reducible assumption | with_reducible apply State.modSpin_keeps
theorem execMovRecv_keeps (t : BitVec 12) (f : MovF) {s0 s : State} (h : Keeps s0 s) : KeepsOut s0 (execMovRecv t f s) := by
  unfold execMovRecv
  repeat' first | with_reducible assumption | refine instr_keeps (fun _ _ _ => ?_) (by with_reducible assumption) | with_reducible exact Spindle.recvWait_waits _ _ | with_reducible apply IssueKeeps.of | refine @fun s0 s (h : Keeps s0 s) => ?_ | with_reducible apply State.startRecv_keeps | with_reducible apply State.pumpRecv_keeps
theorem recvVector_keeps (t : BitVec 12) (op : Nat) (f : MovF) {s0 s : State} (h : Keeps s0 s) : KeepsOut s0 (recvVector t op f s) := by
  unfold recvVector
  repeat' first | with_reducible assumption | refine instr_keeps (fun _ _ _ => ?_) (by with_reducible assumption) | with_reducible exact Spindle.recvWait_waits _ _ | with_reducible apply IssueKeeps.of | refine @fun s0 s (h : Keeps s0 s) => ?_ | with_reducible apply State.startRecv_keeps | with_reducible apply State.pumpRecv_keeps
theorem execMovRecvv_keeps (t : BitVec 12) (f : MovF) {s0 s : State} (h : Keeps s0 s) : KeepsOut s0 (execMovRecvv t f s) := by
  unfold execMovRecvv
  repeat' first | with_reducible assumption | with_reducible apply recvVector_keeps
theorem execMovRecva_keeps (t : BitVec 12) (f : MovF) {s0 s : State} (h : Keeps s0 s) : KeepsOut s0 (execMovRecva t f s) := by
  unfold execMovRecva
  repeat' first | with_reducible assumption | with_reducible apply recvVector_keeps
theorem execTokWait_keeps (t : BitVec 12) (f : MovF) {s0 s : State} (h : Keeps s0 s) : KeepsOut s0 (execTokWait t f s) := by
  unfold execTokWait
  repeat' first | with_reducible assumption | refine instr_keeps (fun _ _ _ => ?_) (by with_reducible assumption) | with_reducible apply IssueKeeps.of | with_reducible exact WaitKeeps.none | with_reducible refine WaitKeeps.some ?_ | with_reducible apply Keeps.idk | refine @fun s0 s (h : Keeps s0 s) => ?_ | with_reducible apply State.modSpin_keeps | with_reducible apply State.consume_keeps | split
theorem execTokCred_keeps (t : BitVec 12) (f : MovF) {s0 s : State} (h : Keeps s0 s) : KeepsOut s0 (execTokCred t f s) := by
  unfold execTokCred
  repeat' first | with_reducible assumption | refine instr_keeps (fun _ _ _ => ?_) (by with_reducible assumption) | with_reducible apply IssueKeeps.of | with_reducible exact WaitKeeps.none | with_reducible apply Keeps.idk | refine @fun s0 s (h : Keeps s0 s) => ?_ | with_reducible apply State.sendCredit_keeps | with_reducible apply State.modRecv_keeps
theorem State.arrives_keeps {s0 s : State} (g : Flit) (h : Keeps s0 s) : Keeps s0 (State.arrives s g).2 := by
  unfold State.arrives
  repeat' first | with_reducible assumption | with_reducible apply State.countShareWait_keeps | with_reducible apply State.passRoute_keeps | simp only [Keeps.updMk] | split
theorem execFlitDeliver_keeps (f : Flit) {s0 s : State} (h : Keeps s0 s) : KeepsOut s0 (execFlitDeliver f s) := by
  unfold execFlitDeliver
  repeat' first | with_reducible assumption | exact True.intro | with_reducible apply KeepsOut.next | with_reducible apply State.acceptFlit_keeps | with_reducible apply State.crcDetect_keeps | with_reducible apply State.pumpRecv_keeps | with_reducible apply State.arrives_keeps | simp only [Keeps.updMk] | split
theorem State.sendAwaited_keeps {s0 s : State} (f : Flit) (h : Keeps s0 s) : Keeps s0 (State.sendAwaited s f) := by
  unfold State.sendAwaited
  repeat' first | with_reducible assumption | with_reducible apply State.modSpin_keeps | with_reducible apply State.sendCredit_keeps | split
theorem State.regain_keeps {s0 s : State} (f : Flit) (n : Nat) (h : Keeps s0 s) : Keeps s0 (State.regain s f n) := by
  unfold State.regain
  repeat' first | with_reducible assumption | with_reducible apply State.modUnitSend_keeps | with_reducible apply State.pumpUnit_keeps | with_reducible apply State.bump_keeps | with_reducible apply State.countO_keeps | with_reducible apply State.modSpin_keeps | split
theorem execCreditReturn_keeps (f : Flit) {s0 s : State} (h : Keeps s0 s) : KeepsOut s0 (execCreditReturn f s) := by
  unfold execCreditReturn
  repeat' first | with_reducible assumption | with_reducible apply KeepsOut.next | with_reducible apply State.crcDetect_keeps | with_reducible apply State.sendAwaited_keeps | with_reducible apply State.regain_keeps | with_reducible apply State.arrives_keeps | simp only [Keeps.updMk] | split
theorem State.countRetry_keeps {s0 s : State} (unit : Nat) (bare : Nat) (h : Keeps s0 s) : Keeps s0 (State.countRetry s unit bare) := by
  unfold State.countRetry
  repeat' first | with_reducible assumption | with_reducible apply State.bump_keeps | with_reducible apply State.modBare_keeps
theorem execHopCrcMismatch_keeps (unit : Word) {s0 s : State} (h : Keeps s0 s) : KeepsOut s0 (execHopCrcMismatch unit s) := by
  unfold execHopCrcMismatch
  repeat' first | with_reducible assumption | exact True.intro | with_reducible apply KeepsOut.next | with_reducible apply State.bump_keeps | with_reducible apply State.countRetry_keeps | simp only [Keeps.updMk] | split
theorem execCausewayNak_keeps (group : BitVec 4) (seq : BitVec 10) {s0 s : State} (h : Keeps s0 s) : KeepsOut s0 (execCausewayNak group seq s) := by
  unfold execCausewayNak
  repeat' first | with_reducible assumption | with_reducible apply KeepsOut.next | with_reducible apply State.bump_keeps | with_reducible apply State.countRetry_keeps | split
theorem execIxcForeignDrop_keeps (f : Flit) {s0 s : State} (h : Keeps s0 s) : KeepsOut s0 (execIxcForeignDrop f s) := by
  unfold execIxcForeignDrop
  repeat' first | with_reducible assumption | exact True.intro | with_reducible apply KeepsOut.next | with_reducible apply State.bump_keeps | with_reducible apply State.setBit_keeps | with_reducible apply State.raiseIn_keeps | with_reducible apply State.countRoute_keeps | with_reducible apply State.suspect_keeps | simp only [Keeps.updMk] | split

end Sys2Proof.Machine
end

