-- ==== Sys2Proof/Laws/KeepsPower.lean ====
section
/-! SUPPORT. What the operations of Machine/Power.lean keep: one lemma each, see Laws/Keeps.lean. -/

namespace Sys2Proof.Machine

theorem execInputUndervolt_keeps (mv10 : BitVec 16) {s0 s : State} (h : Keeps s0 s) : KeepsOut s0 (execInputUndervolt mv10 s) := by
  unfold execInputUndervolt
  repeat' first | with_reducible assumption | with_reducible apply KeepsOut.next | with_reducible apply State.setBit_keeps | with_reducible apply State.raise_keeps | split
theorem execUndervoltClear_keeps {s0 s : State} (h : Keeps s0 s) : KeepsOut s0 (execUndervoltClear s) := by
  unfold execUndervoltClear
  repeat' first | with_reducible assumption | with_reducible apply KeepsOut.next | with_reducible apply State.clrBit_keeps
theorem State.inputFails_keeps {s0 s : State} (cause : Nat) (h : Keeps s0 s) : Keeps s0 (State.inputFails s cause) := by
  unfold State.inputFails
  repeat' first | with_reducible assumption | with_reducible apply State.setFld_keeps | with_reducible apply State.setPin_keeps | with_reducible apply State.powerLoss_keeps | simp only [Keeps.updMk] | split
theorem execPowerLoss_keeps {s0 s : State} (h : Keeps s0 s) : KeepsOut s0 (execPowerLoss s) := by
  unfold execPowerLoss
  repeat' first | with_reducible assumption | with_reducible apply KeepsOut.next | with_reducible apply State.inputFails_keeps
theorem execOvervoltageTrip_keeps {s0 s : State} (h : Keeps s0 s) : KeepsOut s0 (execOvervoltageTrip s) := by
  unfold execOvervoltageTrip
  repeat' first | with_reducible assumption | with_reducible apply KeepsOut.next | with_reducible apply State.inputFails_keeps
theorem execInputOvercurrentTrip_keeps {s0 s : State} (h : Keeps s0 s) : KeepsOut s0 (execInputOvercurrentTrip s) := by
  unfold execInputOvercurrentTrip
  repeat' first | with_reducible assumption | with_reducible apply KeepsOut.next | with_reducible apply State.inputFails_keeps
theorem execEnableRelease_keeps {s0 s : State} (h : Keeps s0 s) : KeepsOut s0 (execEnableRelease s) := by
  unfold execEnableRelease
  repeat' first | with_reducible assumption | with_reducible apply KeepsOut.next | with_reducible apply State.inputFails_keeps
theorem State.setOpFactor_keeps {s0 s : State} (f : Nat) (h : Keeps s0 s) : Keeps s0 (State.setOpFactor s f) := by
  unfold State.setOpFactor
  repeat' first | with_reducible assumption | with_reducible apply State.setBit_keeps | with_reducible apply State.setFld_keeps | with_reducible apply State.raise_keeps | simp only [Keeps.updMk] | split
theorem execInputPowerSample_keeps (volt : BitVec 24) (cur : BitVec 24) {s0 s : State} (h : Keeps s0 s) : KeepsOut s0 (execInputPowerSample volt cur s) := by
  unfold execInputPowerSample
  repeat' first | with_reducible assumption | with_reducible apply KeepsOut.next | with_reducible apply State.setOpFactor_keeps | with_reducible apply State.setFld_keeps | simp only [Keeps.updMk] | split
theorem execRailOvercurrent_keeps (d : Nat) (ma10 : BitVec 16) {s0 s : State} (h : Keeps s0 s) : KeepsOut s0 (execRailOvercurrent d ma10 s) := by
  unfold execRailOvercurrent
  repeat' first | with_reducible assumption | exact True.intro | with_reducible apply KeepsOut.next | with_reducible apply State.bump_keeps | with_reducible apply State.setBit_keeps | with_reducible apply State.setFld_keeps | with_reducible apply State.raise_keeps | with_reducible apply State.gaugeTrigger_keeps | split
theorem execRailTrip_keeps (d : Nat) {s0 s : State} (h : Keeps s0 s) : KeepsOut s0 (execRailTrip d s) := by
  unfold execRailTrip
  repeat' first | with_reducible assumption | exact True.intro | with_reducible apply KeepsOut.next | with_reducible apply State.raise_keeps | with_reducible apply State.powerLoss_keeps | split
theorem State.pwrResult_keeps {s0 s : State} (r : Nat) (h : Keeps s0 s) : Keeps s0 (State.pwrResult s r) := by
  unfold State.pwrResult
  repeat' first | with_reducible assumption | with_reducible apply State.setReg_keeps
theorem State.goStandby_keeps {s0 s : State} (h : Keeps s0 s) : Keeps s0 (State.goStandby s) := by
  unfold State.goStandby
  repeat' first | with_reducible assumption | with_reducible apply State.railsOff_keeps | with_reducible apply State.pwrResult_keeps | with_reducible apply State.setPower_keeps | split
theorem State.wakeWork_keeps {s0 s : State} (i : StartIn) (h : Keeps s0 s) : Keeps s0 (State.wakeWork s i) := by
  unfold State.wakeWork
  repeat' first | with_reducible assumption | refine @fun s0 s (h : Keeps s0 s) => ?_ | with_reducible apply State.setStep_keeps | with_reducible apply State.pwrResult_keeps | with_reducible apply State.stepWeights_keeps | with_reducible apply State.setPower_keeps | with_reducible apply finish_keeps | with_reducible apply State.diesUp_keeps
theorem State.beginWake_keeps {s0 s : State} (h : Keeps s0 s) : Keeps s0 (State.beginWake s) := by
  unfold State.beginWake
  repeat' first | with_reducible assumption | with_reducible apply State.setReg_keeps | with_reducible apply State.pwrResult_keeps | split
theorem State.beginShutdown_keeps {s0 s : State} (h : Keeps s0 s) : Keeps s0 (State.beginShutdown s) := by
  unfold State.beginShutdown
  repeat' first | with_reducible assumption | with_reducible apply State.shutOff_keeps | simp only [Keeps.updMk] | split
theorem State.pwrCommand_keeps {s0 s : State} (op : Nat) (h : Keeps s0 s) : Keeps s0 (State.pwrCommand s op) := by
  unfold State.pwrCommand
  repeat' first | with_reducible assumption | with_reducible apply State.beginWake_keeps | with_reducible apply State.goStandby_keeps | with_reducible apply State.pwrResult_keeps | with_reducible apply State.beginShutdown_keeps | split
theorem execShdnReq_keeps {s0 s : State} (h : Keeps s0 s) : KeepsOut s0 (execShdnReq s) := by
  unfold execShdnReq
  repeat' first | with_reducible assumption | with_reducible apply KeepsOut.next | with_reducible apply State.beginShutdown_keeps
theorem State.unloadPart_keeps {s0 s : State} (p : Nat) (h : Keeps s0 s) : Keeps s0 (State.unloadPart s p) := by
  unfold State.unloadPart
  repeat' first | with_reducible assumption | with_reducible apply State.clearProgram_keeps | with_reducible apply State.endSession_keeps | with_reducible refine Keeps.foldl ?_ (fun _ _ _ => ?_)
theorem execShutdownDrainExpiry_keeps {s0 s : State} (h : Keeps s0 s) : KeepsOut s0 (execShutdownDrainExpiry s) := by
  unfold execShutdownDrainExpiry
  repeat' first | with_reducible assumption | with_reducible apply KeepsOut.next | with_reducible apply State.setPower_keeps | with_reducible apply State.unloadPart_keeps | with_reducible refine Keeps.foldl ?_ (fun _ _ _ => ?_) | simp only [Keeps.updMk] | split

end Sys2Proof.Machine
end

