-- ==== Sys2Proof/Laws/KeepsRegRead.lean ====
section
/-! SUPPORT. What the operations of Machine/RegRead.lean keep: one lemma each, see Laws/Keeps.lean. -/

namespace Sys2Proof.Machine

theorem State.readEffect_keeps {s0 s : State} (c : Nat) (addr : Nat) (inst : Nat) (h : Keeps s0 s) : Keeps s0 (State.readEffect s c addr inst).2.2 := by
  unfold State.readEffect
  repeat' first | with_reducible assumption | with_reducible apply State.takeSample_keeps | with_reducible apply State.popHank_keeps | simp only [Keeps.updMk] | split
theorem State.readWord_keeps {s0 s : State} (c : Nat) (addr : Nat) (h : Keeps s0 s) : Keeps s0 (State.readWord s c addr).2 := by
  unfold State.readWord
  repeat' first | with_reducible assumption | with_reducible apply State.modCtx_keeps | with_reducible apply State.readEffect_keeps | simp only [Keeps.updMk] | split
theorem State.completed_keeps {s0 s : State} (c : Nat) (err : Bool) (h : Keeps s0 s) : Keeps s0 (State.completed s c err) := by
  unfold State.completed
  repeat' first | with_reducible assumption | with_reducible apply State.modCtx_keeps
theorem State.coreRead_keeps {s0 s : State} (c : Nat) (addr : Nat) (h : Keeps s0 s) : Keeps s0 (State.coreRead s c addr) := by
  unfold State.coreRead
  repeat' first | with_reducible assumption | with_reducible apply State.completed_keeps | with_reducible apply State.modCtx_keeps | with_reducible apply State.readWord_keeps | split

end Sys2Proof.Machine
end

