-- ==== Sys2Proof/Laws/KeepsRegWrite.lean ====
section
/-! SUPPORT. What the operations of Machine/RegWrite.lean keep: one lemma each, see Laws/Keeps.lean. -/

namespace Sys2Proof.Machine

theorem State.record_keeps {s0 s : State} (c : Nat) (addr : Nat) (o : Nat) (h : Keeps s0 s) : Keeps s0 (State.record s c addr o) := by
  unfold State.record
  repeat' first | with_reducible assumption | with_reducible apply State.setReg_keeps | with_reducible apply State.bump_keeps | split
theorem State.liveAtOnce_keeps {s0 s : State} (addr : Nat) (h : Keeps s0 s) : Keeps s0 (State.liveAtOnce s addr) := by
  unfold State.liveAtOnce
  repeat' first | with_reducible assumption | with_reducible apply State.applyLive_keeps | with_reducible refine Keeps.foldl ?_ (fun _ _ _ => ?_) | split
theorem State.svcWrite_keeps {s0 s : State} (k : Nat) (op : Nat) (h : Keeps s0 s) : Keeps s0 (State.svcWrite s k op) := by
  unfold State.svcWrite
  repeat' first | with_reducible assumption | with_reducible apply State.svcWait_keeps | with_reducible apply State.svcCommand_keeps | split
theorem State.adptWrite_keeps {s0 s : State} (e : Nat) (op : Nat) (h : Keeps s0 s) : Keeps s0 (State.adptWrite s e op) := by
  unfold State.adptWrite
  repeat' first | with_reducible assumption | with_reducible apply State.applyAdptCmd_keeps | with_reducible apply State.modAdapter_keeps | with_reducible refine Keeps.foldl ?_ (fun _ _ _ => ?_) | simp only [Keeps.updMk] | split
theorem State.modeWrite_keeps {s0 s : State} (t : Nat) (n : Nat) (m : Nat) (h : Keeps s0 s) : Keeps s0 (State.modeWrite s t n m) := by
  unfold State.modeWrite
  repeat' first | with_reducible assumption | with_reducible apply State.modTile_keeps
theorem State.ringInit_keeps {s0 s : State} (p : Nat) (h : Keeps s0 s) : Keeps s0 (State.ringInit s p) := by
  unfold State.ringInit
  repeat' first | with_reducible assumption | with_reducible apply State.modServPart_keeps
theorem State.descWrite_keeps {s0 s : State} (l : Nat) (a : Nat) (v : Nat) (h : Keeps s0 s) : Keeps s0 (State.descWrite s l a v) := by
  unfold State.descWrite
  repeat' first | with_reducible assumption | with_reducible apply State.setDescCred_keeps | with_reducible apply State.pumpEgress_keeps | split
theorem State.ethDescWrite_keeps {s0 s : State} (a : Nat) (v : Nat) (h : Keeps s0 s) : Keeps s0 (State.ethDescWrite s a v) := by
  unfold State.ethDescWrite
  repeat' first | with_reducible assumption | with_reducible apply State.setDescCred_keeps | with_reducible apply State.pumpEgress_keeps | split
theorem State.writeEffect_keeps {s0 s : State} (c : Nat) (addr : Nat) (inst : Nat) (v : Nat) (quiet : Bool) (h : Keeps s0 s) : Keeps s0 (State.writeEffect s c addr inst v quiet) := by
  unfold State.writeEffect
  repeat' first | with_reducible assumption | with_reducible apply State.pwrCommand_keeps | with_reducible apply State.recalLane_keeps | with_reducible apply State.liveAtOnce_keeps | with_reducible apply State.ethDescWrite_keeps | with_reducible apply State.cfgCommand_keeps | with_reducible apply State.runTestSet_keeps | with_reducible apply State.todCtl_keeps | with_reducible apply State.stageHank_keeps | with_reducible apply State.clearOverflow_keeps | with_reducible apply State.gaugeStartReg_keeps | with_reducible apply State.pushHank_keeps | with_reducible apply State.sknCommand_keeps | with_reducible apply State.modHank_keeps | with_reducible apply State.descWrite_keeps | with_reducible apply State.sampleDrop_keeps | with_reducible apply State.peerConnect_keeps | with_reducible apply State.goJob_keeps | with_reducible apply State.svcWrite_keeps | with_reducible apply State.adptWrite_keeps | with_reducible apply State.gaugeStopReg_keeps | with_reducible apply State.pathCommand_keeps | with_reducible apply State.modeWrite_keeps | with_reducible apply State.ringInit_keeps | with_reducible apply State.clrBit_keeps | with_reducible apply State.rawRun_keeps | with_reducible apply Keeps.ite
theorem State.accept_keeps {s0 s : State} (d : RegDesc) (c : Nat) (addr : Nat) (inst : Nat) (v : Nat) (h : Keeps s0 s) : Keeps s0 (State.accept s d c addr inst v) := by
  unfold State.accept
  repeat' first | with_reducible assumption | with_reducible apply State.setReg_keeps | with_reducible apply State.writeEffect_keeps | split
theorem State.noteReject_keeps {s0 s : State} (addr : Nat) (inst : Nat) (v : Nat) (o : Nat) (h : Keeps s0 s) : Keeps s0 (State.noteReject s addr inst v o) := by
  unfold State.noteReject
  repeat' first | with_reducible assumption | with_reducible apply State.setBit_keeps | split
theorem State.selectWrite_keeps {s0 s : State} (c : Nat) (blk : Nat) (v : Nat) (h : Keeps s0 s) : Keeps s0 (State.selectWrite s c blk v) := by
  unfold State.selectWrite
  repeat' first | with_reducible assumption | with_reducible apply State.modCtx_keeps
theorem State.writeWord_keeps {s0 s : State} (c : Nat) (addr : Nat) (v : Nat) (h : Keeps s0 s) : Keeps s0 (State.writeWord s c addr v) := by
  unfold State.writeWord
  repeat' first | with_reducible assumption | with_reducible apply State.selectWrite_keeps | with_reducible apply State.record_keeps | with_reducible apply State.noteReject_keeps | with_reducible apply State.accept_keeps | simp only [Keeps.updMk] | split
theorem State.coreWrite_keeps {s0 s : State} (c : Nat) (addr : Nat) (v : Nat) (h : Keeps s0 s) : Keeps s0 (State.coreWrite s c addr v) := by
  unfold State.coreWrite
  repeat' first | with_reducible assumption | with_reducible apply State.writeWord_keeps | with_reducible apply State.completed_keeps | split

end Sys2Proof.Machine
end

