-- ==== Sys2Proof/Laws/KeepsRegs.lean ====
section
/-! SUPPORT. What the operations of Machine/Regs.lean keep: one lemma each, see Laws/Keeps.lean. -/

namespace Sys2Proof.Machine

theorem execRegisterWrite_keeps (c : BitVec 3) (addr : Word) (v : Word) {s0 s : State} (h : Keeps s0 s) : KeepsOut s0 (execRegisterWrite c addr v s) := by
  unfold execRegisterWrite
  repeat' first | with_reducible assumption | with_reducible apply KeepsOut.next | with_reducible apply State.coreWrite_keeps
theorem execSelectRegisterWrite_keeps (c : BitVec 3) (blk : BitVec 4) (v : Word) {s0 s : State} (h : Keeps s0 s) : KeepsOut s0 (execSelectRegisterWrite c blk v s) := by
  unfold execSelectRegisterWrite
  repeat' first | with_reducible assumption | with_reducible apply KeepsOut.next | with_reducible apply State.coreWrite_keeps
theorem execLowWordRead_keeps (c : BitVec 3) (addr : Word) {s0 s : State} (h : Keeps s0 s) : KeepsOut s0 (execLowWordRead c addr s) := by
  unfold execLowWordRead
  repeat' first | with_reducible assumption | with_reducible apply KeepsOut.next | with_reducible apply State.coreRead_keeps
theorem State.readWords_keeps (c : Nat) (a : Nat) (x1 : Nat) {s0 s : State} (h : Keeps s0 s) : Keeps s0 (State.readWords c a x1 s).2 := by
  induction a generalizing s x1 with
  | zero =>
    unfold State.readWords
    repeat' first | with_reducible assumption | with_reducible apply State.readWord_keeps | simp only [Keeps.updMk] | with_reducible apply ih
  | succ n ih =>
    unfold State.readWords
    repeat' first | with_reducible assumption | with_reducible apply State.readWord_keeps | simp only [Keeps.updMk] | with_reducible apply ih
theorem State.writeWords_keeps (c : Nat) (a : Nat) (x1 : Nat) (x2 : Bytes) {s0 s : State} (h : Keeps s0 s) : Keeps s0 (State.writeWords c a x1 x2 s) := by
  induction a generalizing s x1 x2 with
  | zero =>
    unfold State.writeWords
    repeat' first | with_reducible assumption | with_reducible apply State.writeWord_keeps | with_reducible apply ih
  | succ n ih =>
    unfold State.writeWords
    repeat' first | with_reducible assumption | with_reducible apply State.writeWord_keeps | with_reducible apply ih
theorem execRdmaRegisterAccess_keeps (slot : BitVec 9) (key : Word) (write : Bool) (addr : DWord) (len : Nat) (data : Bytes) {s0 s : State} (h : Keeps s0 s) : KeepsOut s0 (execRdmaRegisterAccess slot key write addr len data s) := by
  unfold execRdmaRegisterAccess
  repeat' first | with_reducible assumption | exact True.intro | with_reducible apply KeepsOut.next | with_reducible apply State.writeWords_keeps | with_reducible apply State.modCtx_keeps | with_reducible apply State.send_keeps | with_reducible apply State.readWords_keeps | simp only [Keeps.updMk] | split
theorem execTodArm_keeps (c : BitVec 3) {s0 s : State} (h : Keeps s0 s) : KeepsOut s0 (execTodArm c s) := by
  unfold execTodArm
  repeat' first | with_reducible assumption | with_reducible apply KeepsOut.next | with_reducible apply State.coreWrite_keeps
theorem execTodCancel_keeps (c : BitVec 3) {s0 s : State} (h : Keeps s0 s) : KeepsOut s0 (execTodCancel c s) := by
  unfold execTodCancel
  repeat' first | with_reducible assumption | with_reducible apply KeepsOut.next | with_reducible apply State.coreWrite_keeps
theorem execSvcCalibrate_keeps (c : BitVec 3) {s0 s : State} (h : Keeps s0 s) : KeepsOut s0 (execSvcCalibrate c s) := by
  unfold execSvcCalibrate
  repeat' first | with_reducible assumption | with_reducible apply KeepsOut.next | with_reducible apply State.coreWrite_keeps
theorem execSvcRewrite_keeps (c : BitVec 3) {s0 s : State} (h : Keeps s0 s) : KeepsOut s0 (execSvcRewrite c s) := by
  unfold execSvcRewrite
  repeat' first | with_reducible assumption | with_reducible apply KeepsOut.next | with_reducible apply State.coreWrite_keeps
theorem execSvcMarginScan_keeps (c : BitVec 3) {s0 s : State} (h : Keeps s0 s) : KeepsOut s0 (execSvcMarginScan c s) := by
  unfold execSvcMarginScan
  repeat' first | with_reducible assumption | with_reducible apply KeepsOut.next | with_reducible apply State.coreWrite_keeps
theorem execSvcCancel_keeps (c : BitVec 3) {s0 s : State} (h : Keeps s0 s) : KeepsOut s0 (execSvcCancel c s) := by
  unfold execSvcCancel
  repeat' first | with_reducible assumption | with_reducible apply KeepsOut.next | with_reducible apply State.coreWrite_keeps
theorem execAdapterUnload_keeps (c : BitVec 3) (e : BitVec 10) {s0 s : State} (h : Keeps s0 s) : KeepsOut s0 (execAdapterUnload c e s) := by
  unfold execAdapterUnload
  repeat' first | with_reducible assumption | with_reducible apply KeepsOut.next | with_reducible apply State.coreWrite_keeps
theorem execAdapterFreeze_keeps (c : BitVec 3) (e : BitVec 10) {s0 s : State} (h : Keeps s0 s) : KeepsOut s0 (execAdapterFreeze c e s) := by
  unfold execAdapterFreeze
  repeat' first | with_reducible assumption | with_reducible apply KeepsOut.next | with_reducible apply State.coreWrite_keeps
theorem execHankPop_keeps (c : BitVec 3) {s0 s : State} (h : Keeps s0 s) : KeepsOut s0 (execHankPop c s) := by
  unfold execHankPop
  repeat' first | with_reducible assumption | with_reducible apply KeepsOut.next | with_reducible apply State.coreRead_keeps
theorem execHankStage_keeps (c : BitVec 3) (v : Word) {s0 s : State} (h : Keeps s0 s) : KeepsOut s0 (execHankStage c v s) := by
  unfold execHankStage
  repeat' first | with_reducible assumption | with_reducible apply KeepsOut.next | with_reducible apply State.coreWrite_keeps
theorem execHankPush_keeps (c : BitVec 3) (v : Word) {s0 s : State} (h : Keeps s0 s) : KeepsOut s0 (execHankPush c v s) := by
  unfold execHankPush
  repeat' first | with_reducible assumption | with_reducible apply KeepsOut.next | with_reducible apply State.coreWrite_keeps
theorem State.goFetch_keeps {s0 s : State} (c : Nat) (op : Nat) (list : Option Bytes) (h : Keeps s0 s) : Keeps s0 (State.goFetch s c op list) := by
  unfold State.goFetch
  repeat' first | with_reducible assumption | with_reducible apply State.takeList_keeps | with_reducible apply State.coreWrite_keeps | simp only [Keeps.updMk] | split
theorem execJobLoad_keeps (go : ListRead) {s0 s : State} (h : Keeps s0 s) : KeepsOut s0 (execJobLoad go s) := by
  unfold execJobLoad
  repeat' first | with_reducible assumption | with_reducible apply KeepsOut.next | with_reducible apply State.goFetch_keeps
theorem execJobReplace_keeps (go : ListRead) {s0 s : State} (h : Keeps s0 s) : KeepsOut s0 (execJobReplace go s) := by
  unfold execJobReplace
  repeat' first | with_reducible assumption | with_reducible apply KeepsOut.next | with_reducible apply State.goFetch_keeps
theorem execJobRestore_keeps (go : ListRead) {s0 s : State} (h : Keeps s0 s) : KeepsOut s0 (execJobRestore go s) := by
  unfold execJobRestore
  repeat' first | with_reducible assumption | with_reducible apply KeepsOut.next | with_reducible apply State.goFetch_keeps
theorem execJobAdapter_keeps (go : ListRead) {s0 s : State} (h : Keeps s0 s) : KeepsOut s0 (execJobAdapter go s) := by
  unfold execJobAdapter
  repeat' first | with_reducible assumption | with_reducible apply KeepsOut.next | with_reducible apply State.goFetch_keeps
theorem execJobUnloadModel_keeps (c : BitVec 3) {s0 s : State} (h : Keeps s0 s) : KeepsOut s0 (execJobUnloadModel c s) := by
  unfold execJobUnloadModel
  repeat' first | with_reducible assumption | with_reducible apply KeepsOut.next | with_reducible apply State.coreWrite_keeps
theorem execPeerConnect_keeps (c : BitVec 3) (v : Word) {s0 s : State} (h : Keeps s0 s) : KeepsOut s0 (execPeerConnect c v s) := by
  unfold execPeerConnect
  repeat' first | with_reducible assumption | with_reducible apply KeepsOut.next | with_reducible apply State.coreWrite_keeps
theorem execPathSetup_keeps (c : BitVec 3) (link : BitVec 3) (job : BitVec 16) {s0 s : State} (h : Keeps s0 s) : KeepsOut s0 (execPathSetup c link job s) := by
  unfold execPathSetup
  repeat' first | with_reducible assumption | with_reducible apply KeepsOut.next | with_reducible apply State.coreWrite_keeps
theorem execPathRelease_keeps (c : BitVec 3) (link : BitVec 3) (job : BitVec 16) {s0 s : State} (h : Keeps s0 s) : KeepsOut s0 (execPathRelease c link job s) := by
  unfold execPathRelease
  repeat' first | with_reducible assumption | with_reducible apply KeepsOut.next | with_reducible apply State.coreWrite_keeps
theorem execSknRetrain_keeps (c : BitVec 3) {s0 s : State} (h : Keeps s0 s) : KeepsOut s0 (execSknRetrain c s) := by
  unfold execSknRetrain
  repeat' first | with_reducible assumption | with_reducible apply KeepsOut.next | with_reducible apply State.coreWrite_keeps
theorem execSknDisable_keeps (c : BitVec 3) {s0 s : State} (h : Keeps s0 s) : KeepsOut s0 (execSknDisable c s) := by
  unfold execSknDisable
  repeat' first | with_reducible assumption | with_reducible apply KeepsOut.next | with_reducible apply State.coreWrite_keeps
theorem execSknEnable_keeps (c : BitVec 3) {s0 s : State} (h : Keeps s0 s) : KeepsOut s0 (execSknEnable c s) := by
  unfold execSknEnable
  repeat' first | with_reducible assumption | with_reducible apply KeepsOut.next | with_reducible apply State.coreWrite_keeps
theorem execSknLaneRecal_keeps (c : BitVec 3) {s0 s : State} (h : Keeps s0 s) : KeepsOut s0 (execSknLaneRecal c s) := by
  unfold execSknLaneRecal
  repeat' first | with_reducible assumption | with_reducible apply KeepsOut.next | with_reducible apply State.coreWrite_keeps
theorem execRdescValidWrite_keeps (c : BitVec 3) (p : BitVec 4) (ch : BitVec 5) (v : Word) {s0 s : State} (h : Keeps s0 s) : KeepsOut s0 (execRdescValidWrite c p ch v s) := by
  unfold execRdescValidWrite
  repeat' first | with_reducible assumption | with_reducible apply KeepsOut.next | with_reducible apply State.coreWrite_keeps
theorem execStageConfig_keeps (c : BitVec 3) {s0 s : State} (h : Keeps s0 s) : KeepsOut s0 (execStageConfig c s) := by
  unfold execStageConfig
  repeat' first | with_reducible assumption | with_reducible apply KeepsOut.next | with_reducible apply State.coreWrite_keeps
theorem execStageFirmware_keeps (c : BitVec 3) {s0 s : State} (h : Keeps s0 s) : KeepsOut s0 (execStageFirmware c s) := by
  unfold execStageFirmware
  repeat' first | with_reducible assumption | with_reducible apply KeepsOut.next | with_reducible apply State.coreWrite_keeps
theorem execStageBoot_keeps (c : BitVec 3) {s0 s : State} (h : Keeps s0 s) : KeepsOut s0 (execStageBoot c s) := by
  unfold execStageBoot
  repeat' first | with_reducible assumption | with_reducible apply KeepsOut.next | with_reducible apply State.coreWrite_keeps
theorem execLcToken_keeps (c : BitVec 3) (token : Option Bytes) {s0 s : State} (h : Keeps s0 s) : KeepsOut s0 (execLcToken c token s) := by
  unfold execLcToken
  repeat' first | with_reducible assumption | with_reducible apply KeepsOut.next | with_reducible apply State.takeToken_keeps | with_reducible apply State.coreWrite_keeps | split
theorem execAttest_keeps (c : BitVec 3) {s0 s : State} (h : Keeps s0 s) : KeepsOut s0 (execAttest c s) := by
  unfold execAttest
  repeat' first | with_reducible assumption | with_reducible apply KeepsOut.next | with_reducible apply State.coreWrite_keeps
theorem execDiscardStaged_keeps (c : BitVec 3) {s0 s : State} (h : Keeps s0 s) : KeepsOut s0 (execDiscardStaged c s) := by
  unfold execDiscardStaged
  repeat' first | with_reducible assumption | with_reducible apply KeepsOut.next | with_reducible apply State.coreWrite_keeps
theorem execRetry_keeps (c : BitVec 3) {s0 s : State} (h : Keeps s0 s) : KeepsOut s0 (execRetry c s) := by
  unfold execRetry
  repeat' first | with_reducible assumption | with_reducible apply KeepsOut.next | with_reducible apply State.coreWrite_keeps
theorem execRevert_keeps (c : BitVec 3) {s0 s : State} (h : Keeps s0 s) : KeepsOut s0 (execRevert c s) := by
  unfold execRevert
  repeat' first | with_reducible assumption | with_reducible apply KeepsOut.next | with_reducible apply State.coreWrite_keeps
theorem execGaugeStart_keeps (c : BitVec 3) {s0 s : State} (h : Keeps s0 s) : KeepsOut s0 (execGaugeStart c s) := by
  unfold execGaugeStart
  repeat' first | with_reducible assumption | with_reducible apply KeepsOut.next | with_reducible apply State.coreWrite_keeps
theorem execGaugeStop_keeps (c : BitVec 3) {s0 s : State} (h : Keeps s0 s) : KeepsOut s0 (execGaugeStop c s) := by
  unfold execGaugeStop
  repeat' first | with_reducible assumption | with_reducible apply KeepsOut.next | with_reducible apply State.coreWrite_keeps
theorem execCounterSample_keeps (c : BitVec 3) {s0 s : State} (h : Keeps s0 s) : KeepsOut s0 (execCounterSample c s) := by
  unfold execCounterSample
  repeat' first | with_reducible assumption | with_reducible apply KeepsOut.next | with_reducible apply State.coreRead_keeps
theorem execCounterBind_keeps (c : BitVec 3) (v : Word) {s0 s : State} (h : Keeps s0 s) : KeepsOut s0 (execCounterBind c v s) := by
  unfold execCounterBind
  repeat' first | with_reducible assumption | with_reducible apply KeepsOut.next | with_reducible apply State.coreWrite_keeps
theorem execSampleNext_keeps (c : BitVec 3) (half : Bool) {s0 s : State} (h : Keeps s0 s) : KeepsOut s0 (execSampleNext c half s) := by
  unfold execSampleNext
  repeat' first | with_reducible assumption | with_reducible apply KeepsOut.next | with_reducible apply State.coreWrite_keeps
theorem execRunSet_keeps (c : BitVec 3) (set : BitVec 4) {s0 s : State} (h : Keeps s0 s) : KeepsOut s0 (execRunSet c set s) := by
  unfold execRunSet
  repeat' first | with_reducible assumption | with_reducible apply KeepsOut.next | with_reducible apply State.coreWrite_keeps
theorem execRawGo_keeps (c : BitVec 3) {s0 s : State} (h : Keeps s0 s) : KeepsOut s0 (execRawGo c s) := by
  unfold execRawGo
  repeat' first | with_reducible assumption | with_reducible apply KeepsOut.next | with_reducible apply State.coreWrite_keeps
theorem execStandby_keeps (c : BitVec 3) {s0 s : State} (h : Keeps s0 s) : KeepsOut s0 (execStandby c s) := by
  unfold execStandby
  repeat' first | with_reducible assumption | with_reducible apply KeepsOut.next | with_reducible apply State.coreWrite_keeps
theorem execWake_keeps (c : BitVec 3) (i : StartIn) {s0 s : State} (h : Keeps s0 s) : KeepsOut s0 (execWake c i s) := by
  unfold execWake
  repeat' first | with_reducible assumption | with_reducible apply KeepsOut.next | with_reducible apply State.wakeWork_keeps | with_reducible apply State.coreWrite_keeps | split
theorem execShutdown_keeps (c : BitVec 3) {s0 s : State} (h : Keeps s0 s) : KeepsOut s0 (execShutdown c s) := by
  unfold execShutdown
  repeat' first | with_reducible assumption | with_reducible apply KeepsOut.next | with_reducible apply State.coreWrite_keeps

end Sys2Proof.Machine
end

