-- ==== Sys2Proof/Laws/Slots.lean ====
section
/-! SUPPORT. Every Spindle instruction is one slot of its tile: `exec` of it is `instr` with its word. -/

namespace Sys2Proof.Machine

theorem slot_warpPass (t f a) : ∃ g, ∀ s, exec (.warpPass t f a) s = instr s t (encWarp 0 f) g := by
  change ∃ g, ∀ s, execWarpPass t f a s = instr s t (encWarp 0 f) g
  unfold execWarpPass warpInstr
  exact ⟨_, fun _ => rfl⟩
theorem slot_warpPassa (t f a) : ∃ g, ∀ s, exec (.warpPassa t f a) s = instr s t (encWarp 1 f) g := by
  change ∃ g, ∀ s, execWarpPassa t f a s = instr s t (encWarp 1 f) g
  unfold execWarpPassa warpInstr
  exact ⟨_, fun _ => rfl⟩
theorem slot_weftPass (t f a) : ∃ g, ∀ s, exec (.weftPass t f a) s = instr s t (encWeft 0 f) g := by
  change ∃ g, ∀ s, execWeftPass t f a s = instr s t (encWeft 0 f) g
  unfold execWeftPass weftInstr
  exact ⟨_, fun _ => rfl⟩
theorem slot_weftPassa (t f a) : ∃ g, ∀ s, exec (.weftPassa t f a) s = instr s t (encWeft 1 f) g := by
  change ∃ g, ∀ s, execWeftPassa t f a s = instr s t (encWeft 1 f) g
  unfold execWeftPassa weftInstr
  exact ⟨_, fun _ => rfl⟩
theorem slot_weftFlip (t) : ∃ g, ∀ s, exec (.weftFlip t) s = instr s t (encFlip) g := by
  change ∃ g, ∀ s, execWeftFlip t s = instr s t (encFlip) g
  unfold execWeftFlip
  exact ⟨_, fun _ => rfl⟩
theorem slot_vecFma (t f) : ∃ g, ∀ s, exec (.vecFma t f) s = instr s t (encVec 0 f) g := by
  change ∃ g, ∀ s, execVecFma t f s = instr s t (encVec 0 f) g
  unfold execVecFma
  exact ⟨_, fun _ => rfl⟩
theorem slot_vecAdd (t f) : ∃ g, ∀ s, exec (.vecAdd t f) s = instr s t (encVec 1 f) g := by
  change ∃ g, ∀ s, execVecAdd t f s = instr s t (encVec 1 f) g
  unfold execVecAdd vec2
  exact ⟨_, fun _ => rfl⟩
theorem slot_vecMul (t f) : ∃ g, ∀ s, exec (.vecMul t f) s = instr s t (encVec 2 f) g := by
  change ∃ g, ∀ s, execVecMul t f s = instr s t (encVec 2 f) g
  unfold execVecMul vec2
  exact ⟨_, fun _ => rfl⟩
theorem slot_vecMax (t f) : ∃ g, ∀ s, exec (.vecMax t f) s = instr s t (encVec 3 f) g := by
  change ∃ g, ∀ s, execVecMax t f s = instr s t (encVec 3 f) g
  unfold execVecMax vec2
  exact ⟨_, fun _ => rfl⟩
theorem slot_vecMin (t f) : ∃ g, ∀ s, exec (.vecMin t f) s = instr s t (encVec 4 f) g := by
  change ∃ g, ∀ s, execVecMin t f s = instr s t (encVec 4 f) g
  unfold execVecMin vec2
  exact ⟨_, fun _ => rfl⟩
theorem slot_vecExp (t f) : ∃ g, ∀ s, exec (.vecExp t f) s = instr s t (encVec 5 f) g := by
  change ∃ g, ∀ s, execVecExp t f s = instr s t (encVec 5 f) g
  unfold execVecExp vecHelper
  exact ⟨_, fun _ => rfl⟩
theorem slot_vecRsqrt (t f) : ∃ g, ∀ s, exec (.vecRsqrt t f) s = instr s t (encVec 6 f) g := by
  change ∃ g, ∀ s, execVecRsqrt t f s = instr s t (encVec 6 f) g
  unfold execVecRsqrt vecHelper
  exact ⟨_, fun _ => rfl⟩
theorem slot_vecRcp (t f) : ∃ g, ∀ s, exec (.vecRcp t f) s = instr s t (encVec 7 f) g := by
  change ∃ g, ∀ s, execVecRcp t f s = instr s t (encVec 7 f) g
  unfold execVecRcp vecHelper
  exact ⟨_, fun _ => rfl⟩
theorem slot_vecRsum (t f) : ∃ g, ∀ s, exec (.vecRsum t f) s = instr s t (encVec 8 f) g := by
  change ∃ g, ∀ s, execVecRsum t f s = instr s t (encVec 8 f) g
  unfold execVecRsum vecReduce
  exact ⟨_, fun _ => rfl⟩
theorem slot_vecRmax (t f) : ∃ g, ∀ s, exec (.vecRmax t f) s = instr s t (encVec 9 f) g := by
  change ∃ g, ∀ s, execVecRmax t f s = instr s t (encVec 9 f) g
  unfold execVecRmax vecReduce
  exact ⟨_, fun _ => rfl⟩
theorem slot_vecImac (t f) : ∃ g, ∀ s, exec (.vecImac t f) s = instr s t (encVec 10 f) g := by
  change ∃ g, ∀ s, execVecImac t f s = instr s t (encVec 10 f) g
  unfold execVecImac
  exact ⟨_, fun _ => rfl⟩
theorem slot_vecLd (t f) : ∃ g, ∀ s, exec (.vecLd t f) s = instr s t (encVec 11 f) g := by
  change ∃ g, ∀ s, execVecLd t f s = instr s t (encVec 11 f) g
  unfold execVecLd
  exact ⟨_, fun _ => rfl⟩
theorem slot_vecSt (t f) : ∃ g, ∀ s, exec (.vecSt t f) s = instr s t (encVec 12 f) g := by
  change ∃ g, ∀ s, execVecSt t f s = instr s t (encVec 12 f) g
  unfold execVecSt
  exact ⟨_, fun _ => rfl⟩
theorem slot_vecBcast (t f) : ∃ g, ∀ s, exec (.vecBcast t f) s = instr s t (encVec 13 f) g := by
  change ∃ g, ∀ s, execVecBcast t f s = instr s t (encVec 13 f) g
  unfold execVecBcast vecMove
  exact ⟨_, fun _ => rfl⟩
theorem slot_vecRot (t f) : ∃ g, ∀ s, exec (.vecRot t f) s = instr s t (encVec 14 f) g := by
  change ∃ g, ∀ s, execVecRot t f s = instr s t (encVec 14 f) g
  unfold execVecRot vecMove
  exact ⟨_, fun _ => rfl⟩
theorem slot_vecSel (t f) : ∃ g, ∀ s, exec (.vecSel t f) s = instr s t (encVec 15 f) g := by
  change ∃ g, ∀ s, execVecSel t f s = instr s t (encVec 15 f) g
  unfold execVecSel
  exact ⟨_, fun _ => rfl⟩
theorem slot_cvtPack (t f) : ∃ g, ∀ s, exec (.cvtPack t f) s = instr s t (encCvt 0 f) g := by
  change ∃ g, ∀ s, execCvtPack t f s = instr s t (encCvt 0 f) g
  unfold execCvtPack
  exact ⟨_, fun _ => rfl⟩
theorem slot_cvtUnpk (t f) : ∃ g, ∀ s, exec (.cvtUnpk t f) s = instr s t (encCvt 1 f) g := by
  change ∃ g, ∀ s, execCvtUnpk t f s = instr s t (encCvt 1 f) g
  unfold execCvtUnpk
  exact ⟨_, fun _ => rfl⟩
theorem slot_cvtGrad (t f) : ∃ g, ∀ s, exec (.cvtGrad t f) s = instr s t (encCvt 2 f) g := by
  change ∃ g, ∀ s, execCvtGrad t f s = instr s t (encCvt 2 f) g
  unfold execCvtGrad
  exact ⟨_, fun _ => rfl⟩
theorem slot_cvtNarw (t f) : ∃ g, ∀ s, exec (.cvtNarw t f) s = instr s t (encCvt 3 f) g := by
  change ∃ g, ∀ s, execCvtNarw t f s = instr s t (encCvt 3 f) g
  unfold execCvtNarw cvtInPlace
  exact ⟨_, fun _ => rfl⟩
theorem slot_cvtWide (t f) : ∃ g, ∀ s, exec (.cvtWide t f) s = instr s t (encCvt 4 f) g := by
  change ∃ g, ∀ s, execCvtWide t f s = instr s t (encCvt 4 f) g
  unfold execCvtWide cvtInPlace
  exact ⟨_, fun _ => rfl⟩
theorem slot_cvtQw (t f) : ∃ g, ∀ s, exec (.cvtQw t f) s = instr s t (encCvt 5 f) g := by
  change ∃ g, ∀ s, execCvtQw t f s = instr s t (encCvt 5 f) g
  unfold execCvtQw
  exact ⟨_, fun _ => rfl⟩
theorem slot_movSend (t f) : ∃ g, ∀ s, exec (.movSend t f) s = instr s t (encMov 4 0 f) g := by
  change ∃ g, ∀ s, execMovSend t f s = instr s t (encMov 4 0 f) g
  unfold execMovSend
  exact ⟨_, fun _ => rfl⟩
theorem slot_movSendv (t f) : ∃ g, ∀ s, exec (.movSendv t f) s = instr s t (encMov 4 1 f) g := by
  change ∃ g, ∀ s, execMovSendv t f s = instr s t (encMov 4 1 f) g
  unfold execMovSendv
  exact ⟨_, fun _ => rfl⟩
theorem slot_movRecv (t f) : ∃ g, ∀ s, exec (.movRecv t f) s = instr s t (encMov 4 2 f) g := by
  change ∃ g, ∀ s, execMovRecv t f s = instr s t (encMov 4 2 f) g
  unfold execMovRecv
  exact ⟨_, fun _ => rfl⟩
theorem slot_movRecvv (t f) : ∃ g, ∀ s, exec (.movRecvv t f) s = instr s t (encMov 4 3 f) g := by
  change ∃ g, ∀ s, execMovRecvv t f s = instr s t (encMov 4 3 f) g
  unfold execMovRecvv recvVector
  exact ⟨_, fun _ => rfl⟩
theorem slot_movRecva (t f) : ∃ g, ∀ s, exec (.movRecva t f) s = instr s t (encMov 4 4 f) g := by
  change ∃ g, ∀ s, execMovRecva t f s = instr s t (encMov 4 4 f) g
  unfold execMovRecva recvVector
  exact ⟨_, fun _ => rfl⟩
theorem slot_tokPost (t f) : ∃ g, ∀ s, exec (.tokPost t f) s = instr s t (encMov 5 0 f) g := by
  change ∃ g, ∀ s, execTokPost t f s = instr s t (encMov 5 0 f) g
  unfold execTokPost
  exact ⟨_, fun _ => rfl⟩
theorem slot_tokWait (t f) : ∃ g, ∀ s, exec (.tokWait t f) s = instr s t (encMov 5 1 f) g := by
  change ∃ g, ∀ s, execTokWait t f s = instr s t (encMov 5 1 f) g
  unfold execTokWait
  exact ⟨_, fun _ => rfl⟩
theorem slot_tokCred (t f) : ∃ g, ∀ s, exec (.tokCred t f) s = instr s t (encMov 5 2 f) g := by
  change ∃ g, ∀ s, execTokCred t f s = instr s t (encMov 5 2 f) g
  unfold execTokCred
  exact ⟨_, fun _ => rfl⟩
theorem slot_ctxPut (t f) : ∃ g, ∀ s, exec (.ctxPut t f) s = instr s t (encPut f) g := by
  change ∃ g, ∀ s, execCtxPut t f s = instr s t (encPut f) g
  unfold execCtxPut
  exact ⟨_, fun _ => rfl⟩
theorem slot_ctxGet (t f) : ∃ g, ∀ s, exec (.ctxGet t f) s = instr s t (encGet f) g := by
  change ∃ g, ∀ s, execCtxGet t f s = instr s t (encGet f) g
  unfold execCtxGet
  exact ⟨_, fun _ => rfl⟩
theorem slot_ctxAttn (t f) : ∃ g, ∀ s, exec (.ctxAttn t f) s = instr s t (encAttn f) g := by
  change ∃ g, ∀ s, execCtxAttn t f s = instr s t (encAttn f) g
  unfold execCtxAttn
  exact ⟨_, fun _ => rfl⟩
theorem slot_ctxXget (t f) : ∃ g, ∀ s, exec (.ctxXget t f) s = instr s t (encXfer 3 f) g := by
  change ∃ g, ∀ s, execCtxXget t f s = instr s t (encXfer 3 f) g
  unfold execCtxXget
  exact ⟨_, fun _ => rfl⟩
theorem slot_ctxXput (t f) : ∃ g, ∀ s, exec (.ctxXput t f) s = instr s t (encXfer 4 f) g := by
  change ∃ g, ∀ s, execCtxXput t f s = instr s t (encXfer 4 f) g
  unfold execCtxXput
  exact ⟨_, fun _ => rfl⟩
theorem slot_syncStep (t) : ∃ g, ∀ s, exec (.syncStep t) s = instr s t (encSync 0) g := by
  change ∃ g, ∀ s, execSyncStep t s = instr s t (encSync 0) g
  unfold execSyncStep
  exact ⟨_, fun _ => rfl⟩
theorem slot_syncMile (t) : ∃ g, ∀ s, exec (.syncMile t) s = instr s t (encSync 1) g := by
  change ∃ g, ∀ s, execSyncMile t s = instr s t (encSync 1) g
  unfold execSyncMile
  exact ⟨_, fun _ => rfl⟩
theorem slot_syncEmit (t f) : ∃ g, ∀ s, exec (.syncEmit t f) s = instr s t (encEmit f) g := by
  change ∃ g, ∀ s, execSyncEmit t f s = instr s t (encEmit f) g
  unfold execSyncEmit
  exact ⟨_, fun _ => rfl⟩
theorem slot_ctlNop (t n) : ∃ g, ∀ s, exec (.ctlNop t n) s = instr s t (encNop n) g := by
  change ∃ g, ∀ s, execCtlNop t n s = instr s t (encNop n) g
  unfold execCtlNop
  exact ⟨_, fun _ => rfl⟩
theorem slot_ctlLoop (t count body) : ∃ g, ∀ s, exec (.ctlLoop t count body) s = instr s t (encLoop count body) g := by
  change ∃ g, ∀ s, execCtlLoop t count body s = instr s t (encLoop count body) g
  unfold execCtlLoop
  exact ⟨_, fun _ => rfl⟩
theorem slot_ctlSkip (t f) : ∃ g, ∀ s, exec (.ctlSkip t f) s = instr s t (encSkip f) g := by
  change ∃ g, ∀ s, execCtlSkip t f s = instr s t (encSkip f) g
  unfold execCtlSkip
  exact ⟨_, fun _ => rfl⟩
theorem slot_ctlXset (t xd imm) : ∃ g, ∀ s, exec (.ctlXset t xd imm) s = instr s t (encXset xd imm) g := by
  change ∃ g, ∀ s, execCtlXset t xd imm s = instr s t (encXset xd imm) g
  unfold execCtlXset
  exact ⟨_, fun _ => rfl⟩
theorem slot_ctlXadd (t xd xa imm) : ∃ g, ∀ s, exec (.ctlXadd t xd xa imm) s = instr s t (encXadd xd xa imm) g := by
  change ∃ g, ∀ s, execCtlXadd t xd xa imm s = instr s t (encXadd xd xa imm) g
  unfold execCtlXadd
  exact ⟨_, fun _ => rfl⟩
theorem slot_ctlXld (t xd lop word) : ∃ g, ∀ s, exec (.ctlXld t xd lop word) s = instr s t (encXld xd lop word) g := by
  change ∃ g, ∀ s, execCtlXld t xd lop word s = instr s t (encXld xd lop word) g
  unfold execCtlXld
  exact ⟨_, fun _ => rfl⟩
theorem slot_ctlXent (t xd ent field) : ∃ g, ∀ s, exec (.ctlXent t xd ent field) s = instr s t (encXent xd ent field) g := by
  change ∃ g, ∀ s, execCtlXent t xd ent field s = instr s t (encXent xd ent field) g
  unfold execCtlXent
  exact ⟨_, fun _ => rfl⟩
theorem slot_pwrDecl (t tokens) : ∃ g, ∀ s, exec (.pwrDecl t tokens) s = instr s t (encDecl tokens) g := by
  change ∃ g, ∀ s, execPwrDecl t tokens s = instr s t (encDecl tokens) g
  unfold execPwrDecl
  exact ⟨_, fun _ => rfl⟩
theorem slot_pwrWaitwin (t) : ∃ g, ∀ s, exec (.pwrWaitwin t) s = instr s t (encWaitwin) g := by
  change ∃ g, ∀ s, execPwrWaitwin t s = instr s t (encWaitwin) g
  unfold execPwrWaitwin
  exact ⟨_, fun _ => rfl⟩

/-- The command of a Spindle instruction is one issue slot of its tile with its word. -/
theorem exec_spindle {c : Instr} {u : BitVec 12} {w : DWord} (h : spindleWord c = some (u, w)) :
    ∃ f, ∀ s, exec c s = instr s u w f := by
  have e : ∀ {t : BitVec 12} {v : DWord}, some (t, v) = some (u, w) → (∃ f, ∀ s, exec c s = instr s t v f) → ∃ f, ∀ s, exec c s = instr s u w f := by
    intro t v h g
    injection h with h
    injection h with h1 h2
    subst h1; subst h2; exact g
  cases c with
  | warpPass t f a => exact e h (slot_warpPass t f a)
  | warpPassa t f a => exact e h (slot_warpPassa t f a)
  | weftPass t f a => exact e h (slot_weftPass t f a)
  | weftPassa t f a => exact e h (slot_weftPassa t f a)
  | weftFlip t => exact e h (slot_weftFlip t)
  | vecFma t f => exact e h (slot_vecFma t f)
  | vecAdd t f => exact e h (slot_vecAdd t f)
  | vecMul t f => exact e h (slot_vecMul t f)
  | vecMax t f => exact e h (slot_vecMax t f)
  | vecMin t f => exact e h (slot_vecMin t f)
  | vecExp t f => exact e h (slot_vecExp t f)
  | vecRsqrt t f => exact e h (slot_vecRsqrt t f)
  | vecRcp t f => exact e h (slot_vecRcp t f)
  | vecRsum t f => exact e h (slot_vecRsum t f)
  | vecRmax t f => exact e h (slot_vecRmax t f)
  | vecImac t f => exact e h (slot_vecImac t f)
  | vecLd t f => exact e h (slot_vecLd t f)
  | vecSt t f => exact e h (slot_vecSt t f)
  | vecBcast t f => exact e h (slot_vecBcast t f)
  | vecRot t f => exact e h (slot_vecRot t f)
  | vecSel t f => exact e h (slot_vecSel t f)
  | cvtPack t f => exact e h (slot_cvtPack t f)
  | cvtUnpk t f => exact e h (slot_cvtUnpk t f)
  | cvtGrad t f => exact e h (slot_cvtGrad t f)
  | cvtNarw t f => exact e h (slot_cvtNarw t f)
  | cvtWide t f => exact e h (slot_cvtWide t f)
  | cvtQw t f => exact e h (slot_cvtQw t f)
  | movSend t f => exact e h (slot_movSend t f)
  | movSendv t f => exact e h (slot_movSendv t f)
  | movRecv t f => exact e h (slot_movRecv t f)
  | movRecvv t f => exact e h (slot_movRecvv t f)
  | movRecva t f => exact e h (slot_movRecva t f)
  | tokPost t f => exact e h (slot_tokPost t f)
  | tokWait t f => exact e h (slot_tokWait t f)
  | tokCred t f => exact e h (slot_tokCred t f)
  | ctxPut t f => exact e h (slot_ctxPut t f)
  | ctxGet t f => exact e h (slot_ctxGet t f)
  | ctxAttn t f => exact e h (slot_ctxAttn t f)
  | ctxXget t f => exact e h (slot_ctxXget t f)
  | ctxXput t f => exact e h (slot_ctxXput t f)
  | syncStep t => exact e h (slot_syncStep t)
  | syncMile t => exact e h (slot_syncMile t)
  | syncEmit t f => exact e h (slot_syncEmit t f)
  | ctlNop t n => exact e h (slot_ctlNop t n)
  | ctlLoop t count body => exact e h (slot_ctlLoop t count body)
  | ctlSkip t f => exact e h (slot_ctlSkip t f)
  | ctlXset t xd imm => exact e h (slot_ctlXset t xd imm)
  | ctlXadd t xd xa imm => exact e h (slot_ctlXadd t xd xa imm)
  | ctlXld t xd lop word => exact e h (slot_ctlXld t xd lop word)
  | ctlXent t xd ent field => exact e h (slot_ctlXent t xd ent field)
  | pwrDecl t tokens => exact e h (slot_pwrDecl t tokens)
  | pwrWaitwin t => exact e h (slot_pwrWaitwin t)
  | _ => cases h

end Sys2Proof.Machine
end

