-- ==== Sys2Proof/Laws/Vector.lean ====
section
/-! SUPPORT. Vector registers: reading after writing, tag tests, and the slot of an instruction that writes registers. -/

namespace Sys2Proof.Machine

/-- Any list in canonical form reads back lane by lane. -/
theorem mkVReg_lane (tag : Nat) (l : List Word) (j : Nat) : (mkVReg tag l).lane j = l.getD j 0 := by
  unfold mkVReg VReg.lane
  split
  · rename_i h
    by_cases hj : j < l.length
    · have := List.all_eq_true.mp h l[j] (List.getElem_mem hj)
      simp [List.getD_eq_getElem?_getD, List.getElem?_eq_getElem hj]
      exact (by simpa using this : l[j] = 0).symm
    · simp [List.getD_eq_getElem?_getD, List.getElem?_eq_none (Nat.le_of_not_lt hj)]
  · rfl
@[simp] theorem mkVReg_tag (tag : Nat) (l : List Word) : (mkVReg tag l).tag = tag := by
  unfold mkVReg
  split <;> rfl
theorem VReg.all_getD (v : VReg) {j : Nat} (h : j < 128) : v.all.getD j 0 = v.lane j := by
  simp [VReg.all, List.getD_eq_getElem?_getD, List.getElem?_map, List.getElem?_range, h]
theorem VReg.all_length (v : VReg) : v.all.length = 128 := by simp [VReg.all]

@[simp] theorem vr_setV_self (sp : Spindle) (i : Nat) (v : VReg) : (sp.setV i v).vr i = v := SMap_get_set_self _ _ _ _
theorem vr_setV_ne (sp : Spindle) {i j : Nat} (v : VReg) (h : j ≠ i) : (sp.setV i v).vr j = sp.vr j := SMap_get_set_ne _ _ _ h
/-- Consecutive registers after they have been written. -/
theorem vr_setVs (sp : Spindle) (i tag : Nat) (ls : List (List Word)) (j : Nat) :
    (sp.setVs i tag ls).vr j = if i ≤ j ∧ j < i + ls.length then mkVReg tag (ls.getD (j - i) []) else sp.vr j := by
  induction ls generalizing sp i with
  | nil => simp [Spindle.setVs] <;> omega
  | cons l ls ih =>
    simp only [Spindle.setVs, List.length_cons]
    rw [ih]
    by_cases h : j = i
    · subst h
      rw [if_neg (by omega), if_pos (by omega)]
      simp
    · by_cases h2 : i ≤ j ∧ j < i + (ls.length + 1)
      · rw [if_pos (by omega), if_pos h2]
        have : j - i = (j - (i + 1)) + 1 := by omega
        rw [this]; rfl
      · rw [if_neg (by omega), if_neg h2]; exact vr_setV_ne _ _ h
theorem setV_like (sp : Spindle) (i : Nat) (v : VReg) : SpinLike sp (sp.setV i v) :=
  ⟨⟨⟨rfl, rfl, rfl, rfl, rfl⟩, ⟨rfl, rfl⟩, ⟨rfl, rfl, rfl, rfl, rfl⟩, ⟨rfl, rfl⟩, ⟨rfl, rfl⟩⟩, rfl, rfl, rfl, rfl, rfl, rfl⟩
theorem SpinLike.trans {a b c : Spindle} (h : SpinLike a b) (g : SpinLike b c) : SpinLike a c :=
  ⟨⟨⟨g.frame.store.1.trans h.frame.store.1, g.frame.store.2.1.trans h.frame.store.2.1, g.frame.store.2.2.1.trans h.frame.store.2.2.1,
      g.frame.store.2.2.2.1.trans h.frame.store.2.2.2.1, g.frame.store.2.2.2.2.trans h.frame.store.2.2.2.2⟩,
    ⟨g.frame.channels.1.trans h.frame.channels.1, g.frame.channels.2.trans h.frame.channels.2⟩,
    ⟨g.frame.pending.1.trans h.frame.pending.1, g.frame.pending.2.1.trans h.frame.pending.2.1,
      g.frame.pending.2.2.1.trans h.frame.pending.2.2.1, g.frame.pending.2.2.2.1.trans h.frame.pending.2.2.2.1,
      g.frame.pending.2.2.2.2.trans h.frame.pending.2.2.2.2⟩,
    ⟨g.frame.power.1.trans h.frame.power.1, g.frame.power.2.trans h.frame.power.2⟩,
    ⟨g.frame.records.1.trans h.frame.records.1, g.frame.records.2.trans h.frame.records.2⟩⟩,
   g.pc.trans h.pc, g.frames.trans h.frames, g.turn.trans h.turn, g.occ.trans h.occ, g.tokens.trans h.tokens, g.squash.trans h.squash⟩
theorem SpinLike.rfl (sp : Spindle) : SpinLike sp sp := ⟨SpinFrame.refl sp, Eq.refl _, Eq.refl _, Eq.refl _, Eq.refl _, Eq.refl _, Eq.refl _⟩
theorem setVs_like (sp : Spindle) (i tag : Nat) (ls : List (List Word)) : SpinLike sp (sp.setVs i tag ls) := by
  induction ls generalizing sp i with
  | nil => exact SpinLike.rfl sp
  | cons l ls ih => exact (setV_like sp i _).trans (ih _ _)
theorem setVs_x (sp : Spindle) (i tag : Nat) (ls : List (List Word)) : (sp.setVs i tag ls).x = sp.x := by
  induction ls generalizing sp i with
  | nil => rfl
  | cons l ls ih => exact ih _ _

/-- Registers that carry the tag pass the test. -/
theorem tagFault_none {s : State} {t v n tag o : Nat} (h : Tagged s t v n tag) : (s.spin t).tagFault v n tag o = none := by
  unfold Spindle.tagFault
  have : (List.range n).find? (fun k => ((s.spin t).vr (v + k)).tag != tag) = none := by
    rw [List.find?_eq_none]
    intro k hk
    have := h k (List.mem_range.mp hk)
    simp [this]
  rw [this]
theorem rangeFault_none {a n : Nat} (h : a + n ≤ 32) : rangeFault a n = none := by unfold rangeFault; rw [if_neg]; omega
theorem linesFault_none {s : State} {p line n : Nat} (h : LinesOk s p line n) : s.linesFault p line n = none := by
  unfold State.linesFault
  have : (List.range n).find? (fun k => !s.lineOk p (line + k)) = none := by
    rw [List.find?_eq_none]
    intro k hk
    have := h k (List.mem_range.mp hk)
    simp [this]
  rw [this]

/-- A slot whose effect writes consecutive registers of its own Spindle with one tag. -/
theorem WritesV.of_spin {R : Nat → Bool} {s s' : State} {p t : Nat} {w : DWord} {vd tag : Nat} {ls : List (List Word)}
    (h : SlotFrame R s s' p t) (hs : SlotsPass ((((s.spin t).spend (tokenCost w)).setVs vd tag ls).retired 1) (s'.spin t))
    (g : Nat → Nat → Word) (hg : ∀ i, i < ls.length → ∀ j, j < 128 → (ls.getD i []).getD j 0 = g i j) :
    WritesV R s p t w vd ls.length (fun _ => tag) g s' := by
  have hr : Retired s s' t w 1 ∧ SpinFrame (s.spin t) (s'.spin t) := Retired.of_spin hs (setVs_like _ vd tag ls)
  obtain ⟨_, _, _, _, _, hs⟩ := hs
  have hv : ∀ i, (s'.spin t).vr i = (((s.spin t).spend (tokenCost w)).setVs vd tag ls).vr i := fun i => vr_congr (by rw [hs]; rfl)
  refine ⟨hr.1, hr.2, h, ?_, ?_, ?_⟩
  · intro i hi
    rw [hv, vr_setVs, if_pos (by omega)]
    refine ⟨mkVReg_tag _ _, fun j hj => ?_⟩
    rw [mkVReg_lane, show vd + i - vd = i by omega]
    exact hg i hi j hj
  · intro i hi
    rw [hv, vr_setVs, if_neg (by omega)]
    exact vr_congr rfl
  · intro i
    rw [Spindle.xr_congr (b := ((s.spin t).spend (tokenCost w)).setVs vd tag ls) (by rw [hs]; rfl)]
    exact Spindle.xr_congr (setVs_x _ _ _ _)

end Sys2Proof.Machine
end

