-- ==== Sys2Proof/WellFormed.lean ====
section
/-! DEFINITION. Well-formed commands: the units that a command names exist on some variant of the module (R6, R7, R240, R458, R497), and
its byte strings and addresses have the lengths that the manual gives them. -/

namespace Sys2Proof

/-- A packed logical tile: slots 0-23 of a row (R7). -/
def tileExists (t : Nat) : Bool := decide (t < 4096 ∧ t % 32 < 24)
/-- A packed physical tile: positions 0-24 of a row (R7). -/
def physExists (p : Nat) : Bool := decide (p < 4096 ∧ p % 32 < 25)
/-- A queue pair slot (R458). -/
def slotExists (k : Nat) : Bool := decide (k < 326)
/-- A leaf or a spine, by its IXC_SEL index (R240). -/
def switchExists (u : Nat) : Bool := decide (u / 4096 = 2 ∧ u % 4096 < 128 ∨ u / 4096 = 3 ∧ u % 4096 < 32)
/-- Destination of a flit (R211). -/
def flitDest (f : Flit) : Nat := f.hdr.toNat / 16 % 4096

/-- Well-formedness of a command. -/
def WellFormed : Instr → Bool
  | .registerWrite _ _ _ => true
  | .selectRegisterWrite _ _ _ => true
  | .lowWordRead _ _ => true
  | .rdmaRegisterAccess slot _ write _ len data => slotExists slot.toNat && (!write || data.length == len)
  | .districtWindowBoundary d => decide (d < 50)
  | .partitionStopEnter _ => true
  | .partitionStopped _ => true
  | .watchdogExpiry _ => true
  | .flitDeliver f => tileExists (flitDest f) && f.payload.length == 64
  | .creditReturn f => f.payload.length == 64
  | .hopCrcMismatch unit => switchExists unit.toNat
  | .causewayNak _ _ => true
  | .ixcForeignDrop f => tileExists (flitDest f) && f.payload.length == 64
  | .ixcRetryLimit _ => true
  | .marginRaiseObserved _ _ => true
  | .ppsEdge _ => true
  | .holdoverEnter => true
  | .todArm _ => true
  | .todCancel _ => true
  | .todLoadAtSecond => true
  | .todLoadTimeout => true
  | .warpPass t _ _ => tileExists t.toNat
  | .warpPassa t _ _ => tileExists t.toNat
  | .warpPassEnd t _ => tileExists t.toNat
  | .partitionFaultClear _ => true
  | .arrayWriteDone phys arr _ => physExists phys.toNat && decide (arr.toNat ≤ 8)
  | .svcCalibrate _ => true
  | .svcRewrite _ => true
  | .svcMarginScan _ => true
  | .svcCancel _ => true
  | .spareLoadStart t => physExists t.toNat
  | .spareLoadDone t _ => physExists t.toNat
  | .spareShardTimeout t => physExists t.toNat
  | .serviceComplete t _ => physExists t.toNat
  | .marginScanRound => true
  | .weftPass t _ _ => tileExists t.toNat
  | .weftPassa t _ _ => tileExists t.toNat
  | .weftFlip t => tileExists t.toNat
  | .weftRecalDone t _ => physExists t.toNat
  | .weftRecalPeriodic d => decide (d < 50)
  | .weftSlotWriteDone t _ => physExists t.toNat
  | .weftScrubRead t _ _ => physExists t.toNat
  | .weftRestoreDone t _ => physExists t.toNat
  | .adapterRestoreTimeout _ => true
  | .adapterAllocRetry _ => true
  | .adapterWaitTimeout _ => true
  | .adapterLoadVerified _ _ => true
  | .adapterUnload _ _ => true
  | .adapterFreeze _ _ => true
  | .vecFma t _ => tileExists t.toNat
  | .vecAdd t _ => tileExists t.toNat
  | .vecMul t _ => tileExists t.toNat
  | .vecMax t _ => tileExists t.toNat
  | .vecMin t _ => tileExists t.toNat
  | .vecExp t _ => tileExists t.toNat
  | .vecRsqrt t _ => tileExists t.toNat
  | .vecRcp t _ => tileExists t.toNat
  | .vecRsum t _ => tileExists t.toNat
  | .vecRmax t _ => tileExists t.toNat
  | .vecImac t _ => tileExists t.toNat
  | .vecLd t _ => tileExists t.toNat
  | .vecSt t _ => tileExists t.toNat
  | .vecBcast t _ => tileExists t.toNat
  | .vecRot t _ => tileExists t.toNat
  | .vecSel t _ => tileExists t.toNat
  | .cvtPack t _ => tileExists t.toNat
  | .cvtUnpk t _ => tileExists t.toNat
  | .cvtGrad t _ => tileExists t.toNat
  | .cvtNarw t _ => tileExists t.toNat
  | .cvtWide t _ => tileExists t.toNat
  | .cvtQw t _ => tileExists t.toNat
  | .movSend t _ => tileExists t.toNat
  | .movSendv t _ => tileExists t.toNat
  | .movRecv t _ => tileExists t.toNat
  | .movRecvv t _ => tileExists t.toNat
  | .movRecva t _ => tileExists t.toNat
  | .tokPost t _ => tileExists t.toNat
  | .tokWait t _ => tileExists t.toNat
  | .tokCred t _ => tileExists t.toNat
  | .ctxPut t _ => tileExists t.toNat
  | .ctxGet t _ => tileExists t.toNat
  | .ctxAttn t _ => tileExists t.toNat
  | .ctxXget t _ => tileExists t.toNat
  | .ctxXput t _ => tileExists t.toNat
  | .ctxLanding t => tileExists t.toNat
  | .syncStep t => tileExists t.toNat
  | .syncMile t => tileExists t.toNat
  | .syncEmit t _ => tileExists t.toNat
  | .ctlNop t _ => tileExists t.toNat
  | .ctlLoop t _ _ => tileExists t.toNat
  | .ctlSkip t _ => tileExists t.toNat
  | .ctlXset t _ _ => tileExists t.toNat
  | .ctlXadd t _ _ _ => tileExists t.toNat
  | .ctlXld t _ _ _ => tileExists t.toNat
  | .ctlXent t _ _ _ => tileExists t.toNat
  | .pwrDecl t _ => tileExists t.toNat
  | .pwrWaitwin t => tileExists t.toNat
  | .load => true
  | .loadImageArrived _ => true
  | .loadFetchTimeout => true
  | .patch => true
  | .unload => true
  | .mailboxBadMessage ctx => decide (ctx.toNat < 6)
  | .openReq slot _ => slotExists slot.toNat
  | .appendReq slot _ => slotExists slot.toNat
  | .draftReq slot _ => slotExists slot.toNat
  | .closeReq slot _ => slotExists slot.toNat
  | .ringCredit slot _ => slotExists slot.toNat
  | .openLookupDone _ => true
  | .pendingAdmit _ => true
  | .pendingTimeout _ => true
  | .holdIdleTimeout _ => true
  | .suspendTimeout _ => true
  | .engineTick _ => true
  | .stepBoundary _ => true
  | .milestone _ => true
  | .openPageCopyDone _ _ => true
  | .frameWrite _ => true
  | .noticeClose _ => true
  | .frameRingFull _ => true
  | .hankPop _ => true
  | .hankStage _ _ => true
  | .hankPush _ _ => true
  | .xferOffer _ => true
  | .xferAccept _ => true
  | .xferRefuse _ => true
  | .xferData _ => true
  | .xferEnd _ => true
  | .xferNack _ => true
  | .xferDone _ => true
  | .xferWaitExpiry _ => true
  | .offerTimeout _ => true
  | .jobLoad _ => true
  | .jobReplace _ => true
  | .jobRestore _ => true
  | .jobAdapter _ => true
  | .jobUnloadModel _ => true
  | .shardArrived _ _ _ => true
  | .shardFetchTimeout _ _ => true
  | .loadLayerWrite _ _ => true
  | .barrierRaise _ => true
  | .barrierDrained _ => true
  | .replaceCommit _ => true
  | .barrierRelease _ => true
  | .shardRequestTimeout _ => true
  | .goldenCompare phys arr _ => physExists phys.toNat && decide (arr.toNat < 8)
  | .integrityDetection t _ => tileExists t.toNat
  | .replayStart r => tileExists r.t.toNat
  | .replayDecide t _ _ _ => tileExists t.toNat
  | .rerunDrained _ => true
  | .standinReady _ => true
  | .shadowPass t _ => tileExists t.toNat
  | .shadowDispute t _ _ => tileExists t.toNat
  | .mirrorAdvance _ _ => true
  | .cmReq _ _ src _ _ => src.length == 4
  | .qpTeardown slot => slotExists slot.toNat
  | .cePacket slot => slotExists slot.toNat
  | .cnpReceive slot => slotExists slot.toNat
  | .rateRaise slot => slotExists slot.toNat
  | .pfcPauseReceive _ _ _ => true
  | .pfcBufferThreshold _ _ => true
  | .arpRequest _ _ => true
  | .neighborSolicitation _ target => target.length == 4
  | .icmpEcho _ _ target _ => target.length == 4
  | .ethPortUp _ _ _ => true
  | .ethPortDown _ => true
  | .peerConnect _ _ => true
  | .messageIngress link _ => decide (link ≤ 8)
  | .returnReceive link _ => decide (link ≤ 8)
  | .returnSend link => decide (link ≤ 8)
  | .echo link _ => decide (link ≤ 8)
  | .echoReply link _ => decide (link ≤ 8)
  | .leaReceive _ _ _ => true
  | .leaNak _ _ => true
  | .leaAckTimeout _ => true
  | .laneSwap _ lane => decide (lane.toNat < 5)
  | .sknRetryLimit _ => true
  | .sknSignalDetect _ => true
  | .trainingRecord _ _ => true
  | .sknLossOfSignal _ => true
  | .eyeMeasure _ lane _ _ => decide (lane.toNat < 5)
  | .laneRecalPeriodic _ => true
  | .laneRecalDone _ _ _ => true
  | .pathSetup _ _ _ => true
  | .pathRelease _ _ _ => true
  | .sknRetrain _ => true
  | .sknDisable _ => true
  | .sknEnable _ => true
  | .sknLaneRecal _ => true
  | .rdescValidWrite _ _ _ _ => true
  | .powerGood _ => true
  | .startTimeout => true
  | .fwStartTimeout => true
  | .startRetryReset _ => true
  | .delayedRestart _ => true
  | .ready60s => true
  | .stageConfig _ => true
  | .stageFirmware _ => true
  | .stageBoot _ => true
  | .pushFetched _ _ => true
  | .lcToken _ _ => true
  | .attest _ => true
  | .discardStaged _ => true
  | .retry _ => true
  | .revert _ => true
  | .fallbackStatus _ => true
  | .fallbackLog _ => true
  | .calRoundPeriodic _ d => decide (d < 25)
  | .calRetemp phys arr => physExists phys.toNat && decide (arr.toNat ≤ 8)
  | .gaugeRefCheck _ _ _ _ _ => true
  | .gaugeRefReady => true
  | .gaugeStart _ => true
  | .gaugeStop _ => true
  | .gaugeConversionDone _ => true
  | .gaugeInjectedTrigger _ => true
  | .gaugePassGap => true
  | .thermalScan readings => readings.length == 412
  | .counterSample _ => true
  | .counterBind _ _ => true
  | .sampleNext _ _ => true
  | .logBudgetRefill => true
  | .shutdownTest => true
  | .shutdownTestDone _ _ _ => true
  | .runSet _ _ => true
  | .setDone _ _ _ => true
  | .rawGo _ => true
  | .inputUndervolt _ => true
  | .undervoltClear => true
  | .powerLoss => true
  | .overvoltageTrip => true
  | .inputOvercurrentTrip => true
  | .inputPowerSample _ _ => true
  | .railOvercurrent d _ => decide (d < 50)
  | .railTrip d => decide (d < 50)
  | .standby _ => true
  | .wake _ _ => true
  | .shutdown _ => true
  | .shdnReq => true
  | .shutdownDrainExpiry => true
  | .enableRelease => true
  | .localAckTimeout slot => slotExists slot.toNat
  | .invalidRequest slot => slotExists slot.toNat
  | .cmRep slot _ _ => slotExists slot.toNat
  | .stackPhyParityError _ => true

end Sys2Proof
end

