-- ==== Sys2Proof/Tests/Slice0.lean ====
section
/-! SUPPORT. The author's tests: witnesses that meet the hypotheses of the statements of Certificates/Slice0 (one conjunct for each
clause, with the state and the operands the proof names), ill-formed commands that WellFormed refuses, and outcomes taken from the spec. -/

namespace Sys2Proof.Tests
open Sys2Proof Sys2Proof.Machine
set_option Elab.async false

theorem fetches_of {s : State} {t p : Nat} {w : DWord} (h : (tileOk t = true ∧ (s.spin t).part = some p ∧ (s.part p).prog.isSome = true ∧
    (s.part p).stop = .run) ∧ SMap.get 0 (s.spin t).words (s.spin t).pc = w ∧ SMap.get 0 (s.spin t).parity (s.spin t).pc = wordParity w ∧
    wordLegal w = true ∧ (s.spin t).sync.miled = false) : Fetches s t p w :=
  ⟨h.1.1, h.1.2.1, h.1.2.2.1, h.1.2.2.2, h.2.1, h.2.2.1, h.2.2.2.1, h.2.2.2.2⟩
theorem ready_of {s : State} {t p : Nat} {w : DWord} (h : ((tileOk t = true ∧ (s.spin t).part = some p ∧ (s.part p).prog.isSome = true ∧
    (s.part p).stop = .run) ∧ SMap.get 0 (s.spin t).words (s.spin t).pc = w ∧ SMap.get 0 (s.spin t).parity (s.spin t).pc = wordParity w ∧
    wordLegal w = true ∧ (s.spin t).sync.miled = false) ∧ ((s.spin t).squash = 0 ∧ s.ctxInvalid p t w = false ∧ (s.spin t).passes = [] ∧
    (s.spin t).recvs = [] ∧ (s.spin t).lands = []) ∧ ((s.spin t).holds = [] ∧ (s.spin t).uses = [] ∧ (s.spin t).lineUses = []) ∧
    ((s.spin t).credDue = [] ∧ (s.spin t).done = 0 ∧ (s.leadRooms p t).all (fun r => turnsOf w ≤ r.1) = true) ∧
    tokenCost w ≤ (s.spin t).tokens ∧ (tokenCost w ≠ 0 → (s.spin t).granted = true) ∧ tokenCost w ≤ (s.spin t).grant) : ReadyAt s t p w := by
  obtain ⟨h1, ⟨a, b, c, d, e⟩, f, ⟨g, i, j⟩, k, l, m⟩ := h
  exact ⟨fetches_of h1, a, b, c, d, e, f, g, i, fun r hr => by simpa [hr] using j, k, l, m⟩
theorem dataWaits_of {s : State} {t n : Nat} {f : MovF} (h : ((s.spin t).recvCh f.ch.toNat).valid = true ∧
    ((s.spin t).recvCh f.ch.toNat).gap = none ∧ n ≤ ((s.spin t).recvCh f.ch.toNat).entries.length ∧
    (((s.spin t).recvCh f.ch.toNat).held = true →
      n ≤ ((s.spin t).recvCh f.ch.toNat).depth - ((s.spin t).recvCh f.ch.toNat).heldCnt) ∧
    ∀ k, k < n → ((s.spin t).recvCh f.ch.toNat).entries[k]?.all (fun g => g.kind = 0 ∧ g.tag = f.tag.toNat ∧ g.fmt = f.fmt.toNat ∧
      g.payload.length = 64) = true) : dataWaits s t f n := by
  obtain ⟨a, b, c, d, e⟩ := h
  exact ⟨a, b, c, d, fun k hk g hg => by simpa [hg] using e k hk⟩
theorem canReach_of {s : State} {c a i : Nat} (h : (s.ctxLive c = true ∧ s.inFallback = false) ∧ s.place c a = some i ∧
    (a % 0x100000 < 0x80000 ∨ (s.selected c (a / 0x100000)).isSome = true)) : CanReach s c a i :=
  ⟨h.1.1, h.1.2, h.2.1, h.2.2⟩
theorem canWrite_of {s : State} {c a i : Nat} (h : ((s.ctxLive c = true ∧ s.inFallback = false) ∧ s.place c a = some i ∧
    (a % 0x100000 < 0x80000 ∨ (s.selected c (a / 0x100000)).isSome = true)) ∧ s.quiet a i = true) : CanWrite s c a i :=
  ⟨canReach_of h.1, h.2⟩
theorem tagged_of {s : State} {t v n tag : Nat} (h : ∀ k, k < n → ((s.spin t).vr (v + k)).tag = tag) : Tagged s t v n tag := h
theorem linesOk_of {s : State} {p line n : Nat} (h : ∀ k, k < n → s.lineOk p (line + k) = true) : LinesOk s p line n := h
def isNext (o : Host.Outcome State Fault Refusal) : Bool := match o with | .next _ => true | _ => false
def nextOf (o : Host.Outcome State Fault Refusal) : State := match o with | .next t => t | _ => State.reset
theorem next_of {o : Host.Outcome State Fault Refusal} (h : isNext o = true) : o = .next (nextOf o) := by
  cases o with
  | next s => rfl
  | fault _ => cases h
  | refused _ => cases h
theorem opt_all {α : Type} {o : Option α} {P : α → Prop} [DecidablePred P] (h : o.all (fun r => decide (P r)) = true) : ∀ r, o = some r → P r := by
  rintro r rfl; simpa using h
theorem list_all {α : Type} {l : List α} {P : α → Prop} [DecidablePred P] (h : l.all (fun w => decide (P w)) = true) : ∀ w, w ∈ l → P w :=
  fun w hw => of_decide_eq_true (List.all_eq_true.1 h w hw)
theorem lt_all {P : Nat → Prop} {n : Nat} (h : ∀ i, i < n → 0 < i → P i) : ∀ i, 0 < i → i < n → P i := fun i a b => h i b a
theorem getD_all {l : List Int} (h : (l.all fun v => decide (-2048 ≤ v ∧ v < 2048)) = true) (i : Nat) : -2048 ≤ l.getD i 0 ∧ l.getD i 0 < 2048 := by
  rcases h' : l[i]? with _ | v
  · simp [List.getD, h']
  · simpa [List.getD, h'] using of_decide_eq_true (List.all_eq_true.1 h v (List.mem_of_getElem? h'))
theorem some_getD {α : Type} {o : Option α} {d : α} (h : o.isSome = true) : o = some (o.getD d) := by cases o <;> simp_all
theorem pair_of {α : Type} {x : Bool × α} {b : Bool} (h : x.1 = b) : x = (b, x.2) := by rw [← h]
theorem long_of {l : List Bytes} {m : Bytes} {n : Nat} (h : l = [List.replicate n 0]) (hm : 2097152 < n + m.length) :
    2097152 < (l.map List.length).sum + m.length := by subst h; simpa using hm
theorem pool_of {s : State} {x : Session} {n k : Nat} {a : Word} (h : s.serve.sessions = [x]) (hx : x.append = List.replicate n a)
    (hn : s.inputPool < n + k) : s.inputPool < s.inputUse + k := by
  have : s.inputUse = x.input.length + n := by simp [State.inputUse, h, hx]
  omega
def wd (l : List DWord) (f : Spindle → Spindle := id) : Spindle :=
  f { Spindle.init with part := some 0, words := (List.range l.length).map (fun i => (i, l.getD i 0)), parity := (List.range l.length).map (fun i => (i, wordParity (l.getD i 0))), len := l.length, tokens := 4000, grant := 4000, granted := true }
def prog0 (ts : List Nat) : Prog := ⟨0x1234, 0, [], [], ts.map fun t => (t, 0)⟩
def base (l : List DWord) (f : Spindle → Spindle := id) : State :=
  let s := { State.reset with spindles := [(0, wd l f)], parts := [(0, { PartSt.init with prog := some (prog0 [0]) })] }
  let s := s.setReg Reg.cfgTileOwner 0 16
  let s := s.setReg Reg.cfgPartSlice 0 (4096 * 65536 % 2^32 )
  s
def vf : VecF := { ty := 0, cnt := 1, lop := ⟨0,4⟩, vd := 4, va := 8, vb := 12, vc := 16, imm := 3 }
def vr (tag k : Nat) : VReg := { tag := tag, lanes := (List.range 128).map fun i => (BitVec.ofNat 32 (if tag == 6 then 0x3F800000 + 0x12345 * (i + k) else if tag == 5 then 0x3F80 + 3*(i+k) else 123456789 * (i + k + 1))) }
def vs (tag : Nat) : SMap VReg := (List.range 32).map fun i => (i, vr tag i)
def V5 := vs 5
def V6 := vs 6
def vf1 : VecF := { vf with ty := 1 }
def capd (s : State) (p cls : Nat) : State := s.setFld (Reg.ixcShare + 32 * p + 4 * cls) 0 16 0 65536
def ses (f : Session → Session := id) : Session := f { (default : Session) with id := 0xA1, part := 0, st := .gen, prev := .pending, rtag := 0xBB, model := 0x77, epoch := 3, clen := 5, ctxMax := 20, next := 0x51, toks := [1,2,3,4,5], blocks := [1,2], slice := true }
def sv (ss : List Session := []) (pf : PartSt → PartSt := id) (vf : ServPart → ServPart := id) : State :=
  let s := base [encXset 1 1]
  let s := { s with ctxs := [(1, { (default : Ctx) with bound := true, qp := 1, sel := [(5, 0x2011), (2, 0)] })] }
  let s := s.setReg Reg.srvPcfg 0 (3 + 3*4 + 3*1024 + 1*8192)
  let s := s.setReg Reg.srvCtxSlice 0 (8*65536+10)
  let s := s.setReg Reg.srvCtxStack 0 8
  let s := s.setReg Reg.cfgPartStackLines 0 2000
  let s := (s.setReg Reg.srvBraidBase 0 300).setReg Reg.srvBraidLines 0 600
  let s := (s.setReg Reg.srvSliceCtx 0 32).setReg Reg.srvCtxLimit 0 100
  let s := (s.setReg (Reg.cfgRdmaHost+16) 0 0x80000002).setReg (Reg.cfgRdmaLines+16) 0 100000
  let s := (s.setReg (Reg.cfgRdmaSlot+8) 0 10).setReg (Reg.cfgRdmaKey+8) 0 0xFEED
  let s := (s.setReg (Reg.cfgHost+32) 0 0x0A000001)
  let s := s.setReg Reg.srvRingCfg 0 (13 + 256)
  let s := s.setFld Reg.cfgPartDef 0 2 0 1
  { s with
    qps := [(10, { Qp.init with st := 2, ip := [0x0A000001,0,0,0] })]
    parts := [(0, pf { PartSt.init with prog := some { prog0 [0] with model := 0x77 } })]
    wgt := { WgtSt.init with models := [(2, { ModelSt.init with id := 0x77, st := 2, epoch := 3 })] }
    serve := { ServSt.init with sessions := ss, opened := 7, parts := [(0, vf ServPart.init)] } }
def rq (op flags : Nat) (toks : List Nat) (ctxMax : Nat := 20) (w52 : Nat := 0) (ses : Nat := 0xA1) (w24 : Nat := 0) (model : Nat := 0x77) (part : Nat := 0) : Bytes :=
  natLe op 1 ++ natLe part 1 ++ natLe flags 2 ++ natLe ses 4 ++ natLe 0xCC 4 ++ natLe model 4 ++ natLe 0xFFFF 2 ++ natLe 0 2 ++ natLe 0 4 ++ natLe w24 4 ++ natLe ctxMax 4 ++ natLe 0 16 ++ natLe toks.length 2 ++ natLe 0 2 ++ natLe w52 4 ++ natLe 0 8 ++ toks.flatMap fun t => natLe t 4

namespace T1
def xs : SMap Word := [(1, 5), (2, 77), (3, 0xFFFFFFFF)]
def w1 : State := base [encXset 3 9] fun s => { s with x := xs }

theorem witness_IndexAndPowerInstructions_1 :
    (∃ s : State, ∃ t : BitVec 12, ∃ p : Nat, ∃ xd : BitVec 4, ∃ imm : Word, ReadyAt s t.toNat p (encXset xd imm)) ∧
    (∃ s : State, ∃ t : BitVec 12, ∃ p : Nat, ∃ xd : BitVec 4, ∃ xa : BitVec 4, ∃ imm : Word, ReadyAt s t.toNat p (encXadd xd xa imm)) ∧
    (∃ s : State, ∃ t : BitVec 12, ∃ p : Nat, ∃ xd : BitVec 4, ∃ lop : Lop, ∃ word : BitVec 4, ReadyAt s t.toNat p (encXld xd lop word) ∧ s.lineOk p ((s.spin t.toNat).lop lop) = true) :=
  ⟨⟨w1, 0, 0, 3, 9, (ready_of (by decide +kernel))⟩,
   ⟨((base [encXadd 3 1 0xFFFFFFFF, encXset 1 1] fun s => { s with x := xs })), 0, 0, 3, 1, 0xFFFFFFFF, (ready_of (by decide +kernel))⟩,
   ⟨({ base [encXld 4 ⟨1,10⟩ 3] (fun s => { s with x := xs }) with slices := [(64*15+12,7), (64*15+14,9)] }), 0, 0, 4, (⟨1,10⟩), 3, (ready_of (by decide +kernel)), (by decide +kernel)⟩⟩

end T1

namespace T2
def xs : SMap Word := [(1, 5), (2, 77), (3, 0xFFFF)]
def sk (c : BitVec 3) (i : BitVec 16) : SkipF := { cond := c, xa := 3, imm := i, n := 2 }
def vf : VecF := { ty := 0, cnt := 1, lop := ⟨0,4⟩, vd := 4, va := 8, vb := 12, vc := 16, imm := 3 }
def bad1 : State := base [encVec 1 vf] fun s => {s with parity := [(0,wordParity (encVec 1 vf) + 1)]}
def two : State := { base [encNop 9] with spindles := [(0, wd [encNop 9] fun s => {s with turn := 60}), (1, wd [encNop 3])], parts := [(0, { PartSt.init with prog := some (prog0 [0,1]) })] }

theorem witness_IndexAndPowerInstructions_2 :
    (∃ s : State, ∃ t : BitVec 12, ∃ p : Nat, ∃ xd : BitVec 4, ∃ ent : Ent, ∃ field : BitVec 4, ReadyAt s t.toNat p (encXent xd ent field) ∧ (s.spin t.toNat).ent ent ≤ 255) ∧
    (∃ s : State, ∃ t : BitVec 12, ∃ p : Nat, ∃ n : BitVec 12, ReadyAt s t.toNat p (encDecl n)) ∧
    (∃ s : State, ∃ t : BitVec 12, ∃ p : Nat, ReadyAt s t.toNat p encWaitwin ∧ (s.spin t.toNat).sync.win = 2) ∧
    (∃ s : State, ∃ t : BitVec 12, ∃ p : Nat, ReadyAt s t.toNat p encWaitwin ∧ (s.spin t.toNat).sync.win ≠ 2) :=
  ⟨⟨((base [encXent 4 ⟨1,3⟩ 2] fun s => { s with x := xs })), 0, 0, 4, (⟨1,3⟩), 2, (ready_of (by decide +kernel)), (by decide +kernel)⟩,
   ⟨((base [encDecl 9] )), 0, 0, 9, (ready_of (by decide +kernel))⟩,
   ⟨((base [encWaitwin] fun s => {s with sync := {s.sync with win := 2}})), 0, 0, (ready_of (by decide +kernel)), (by decide +kernel)⟩,
   ⟨((base [encWaitwin] )), 0, 0, (ready_of (by decide +kernel)), (by decide +kernel)⟩⟩

theorem witness_ControlFlowInstructions_1 :
    (∃ s : State, ∃ t : BitVec 12, ∃ p : Nat, ∃ n : BitVec 12, ReadyAt s t.toNat p (encNop n)) ∧
    (∃ s : State, ∃ t : BitVec 12, ∃ p : Nat, ∃ count : BitVec 16, ∃ body : BitVec 12, ReadyAt s t.toNat p (encLoop count body) ∧ 0 < body.toNat) ∧
    (∃ s : State, ∃ t : BitVec 12, ∃ p : Nat, ∃ f : SkipF, ReadyAt s t.toNat p (encSkip f)) ∧
    (∃ pc : Nat, ∃ len : Nat, ∃ restart : Nat, ∃ f : LoopFrame, ∃ fs : List LoopFrame, f.last = pc ∧ 0 < f.left) ∧
    (∃ pc : Nat, ∃ len : Nat, ∃ restart : Nat, ∃ f : LoopFrame, ∃ fs : List LoopFrame, len ≤ pc + 1) ∧
    (∃ pc : Nat, ∃ len : Nat, ∃ restart : Nat, ∃ f : LoopFrame, ∃ fs : List LoopFrame, f.last = pc ∧ f.left = 0) :=
  ⟨⟨((base [encNop 9] )), 0, 0, 9, (ready_of (by decide +kernel))⟩,
   ⟨((base [encLoop 3 1, encNop 0] )), 0, 0, 3, 1, (ready_of (by decide +kernel)), (by decide +kernel)⟩,
   ⟨((base [encSkip (sk 2 5)] fun s => { s with x := xs } )), 0, 0, (sk 2 5), (ready_of (by decide +kernel))⟩,
   ⟨4, 5, 1, (⟨2,4,1⟩), ([⟨1,4,0⟩]), (by decide +kernel), (by decide +kernel)⟩,
   ⟨4, 5, 1, (⟨2,4,1⟩), ([⟨1,4,0⟩]), (by decide +kernel)⟩,
   ⟨4, 6, 1, (⟨2,4,0⟩), ([⟨1,4,0⟩]), (by decide +kernel), (by decide +kernel)⟩⟩

theorem witness_ControlFlowInstructions_2 :
    (∃ pc : Nat, ∃ len : Nat, ∃ restart : Nat, ∃ f : LoopFrame, ∃ fs : List LoopFrame, pc + 1 < len) ∧
    (∃ pc : Nat, ∃ len : Nat, ∃ restart : Nat, ∃ f : LoopFrame, ∃ fs : List LoopFrame, f.last ≠ pc) :=
  ⟨⟨4, 6, 1, (⟨2,4,0⟩), ([⟨1,4,0⟩]), (by decide +kernel)⟩,
   ⟨3, 5, 1, (⟨2,4,0⟩), ([⟨1,4,0⟩]), (by decide +kernel)⟩⟩

theorem witness_SquashedAndBadWords_1 :
    (∃ s : State, ∃ c : Instr, ∃ t : BitVec 12, ∃ w : DWord, ∃ p : Nat, spindleWord c = some (t, w) ∧ Fetches s t.toNat p w ∧ ((s.spin t.toNat).squash ≠ 0 ∧ wCls w ∈ [0, 1, 2, 3, 6] ∨ s.ctxInvalid p t.toNat w = true) ∧ (∀ (r : Nat × Nat), s.leadRooms p t.toNat = some r → 1 ≤ r.fst) ∧ (s.spin t.toNat).credDue = []) ∧
    (∃ s : State, ∃ c : Instr, ∃ t : BitVec 12, ∃ w : DWord, ∃ p : Nat, spindleWord c = some (t, w) ∧ tileOk t.toNat = true ∧ (s.spin t.toNat).part = some p ∧ (s.part p).prog.isSome = true ∧ (s.part p).stop = Stop.run ∧ (s.spin t.toNat).sync.miled = false ∧ (s.spin t.toNat).credDue = [] ∧ (s.part p).runKind ≠ RunKind.standIn ∧ (SMap.get 0 (s.spin t.toNat).parity (s.spin t.toNat).pc ≠ wordParity (SMap.get 0 (s.spin t.toNat).words (s.spin t.toNat).pc) ∨ wordLegal (SMap.get 0 (s.spin t.toNat).words (s.spin t.toNat).pc) = false)) :=
  ⟨⟨((base [encVec 1 vf] fun s => {s with squash := 2})), (Instr.vecAdd 0 vf), 0, (encVec 1 vf), 0, (by decide +kernel), (fetches_of (by decide +kernel)), (by decide +kernel), (opt_all (by decide +kernel)), (by decide +kernel)⟩,
   ⟨bad1, (Instr.vecAdd 0 vf), 0, (encVec 1 vf), 0, (by decide +kernel), (by decide +kernel), (by decide +kernel), (by decide +kernel), (by decide +kernel), (by decide +kernel), (by decide +kernel), (by decide +kernel), (by decide +kernel)⟩⟩

theorem witness_NoSpindlePassesTheLeadLimit_1 :
    ∃ s : State, ∃ c : Instr, ∃ t : BitVec 12, ∃ w : DWord, ∃ p : Nat, spindleWord c = some (t, w) ∧ tileOk t.toNat = true ∧ (s.spin t.toNat).part = some p :=
  ⟨two, (Instr.ctlNop 0 9), 0, (encNop 9), 0, (by decide +kernel), (by decide +kernel), (by decide +kernel)⟩

end T2

namespace T3
def vf : VecF := { ty := 0, cnt := 1, lop := ⟨0,4⟩, vd := 4, va := 8, vb := 12, vc := 16, imm := 3 }
def vr (tag k : Nat) : VReg := { tag := tag, lanes := (List.range 128).map fun i => (BitVec.ofNat 32 (if tag == 6 then 0x3F800000 + 0x12345 * (i + k) else if tag == 5 then 0x3F80 + 3*(i+k) else 123456789 * (i + k + 1))) }
def vs (tag : Nat) : SMap VReg := (List.range 32).map fun i => (i, vr tag i)
def V2 := vs 2
def V5 := vs 5
def vf2 : VecF := { vf with ty := 2 }
def arr (m : SMap VReg) : Array (Array Word) := (m.map fun e => e.2.lanes.toArray).toArray
def A2 := arr V2
def A5 := arr V5
def a2 (i j : Nat) : Word := (A2.getD i #[]).getD j 0
def a5 (i j : Nat) : Word := (A5.getD i #[]).getD j 0

theorem witness_VectorLaneArithmetic_1 :
    (∃ s : State, ∃ t : BitVec 12, ∃ p : Nat, ∃ f : VecF, ∃ n : Nat, ∃ tag : Nat, ∃ A : Nat → Nat → Word, ∃ B : Nat → Nat → Word, ∃ C : Nat → Nat → Word, ∃ D : Nat → Nat → Word, n = f.cnt.toNat + 1 ∧ tag = tyTag f.ty.toNat ∧ f.vd.toNat + n ≤ 32 ∧ f.va.toNat + n ≤ 32 ∧ f.vb.toNat + n ≤ 32 ∧ Tagged s t.toNat f.va.toNat n tag ∧ Tagged s t.toNat f.vb.toNat n tag ∧ (∀ (k j : Nat), A k j = ((s.spin t.toNat).vr (f.va.toNat + k)).lane j) ∧ (∀ (k j : Nat), B k j = ((s.spin t.toNat).vr (f.vb.toNat + k)).lane j) ∧ (∀ (k j : Nat), C k j = ((s.spin t.toNat).vr (f.vc.toNat + k)).lane j) ∧ (∀ (k j : Nat), D k j = ((s.spin t.toNat).vr (f.vd.toNat + k)).lane j) ∧ ReadyAt s t.toNat p (encVec 1 f)) ∧
    (∃ s : State, ∃ t : BitVec 12, ∃ p : Nat, ∃ f : VecF, ∃ n : Nat, ∃ tag : Nat, ∃ A : Nat → Nat → Word, ∃ B : Nat → Nat → Word, ∃ C : Nat → Nat → Word, ∃ D : Nat → Nat → Word, n = f.cnt.toNat + 1 ∧ tag = tyTag f.ty.toNat ∧ f.vd.toNat + n ≤ 32 ∧ f.va.toNat + n ≤ 32 ∧ f.vb.toNat + n ≤ 32 ∧ Tagged s t.toNat f.va.toNat n tag ∧ Tagged s t.toNat f.vb.toNat n tag ∧ (∀ (k j : Nat), A k j = ((s.spin t.toNat).vr (f.va.toNat + k)).lane j) ∧ (∀ (k j : Nat), B k j = ((s.spin t.toNat).vr (f.vb.toNat + k)).lane j) ∧ (∀ (k j : Nat), C k j = ((s.spin t.toNat).vr (f.vc.toNat + k)).lane j) ∧ (∀ (k j : Nat), D k j = ((s.spin t.toNat).vr (f.vd.toNat + k)).lane j) ∧ ReadyAt s t.toNat p (encVec 2 f)) ∧
    (∃ s : State, ∃ t : BitVec 12, ∃ p : Nat, ∃ f : VecF, ∃ n : Nat, ∃ tag : Nat, ∃ A : Nat → Nat → Word, ∃ B : Nat → Nat → Word, ∃ C : Nat → Nat → Word, ∃ D : Nat → Nat → Word, n = f.cnt.toNat + 1 ∧ tag = tyTag f.ty.toNat ∧ f.vd.toNat + n ≤ 32 ∧ f.va.toNat + n ≤ 32 ∧ f.vb.toNat + n ≤ 32 ∧ Tagged s t.toNat f.va.toNat n tag ∧ Tagged s t.toNat f.vb.toNat n tag ∧ (∀ (k j : Nat), A k j = ((s.spin t.toNat).vr (f.va.toNat + k)).lane j) ∧ (∀ (k j : Nat), B k j = ((s.spin t.toNat).vr (f.vb.toNat + k)).lane j) ∧ (∀ (k j : Nat), C k j = ((s.spin t.toNat).vr (f.vc.toNat + k)).lane j) ∧ (∀ (k j : Nat), D k j = ((s.spin t.toNat).vr (f.vd.toNat + k)).lane j) ∧ ReadyAt s t.toNat p (encVec 3 f)) ∧
    (∃ s : State, ∃ t : BitVec 12, ∃ p : Nat, ∃ f : VecF, ∃ n : Nat, ∃ tag : Nat, ∃ A : Nat → Nat → Word, ∃ B : Nat → Nat → Word, ∃ C : Nat → Nat → Word, ∃ D : Nat → Nat → Word, n = f.cnt.toNat + 1 ∧ tag = tyTag f.ty.toNat ∧ f.vd.toNat + n ≤ 32 ∧ f.va.toNat + n ≤ 32 ∧ f.vb.toNat + n ≤ 32 ∧ Tagged s t.toNat f.va.toNat n tag ∧ Tagged s t.toNat f.vb.toNat n tag ∧ (∀ (k j : Nat), A k j = ((s.spin t.toNat).vr (f.va.toNat + k)).lane j) ∧ (∀ (k j : Nat), B k j = ((s.spin t.toNat).vr (f.vb.toNat + k)).lane j) ∧ (∀ (k j : Nat), C k j = ((s.spin t.toNat).vr (f.vc.toNat + k)).lane j) ∧ (∀ (k j : Nat), D k j = ((s.spin t.toNat).vr (f.vd.toNat + k)).lane j) ∧ ReadyAt s t.toNat p (encVec 4 f)) ∧
    (∃ s : State, ∃ t : BitVec 12, ∃ p : Nat, ∃ f : VecF, ∃ n : Nat, ∃ tag : Nat, ∃ A : Nat → Nat → Word, ∃ B : Nat → Nat → Word, ∃ C : Nat → Nat → Word, ∃ D : Nat → Nat → Word, n = f.cnt.toNat + 1 ∧ tag = tyTag f.ty.toNat ∧ f.vd.toNat + n ≤ 32 ∧ f.va.toNat + n ≤ 32 ∧ f.vb.toNat + n ≤ 32 ∧ Tagged s t.toNat f.va.toNat n tag ∧ Tagged s t.toNat f.vb.toNat n tag ∧ (∀ (k j : Nat), A k j = ((s.spin t.toNat).vr (f.va.toNat + k)).lane j) ∧ (∀ (k j : Nat), B k j = ((s.spin t.toNat).vr (f.vb.toNat + k)).lane j) ∧ (∀ (k j : Nat), C k j = ((s.spin t.toNat).vr (f.vc.toNat + k)).lane j) ∧ (∀ (k j : Nat), D k j = ((s.spin t.toNat).vr (f.vd.toNat + k)).lane j) ∧ ReadyAt s t.toNat p (encVec 10 f) ∧ f.ty = 2 ∧ Tagged s t.toNat f.vd.toNat n 2) ∧
    (∃ s : State, ∃ t : BitVec 12, ∃ p : Nat, ∃ f : VecF, ∃ n : Nat, ∃ tag : Nat, ∃ A : Nat → Nat → Word, ∃ B : Nat → Nat → Word, ∃ C : Nat → Nat → Word, ∃ D : Nat → Nat → Word, n = f.cnt.toNat + 1 ∧ tag = tyTag f.ty.toNat ∧ f.vd.toNat + n ≤ 32 ∧ f.va.toNat + n ≤ 32 ∧ f.vb.toNat + n ≤ 32 ∧ Tagged s t.toNat f.va.toNat n tag ∧ Tagged s t.toNat f.vb.toNat n tag ∧ (∀ (k j : Nat), A k j = ((s.spin t.toNat).vr (f.va.toNat + k)).lane j) ∧ (∀ (k j : Nat), B k j = ((s.spin t.toNat).vr (f.vb.toNat + k)).lane j) ∧ (∀ (k j : Nat), C k j = ((s.spin t.toNat).vr (f.vc.toNat + k)).lane j) ∧ (∀ (k j : Nat), D k j = ((s.spin t.toNat).vr (f.vd.toNat + k)).lane j) ∧ ReadyAt s t.toNat p (encVec 0 f) ∧ f.vc.toNat + n ≤ 32 ∧ (∀ (k : Nat), k < n → ((s.spin t.toNat).vr (f.vc.toNat + k)).tag = tag ∨ tag = 5 ∧ ((s.spin t.toNat).vr (f.vc.toNat + k)).tag = 6)) :=
  ⟨⟨((base [encVec 1 vf] fun s => {s with v := V5})), 0, 0, vf, 2, (tyTag (VecF.ty vf).toNat), _, _, _, _, (by decide +kernel), (by decide +kernel), (by decide +kernel), (by decide +kernel), (by decide +kernel), (tagged_of (by decide +kernel)), (tagged_of (by decide +kernel)), (fun _ _ => rfl), (fun _ _ => rfl), (fun _ _ => rfl), (fun _ _ => rfl), (ready_of (by decide +kernel))⟩,
   ⟨((base [encVec 2 vf] fun s => {s with v := V5})), 0, 0, vf, 2, (tyTag (VecF.ty vf).toNat), _, _, _, _, (by decide +kernel), (by decide +kernel), (by decide +kernel), (by decide +kernel), (by decide +kernel), (tagged_of (by decide +kernel)), (tagged_of (by decide +kernel)), (fun _ _ => rfl), (fun _ _ => rfl), (fun _ _ => rfl), (fun _ _ => rfl), (ready_of (by decide +kernel))⟩,
   ⟨((base [encVec 3 vf] fun s => {s with v := V5})), 0, 0, vf, 2, (tyTag (VecF.ty vf).toNat), _, _, _, _, (by decide +kernel), (by decide +kernel), (by decide +kernel), (by decide +kernel), (by decide +kernel), (tagged_of (by decide +kernel)), (tagged_of (by decide +kernel)), (fun _ _ => rfl), (fun _ _ => rfl), (fun _ _ => rfl), (fun _ _ => rfl), (ready_of (by decide +kernel))⟩,
   ⟨((base [encVec 4 vf] fun s => {s with v := V5})), 0, 0, vf, 2, (tyTag (VecF.ty vf).toNat), _, _, _, _, (by decide +kernel), (by decide +kernel), (by decide +kernel), (by decide +kernel), (by decide +kernel), (tagged_of (by decide +kernel)), (tagged_of (by decide +kernel)), (fun _ _ => rfl), (fun _ _ => rfl), (fun _ _ => rfl), (fun _ _ => rfl), (ready_of (by decide +kernel))⟩,
   ⟨((base [encVec 10 vf2] fun s => {s with v := V2})), 0, 0, vf2, 2, (tyTag (VecF.ty vf2).toNat), _, _, _, _, (by decide +kernel), (by decide +kernel), (by decide +kernel), (by decide +kernel), (by decide +kernel), (tagged_of (by decide +kernel)), (tagged_of (by decide +kernel)), (fun _ _ => rfl), (fun _ _ => rfl), (fun _ _ => rfl), (fun _ _ => rfl), (ready_of (by decide +kernel)), (by decide +kernel), (tagged_of (by decide +kernel))⟩,
   ⟨((base [encVec 0 vf] fun s => {s with v := V5})), 0, 0, vf, 2, (tyTag (VecF.ty vf).toNat), _, _, _, _, (by decide +kernel), (by decide +kernel), (by decide +kernel), (by decide +kernel), (by decide +kernel), (tagged_of (by decide +kernel)), (tagged_of (by decide +kernel)), (fun _ _ => rfl), (fun _ _ => rfl), (fun _ _ => rfl), (fun _ _ => rfl), (ready_of (by decide +kernel)), (by decide +kernel), (by decide +kernel)⟩⟩

theorem witness_VectorLaneArithmetic_2 :
    ∃ s : State, ∃ t : BitVec 12, ∃ p : Nat, ∃ f : VecF, ∃ n : Nat, ∃ tag : Nat, ∃ A : Nat → Nat → Word, ∃ B : Nat → Nat → Word, ∃ C : Nat → Nat → Word, ∃ D : Nat → Nat → Word, n = f.cnt.toNat + 1 ∧ tag = tyTag f.ty.toNat ∧ f.vd.toNat + n ≤ 32 ∧ f.va.toNat + n ≤ 32 ∧ f.vb.toNat + n ≤ 32 ∧ Tagged s t.toNat f.va.toNat n tag ∧ Tagged s t.toNat f.vb.toNat n tag ∧ (∀ (k j : Nat), A k j = ((s.spin t.toNat).vr (f.va.toNat + k)).lane j) ∧ (∀ (k j : Nat), B k j = ((s.spin t.toNat).vr (f.vb.toNat + k)).lane j) ∧ (∀ (k j : Nat), C k j = ((s.spin t.toNat).vr (f.vc.toNat + k)).lane j) ∧ (∀ (k j : Nat), D k j = ((s.spin t.toNat).vr (f.vd.toNat + k)).lane j) ∧ ReadyAt s t.toNat p (encVec 15 f) ∧ f.vc.toNat + n ≤ 32 :=
  ⟨((base [encVec 15 vf] fun s => {s with v := V5})), 0, 0, vf, 2, (tyTag (VecF.ty vf).toNat), _, _, _, _, (by decide +kernel), (by decide +kernel), (by decide +kernel), (by decide +kernel), (by decide +kernel), (tagged_of (by decide +kernel)), (tagged_of (by decide +kernel)), (fun _ _ => rfl), (fun _ _ => rfl), (fun _ _ => rfl), (fun _ _ => rfl), (ready_of (by decide +kernel)), (by decide +kernel)⟩

end T3

namespace T4
def mem : SMap Byte := (List.range 2048).map fun i => (i+128, BitVec.ofNat 8 (i*7+1+i/3))
def cf (fm : BitVec 3) (sr : Bool := false) : CvtF := { vreg := 4, cnt := 1, fmt := fm, sr := sr, lop := ⟨0,4⟩, rank := 0, up := false }

theorem witness_ReductionTreeSplitsInHalves_1 :
    ∃ g : Word → Word → Word, ∃ k : Nat, ∃ a : List Word, ∃ b : List Word, a.length = 2 ^ k ∧ b.length = 2 ^ k :=
  ⟨fpAdd, 3, ((List.range 8).map (fun i => BitVec.ofNat 32 (0x3F800000+i*65536))), ((List.range 8).map (fun i => BitVec.ofNat 32 (0x3F800000+i*165536))), (by decide +kernel), (by decide +kernel)⟩

theorem witness_ConversionInstructions_1 :
    (∃ s : State, ∃ t : BitVec 12, ∃ p : Nat, ∃ f : CvtF, ∃ n : Nat, ∃ line : Nat, n = f.cnt.toNat + 1 ∧ line = (s.spin t.toNat).lop f.lop ∧ f.vreg.toNat + n ≤ 32 ∧ ReadyAt s t.toNat p (encCvt 0 f) ∧ f.fmt.toNat ∈ [1, 2, 3] ∧ LinesOk s p line (ceilDiv (vectorBytes f.fmt.toNat (128 * n)) 64) ∧ (∀ (k : Nat), k < n → ((s.spin t.toNat).vr (f.vreg.toNat + k)).tag = 5 ∨ ((s.spin t.toNat).vr (f.vreg.toNat + k)).tag = 6)) ∧
    (∃ s : State, ∃ t : BitVec 12, ∃ p : Nat, ∃ f : CvtF, ∃ n : Nat, ∃ line : Nat, n = f.cnt.toNat + 1 ∧ line = (s.spin t.toNat).lop f.lop ∧ f.vreg.toNat + n ≤ 32 ∧ ReadyAt s t.toNat p (encCvt 2 f) ∧ f.fmt.toNat = 4 ∧ LinesOk s p line (2 * n) ∧ (∀ (k : Nat), k < n → ((s.spin t.toNat).vr (f.vreg.toNat + k)).tag = 5 ∨ ((s.spin t.toNat).vr (f.vreg.toNat + k)).tag = 6)) ∧
    (∃ s : State, ∃ t : BitVec 12, ∃ p : Nat, ∃ f : CvtF, ∃ n : Nat, ∃ line : Nat, n = f.cnt.toNat + 1 ∧ line = (s.spin t.toNat).lop f.lop ∧ f.vreg.toNat + n ≤ 32 ∧ ReadyAt s t.toNat p (encCvt 1 f) ∧ (1 ≤ f.fmt.toNat ∧ f.fmt.toNat ≤ 5) ∧ LinesOk s p line (ceilDiv (vectorBytes f.fmt.toNat (128 * n)) 64)) ∧
    (∃ s : State, ∃ t : BitVec 12, ∃ p : Nat, ∃ f : CvtF, ∃ n : Nat, ∃ line : Nat, n = f.cnt.toNat + 1 ∧ line = (s.spin t.toNat).lop f.lop ∧ f.vreg.toNat + n ≤ 32 ∧ ReadyAt s t.toNat p (encCvt 3 f) ∧ Tagged s t.toNat f.vreg.toNat n 6) ∧
    (∃ s : State, ∃ t : BitVec 12, ∃ p : Nat, ∃ f : CvtF, ∃ n : Nat, ∃ line : Nat, n = f.cnt.toNat + 1 ∧ line = (s.spin t.toNat).lop f.lop ∧ f.vreg.toNat + n ≤ 32 ∧ ReadyAt s t.toNat p (encCvt 4 f) ∧ Tagged s t.toNat f.vreg.toNat n 5) :=
  ⟨⟨({ (base [encCvt 0 (cf 1 true)] fun s => {s with v := V6}) with slices := mem }), 0, 0, (cf 1 true), 2, 4, (by decide +kernel), (by decide +kernel), (by decide +kernel), (ready_of (by decide +kernel)), (by decide +kernel), (linesOk_of (by decide +kernel)), (by decide +kernel)⟩,
   ⟨({ (base [encCvt 2 (cf 4)] fun s => {s with v := V6}) with slices := mem }), 0, 0, (cf 4), 2, 4, (by decide +kernel), (by decide +kernel), (by decide +kernel), (ready_of (by decide +kernel)), (by decide +kernel), (linesOk_of (by decide +kernel)), (by decide +kernel)⟩,
   ⟨({ (base [encCvt 1 (cf 1)] fun s => {s with v := V6}) with slices := mem }), 0, 0, (cf 1), 2, 4, (by decide +kernel), (by decide +kernel), (by decide +kernel), (ready_of (by decide +kernel)), (by decide +kernel), (linesOk_of (by decide +kernel))⟩,
   ⟨({ (base [encCvt 3 (cf 5)] fun s => {s with v := V6}) with slices := mem }), 0, 0, (cf 5), 2, 4, (by decide +kernel), (by decide +kernel), (by decide +kernel), (ready_of (by decide +kernel)), (tagged_of (by decide +kernel))⟩,
   ⟨({ (base [encCvt 4 (cf 5)] fun s => {s with v := V5}) with slices := mem }), 0, 0, (cf 5), 2, 4, (by decide +kernel), (by decide +kernel), (by decide +kernel), (ready_of (by decide +kernel)), (tagged_of (by decide +kernel))⟩⟩

end T4

namespace T5
def mem : SMap Byte := (List.range 400).map fun i => (i+200, BitVec.ofNat 8 (i*7+1+i/3))
def qf : CvtF := { vreg := 4, cnt := 0, fmt := 5, sr := false, lop := ⟨0,4⟩, rank := 4, up := true }
def qs (st : Nat) : State := { base [encCvt 5 qf] with slices := mem.take 64, wefts := [(0, { WeftArr.init with slot0 := { WeftSlot.init with st := .resident, entry := some 3, rank := 4, up := true }, slot1 := { WeftSlot.init with st := .shadow, entry := some 3, rank := 4, up := true } })], adapters := [(3, { Adapter.init with st := st, train := true })] }
def mfT : MovF := { ch := 2, tag := 9, fmt := 0, n := 2, lop := ⟨0,0⟩, vreg := 0, cnt := 0 }
def mfL : MovF := { mfT with fmt := 2, lop := ⟨0,4⟩}
def mfV : MovF := { mfT with fmt := 6, vreg := 4, n := 7}
def sc (d : Nat) (cr : Nat) : SendCh := { valid := true, dest := d, chan := 5, depth := 8, spine := none, credit := cr }
def ss (w : DWord) (d cr : Nat) : State := { base [w] (fun s => {s with v := V6, send := [(2, sc d cr)]}) with slices := mem }
def fl (k : Nat) (kind : Nat := 0) (fmt : Nat := 6): Flit := mkFlit 0 0 2 kind fmt 9 7 (padTo 64 ((List.range 64).map fun i => BitVec.ofNat 8 (i*5+k)))
def rc (held : Bool) (kind : Nat := 0) (fmt : Nat := 6) : RecvCh := { valid := true, sender := 7, sendCh := 1, depth := 20, held := held, entries := (List.range 10).map (fl · kind fmt), heldCnt := 3, gap := none }
def rs (w : DWord) (held : Bool) (kind : Nat := 0) (fmt : Nat := 6) : State := { base [w] (fun s => {s with v := V6, recv := [(2, rc held kind fmt)]}) with slices := mem }
def pay (n : Nat) (fmt : Nat := 6): Bytes := ((List.range n).map (fl · 0 fmt)).flatMap Flit.payload
def ses : Session := { (default : Session) with id := 77, part := 0, st := .gen, ctxMax := 200, blocks := [0,1,2,3,4,5,6,7,8,9,10,11,12], clen := 20 }
def be : BatchE := { session := 77, clen := 20, prov := 4, feed := false, adapter := none, toks := [1,2,3,4] }
def cs (w : DWord) (pages : Nat) : State :=
  let s := { base [w] (fun s => {s with v := V6, x := [(1,1)]}) with slices := mem, stackMem := (List.range 300).map fun i => (i+100, BitVec.ofNat 8 (i*3+1)) }
  let s := { s with serve := { s.serve with sessions := [ses], parts := [(0, { (default : ServPart) with batch := [be] })] } }
  let s := s.setReg Reg.srvCtxCfg 0 (0x10000 + 256 + 1)
  let s := (s.setReg Reg.srvCtxSlice 0 (65536 * pages + 100)).setReg Reg.cfgPartStackLines 0 100000
  { s with parts := [(0, { PartSt.init with prog := some { prog0 [0] with regions := [⟨1,0,10,2⟩, ⟨2, 1, 64, 0x1000⟩] } })] }
def pf : PutF := { ent := ⟨0,0⟩, layer := 1, head := 1, dim := true, pos := 2, lop := ⟨0,4⟩ }
def xf : XferF := { region := 0, xo := 1, off := 3, n := 2, lop := ⟨0,4⟩ }
def gf : GetF := { ent := ⟨0,0⟩, layer := 1, head := 1, dim := true, nb := 1, xf := 1, lop := ⟨0,4⟩ }
def ld (k : Nat) : LandP := ⟨30, (List.range (64*k)).map fun i => BitVec.ofNat 8 (i*11), (List.range k).map fun _ => 24⟩
def sio (w : DWord) : State := (ss w 25 8).setFld Reg.intEgress 0 16 0 100
def xf2 : XferF := { xf with region := 1 }
def xh : State :=
  let s := cs (encXfer 4 xf2) 4
  let s := (s.setReg (Reg.cfgRdmaHost+16) 0 0x80000002).setReg (Reg.cfgRdmaLines+16) 0 100000
  let s := ((s.setReg (Reg.cfgRdmaSlot+8) 0 10).setReg (Reg.cfgRdmaKey+8) 0 0xFEED).setReg (Reg.cfgHost+32) 0 0x0A000001
  { s with qps := [(10, { Qp.init with st := 2, ip := [0x0A000001,0,0,0] })] }
def lr (n : Nat) (cr : Nat) (cap : Bool := false) : State :=
  let s := base [0] fun s => {s with lands := [ld n], recv := [(4, { RecvCh.init with valid := true, sender := 24, depth := 8 })]}
  let s := { s with serve := { s.serve with unitCh := [(4, { UnitCh.init with unit := 24, sendCh := 4, depth := 8, credit := cr })] } }
  if cap then capd s 0 0 else s

theorem witness_ConversionInstructions_2 :
    (∃ s : State, ∃ t : BitVec 12, ∃ p : Nat, ∃ f : CvtF, ∃ line : Nat, line = (s.spin t.toNat).lop f.lop ∧ f.fmt.toNat = 5 ∧ ReadyAt s t.toNat p (encCvt 5 f) ∧ ∃ sl : Bool, s.qwTarget t.toNat f.rank.toNat f.up = some sl ∧ (s.weft (s.physOf t.toNat)).slot0.write = none ∧ (s.weft (s.physOf t.toNat)).slot1.write = none ∧ (LinesOk s p line (max (if f.up = true then 16 * f.rank.toNat else 512 * ceilDiv f.rank.toNat 32) 1))) ∧
    (∃ s : State, ∃ t : BitVec 12, ∃ p : Nat, ∃ f : CvtF, ∃ line : Nat, line = (s.spin t.toNat).lop f.lop ∧ f.fmt.toNat = 5 ∧ ReadyAt s t.toNat p (encCvt 5 f) ∧ s.qwTarget t.toNat f.rank.toNat f.up = none ∧ LinesOk s p line 1) :=
  ⟨⟨(qs 4), 0, 0, qf, 4, (by decide +kernel), (by decide +kernel), (ready_of (by decide +kernel)), true, (by decide +kernel), (by decide +kernel), (by decide +kernel), (linesOk_of (by decide +kernel))⟩,
   ⟨(qs 2), 0, 0, qf, 4, (by decide +kernel), (by decide +kernel), (ready_of (by decide +kernel)), (by decide +kernel), (linesOk_of (by decide +kernel))⟩⟩

theorem witness_SendsPutFlitsOnTheInterchange_1 :
    (∃ s : State, ∃ t : BitVec 12, ∃ p : Nat, ∃ f : MovF, ∃ n : Nat, ∃ c : SendCh, n = f.n.toNat + 1 ∧ c = (s.spin t.toNat).sendCh f.ch.toNat ∧ c.valid = true ∧ isIoUnit c.dest = false ∧ (isUnit c.dest = true ∨ s.ownerOf c.dest = some p) ∧ n ≤ c.credit ∧ ReadyAt s t.toNat p (encMov 4 0 f) ∧ LinesOk s p ((s.spin t.toNat).lop f.lop) n) ∧
    (∃ s : State, ∃ t : BitVec 12, ∃ p : Nat, ∃ f : MovF, ∃ n : Nat, ∃ c : SendCh, n = f.n.toNat + 1 ∧ c = (s.spin t.toNat).sendCh f.ch.toNat ∧ c.valid = true ∧ isIoUnit c.dest = false ∧ (isUnit c.dest = true ∨ s.ownerOf c.dest = some p) ∧ n ≤ c.credit ∧ ReadyAt s t.toNat p (encMov 4 1 f) ∧ f.vreg.toNat + (f.cnt.toNat + 1) ≤ 32 ∧ (f.fmt.toNat = 5 ∨ f.fmt.toNat = 6) ∧ Tagged s t.toNat f.vreg.toNat (f.cnt.toNat + 1) f.fmt.toNat) ∧
    (∃ s : State, ∃ t : BitVec 12, ∃ p : Nat, ∃ f : MovF, ∃ n : Nat, ∃ c : SendCh, n = f.n.toNat + 1 ∧ c = (s.spin t.toNat).sendCh f.ch.toNat ∧ c.valid = true ∧ isIoUnit c.dest = false ∧ (isUnit c.dest = true ∨ s.ownerOf c.dest = some p) ∧ n ≤ c.credit ∧ ReadyAt s t.toNat p (encMov 5 0 f)) ∧
    (∃ s : State, ∃ t : BitVec 12, ∃ p : Nat, ∃ f : MovF, ∃ n : Nat, ∃ c : SendCh, n = f.n.toNat + 1 ∧ c = (s.spin t.toNat).sendCh f.ch.toNat ∧ c.valid = true ∧ isIoUnit c.dest = true ∧ n ≤ c.credit ∧ s.sendHeld p t.toNat c = false ∧ n + s.egressUse p (dieOf c.dest) ≤ s.egressSize p (dieOf c.dest) ∧ ReadyAt s t.toNat p (encMov 4 0 f) ∧ LinesOk s p ((s.spin t.toNat).lop f.lop) n) ∧
    (∃ s : State, ∃ t : BitVec 12, ∃ p : Nat, ∃ f : MovF, ∃ n : Nat, ∃ c : SendCh, n = f.n.toNat + 1 ∧ c = (s.spin t.toNat).sendCh f.ch.toNat ∧ c.valid = true ∧ isIoUnit c.dest = true ∧ n ≤ c.credit ∧ s.sendHeld p t.toNat c = false ∧ n + s.egressUse p (dieOf c.dest) ≤ s.egressSize p (dieOf c.dest) ∧ ReadyAt s t.toNat p (encMov 5 0 f)) :=
  ⟨⟨(ss (encMov 4 0 mfL) 0 8), 0, 0, mfL, 3, _, (by decide +kernel), rfl, (by decide +kernel), (by decide +kernel), (by decide +kernel), (by decide +kernel), (ready_of (by decide +kernel)), (linesOk_of (by decide +kernel))⟩,
   ⟨(ss (encMov 4 1 mfV) 0 8), 0, 0, mfV, 8, _, (by decide +kernel), rfl, (by decide +kernel), (by decide +kernel), (by decide +kernel), (by decide +kernel), (ready_of (by decide +kernel)), (by decide +kernel), (by decide +kernel), (tagged_of (by decide +kernel))⟩,
   ⟨(ss (encMov 5 0 mfT) 0 8), 0, 0, mfT, 3, _, (by decide +kernel), rfl, (by decide +kernel), (by decide +kernel), (by decide +kernel), (by decide +kernel), (ready_of (by decide +kernel))⟩,
   ⟨(sio (encMov 4 0 mfL)), 0, 0, mfL, _, _, rfl, rfl, (by decide +kernel), (by decide +kernel), (by decide +kernel), (by decide +kernel), (by decide +kernel), (ready_of (by decide +kernel)), (linesOk_of (by decide +kernel))⟩,
   ⟨(sio (encMov 5 0 mfT)), 0, 0, mfT, _, _, rfl, rfl, (by decide +kernel), (by decide +kernel), (by decide +kernel), (by decide +kernel), (by decide +kernel), (ready_of (by decide +kernel))⟩⟩

theorem witness_TokensAndCredits_1 :
    (∃ s : State, ∃ t : BitVec 12, ∃ p : Nat, ∃ f : MovF, ∃ c : SendCh, ReadyAt s t.toNat p (encMov 5 0 f) ∧ c = (s.spin t.toNat).sendCh f.ch.toNat ∧ c.valid = true ∧ isIoUnit c.dest = false ∧ (isUnit c.dest = true ∨ s.ownerOf c.dest = some p) ∧ c.credit < f.n.toNat + 1) ∧
    (∃ s : State, ∃ t : BitVec 12, ∃ p : Nat, ∃ f : MovF, ∃ n : Nat, ∃ c : RecvCh, n = f.n.toNat + 1 ∧ c = (s.spin t.toNat).recvCh f.ch.toNat ∧ ReadyAt s t.toNat p (encMov 5 1 f) ∧ c.valid = true ∧ c.gap = none ∧ n ≤ c.entries.length ∧ (c.held = true → n ≤ c.depth - c.heldCnt) ∧ (∀ (g : Flit), g ∈ List.take n c.entries → g.kind = 1 ∧ g.tag = f.tag.toNat)) ∧
    (∃ s : State, ∃ t : BitVec 12, ∃ p : Nat, ∃ f : MovF, ∃ n : Nat, ∃ c : RecvCh, n = f.n.toNat + 1 ∧ c = (s.spin t.toNat).recvCh f.ch.toNat ∧ ReadyAt s t.toNat p (encMov 5 2 f) ∧ n ≤ c.heldCnt) :=
  ⟨⟨(ss (encMov 5 0 mfT) 0 1), 0, 0, mfT, _, (ready_of (by decide +kernel)), rfl, (by decide +kernel), (by decide +kernel), (by decide +kernel), (by decide +kernel)⟩,
   ⟨(rs (encMov 5 1 mfT) true 1), 0, 0, mfT, 3, _, (by decide +kernel), rfl, (ready_of (by decide +kernel)), (by decide +kernel), (by decide +kernel), (by decide +kernel), (by decide +kernel), (by decide +kernel)⟩,
   ⟨(rs (encMov 5 2 mfT) true 1), 0, 0, mfT, 3, _, (by decide +kernel), rfl, (ready_of (by decide +kernel)), (by decide +kernel)⟩⟩

theorem witness_ReceivesTakeTheEntriesThatHaveArrived_1 :
    (∃ s : State, ∃ t : BitVec 12, ∃ p : Nat, ∃ f : MovF, ∃ n : Nat, ∃ c : Nat, ∃ v : Nat, ∃ bs : Bytes, n = f.n.toNat + 1 ∧ c = f.cnt.toNat + 1 ∧ v = f.vreg.toNat ∧ dataWaits s t.toNat f n ∧ bs = List.flatMap Flit.payload (List.take n ((s.spin t.toNat).recvCh f.ch.toNat).entries) ∧ ReadyAt s t.toNat p (encMov 4 2 f) ∧ LinesOk s p ((s.spin t.toNat).lop f.lop) n) ∧
    (∃ s : State, ∃ t : BitVec 12, ∃ p : Nat, ∃ f : MovF, ∃ n : Nat, ∃ c : Nat, ∃ v : Nat, ∃ bs : Bytes, n = f.n.toNat + 1 ∧ c = f.cnt.toNat + 1 ∧ v = f.vreg.toNat ∧ dataWaits s t.toNat f n ∧ bs = List.flatMap Flit.payload (List.take n ((s.spin t.toNat).recvCh f.ch.toNat).entries) ∧ ReadyAt s t.toNat p (encMov 4 3 f) ∧ v + c ≤ 32 ∧ (1 ≤ f.fmt.toNat ∧ f.fmt.toNat ≤ 6)) ∧
    (∃ s : State, ∃ t : BitVec 12, ∃ p : Nat, ∃ f : MovF, ∃ n : Nat, ∃ c : Nat, ∃ v : Nat, ∃ bs : Bytes, n = f.n.toNat + 1 ∧ c = f.cnt.toNat + 1 ∧ v = f.vreg.toNat ∧ dataWaits s t.toNat f n ∧ bs = List.flatMap Flit.payload (List.take n ((s.spin t.toNat).recvCh f.ch.toNat).entries) ∧ ReadyAt s t.toNat p (encMov 4 4 f) ∧ v + c ≤ 32 ∧ (1 ≤ f.fmt.toNat ∧ f.fmt.toNat ≤ 6) ∧ Tagged s t.toNat v c 6) :=
  ⟨⟨(rs (encMov 4 2 mfL) true 0 2), 0, 0, mfL, 3, 1, 0, (pay 3 2), (by decide +kernel), (by decide +kernel), (by decide +kernel), (dataWaits_of (by decide +kernel)), (by decide +kernel), (ready_of (by decide +kernel)), (linesOk_of (by decide +kernel))⟩,
   ⟨(rs (encMov 4 3 mfV) true), 0, 0, mfV, 8, 1, 4, (pay 8), (by decide +kernel), (by decide +kernel), (by decide +kernel), (dataWaits_of (by decide +kernel)), (by decide +kernel), (ready_of (by decide +kernel)), (by decide +kernel), (by decide +kernel)⟩,
   ⟨(rs (encMov 4 4 mfV) false), 0, 0, mfV, 8, 1, 4, (pay 8), (by decide +kernel), (by decide +kernel), (by decide +kernel), (dataWaits_of (by decide +kernel)), (by decide +kernel), (ready_of (by decide +kernel)), (by decide +kernel), (by decide +kernel), (tagged_of (by decide +kernel))⟩⟩

theorem witness_ContextWrites_1 :
    (∃ s : State, ∃ t : BitVec 12, ∃ p : Nat, ∃ f : PutF, ∃ e : Nat, ∃ d : Nat, ∃ line : Nat, ∃ pos : Nat, ∃ b : BatchE, ∃ x : Session, ReadyAt s t.toNat p (encPut f) ∧ e = (s.spin t.toNat).ent f.ent ∧ s.entryAt p t.toNat e = some b ∧ s.session b.session = some x ∧ e ≤ 255 ∧ (d = if f.dim = true then 128 else 64) ∧ d = s.ctxDim p ∧ f.layer.toNat < s.ctxLayers p ∧ f.head.toNat < s.ctxHeads p ∧ line = (s.spin t.toNat).lop f.lop ∧ (LinesOk s p line (if f.dim = true then 5 else 3)) ∧ pos = b.clen + f.pos.toNat ∧ pos < x.ctxMax ∧ s.carryHeld p t.toNat (s.ctxSrc (s.ctxAddr p (x.pageOf (pos / 16)) (f.layer.toNat * s.ctxHeads p + f.head.toNat)) 0) = none) ∧
    (∃ s : State, ∃ t : BitVec 12, ∃ p : Nat, ∃ f : XferF, ∃ n : Nat, ∃ off : Nat, ∃ line : Nat, ∃ g : Region, ReadyAt s t.toNat p (encXfer 4 f) ∧ n = f.n.toNat + 1 ∧ off = (f.off.toNat + (s.spin t.toNat).xr f.xo.toNat) % 2 ^ 32 ∧ line = (s.spin t.toNat).lop f.lop ∧ g = s.region p f.region.toNat ∧ LinesOk s p line n ∧ s.regionOk p g = true ∧ off + n ≤ g.bound ∧ g.kind = 1 ∧ (∀ (k : Nat), k < n → s.carryHeld p t.toNat (s.stackUnit (g.base + off + k)) = none)) ∧
    (∃ s : State, ∃ t : BitVec 12, ∃ p : Nat, ∃ f : XferF, ∃ n : Nat, ∃ off : Nat, ∃ line : Nat, ∃ g : Region, ReadyAt s t.toNat p (encXfer 4 f) ∧ n = f.n.toNat + 1 ∧ off = (f.off.toNat + (s.spin t.toNat).xr f.xo.toNat) % 2 ^ 32 ∧ line = (s.spin t.toNat).lop f.lop ∧ g = s.region p f.region.toNat ∧ LinesOk s p line n ∧ s.regionOk p g = true ∧ off + n ≤ g.bound ∧ g.kind = 2 ∧ s.carryHeld p t.toNat engineUnit = none ∧ s.admits (s.portPoint (s.rdmaSlot p g.win)) p [] = true) :=
  ⟨⟨(cs (encPut pf) 4), 0, 0, pf, 0, 128, 4, 22, be, ses, (ready_of (by decide +kernel)), (by decide +kernel), (by decide +kernel), (by decide +kernel), (by decide +kernel), (by decide +kernel), (by decide +kernel), (by decide +kernel), (by decide +kernel), (by decide +kernel), (linesOk_of (by decide +kernel)), (by decide +kernel), (by decide +kernel), (by decide +kernel)⟩,
   ⟨(cs (encXfer 4 xf) 4), 0, 0, xf, 3, 4, 4, _, (ready_of (by decide +kernel)), (by decide +kernel), (by decide +kernel), (by decide +kernel), rfl, (linesOk_of (by decide +kernel)), (by decide +kernel), (by decide +kernel), (by decide +kernel), (by decide +kernel)⟩,
   ⟨xh, 0, 0, xf2, _, _, _, _, (ready_of (by decide +kernel)), rfl, rfl, rfl, rfl, (linesOk_of (by decide +kernel)), (by decide +kernel), (by decide +kernel), (by decide +kernel), (by decide +kernel), (by decide +kernel)⟩⟩

theorem witness_ContextReadsAndLandings_1 :
    (∃ s : State, ∃ t : BitVec 12, ∃ p : Nat, ∃ f : XferF, ∃ n : Nat, ∃ off : Nat, ∃ line : Nat, ∃ g : Region, ReadyAt s t.toNat p (encXfer 3 f) ∧ n = f.n.toNat + 1 ∧ off = (f.off.toNat + (s.spin t.toNat).xr f.xo.toNat) % 2 ^ 32 ∧ line = (s.spin t.toNat).lop f.lop ∧ g = s.region p f.region.toNat ∧ g.kind = 1 ∧ LinesOk s p line n ∧ s.regionOk p g = true ∧ off + n ≤ g.bound) ∧
    (∃ s : State, ∃ t : BitVec 12, ∃ p : Nat, ∃ f : GetF, ∃ e : Nat, ∃ d : Nat, ∃ nb : Nat, ∃ line : Nat, ∃ first : Nat, ∃ b : BatchE, ∃ x : Session, ReadyAt s t.toNat p (encGet f) ∧ e = (s.spin t.toNat).ent f.ent ∧ s.entryAt p t.toNat e = some b ∧ s.session b.session = some x ∧ e ≤ 255 ∧ (d = if f.dim = true then 128 else 64) ∧ d = s.ctxDim p ∧ f.layer.toNat < s.ctxLayers p ∧ f.head.toNat < s.ctxHeads p ∧ nb = f.nb.toNat + 1 ∧ line = (s.spin t.toNat).lop f.lop ∧ first = (s.spin t.toNat).xr f.xf.toNat ∧ LinesOk s p line (nb * blockLines d) ∧ first + nb ≤ ceilDiv x.ctxMax 16) ∧
    (∃ s : State, ∃ t : BitVec 12, ∃ p : Nat, ∃ l : LandP, ∃ ls : List LandP, ∃ u : Nat, tileOk t.toNat = true ∧ (s.spin t.toNat).part = some p ∧ (s.spin t.toNat).lands = l :: ls ∧ 64 ≤ List.length l.data ∧ l.line < 4096 ∧ l.src.head? = some u ∧ s.landBlocked t.toNat u = false ∧ s.carryHeld p u t.toNat = none) ∧
    (∃ s : State, ∃ t : BitVec 12, ∃ p : Nat, ∃ l : LandP, ∃ ls : List LandP, ∃ u : Nat, tileOk t.toNat = true ∧ (s.spin t.toNat).part = some p ∧ (s.spin t.toNat).lands = l :: ls ∧ 64 ≤ List.length l.data ∧ l.line < 4096 ∧ l.src.head? = some u ∧ s.landBlocked t.toNat u = true) ∧
    (∃ s : State, ∃ t : BitVec 12, ∃ p : Nat, ∃ l : LandP, ∃ ls : List LandP, ∃ u : Nat, tileOk t.toNat = true ∧ (s.spin t.toNat).part = some p ∧ (s.spin t.toNat).lands = l :: ls ∧ 64 ≤ List.length l.data ∧ l.line < 4096 ∧ l.src.head? = some u ∧ ∃ e : Nat × Nat, s.landBlocked t.toNat u = false ∧ s.carryHeld p u t.toNat = some e) :=
  ⟨⟨(cs (encXfer 3 xf) 4), 0, 0, xf, 3, 4, 4, _, (ready_of (by decide +kernel)), (by decide +kernel), (by decide +kernel), (by decide +kernel), rfl, (by decide +kernel), (linesOk_of (by decide +kernel)), (by decide +kernel), (by decide +kernel)⟩,
   ⟨(cs (encGet gf) 4), 0, 0, gf, 0, 128, 2, 4, 1, be, ses, (ready_of (by decide +kernel)), (by decide +kernel), (by decide +kernel), (by decide +kernel), (by decide +kernel), (by decide +kernel), (by decide +kernel), (by decide +kernel), (by decide +kernel), (by decide +kernel), (by decide +kernel), (by decide +kernel), (linesOk_of (by decide +kernel)), (by decide +kernel)⟩,
   ⟨(lr 2 3), 0, 0, (ld 2), ([]), 24, (by decide +kernel), (by decide +kernel), (by decide +kernel), (by decide +kernel), (by decide +kernel), (by decide +kernel), (by decide +kernel), (by decide +kernel)⟩,
   ⟨(lr 1 0), 0, 0, (ld 1), ([]), 24, (by decide +kernel), (by decide +kernel), (by decide +kernel), (by decide +kernel), (by decide +kernel), (by decide +kernel), (by decide +kernel)⟩,
   ⟨(lr 2 3 true), 0, 0, (ld 2), ([]), 24, (by decide +kernel), (by decide +kernel), (by decide +kernel), (by decide +kernel), (by decide +kernel), (by decide +kernel), ((65584, 12288)), (by decide +kernel), (by decide +kernel)⟩⟩

end T5

namespace T6
def mem : SMap Byte := (List.range 330).map fun i => (i+256, BitVec.ofNat 8 (i*7+1+i/3))
def ses : Session := { (default : Session) with id := 77, part := 0, st := .gen, ctxMax := 200, blocks := [0,1,2,3,4,5,6,7,8,9,10,11,12], clen := 20 }
def be : BatchE := { session := 77, clen := 20, prov := 4, feed := false, adapter := some 3, toks := [1,2,3,4] }
def cs (w : DWord) (win : Nat := 1) : State :=
  let s := { base [w] (fun s => {s with v := V6, x := [(1,1)]}) with slices := mem, stackMem := (List.range 200).map fun i => (i, BitVec.ofNat 8 (i*3+1)) }
  let s := { s with serve := { s.serve with sessions := [ses], parts := [(0, { (default : ServPart) with batch := [be] })] } }
  let s := s.setReg Reg.srvCtxCfg 0 (0x00000 + 256 + 1)
  let s := (s.setReg Reg.srvCtxSlice 0 (65536 * 4 + 100)).setReg Reg.cfgPartStackLines 0 100000
  { s with parts := [(0, { PartSt.init with prog := some { prog0 [0] with regions := [⟨1,0,10,2⟩, ⟨2, win, 64, 0x1000⟩] } })] }
def af (acc : Bool) : AttnF := { ent := ⟨0,0⟩, vd := 4, va := 6, acc := acc, dim := false, nb := 0, xf := 1, pos := 2, lop := ⟨0,4⟩ }
def qq : List Word := (List.range 64).map (fun j => toFP32 (laneNum 6 ((SMap.get VReg.init V6 6).lane j)))
def i0 : AttnSt := ⟨List.replicate 64 0, 0xFF800000#32, 0⟩
def i1 : AttnSt := ⟨(List.range 64).map (SMap.get VReg.init V6 4).lane, (SMap.get VReg.init V6 5).lane 0, (SMap.get VReg.init V6 5).lane 1⟩
def rr (s : State) (f : AttnF) (i0 : AttnSt) : AttnSt := (List.range (16 * 1)).foldl (fun a i =>
        if be.clen + f.pos.toNat < 16 * (s.spin 0).xr f.xf.toNat + i then a
        else attnToken qq a
          ((List.range 64).map fun j =>
            toFP32 (vecValue 3 (s.readLines 0 (4 + blockLines 64 * (i / 16)) (blockLines 64)) (i % 16 * 64 + j)))
          ((List.range 64).map fun j =>
            toFP32 (vecValue 3 (s.readLines 0 (4 + blockLines 64 * (i / 16)) (blockLines 64)) ((16 + i % 16) * 64 + j)))) i0
def wf0 : WarpF := { arr := 2, src := ⟨0,4⟩, sfmt := false, d := 3, cap := 1, vd := 4, ltag := 7 }
def an0 : WarpAnalog := ⟨[], [], [], []⟩
def an1 : WarpAnalog := ⟨(List.range 3000).map fun (i : Nat) => Int.ofNat (i % 2), [], [1], [(5, 90), (4096, 300), (4161, -5)]⟩
def arr0 : WarpArr := { WarpArr.init with cells := (List.range 600).map fun i => (i*37, BitVec.ofNat 4 (i+1)), colScale := (List.range 512).map fun i => (i, 0x3C00), code := 1, k := 3, ko := 2 }
def wst (op : Nat) : State := { cs (encWarp op wf0) with warps := [(2, arr0)] }
def rp (acc : Bool) : RunPass := ⟨2, 2, acc, 4, (List.range 512).map fun i => BitVec.ofNat 32 (0x3F800000 + i*999)⟩
def rp2 : RunPass := ⟨3, 3, false, 8, []⟩
def slot (up : Bool) (e : Nat) (st : SlotState): WeftSlot := { WeftSlot.init with st := st, entry := some e, rank := 4, up := up, cells := (List.range 200).map fun i => (i*3, BitVec.ofNat 4 (i+1)), scales := (List.range 512).map fun i => (i, 0x3C00) }
def wa (up : Bool) (e : Nat) : WeftArr := { WeftArr.init with slot0 := slot up e .resident, slot1 := slot up e .shadow }
def wff (tr up : Bool) : WeftF := { train := tr, up := up, src := ⟨0,4⟩, vd := 4, ent := ⟨0,0⟩ }
def wfs (op : Nat) (tr up aup : Bool) (st : Nat) : State := { cs (encWeft op (wff tr up)) with wefts := [(0, wa aup 3)], adapters := [(3, { Adapter.init with st := st, train := st == 4 })] }
def an2 : WeftAnalog := ⟨[], [], [], [], []⟩

theorem witness_WarpPasses_1 :
    (∃ s : State, ∃ t : BitVec 12, ∃ p : Nat, ∃ f : WarpF, ∃ an : WarpAnalog, ∃ op : Nat, ∃ key : Nat, ∃ gx : Nat × List Int, ∃ o : WarpOut, f.arr.toNat < 8 ∧ f.vd.toNat % 4 = 0 ∧ (f.sfmt = true → f.d = 0) ∧ ReadyAt s t.toNat p (encWarp op f) ∧ LinesOk s p ((s.spin t.toNat).lop f.src) (passFetch (encWarp op f)) ∧ key = arrKey (s.physOf t.toNat) (s.servingIdx (s.physOf t.toNat) f.arr.toNat) ∧ (gx = formOperand (if f.sfmt = true then 2 else 1) 512 f.d.toNat (s.readLines t.toNat ((s.spin t.toNat).lop f.src) (passFetch (encWarp op f)))) ∧ o = warpRun (s.warp key) an (s.warpBase key (s.dist (districtOf (s.physOf t.toNat))).band gx.fst gx.snd) (s.dist (districtOf (s.physOf t.toNat))).band (max 1 (bits (s.liveReg p Reg.wrpCsumTol) 7 0)) (capOf f.cap.toNat) gx.fst (s.reg Reg.wrpPassCnt key) gx.snd ∧ ∃ Q : State → Prop, (Q = fun s' => Retired s s' t.toNat (encWarp op f) 1 ∧ SameXV s s' t.toNat ∧ (s'.spin t.toNat).passes = [{ arr := f.arr.toNat, key := key, acc := op == 1, vd := f.vd.toNat, results := o.results }] ∧ s'.reg Reg.wrpPassCnt key = (s.reg Reg.wrpPassCnt key + 1) % 2 ^ 32 ∧ s'.warp key = (s.warp key).noteShadow o.shadow ∧ (s'.part p).detects = (s.part p).detects ++ List.map (fun b => { tile := t.toNat, det := Detection.warpChecksum (BitVec.ofNat 4 f.arr.toNat) (BitVec.ofNat 3 b.fst) (BitVec.ofNat 3 b.snd), addr := (s.spin t.toNat).pc, occ := SMap.get 0 (s.spin t.toNat).occ (s.spin t.toNat).pc }) o.bad ∧ (∀ (u : Nat), u ≠ t.toNat → s'.spin u = s.spin u) ∧ s'.slices = s.slices ∧ s'.stackMem = s.stackMem ∧ s'.flits = s.flits) ∧ op = 0) ∧
    (∃ s : State, ∃ t : BitVec 12, ∃ p : Nat, ∃ f : WarpF, ∃ an : WarpAnalog, ∃ op : Nat, ∃ key : Nat, ∃ gx : Nat × List Int, ∃ o : WarpOut, f.arr.toNat < 8 ∧ f.vd.toNat % 4 = 0 ∧ (f.sfmt = true → f.d = 0) ∧ ReadyAt s t.toNat p (encWarp op f) ∧ LinesOk s p ((s.spin t.toNat).lop f.src) (passFetch (encWarp op f)) ∧ key = arrKey (s.physOf t.toNat) (s.servingIdx (s.physOf t.toNat) f.arr.toNat) ∧ (gx = formOperand (if f.sfmt = true then 2 else 1) 512 f.d.toNat (s.readLines t.toNat ((s.spin t.toNat).lop f.src) (passFetch (encWarp op f)))) ∧ o = warpRun (s.warp key) an (s.warpBase key (s.dist (districtOf (s.physOf t.toNat))).band gx.fst gx.snd) (s.dist (districtOf (s.physOf t.toNat))).band (max 1 (bits (s.liveReg p Reg.wrpCsumTol) 7 0)) (capOf f.cap.toNat) gx.fst (s.reg Reg.wrpPassCnt key) gx.snd ∧ ∃ Q : State → Prop, (Q = fun s' => Retired s s' t.toNat (encWarp op f) 1 ∧ SameXV s s' t.toNat ∧ (s'.spin t.toNat).passes = [{ arr := f.arr.toNat, key := key, acc := op == 1, vd := f.vd.toNat, results := o.results }] ∧ s'.reg Reg.wrpPassCnt key = (s.reg Reg.wrpPassCnt key + 1) % 2 ^ 32 ∧ s'.warp key = (s.warp key).noteShadow o.shadow ∧ (s'.part p).detects = (s.part p).detects ++ List.map (fun b => { tile := t.toNat, det := Detection.warpChecksum (BitVec.ofNat 4 f.arr.toNat) (BitVec.ofNat 3 b.fst) (BitVec.ofNat 3 b.snd), addr := (s.spin t.toNat).pc, occ := SMap.get 0 (s.spin t.toNat).occ (s.spin t.toNat).pc }) o.bad ∧ (∀ (u : Nat), u ≠ t.toNat → s'.spin u = s.spin u) ∧ s'.slices = s.slices ∧ s'.stackMem = s.stackMem ∧ s'.flits = s.flits) ∧ op = 1 ∧ Tagged s t.toNat f.vd.toNat 4 6) ∧
    (∃ s : State, ∃ t : BitVec 12, ∃ arr : BitVec 4, ∃ r : RunPass, ∃ post : List RunPass, tileOk t.toNat = true ∧ (s.spin t.toNat).passes = r :: post ∧ r.arr = arr.toNat ∧ (s.spin t.toNat).recvs = [] ∧ r.results.length = 512) :=
  ⟨⟨(wst 0), 0, 0, wf0, an0, 0, 2, _, _, (by decide +kernel), (by decide +kernel), (by decide +kernel), (ready_of (by decide +kernel)), (linesOk_of (by decide +kernel)), (by decide +kernel), rfl, rfl, _, rfl, (by decide +kernel)⟩,
   ⟨(wst 1), 0, 0, wf0, an1, 1, 2, _, _, (by decide +kernel), (by decide +kernel), (by decide +kernel), (ready_of (by decide +kernel)), (linesOk_of (by decide +kernel)), (by decide +kernel), rfl, rfl, _, rfl, (by decide +kernel), (tagged_of (by decide +kernel))⟩,
   ⟨(base [0] fun s => {s with v := V6, passes := [rp true, rp2]}), 0, 2, (rp true), ([rp2]), (by decide +kernel), (by decide +kernel), (by decide +kernel), (by decide +kernel), (by decide +kernel)⟩⟩

theorem witness_AttentionFoldsTokensInOrder_1 :
    ∃ s : State, ∃ t : BitVec 12, ∃ p : Nat, ∃ f : AttnF, ∃ e : Nat, ∃ d : Nat, ∃ nb : Nat, ∃ line : Nat, ∃ vd : Nat, ∃ va : Nat, ∃ b : BatchE, ∃ q : List Word, ∃ init : AttnSt, ∃ r : AttnSt, ReadyAt s t.toNat p (encAttn f) ∧ e = (s.spin t.toNat).ent f.ent ∧ e ≤ 255 ∧ s.entryAt p t.toNat e = some b ∧ (d = if f.dim = true then 128 else 64) ∧ d = s.ctxDim p ∧ nb = f.nb.toNat + 1 ∧ line = (s.spin t.toNat).lop f.lop ∧ vd = f.vd.toNat ∧ va = f.va.toNat ∧ vd + 2 ≤ 32 ∧ LinesOk s p line (nb * blockLines d) ∧ (((s.spin t.toNat).vr va).tag = 5 ∨ ((s.spin t.toNat).vr va).tag = 6) ∧ (f.acc = true → Tagged s t.toNat vd 2 6) ∧ (q = List.map (fun j => toFP32 (laneNum ((s.spin t.toNat).vr va).tag (((s.spin t.toNat).vr va).lane j))) (List.range d)) ∧ (init = if f.acc = true then { o := List.map ((s.spin t.toNat).vr vd).lane (List.range d), m := ((s.spin t.toNat).vr (vd + 1)).lane 0, l := ((s.spin t.toNat).vr (vd + 1)).lane 1 } else { o := List.replicate d 0, m := 4286578688#32, l := 0 }) ∧ (r = List.foldl (fun a i => if b.clen + f.pos.toNat < 16 * (s.spin t.toNat).xr f.xf.toNat + i then a else attnToken q a (List.map (fun j => toFP32 (vecValue 3 (s.readLines t.toNat (line + blockLines d * (i / 16)) (blockLines d)) (i % 16 * d + j))) (List.range d)) (List.map (fun j => toFP32 (vecValue 3 (s.readLines t.toNat (line + blockLines d * (i / 16)) (blockLines d)) ((16 + i % 16) * d + j))) (List.range d))) init (List.range (16 * nb))) :=
  ⟨(cs (encAttn (af true))), 0, 0, (af true), 0, 64, 1, 4, 4, 6, be, qq, _, _, (ready_of (by decide +kernel)), (by decide +kernel), (by decide +kernel), (by decide +kernel), (by decide +kernel), (by decide +kernel), (by decide +kernel), (by decide +kernel), (by decide +kernel), (by decide +kernel), (by decide +kernel), (linesOk_of (by decide +kernel)), (by decide +kernel), (fun _ => tagged_of (by decide +kernel)), (by decide +kernel), rfl, rfl⟩

theorem witness_WeftPassesAndFlips_1 :
    (∃ s : State, ∃ t : BitVec 12, ∃ p : Nat, ∃ f : WeftF, ∃ an : WeftAnalog, ∃ op : Nat, ∃ arr : WeftArr, ∃ sel : Option Bool, ∃ slot : Option Bool, ∃ gx : Nat × List Int, ∃ o : WeftOut, ∃ res : List Word, arr = s.weft (s.physOf t.toNat) ∧ (f.up = true → f.vd.toNat % 4 = 0) ∧ ReadyAt s t.toNat p (encWeft op f) ∧ (f.train = true ∨ (s.spin t.toNat).ent f.ent ≤ 255) ∧ arr.st ≠ 1 ∧ sel = s.weftSelect p t.toNat arr f.train ((s.spin t.toNat).ent f.ent) ∧ (∀ (k : Bool), sel = some k → (arr.slot k).st ≠ SlotState.restore ∧ (arr.slot k).write = none) ∧ (slot = if Option.all (fun k => (arr.slot k).up == f.up) sel = true then sel else none) ∧ LinesOk s p ((s.spin t.toNat).lop f.src) (passFetch (encWeft op f)) ∧ (gx = formOperand 1 (if f.up = true then 64 else 512) 0 (s.readLines t.toNat ((s.spin t.toNat).lop f.src) (passFetch (encWeft op f)))) ∧ o = (s.weftRan (s.physOf t.toNat) slot f.up gx.fst gx.snd an).fst ∧ res = o.results ∧ ∃ Q : Bool → State → Prop, (Q = fun acc s' => Retired s s' t.toNat (encWeft op f) 1 ∧ LanesAre s t.toNat f.vd.toNat (if f.up = true then 4 else 1) (fun x => 6) (fun k j => if f.up = true then if acc = true then fpAdd (((s.spin t.toNat).vr (f.vd.toNat + k)).lane j) (res.getD (128 * k + j) 0) else res.getD (128 * k + j) 0 else if j < 64 then if acc = true then fpAdd (((s.spin t.toNat).vr f.vd.toNat).lane j) (res.getD j 0) else res.getD j 0 else if acc = true then ((s.spin t.toNat).vr f.vd.toNat).lane j else 0) s' ∧ s'.reg Reg.wftPassCnt (s.physOf t.toNat) = (s.reg Reg.wftPassCnt (s.physOf t.toNat) + 1) % 2 ^ 32 ∧ ((s'.part p).detects = (s.part p).detects ++ if o.bad = true then [{ tile := t.toNat, det := Detection.weft, addr := (s.spin t.toNat).pc, occ := SMap.get 0 (s.spin t.toNat).occ (s.spin t.toNat).pc }] else []) ∧ s'.fld Reg.wftQual (s.physOf t.toNat) 5 0 = min (s.fld Reg.wftQual (s.physOf t.toNat) 5 0) (weftMargin an slot).fst ∧ ((weftMargin an slot).fst < s.fld Reg.wftQualCfg 0 5 0 → o.bad = true ∧ (arr.st = 0 → (s'.weft (s.physOf t.toNat)).st = 1)) ∧ (∀ (u : Nat), u ≠ t.toNat → s'.spin u = s.spin u) ∧ s'.slices = s.slices ∧ s'.stackMem = s.stackMem ∧ s'.flits = s.flits) ∧ op = 0) ∧
    (∃ s : State, ∃ t : BitVec 12, ∃ p : Nat, ∃ f : WeftF, ∃ an : WeftAnalog, ∃ op : Nat, ∃ arr : WeftArr, ∃ sel : Option Bool, ∃ slot : Option Bool, ∃ gx : Nat × List Int, ∃ o : WeftOut, ∃ res : List Word, arr = s.weft (s.physOf t.toNat) ∧ (f.up = true → f.vd.toNat % 4 = 0) ∧ ReadyAt s t.toNat p (encWeft op f) ∧ (f.train = true ∨ (s.spin t.toNat).ent f.ent ≤ 255) ∧ arr.st ≠ 1 ∧ sel = s.weftSelect p t.toNat arr f.train ((s.spin t.toNat).ent f.ent) ∧ (∀ (k : Bool), sel = some k → (arr.slot k).st ≠ SlotState.restore ∧ (arr.slot k).write = none) ∧ (slot = if Option.all (fun k => (arr.slot k).up == f.up) sel = true then sel else none) ∧ LinesOk s p ((s.spin t.toNat).lop f.src) (passFetch (encWeft op f)) ∧ (gx = formOperand 1 (if f.up = true then 64 else 512) 0 (s.readLines t.toNat ((s.spin t.toNat).lop f.src) (passFetch (encWeft op f)))) ∧ o = (s.weftRan (s.physOf t.toNat) slot f.up gx.fst gx.snd an).fst ∧ res = o.results ∧ ∃ Q : Bool → State → Prop, (Q = fun acc s' => Retired s s' t.toNat (encWeft op f) 1 ∧ LanesAre s t.toNat f.vd.toNat (if f.up = true then 4 else 1) (fun x => 6) (fun k j => if f.up = true then if acc = true then fpAdd (((s.spin t.toNat).vr (f.vd.toNat + k)).lane j) (res.getD (128 * k + j) 0) else res.getD (128 * k + j) 0 else if j < 64 then if acc = true then fpAdd (((s.spin t.toNat).vr f.vd.toNat).lane j) (res.getD j 0) else res.getD j 0 else if acc = true then ((s.spin t.toNat).vr f.vd.toNat).lane j else 0) s' ∧ s'.reg Reg.wftPassCnt (s.physOf t.toNat) = (s.reg Reg.wftPassCnt (s.physOf t.toNat) + 1) % 2 ^ 32 ∧ ((s'.part p).detects = (s.part p).detects ++ if o.bad = true then [{ tile := t.toNat, det := Detection.weft, addr := (s.spin t.toNat).pc, occ := SMap.get 0 (s.spin t.toNat).occ (s.spin t.toNat).pc }] else []) ∧ s'.fld Reg.wftQual (s.physOf t.toNat) 5 0 = min (s.fld Reg.wftQual (s.physOf t.toNat) 5 0) (weftMargin an slot).fst ∧ ((weftMargin an slot).fst < s.fld Reg.wftQualCfg 0 5 0 → o.bad = true ∧ (arr.st = 0 → (s'.weft (s.physOf t.toNat)).st = 1)) ∧ (∀ (u : Nat), u ≠ t.toNat → s'.spin u = s.spin u) ∧ s'.slices = s.slices ∧ s'.stackMem = s.stackMem ∧ s'.flits = s.flits) ∧ op = 1 ∧ (Tagged s t.toNat f.vd.toNat (if f.up = true then 4 else 1) 6)) ∧
    (∃ s : State, ∃ t : BitVec 12, ∃ p : Nat, ReadyAt s t.toNat p encFlip ∧ ∃ e : Nat, s.trainingOf (s.weft (s.physOf t.toNat)) = some e) ∧
    (∃ s : State, ∃ t : BitVec 12, ∃ p : Nat, ReadyAt s t.toNat p encFlip ∧ s.trainingOf (s.weft (s.physOf t.toNat)) = none) :=
  ⟨⟨(wfs 0 true true true 4), 0, 0, (wff true true), an2, 0, _, _, _, _, _, _, rfl, (by decide +kernel), (ready_of (by decide +kernel)), (by decide +kernel), (by decide +kernel), rfl, (opt_all (by decide +kernel)), rfl, (linesOk_of (by decide +kernel)), rfl, rfl, rfl, _, rfl, (by decide +kernel)⟩,
   ⟨(wfs 1 true true true 4), 0, 0, (wff true true), an2, 1, _, _, _, _, _, _, rfl, (by decide +kernel), (ready_of (by decide +kernel)), (by decide +kernel), (by decide +kernel), rfl, (opt_all (by decide +kernel)), rfl, (linesOk_of (by decide +kernel)), rfl, rfl, rfl, _, rfl, (by decide +kernel), (tagged_of (by decide +kernel))⟩,
   ⟨({ cs encFlip with wefts := [(0, wa true 3)], adapters := [(3, { Adapter.init with st := 4, train := true })] }), 0, 0, (ready_of (by decide +kernel)), 3, (by decide +kernel)⟩,
   ⟨({ cs encFlip with wefts := [(0, wa true 3)], adapters := [(3, { Adapter.init with st := 2, train := true })] }), 0, 0, (ready_of (by decide +kernel)), (by decide +kernel)⟩⟩

end T6

namespace T7
def xs : SMap Word := [(1, 5), (2, 77), (3, 0xFFFFFFFF)]
def be : BatchE := { session := 77, clen := 20, prov := 4, feed := false, adapter := some 3, toks := [1,2,3,4] }
def es0 (k : BitVec 4) (recs : List ResRec) (b : List BatchE) (ln : Nat := 5) : State := { base [encEmit ⟨⟨0,0⟩,⟨0,4⟩,k⟩] with slices := [(256, BitVec.ofNat 8 ln),(258,7)], serve := { ServSt.init with parts := [(0, { (default : ServPart) with batch := b, records := recs })] } }
def es (k : BitVec 4) (recs : List ResRec) (b : List BatchE) (ln : Nat := 5) : State := let s := es0 k recs b ln; { s with parts := [(0, { s.part 0 with inStep := true })] }
def ln (n : Nat) : Bytes := (es 1 [] [] n).readLines 0 4 1

theorem witness_StepInstructions_1 :
    (∃ s : State, ∃ t : BitVec 12, ∃ p : Nat, ReadyAt s t.toNat p (encSync 0) ∧ (s.spin t.toNat).sync.stepGo = true) ∧
    (∃ s : State, ∃ t : BitVec 12, ∃ p : Nat, ReadyAt s t.toNat p (encSync 0) ∧ (s.spin t.toNat).sync.stepGo = false) ∧
    (∃ s : State, ∃ t : BitVec 12, ∃ p : Nat, ReadyAt s t.toNat p (encSync 1) ∧ s.undecided p t.toNat = false) ∧
    (∃ s : State, ∃ t : BitVec 12, ∃ p : Nat, ∃ f : EmitF, ∃ e : Nat, ∃ line : Nat, ∃ bs : Bytes, ∃ had : Bool → Nat, ReadyAt s t.toNat p (encEmit f) ∧ e = (s.spin t.toNat).ent f.ent ∧ e ≤ 255 ∧ line = (s.spin t.toNat).lop f.lop ∧ s.lineOk p line = true ∧ bs = s.readLines t.toNat line 1 ∧ (∀ (d : Bool), had d = (List.filter (fun r => r.entry == e && r.data == d) (s.servPart p).records).length) ∧ s.entryAt p t.toNat e = none) ∧
    (∃ s : State, ∃ t : BitVec 12, ∃ p : Nat, ∃ f : EmitF, ∃ e : Nat, ∃ line : Nat, ∃ bs : Bytes, ∃ had : Bool → Nat, ReadyAt s t.toNat p (encEmit f) ∧ e = (s.spin t.toNat).ent f.ent ∧ e ≤ 255 ∧ line = (s.spin t.toNat).lop f.lop ∧ s.lineOk p line = true ∧ bs = s.readLines t.toNat line 1 ∧ (∀ (d : Bool), had d = (List.filter (fun r => r.entry == e && r.data == d) (s.servPart p).records).length) ∧ ∃ b : BatchE, s.entryAt p t.toNat e = some b ∧ s.carryHeld p t.toNat engineUnit = none ∧ (s.part p).inStep = true ∧ (s.spin t.toNat).sync.stepGo = false ∧ (f.rkind = 1 ∧ had false = 0 ∨ f.rkind = 2 ∧ had true < 2)) ∧
    (∃ s : State, ∃ t : BitVec 12, ∃ p : Nat, ∃ f : EmitF, ∃ e : Nat, ∃ line : Nat, ∃ bs : Bytes, ∃ had : Bool → Nat, ReadyAt s t.toNat p (encEmit f) ∧ e = (s.spin t.toNat).ent f.ent ∧ e ≤ 255 ∧ line = (s.spin t.toNat).lop f.lop ∧ s.lineOk p line = true ∧ bs = s.readLines t.toNat line 1 ∧ (∀ (d : Bool), had d = (List.filter (fun r => r.entry == e && r.data == d) (s.servPart p).records).length) ∧ ∃ b : BatchE, s.entryAt p t.toNat e = some b ∧ s.carryHeld p t.toNat engineUnit = none ∧ ((s.part p).inStep = false ∨ (s.spin t.toNat).sync.stepGo = true ∨ ¬f.rkind ∈ [1, 2] ∨ f.rkind = 1 ∧ 0 < had false ∨ f.rkind = 2 ∧ 2 ≤ had true)) :=
  ⟨⟨(base [encSync 0] fun s => {s with x := xs, sync := {s.sync with stepGo := true}, occ := [(0,4)]}), 0, 0, (ready_of (by decide +kernel)), (by decide +kernel)⟩,
   ⟨(base [encSync 0]), 0, 0, (ready_of (by decide +kernel)), (by decide +kernel)⟩,
   ⟨(base [encSync 1]), 0, 0, (ready_of (by decide +kernel)), (by decide +kernel)⟩,
   ⟨(es 1 [] []), 0, 0, (⟨⟨0,0⟩,⟨0,4⟩,1⟩), 0, 4, (ln 5), (fun d => 0), (ready_of (by decide +kernel)), (by decide +kernel), (by decide +kernel), (by decide +kernel), (by decide +kernel), (by decide +kernel), (by decide +kernel), (by decide +kernel)⟩,
   ⟨(es 1 [] [be]), 0, 0, (⟨⟨0,0⟩,⟨0,4⟩,1⟩), 0, 4, (ln 5), (fun d => 0), (ready_of (by decide +kernel)), (by decide +kernel), (by decide +kernel), (by decide +kernel), (by decide +kernel), (by decide +kernel), (by decide +kernel), be, (by decide +kernel), (by decide +kernel), (by decide +kernel), (by decide +kernel), (by decide +kernel)⟩,
   ⟨(es 1 [⟨0,false,[]⟩] [be]), 0, 0, (⟨⟨0,0⟩,⟨0,4⟩,1⟩), 0, 4, (ln 5), (fun d => if d then 0 else 1), (ready_of (by decide +kernel)), (by decide +kernel), (by decide +kernel), (by decide +kernel), (by decide +kernel), (by decide +kernel), (by decide +kernel), be, (by decide +kernel), (by decide +kernel), (by decide +kernel)⟩⟩

end T7

namespace T8
def live : State := { State.reset with ctxs := [(1, { (default : Ctx) with bound := true, qp := 1 }), (2, { (default : Ctx) with bound := true, qp := 2, sel := [(7, 3), (0, 2)], latch := [(2, 77)] })], qps := [(1, { (default : Qp) with st := 2, key := 5 })] }
def fb : State := live.setFld Reg.cfgStatus 0 5 5 1

theorem witness_RegisterWriteOutcomes_1 :
    (∃ s : State, ∃ c : BitVec 3, ∃ addr : Word, ∃ v : Word, ∃ a : Nat, a = BitVec.toNat addr ∧ s.ctxLive c.toNat = true ∧ regAddr a = true) ∧
    (∃ s : State, ∃ c : BitVec 3, ∃ addr : Word, ∃ v : Word, ∃ a : Nat, a = BitVec.toNat addr ∧ s.ctxLive c.toNat = false) ∧
    (∃ s : State, ∃ c : BitVec 3, ∃ addr : Word, ∃ v : Word, ∃ a : Nat, a = BitVec.toNat addr ∧ s.ctxLive c.toNat = true ∧ regAddr a = false) :=
  ⟨⟨live, 1, 0, 0, _, rfl, (by decide +kernel), (by decide +kernel)⟩,
   ⟨State.reset, 2, 0, 0, _, rfl, (by decide +kernel)⟩,
   ⟨live, 1, 0x400001, 0, _, rfl, (by decide +kernel), (by decide +kernel)⟩⟩

theorem witness_SelectsReadsAndRdmaAccesses_1 :
    (∃ s : State, ∃ c : BitVec 3, ∃ k : Nat, k = c.toNat ∧ s.ctxLive k = true ∧ ∃ blk : BitVec 4, ∃ v : Word, ∃ idx : Nat, (s.inFallback = false ∨ blk = 0) ∧ (idx = if blk = 15 then BitVec.toNat v % 2 ^ 16 else BitVec.toNat v % 2 ^ 31)) ∧
    (∃ s : State, ∃ c : BitVec 3, ∃ k : Nat, k = c.toNat ∧ s.ctxLive k = true ∧ ∃ blk : BitVec 4, ∃ v : Word, s.inFallback = true ∧ blk ≠ 0) ∧
    (∃ s : State, ∃ c : BitVec 3, ∃ k : Nat, k = c.toNat ∧ s.ctxLive k = true ∧ ∃ addr : Word, ∃ a : Nat, ∃ w : Word, a = BitVec.toNat addr ∧ regAddr a = true ∧ (s.inFallback = true ∧ 1048576 ≤ a ∧ w = 0 ∨ (s.inFallback = false ∨ a < 1048576) ∧ a % 1048576 = 0 ∧ w = BitVec.ofNat 32 (s.selWord k (a / 1048576)) ∨ (s.inFallback = false ∨ a < 1048576) ∧ a % 1048576 ≠ 0 ∧ s.place k a = none ∧ w = 0 ∨ ((s.inFallback = false ∨ a < 1048576) ∧ a % 1048576 ≠ 0 ∧ ∃ i, s.place k a = some i ∧ isHigh a = false ∧ isLow a = false ∧ w = BitVec.ofNat 32 (s.word k a i)) ∨ (s.inFallback = false ∨ a < 1048576) ∧ a % 1048576 ≠ 0 ∧ (s.place k a).isSome = true ∧ isHigh a = true ∧ w = SMap.get 0 (s.ctx k).latch (a / 1048576))) ∧
    (∃ s : State, ∃ c : BitVec 3, ∃ k : Nat, k = c.toNat ∧ s.ctxLive k = true ∧ ∃ addr : Word, ∃ a : Nat, ∃ i : Nat, a = BitVec.toNat addr ∧ regAddr a = true ∧ (s.inFallback = false ∨ a < 1048576) ∧ a % 1048576 ≠ 0 ∧ s.place k a = some i ∧ isHigh a = false ∧ isLow a = true ∧ a ≠ Reg.srvHankDataLo ∧ a ≠ Reg.cntValLo) ∧
    (∃ s : State, ∃ c : BitVec 3, ∃ k : Nat, k = c.toNat ∧ s.ctxLive k = true ∧ ∃ addr : Word, regAddr (BitVec.toNat addr) = false) :=
  ⟨⟨live, 2, 2, (by decide +kernel), (by decide +kernel), 0, 0, _, (by decide +kernel), rfl⟩,
   ⟨fb, 2, 2, (by decide +kernel), (by decide +kernel), 3, 0, (by decide +kernel), (by decide +kernel)⟩,
   ⟨fb, 2, 2, (by decide +kernel), (by decide +kernel), 0x700000, 0x700000, 0, (by decide +kernel), (by decide +kernel), (by decide +kernel)⟩,
   ⟨live, 2, 2, (by decide +kernel), (by decide +kernel), (BitVec.ofNat 32 Reg.trnTimeLo), Reg.trnTimeLo, 0, (by decide +kernel), (by decide +kernel), (by decide +kernel), (by decide +kernel), (by decide +kernel), (by decide +kernel), (by decide +kernel), (by decide +kernel), (by decide +kernel)⟩,
   ⟨live, 2, 2, (by decide +kernel), (by decide +kernel), 0x200009, (by decide +kernel)⟩⟩

end T8

namespace T8c
def live : State := { State.reset with ctxs := [(1, { (default : Ctx) with bound := true, qp := 1 }), (2, { (default : Ctx) with bound := true, qp := 2, sel := [(7, 3), (0, 2)], latch := [(2, 77)] })], qps := [(1, { (default : Qp) with st := 2, key := 5 })] }

theorem witness_RegisterWriteOutcomes_2 :
    ∃ s : State, ∃ c : BitVec 3, ∃ addr : Word, ∃ v : Word, ∃ a : Nat, a = BitVec.toNat addr ∧ ∃ d : RegDesc, s.ctxLive c.toNat = true ∧ s.inFallback = false ∧ regAddr a = true ∧ a / 1048576 ∈ [4, 10, 11] ∧ 0 < a % 1048576 ∧ a % 1048576 < 524288 ∧ regDesc? a = some d ∧ d.fields ≠ [] ∧ (∀ (f : RegField), f ∈ d.fields → f.cls ≠ Cls.ro ∧ f.cls ≠ Cls.boot) ∧ (∀ (f : RegField), f ∈ d.fields → fieldFits f (fieldValue f (BitVec.toNat v)) = true) ∧ s.quiet a 0 = true :=
  ⟨live, 1, (BitVec.ofNat 32 Reg.intTol), (BitVec.ofNat 32 (live.reg Reg.intTol 0)), _, rfl, ((regDesc? (BitVec.ofNat 32 Reg.intTol).toNat).get (by decide +kernel)), (by decide +kernel), (by decide +kernel), (by decide +kernel), (by decide +kernel), (by decide +kernel), (by decide +kernel), (Option.some_get _).symm, (by decide +kernel), (by decide +kernel), (by decide +kernel), (by decide +kernel)⟩

theorem witness_SelectsReadsAndRdmaAccesses_2 :
    (∃ s : State, ∃ slot : BitVec 9, ∃ key : Word, ∃ addr : DWord, ∃ n : Nat, ∃ k : Nat, ∃ a : Nat, ∃ data : Bytes, k = slot.toNat ∧ a = BitVec.toNat addr ∧ slotOk k = true ∧ (s.qp k).st = 2 ∧ k < 6 ∧ key = (s.qp k).key ∧ a % 4 = 0 ∧ a + 4 * n ≤ 2 ^ 24 ∧ List.length data = 4 * n) ∧
    (∃ s : State, ∃ slot : BitVec 9, ∃ key : Word, ∃ addr : DWord, ∃ n : Nat, ∃ k : Nat, ∃ a : Nat, ∃ data : Bytes, k = slot.toNat ∧ a = BitVec.toNat addr ∧ slotOk k = true ∧ (s.qp k).st = 2 ∧ k < 6 ∧ key = (s.qp k).key ∧ a % 4 = 0 ∧ a + 4 * n ≤ 2 ^ 24 ∧ List.length data = 4 ∧ n = 1 ∧ s.ctxLive k = true ∧ ∃ c : BitVec 3, ∃ v : BitVec 32, ∃ u : State, c = BitVec.ofNat 3 k ∧ v = BitVec.ofNat 32 (leNat data 0 4) ∧ exec (Instr.rdmaRegisterAccess slot key true addr 4 data) s = Host.Outcome.next u) ∧
    (∃ s : State, ∃ slot : BitVec 9, ∃ key : Word, ∃ addr : DWord, ∃ n : Nat, ∃ k : Nat, ∃ a : Nat, ∃ data : Bytes, k = slot.toNat ∧ a = BitVec.toNat addr ∧ slotOk k = true ∧ (s.qp k).st = 2 ∧ k < 6 ∧ key = (s.qp k).key ∧ a % 4 = 0 ∧ a + 4 * n ≤ 2 ^ 24) ∧
    (∃ s : State, ∃ slot : BitVec 9, ∃ key : Word, ∃ addr : DWord, ∃ n : Nat, ∃ k : Nat, ∃ a : Nat, ∃ data : Bytes, k = slot.toNat ∧ a = BitVec.toNat addr ∧ slotOk k = true ∧ (s.qp k).st = 2 ∧ ∃ write : Bool, ∃ len : Nat, (6 ≤ k ∨ key ≠ (s.qp k).key ∨ a % 4 ≠ 0 ∨ len % 4 ≠ 0 ∨ 2 ^ 24 < a + len ∨ write = true ∧ List.length data ≠ len)) :=
  ⟨⟨live, 1, 5, 0x400008, 1, 1, 0x400008, ([0x28,0x01,0,0]), (by decide +kernel), (by decide +kernel), (by decide +kernel), (by decide +kernel), (by decide +kernel), (by decide +kernel), (by decide +kernel), (by decide +kernel), (by decide +kernel)⟩,
   ⟨live, 1, 5, 0x400008, 1, 1, 0x400008, ([0x28,0x01,0,0]), (by decide +kernel), (by decide +kernel), (by decide +kernel), (by decide +kernel), (by decide +kernel), (by decide +kernel), (by decide +kernel), (by decide +kernel), (by decide +kernel), (by decide +kernel), (by decide +kernel), 1, 0x128, (nextOf (exec (.rdmaRegisterAccess 1 5 true 0x400008 4 [0x28,0x01,0,0]) live)), (by decide +kernel), (by decide +kernel), (next_of (by decide +kernel))⟩,
   ⟨live, 1, 5, 0x400008, 1, 1, 0x400008, ([0x28,0x01,0,0]), (by decide +kernel), (by decide +kernel), (by decide +kernel), (by decide +kernel), (by decide +kernel), (by decide +kernel), (by decide +kernel), (by decide +kernel)⟩,
   ⟨live, 1, 5, 0x400008, 1, 1, 0x400008, ([0x28,0x01,0,0]), (by decide +kernel), (by decide +kernel), (by decide +kernel), (by decide +kernel), false, 1, (by decide +kernel)⟩⟩

end T8c

namespace T9
def live : State := { State.reset with ctxs := [(1, { (default : Ctx) with bound := true, qp := 1 })] }
def td (sec : Nat) : State := live.setReg64 Reg.trnTodSecLo 0 sec
def arm (pps : Nat) : State := ({ live with time := { live.time with armed := some (1700000000, 55), cnt := 999999000 } }.setFld Reg.trnTodCtl 0 0 0 1).setFld Reg.trnPpsCfg 0 0 0 pps
def armAt (pps cnt : Nat) : State := { arm pps with time := { (arm pps).time with cnt := BitVec.ofNat 64 cnt } }
def pp (d : Disc) (t0 : Nat) (lr : Option DWord) (rj : Nat) (armed : Bool): State := ({ live with time := { live.time with armed := if armed then some (1700000000, 55) else none, cnt := BitVec.ofNat 64 t0, disc := d, lastRise := lr, rejRun := rj, accRun := 3 } }.setFld Reg.trnPpsCfg 0 15 8 10).setFld Reg.trnPpsCfg 0 0 0 1

theorem witness_TimeOfDayLoads_1 :
    (∃ s : State, ∃ c : BitVec 3, ∃ sec : Nat, CanWrite s c.toNat Reg.trnTodCtl 0 ∧ sec = s.reg64 Reg.trnTodSecLo ∧ sec * 1000000000 < 2 ^ 64) ∧
    (∃ s : State, ∃ c : BitVec 3, s.ctxLive c.toNat = true ∧ s.inFallback = false ∧ s.time.armed = none ∧ s.fld Reg.trnTodCtl 0 0 0 = 0) ∧
    (∃ s : State, ∃ c : BitVec 3, ∃ sec : Nat, CanWrite s c.toNat Reg.trnTodCtl 0 ∧ sec = s.reg64 Reg.trnTodSecLo ∧ 2 ^ 64 ≤ sec * 1000000000) ∧
    (∃ s : State, ∃ c : BitVec 3, ∃ x : DWord × DWord, s.ctxLive c.toNat = true ∧ s.inFallback = false ∧ s.time.armed = some x ∧ s.fld Reg.trnTodCtl 0 0 0 = 1) ∧
    (∃ s : State, ∃ c : BitVec 3, ∃ sec : DWord, ∃ stamp : DWord, s.time.armed = some (sec, stamp) ∧ s.ppsEn = false ∧ s.atSecond = true ∧ BitVec.toNat stamp < s.now) ∧
    (∃ s : State, ∃ c : BitVec 3, ∃ sec : DWord, ∃ stamp : DWord, s.time.armed = some (sec, stamp) ∧ s.ppsEn = true ∧ BitVec.toNat stamp + 2000000000 ≤ s.now) :=
  ⟨⟨(td 1700000000), 1, 1700000000, (canWrite_of (by decide +kernel)), (by decide +kernel), (by decide +kernel)⟩,
   ⟨(td (2^63)), 1, (by decide +kernel), (by decide +kernel), (by decide +kernel), (by decide +kernel)⟩,
   ⟨(td (2^63)), 1, (2^63), (canWrite_of (by decide +kernel)), (by decide +kernel), (by decide +kernel)⟩,
   ⟨(arm 0), 1, ((1700000000, 55)), (by decide +kernel), (by decide +kernel), (by decide +kernel), (by decide +kernel)⟩,
   ⟨(armAt 0 5000000003), 1, 1700000000, 55, (by decide +kernel), (by decide +kernel), (by decide +kernel), (by decide +kernel)⟩,
   ⟨(armAt 1 5000000003), 1, 1700000000, 55, (by decide +kernel), (by decide +kernel), (by decide +kernel)⟩⟩

theorem witness_PulseDiscipline_1 :
    (∃ s : State, ∃ u : State, ∃ cycles : Nat, ∃ err : Int, ∃ win : Int, u = (s.oscCycles cycles).idleShares cycles ∧ err = phaseError u.now ∧ win = 1000 * ↑(s.fld Reg.trnPpsCfg 0 15 8) ∧ s.ppsEn = false) ∧
    (∃ s : State, ∃ u : State, ∃ cycles : Nat, ∃ err : Int, ∃ win : Int, u = (s.oscCycles cycles).idleShares cycles ∧ err = phaseError u.now ∧ win = 1000 * ↑(s.fld Reg.trnPpsCfg 0 15 8) ∧ ∃ r : DWord, s.ppsEn = true ∧ s.time.lastRise = some r ∧ u.now < BitVec.toNat r + 500000000) ∧
    (∃ s : State, ∃ u : State, ∃ cycles : Nat, ∃ err : Int, ∃ win : Int, u = (s.oscCycles cycles).idleShares cycles ∧ err = phaseError u.now ∧ win = 1000 * ↑(s.fld Reg.trnPpsCfg 0 15 8) ∧ s.ppsEn = true ∧ (∀ (r : DWord), s.time.lastRise = some r → BitVec.toNat r + 500000000 ≤ u.now) ∧ s.time.disc = Disc.acquire ∧ s.time.armed = none) ∧
    (∃ s : State, ∃ u : State, ∃ cycles : Nat, ∃ err : Int, ∃ win : Int, u = (s.oscCycles cycles).idleShares cycles ∧ err = phaseError u.now ∧ win = 1000 * ↑(s.fld Reg.trnPpsCfg 0 15 8) ∧ s.ppsEn = true ∧ (∀ (r : DWord), s.time.lastRise = some r → BitVec.toNat r + 500000000 ≤ u.now) ∧ s.time.disc = Disc.lock ∧ -win ≤ err ∧ err ≤ win) ∧
    (∃ s : State, ∃ u : State, ∃ cycles : Nat, ∃ err : Int, ∃ win : Int, u = (s.oscCycles cycles).idleShares cycles ∧ err = phaseError u.now ∧ win = 1000 * ↑(s.fld Reg.trnPpsCfg 0 15 8) ∧ s.ppsEn = true ∧ (∀ (r : DWord), s.time.lastRise = some r → BitVec.toNat r + 500000000 ≤ u.now) ∧ s.time.disc ≠ Disc.acquire ∧ (err < -win ∨ win < err)) ∧
    (∃ s : State, ∃ u : State, ∃ cycles : Nat, ∃ err : Int, ∃ win : Int, u = (s.oscCycles cycles).idleShares cycles ∧ err = phaseError u.now ∧ win = 1000 * ↑(s.fld Reg.trnPpsCfg 0 15 8) ∧ s.ppsEn = true ∧ (∀ (r : DWord), s.time.lastRise = some r → BitVec.toNat r + 500000000 ≤ u.now) ∧ s.time.disc = Disc.holdover ∧ -win ≤ err ∧ err ≤ win) :=
  ⟨⟨(arm 0), _, 77, (phaseError ((arm 0).oscCycles 77).now), (1000 * ((arm 0).fld Reg.trnPpsCfg 0 15 8)), rfl, (by decide +kernel), (by decide +kernel), (by decide +kernel)⟩,
   ⟨(pp .lock 5000000000 (some 4900000000) 2 false), _, 77, (phaseError ((pp .lock 5000000000 (some 4900000000) 2 false).oscCycles 77).now), 10000, rfl, (by decide +kernel), (by decide +kernel), 4900000000, (by decide +kernel), (by decide +kernel), (by decide +kernel)⟩,
   ⟨(pp .acquire 5300000000 none 2 false), _, 77, (phaseError ((pp .acquire 5300000000 none 2 false).oscCycles 77).now), 10000, rfl, (by decide +kernel), (by decide +kernel), (by decide +kernel), (opt_all (by decide +kernel)), (by decide +kernel), (by decide +kernel)⟩,
   ⟨(pp .lock 5000001000 (some 4000000000) 2 true), _, 77, (phaseError ((pp .lock 5000001000 (some 4000000000) 2 true).oscCycles 77).now), 10000, rfl, (by decide +kernel), (by decide +kernel), (by decide +kernel), (opt_all (by decide +kernel)), (by decide +kernel), (by decide +kernel), (by decide +kernel)⟩,
   ⟨(pp .lock 5001001000 (some 4000000000) 2 true), _, 77, (phaseError ((pp .lock 5001001000 (some 4000000000) 2 true).oscCycles 77).now), 10000, rfl, (by decide +kernel), (by decide +kernel), (by decide +kernel), (opt_all (by decide +kernel)), (by decide +kernel), (by decide +kernel)⟩,
   ⟨(pp .holdover 5000001000 (some 4000000000) 1 false), _, 77, (phaseError ((pp .holdover 5000001000 (some 4000000000) 1 false).oscCycles 77).now), 10000, rfl, (by decide +kernel), (by decide +kernel), (by decide +kernel), (opt_all (by decide +kernel)), (by decide +kernel), (by decide +kernel), (by decide +kernel)⟩⟩

theorem witness_PulseDiscipline_2 :
    ∃ s : State, s.time.disc = Disc.lock ∧ s.noEdgeFor 1500000000 = true :=
  ⟨(pp .lock 5000001000 (some 4000000000) 2 false), (by decide +kernel), (by decide +kernel)⟩

end T9

namespace T10
def dw (b hold blind win temp : Nat) : State := ((({ base [encWaitwin] (fun s => {s with nextGrant := 99, sync := {s.sync with win := win}}) with dists := [(0, {DistSt.init with band := b})] }.setFld (Reg.thmDist) 0 11 0 temp).setFld Reg.thmDist 0 20 20 blind).setFld Reg.pwrDistHold 0 4 0 hold).setFld Reg.thmStatus 0 1 1 1
def nb (b hold blind win temp : Nat) : Nat := nextBand b (signed12 ((dw b hold blind win temp).fld (Reg.thmDist + 4 * 0) 0 11 0)) ((dw b hold blind win temp).fld (Reg.thmDist + 4 * 0) 0 20 20 == 1)
def st (l : List DWord) (stopped : Bool) (wdg : Nat) (stop : Stop := .run) : State := { base l with parts := [(0, { PartSt.init with prog := some (prog0 [0,1]), stopped := stopped, stop := stop })], serve := { ServSt.init with sessions := [{ (default : Session) with id := 77, part := 0, st := .gen }, { (default : Session) with id := 78, part := 1, st := .gen }] } }.setReg Reg.trnWdg 0 wdg
def fl (k : Nat) (kind : Nat := 0) (part : Nat := 0) (src : Nat := 7) (dest : Nat := 0): Flit := mkFlit part dest 2 kind 6 9 src (padTo 64 ((List.range 64).map fun i => BitVec.ofNat 8 (i*5+k+3)))
def badf : Flit := { fl 1 with hdr := (fl 1).hdr ^^^ 0x1000000000000000 }
def chs : SMap RecvCh := [(2, { valid := true, sender := 7, sendCh := 1, depth := 20, held := true, entries := [fl 9], heldCnt := 3, gap := none })]
def sch : SendCh := { valid := true, dest := 7, chan := 2, depth := 8, spine := none, credit := 3 }
def fs (l : List Flit) : State := { base [encNop 1] (fun s => {s with recv := chs, send := [(4, sch)]}) with flits := l }
def us : State := { fs [fl 1 2 0 7 24] with serve := { ServSt.init with unitCh := [(32*7+2, { (default : UnitCh) with unit := 24, sendCh := 2, depth := 9, credit := 1, queue := [(fl 3 0 0 24 7, none), (fl 4 0 0 24 7, none)] })] } }
def fh : Flit := fl 1 0 0 24 0
def fsc : State := capd (fs [fh]) 0 0
def badc : Flit := { fl 2 2 with hdr := (fl 2 2).hdr ^^^ 0x1000000000000000 }
def hs : State := fs [fl 1 0 0 39 0]
def ls : State := { fs [fl 1 0 0 0 2048, fl 2 0 0 0 2048, fl 3] with lanes := [(2 * 0, 5)] }
def lg : Nat := ((routeLane (ls.flitRoute (fl 1 0 0 0 2048))).getD 1) / 2

theorem witness_DistrictWindows_1 :
    ∃ s : State, ∃ d : Nat, ∃ b : Nat, ∃ h : Nat, d < 50 ∧ h = s.fld Reg.pwrDistHold d 4 0 ∧ b = nextBand (s.dist d).band (signed12 (s.fld (Reg.thmDist + 4 * d) 0 11 0)) (s.fld (Reg.thmDist + 4 * d) 0 20 20 == 1) :=
  ⟨(dw 2 0 0 0 10), 0, (nb 2 0 0 0 10), 0, (by decide +kernel), (by decide +kernel), (by decide +kernel)⟩

theorem witness_StoppedPartitions_1 :
    (∃ s : State, ∃ q : BitVec 4, ∃ p : Nat, p = q.toNat ∧ (s.part p).prog.isSome = true ∧ (s.part p).stopped = false ∧ 64 ≤ s.fld Reg.trnWdg p 20 0) ∧
    (∃ s : State, ∃ q : BitVec 4, ∃ p : Nat, p = q.toNat ∧ (s.part p).prog.isSome = true ∧ (s.part p).stopped = true ∧ (s.part p).told = false ∧ 64 + 65536 < s.fld Reg.trnWdg p 20 0 ∧ s.partTiles p ≠ []) ∧
    (∃ s : State, ∃ q : BitVec 4, ∃ p : Nat, p = q.toNat ∧ (s.part p).prog.isSome = true ∧ (s.part p).stop = Stop.run ∧ 2 ^ 20 ≤ s.fld Reg.trnWdg p 20 0) ∧
    (∃ s : State, ∃ q : BitVec 4, ∃ p : Nat, p = q.toNat ∧ (s.part p).prog.isSome = true ∧ (s.part p).stop = Stop.fault) :=
  ⟨⟨(st [0] false 64), 0, 0, (by decide +kernel), (by decide +kernel), (by decide +kernel), (by decide +kernel)⟩,
   ⟨(st [0] true 65601), 0, 0, (by decide +kernel), (by decide +kernel), (by decide +kernel), (by decide +kernel), (by decide +kernel), (by decide +kernel)⟩,
   ⟨(st [0] true 0x100000), 0, 0, (by decide +kernel), (by decide +kernel), (by decide +kernel), (by decide +kernel)⟩,
   ⟨(st [0] true 0 .fault), 0, 0, (by decide +kernel), (by decide +kernel), (by decide +kernel)⟩⟩

theorem witness_FlitArrivals_1 :
    (∃ s : State, ∃ f : Flit, ∃ g : Flit, tileOk f.dest = true ∧ s.firstFlit f.dest f.chan = some g ∧ s.ownerOf f.dest = some g.part ∧ s.crossed g = true ∧ s.heldAt g.part (routePoints g.src g.dest (s.flitRoute g)) = none ∧ s.tileStopped f.dest = false ∧ f = g ∧ f.crcGood = true ∧ (s.spin f.dest).recvs = []) ∧
    (∃ s : State, ∃ f : Flit, ∃ g : Flit, tileOk f.dest = true ∧ s.firstFlit f.dest f.chan = some g ∧ s.ownerOf f.dest = some g.part ∧ s.crossed g = true ∧ s.heldAt g.part (routePoints g.src g.dest (s.flitRoute g)) = none ∧ s.tileStopped f.dest = false ∧ f.crcGood = false) ∧
    (∃ s : State, ∃ f : Flit, ∃ g : Flit, tileOk f.dest = true ∧ s.firstFlit f.dest f.chan = some g ∧ s.ownerOf f.dest = some g.part ∧ s.crossed g = true ∧ s.heldAt g.part (routePoints g.src g.dest (s.flitRoute g)) = none ∧ s.tileStopped f.dest = true ∧ (f.crcGood = true → f = g)) ∧
    (∃ s : State, ∃ f : Flit, ∃ g : Flit, ∃ e : Nat × Nat, tileOk f.dest = true ∧ s.firstFlit f.dest f.chan = some g ∧ s.ownerOf f.dest = some g.part ∧ s.crossed g = true ∧ s.heldAt g.part (routePoints g.src g.dest (s.flitRoute g)) = some e ∧ (f.crcGood = true → f = g)) :=
  ⟨⟨(fs [fl 1, fl 2]), _, (fl 1), (by decide +kernel), (by decide +kernel), (by decide +kernel), (by decide +kernel), (by decide +kernel), (by decide +kernel), rfl, (by decide +kernel), (by decide +kernel)⟩,
   ⟨(fs [badf, fl 2]), badf, badf, (by decide +kernel), (by decide +kernel), (by decide +kernel), (by decide +kernel), (by decide +kernel), (by decide +kernel), (by decide +kernel)⟩,
   ⟨({ fs [fl 1] with parts := [(0, { PartSt.init with prog := some (prog0 [0]), stop := .fault })] }), (fl 1), (fl 1), (by decide +kernel), (by decide +kernel), (by decide +kernel), (by decide +kernel), (by decide +kernel), (by decide +kernel), (by decide +kernel)⟩,
   ⟨fsc, fh, fh, ((fsc.heldAt 0 (routePoints 24 0 (fsc.flitRoute fh))).getD (0, 0)), (by decide +kernel), (by decide +kernel), (by decide +kernel), (by decide +kernel), (by decide +kernel), (by decide +kernel)⟩⟩

theorem witness_CreditsRetriesAndForeignFlits_1 :
    (∃ s : State, ∃ f : Flit, f ∈ s.flits ∧ f.kind = 2 ∧ s.crossed f = true ∧ (isUnit f.dest = false → s.ownerOf f.dest = some f.part) ∧ s.heldAt f.part (routePoints f.src f.dest (s.flitRoute f)) = none ∧ ∃ ch : Nat, ∃ c : SendCh, f.crcGood = true ∧ isUnit f.dest = false ∧ (List.find? (fun e => e.snd.valid && e.snd.dest == f.src && e.snd.chan == f.chan) (s.spin f.dest).send = some (ch, c))) ∧
    (∃ s : State, ∃ f : Flit, f ∈ s.flits ∧ f.kind = 2 ∧ s.crossed f = true ∧ (isUnit f.dest = false → s.ownerOf f.dest = some f.part) ∧ s.heldAt f.part (routePoints f.src f.dest (s.flitRoute f)) = none ∧ ∃ u : UnitCh, ∃ credit : Nat, ∃ n : Nat, f.crcGood = true ∧ isUnit f.dest = true ∧ u = s.unitSend (32 * f.src + f.chan) ∧ credit = min u.depth (u.credit + byteAt f.payload 0) ∧ n = min credit u.queue.length) ∧
    (∃ s : State, ∃ f : Flit, f ∈ s.flits ∧ f.kind = 2 ∧ s.crossed f = true ∧ (isUnit f.dest = false → s.ownerOf f.dest = some f.part) ∧ s.heldAt f.part (routePoints f.src f.dest (s.flitRoute f)) = none ∧ ∃ g : Flit, g.crcGood = false ∧ g.kind = 2 ∧ g.dest = f.dest ∧ g.src = f.src ∧ g.chan = f.chan ∧ isUnit f.dest = false ∧ (¬g ∈ s.flits) ∧ (s.spin f.src).part = none ∧ (List.find? (fun h => h.kind == 2 && h.dest == f.dest && h.src == f.src && h.chan == f.chan && !isUnit h.dest) s.flits = some f)) ∧
    (∃ s : State, ∃ u : Nat, ∃ w : Word, u = BitVec.toNat w ∧ ixcOk u = true ∧ (ixcKind u = 2 ∨ ixcKind u = 3) ∧ ∃ a : Nat, ((List.filterMap (fun f => Option.filter (fun a => ixcKind a == 2 || ixcKind a == 3) (prevUnit u (s.flitRoute f))) s.flits).getLast? = some a)) ∧
    (∃ s : State, ∃ u : Nat, ∃ w : Word, u = BitVec.toNat w ∧ ixcOk u = true ∧ (ixcKind u = 2 ∨ ixcKind u = 3) ∧ (∀ (f : Flit), f ∈ s.flits → Option.filter (fun a => ixcKind a == 2 || ixcKind a == 3) (prevUnit u (s.flitRoute f)) = none)) ∧
    (∃ s : State, ∃ group : BitVec 4, ∃ seq : BitVec 10, ∃ l : Nat, ∃ k : Nat, l = 2 * group.toNat ∧ k = (seq.toNat + 1024 - s.laneFirst l) % 1024 ∧ k < laneDepth ∧ k < (s.laneFlits l).length) :=
  ⟨⟨(fs [fl 1, fl 2 2]), (fl 2 2), (by decide +kernel), (by decide +kernel), (by decide +kernel), (by decide +kernel), (by decide +kernel), 4, sch, (by decide +kernel), (by decide +kernel), (by decide +kernel)⟩,
   ⟨us, (fl 1 2 0 7 24), (by decide +kernel), (by decide +kernel), (by decide +kernel), (by decide +kernel), (by decide +kernel), _, (min (us.unitSend (32*7+2)).depth ((us.unitSend (32*7+2)).credit + byteAt (fl 1 2 0 7 24).payload 0)), 2, (by decide +kernel), (by decide +kernel), rfl, (by decide +kernel), (by decide +kernel)⟩,
   ⟨(fs [fl 1, fl 2 2]), (fl 2 2), (by decide +kernel), (by decide +kernel), (by decide +kernel), (by decide +kernel), (by decide +kernel), badc, (by decide +kernel), (by decide +kernel), (by decide +kernel), (by decide +kernel), (by decide +kernel), (by decide +kernel), (by decide +kernel), (by decide +kernel), (by decide +kernel)⟩,
   ⟨hs, 0x2000, 0x2000, (by decide +kernel), (by decide +kernel), (by decide +kernel), ((prevUnit 0x2000 (hs.flitRoute (fl 1 0 0 39 0))).getD 0), (by decide +kernel)⟩,
   ⟨(fs []), 0x2000, 0x2000, (by decide +kernel), (by decide +kernel), (by decide +kernel), (by decide +kernel)⟩,
   ⟨ls, (BitVec.ofNat 4 lg), (BitVec.ofNat 10 (ls.laneFirst (2 * lg))), (2 * lg), 0, (by decide +kernel), (by decide +kernel), (by decide +kernel), (by decide +kernel)⟩⟩

theorem witness_CreditsRetriesAndForeignFlits_2 :
    ∃ s : State, ∃ f : Flit, tileOk f.dest = true ∧ s.ownerOf f.dest ≠ some f.part :=
  ⟨(fs [fl 1 0 3]), (fl 1 0 3), (by decide +kernel), (by decide +kernel)⟩

end T10

namespace T11
def hr (k : Nat) : HoldRec := ⟨4, 2, 1, 3, [1,2,3], 5, .warp 2 k 1 1 0 0 0 false, List.replicate 512 0⟩
def hw : HoldRec := ⟨4, 2, 1, 3, [1,2,3], 5, .weft none true, List.replicate 512 0⟩
def is (stop : Stop) (dets : List DetRec := []) (f : Spindle → Spindle := id) (g : PartSt → PartSt := id) : State := { base [0] (fun s => f {s with dirty := [5], hold := [hr 2]}) with parts := [(0, g { PartSt.init with prog := some (prog0 [0]), stop := stop, detects := dets })] }
def wornAll (s : State) : State := (List.range 8).foldl (fun s i => s.setFld Reg.wrpWriteCnt (384 + i) 19 0 1000000) s
def recAll (s : State) : State := { s with variant := .s0i1, warps := (List.range 8).map fun i => (i, { WarpArr.init with record := some (epochRecord 0x77 3 0 0 0 [9] 0) }) }
def rx : Rerun := ⟨0, false, some 0, false, true⟩
def rp (run : Bool) (sh : Option (List Word)) : ReplayP := ⟨4, 2, sh, 256, run⟩
def rd (g : PartSt → PartSt := id) (hh : HoldRec := hr 2) : State := is .run [] (fun s => {s with hold := [hh], replays := [rp true none]}) g
def sh (o : List Word) : State := { is .run [] (fun s => {s with hold := [{ hr 2 with orig := o }]}) (fun q => {q with shadowDue := [(0,4,2)]}) with integ := { State.reset.integ with rows := [(0, { RowSt.init with mirror := some 0, ready := true })] }, warps := [(2, { WarpArr.init with mark := some 7 })] }
def mi (w : Bool) : State := let s := { base [0] with warps := [(2, {WarpArr.init with record := some [1,2]})], integ := { State.reset.integ with rows := [(0, { RowSt.init with mirror := some 3, ready := true })] } }
  if w then s else { s with parts := [] , spindles := []}.setReg Reg.cfgTileOwner 0 0
def rr (r : Rerun) : State := let s := { base [0] (fun s => {s with snap := ⟨[1,2], [(0,5)], 7, 99, [], 0⟩, hold := [hr 2], passes := [⟨2,2,true,4,[]⟩], send := [(2, ⟨true, 0, 3, 8, none, 1⟩)], recv := [(3, ⟨true, 1, 1, 8, true, [], 2, none⟩)]}) with parts := [(0, { PartSt.init with prog := some (prog0 [0]), stop := .integrity, rerun := some r, step := 6 })] }
  s
def bu (u : BareUnit) (x : BareSt) : State := { State.reset with integ := { State.reset.integ with bare := [(u.index, x)] } }
def hwk : HoldRec := { hw with kind := .weft (some true) true }
def sx (o sh : List Word) : State := { is .run [] (fun s => {s with hold := [{ hr 2 with orig := o }], replays := [rp true (some sh)]}) with warps := [(2, { WarpArr.init with mark := some 7 })] }
def wz : List Word := List.replicate 512 0
def wt : List Word := List.replicate 512 0x40000000

theorem witness_DetectionsStartTheirFirstAction_1 :
    (∃ s : State, ∃ t : BitVec 12, ∃ tn : Nat, ∃ p : Nat, ∃ d : Detection, tn = t.toNat ∧ tileOk tn = true ∧ (s.spin tn).part = some p ∧ (s.part p).prog.isSome = true ∧ (s.part p).stop = Stop.fault) ∧
    (∃ s : State, ∃ t : BitVec 12, ∃ tn : Nat, ∃ p : Nat, ∃ d : Detection, tn = t.toNat ∧ tileOk tn = true ∧ (s.spin tn).part = some p ∧ (s.part p).prog.isSome = true ∧ (s.part p).stop = Stop.run ∧ (s.part p).runKind = RunKind.first ∧ (s.part p).reruns < 2 ∧ ∃ key : Nat, (d = Detection.vecResidue ∧ key = 0 ∨ (∃ src ch, d = Detection.flitCrc src ch ∧ key = src.toNat) ∨ ∃ line, d = Detection.parity line ∧ key = line.toNat ∧ (s.spin tn).dirty.contains line.toNat = true)) ∧
    (∃ s : State, ∃ t : BitVec 12, ∃ tn : Nat, ∃ p : Nat, ∃ d : Detection, tn = t.toNat ∧ tileOk tn = true ∧ (s.spin tn).part = some p ∧ (s.part p).prog.isSome = true ∧ (s.part p).stop = Stop.run ∧ (s.part p).runKind = RunKind.first ∧ (s.part p).reruns < 2 ∧ ∃ line : BitVec 12, d = Detection.parity line ∧ (s.spin tn).dirty.contains line.toNat = false) ∧
    (∃ s : State, ∃ t : BitVec 12, ∃ tn : Nat, ∃ p : Nat, ∃ d : Detection, tn = t.toNat ∧ tileOk tn = true ∧ (s.spin tn).part = some p ∧ (s.part p).prog.isSome = true ∧ (s.part p).stop = Stop.run ∧ (s.part p).runKind = RunKind.first ∧ (s.part p).reruns < 2 ∧ ∃ a : Nat, ∃ o : Nat, d.mech ∈ [1, 5, 6] ∧ (List.find? (fun x => x.tile == tn && x.det == d) (s.part p).detects = some { tile := tn, det := d, addr := a, occ := o }) ∧ ∃ h : HoldRec, (List.find? (fun h => h.addr == a && h.occ == o) (s.spin tn).hold = some h) ∧ (s.spin tn).replays.length < 4 ∧ (((s.spin tn).replays.any fun x => x.addr == h.addr && x.occ == h.occ) = false)) ∧
    (∃ s : State, ∃ t : BitVec 12, ∃ tn : Nat, ∃ p : Nat, ∃ d : Detection, tn = t.toNat ∧ tileOk tn = true ∧ (s.spin tn).part = some p ∧ (s.part p).prog.isSome = true ∧ (s.part p).stop = Stop.run ∧ (s.part p).runKind = RunKind.first ∧ (s.part p).reruns < 2 ∧ ∃ a : Nat, ∃ o : Nat, d.mech ∈ [1, 5, 6] ∧ (List.find? (fun x => x.tile == tn && x.det == d) (s.part p).detects = some { tile := tn, det := d, addr := a, occ := o }) ∧ (List.find? (fun h => h.addr == a && h.occ == o) (s.spin tn).hold = none)) ∧
    (∃ s : State, ∃ t : BitVec 12, ∃ tn : Nat, ∃ p : Nat, ∃ d : Detection, tn = t.toNat ∧ tileOk tn = true ∧ (s.spin tn).part = some p ∧ (s.part p).prog.isSome = true ∧ (s.part p).stop = Stop.integrity) :=
  ⟨⟨(is .fault), 0, 0, 0, .vecResidue, (by decide +kernel), (by decide +kernel), (by decide +kernel), (by decide +kernel), (by decide +kernel)⟩,
   ⟨(is .run), 0, 0, 0, (.parity 5), (by decide +kernel), (by decide +kernel), (by decide +kernel), (by decide +kernel), (by decide +kernel), (by decide +kernel), (by decide +kernel), 5, (.inr (.inr ⟨5, rfl, rfl, by decide +kernel⟩))⟩,
   ⟨(is .run), 0, 0, 0, _, (by decide +kernel), (by decide +kernel), (by decide +kernel), (by decide +kernel), (by decide +kernel), (by decide +kernel), (by decide +kernel), 6, rfl, (by decide +kernel)⟩,
   ⟨(is .run [⟨0, .warpChecksum 2 1 1, 4, 2⟩]), 0, 0, 0, (.warpChecksum 2 1 1), (by decide +kernel), (by decide +kernel), (by decide +kernel), (by decide +kernel), (by decide +kernel), (by decide +kernel), (by decide +kernel), 4, 2, (by decide +kernel), (by decide +kernel), (hr 2), (by decide +kernel), (by decide +kernel), (by decide +kernel)⟩,
   ⟨(is .run [⟨0, .weft, 5, 2⟩]), 0, 0, 0, .weft, (by decide +kernel), (by decide +kernel), (by decide +kernel), (by decide +kernel), (by decide +kernel), (by decide +kernel), (by decide +kernel), 5, 2, (by decide +kernel), (by decide +kernel), (by decide +kernel)⟩,
   ⟨(is .integrity), 0, 0, 0, .vecResidue, (by decide +kernel), (by decide +kernel), (by decide +kernel), (by decide +kernel), (by decide +kernel)⟩⟩

theorem witness_DetectionsStartTheirFirstAction_2 :
    ∃ s : State, ∃ t : BitVec 12, ∃ tn : Nat, ∃ p : Nat, ∃ d : Detection, tn = t.toNat ∧ tileOk tn = true ∧ (s.spin tn).part = some p ∧ (s.part p).prog.isSome = true ∧ (s.part p).stop = Stop.run ∧ (s.part p).runKind = RunKind.first ∧ (s.part p).reruns < 2 ∧ ∃ a : BitVec 4, ∃ e : Nat × Nat × Nat, d = Detection.warpResidue a ∧ (List.find? (fun x => x.tile == tn && x.det == d) (s.part p).detects = none) ∧ (List.find? (fun e => e.fst == a.toNat) (s.spin tn).bare = some e) :=
  ⟨(is .run [] (fun s => {s with bare := [(2, 4, 2)]})), 0, 0, 0, _, (by decide +kernel), (by decide +kernel), (by decide +kernel), (by decide +kernel), (by decide +kernel), (by decide +kernel), (by decide +kernel), 2, ((2, 4, 2)), rfl, (by decide +kernel), (by decide +kernel)⟩

theorem witness_ReplaysDecide_1 :
    (∃ s : State, ∃ t : BitVec 12, ∃ tn : Nat, ∃ p : Nat, ∃ h : HoldRec, tn = t.toNat ∧ tileOk tn = true ∧ (s.spin tn).part = some p ∧ (s.spin tn).replays.any ReplayP.running = false ∧ s.replayFree tn h = true ∧ (List.find? (fun h => (s.spin tn).replays.any fun x => x.addr == h.addr && x.occ == h.occ) (s.spin tn).hold = some h) ∧ ∃ bad : Bool, (bad = false ∨ h.slotIn = none)) ∧
    (∃ s : State, ∃ t : BitVec 12, ∃ tn : Nat, ∃ p : Nat, ∃ h : HoldRec, tn = t.toNat ∧ tileOk tn = true ∧ (s.spin tn).part = some p ∧ ∃ clean : Bool, ∃ a : WarpAnalog, ∃ w : WeftAnalog, ∃ x : ReplayP, ∃ r : Again, r = (s.runAgain p tn h a w).fst ∧ (List.find? (fun x => x.running && x.shadow.isNone) (s.spin tn).replays = some x) ∧ (s.spin tn).heldOf x = some h ∧ clean = true ∧ r.bad = false ∧ s.agrees p h r.same h.orig r.results = true) ∧
    (∃ s : State, ∃ t : BitVec 12, ∃ tn : Nat, ∃ p : Nat, ∃ h : HoldRec, tn = t.toNat ∧ tileOk tn = true ∧ (s.spin tn).part = some p ∧ ∃ clean : Bool, ∃ a : WarpAnalog, ∃ w : WeftAnalog, ∃ x : ReplayP, ∃ r : Again, r = (s.runAgain p tn h a w).fst ∧ (List.find? (fun x => x.running && x.shadow.isNone) (s.spin tn).replays = some x) ∧ (s.spin tn).heldOf x = some h ∧ (clean = false ∨ r.bad = true ∨ s.agrees p h r.same h.orig r.results = false)) ∧
    (∃ s : State, ∃ t : BitVec 12, ∃ tn : Nat, ∃ p : Nat, ∃ h : HoldRec, tn = t.toNat ∧ tileOk tn = true ∧ (s.spin tn).part = some p ∧ (s.spin tn).replays.any ReplayP.running = false ∧ s.replayFree tn h = true ∧ (List.find? (fun h => (s.spin tn).replays.any fun x => x.addr == h.addr && x.occ == h.occ) (s.spin tn).hold = some h) ∧ ∃ k : Bool, h.slotIn = some k) :=
  ⟨⟨(is .run [] (fun s => {s with replays := [rp false none]})), 0, 0, 0, (hr 2), (by decide +kernel), (by decide +kernel), (by decide +kernel), (by decide +kernel), (by decide +kernel), (by decide +kernel), false, (by decide +kernel)⟩,
   ⟨(rd id (hw)), 0, 0, 0, hw, (by decide +kernel), (by decide +kernel), (by decide +kernel), true, default, default, (rp true none), _, rfl, (by decide +kernel), (by decide +kernel), (by decide +kernel), (by decide +kernel), (by decide +kernel)⟩,
   ⟨(rd id (hr 2)), 0, 0, 0, (hr 2), (by decide +kernel), (by decide +kernel), (by decide +kernel), false, default, default, (rp true none), _, rfl, (by decide +kernel), (by decide +kernel), (by decide +kernel)⟩,
   ⟨({ is .run [] (fun s => {s with hold := [hwk], replays := [rp false none]}) with wefts := [(0, { WeftArr.init with slot1 := { WeftSlot.init with st := .resident, entry := some 3 } })] }), 0, 0, 0, hwk, (by decide +kernel), (by decide +kernel), (by decide +kernel), (by decide +kernel), (by decide +kernel), (by decide +kernel), true, (by decide +kernel)⟩⟩

theorem witness_ShadowRunsAndMirrors_1 :
    (∃ s : State, ∃ half : Bool, ∃ row : BitVec 6, ∃ r : Nat, (r = (if half = true then 64 else 0) + row.toNat) ∧ s.hasSpare r = true ∧ (s.row r).standIn = none ∧ ∃ cs : List CopyCheck, ∃ k : Nat, s.nextMirror r (s.row r).mirror = some k ∧ (∀ (i : Nat), i < 8 → cs.getD i { verifyOk := true, writeOk := true } = { verifyOk := true, writeOk := true } ∧ s.worn (32 * r + 24) i = false ∧ ((s.warp (arrKey (32 * r + k) i)).valid = none ∨ adigOf (s.warp (arrKey (32 * r + k) i)).image = (s.warp (arrKey (32 * r + k) i)).adig))) ∧
    (∃ s : State, ∃ half : Bool, ∃ row : BitVec 6, ∃ r : Nat, (r = (if half = true then 64 else 0) + row.toNat) ∧ s.hasSpare r = true ∧ (s.row r).standIn = none ∧ ∃ cs : List CopyCheck, s.nextMirror r (s.row r).mirror = none) ∧
    (∃ s : State, ∃ t : BitVec 12, ∃ tn : Nat, ∃ p : Nat, ∃ arr : Nat, ∃ key : Nat, ∃ k : Nat, ∃ ko : Nat, ∃ cap : Nat, ∃ epoch : Nat, ∃ band : Nat, ∃ dense : Bool, ∃ h : HoldRec, tn = t.toNat ∧ tileOk tn = true ∧ (s.spin tn).part = some p ∧ h.kind = PassKind.warp arr key k ko cap epoch band dense ∧ ∃ clean : Bool, ∃ a : WarpAnalog, ∃ x : ReplayP, ∃ r : Again, r = (s.runAgain p tn h a default).fst ∧ (List.find? (fun x => x.running && x.shadow.isSome) (s.spin tn).replays = some x) ∧ (s.spin tn).heldOf x = some h ∧ (s.part p).reruns < 2 ∧ (clean = false ∨ r.bad = true) ∧ (s.part p).runKind = RunKind.first) ∧
    (∃ s : State, ∃ half : Bool, ∃ row : BitVec 6, ∃ r : Nat, (r = (if half = true then 64 else 0) + row.toNat) ∧ s.hasSpare r = true ∧ (s.row r).standIn = none ∧ ∃ cs : List CopyCheck, ∃ k : Nat, s.nextMirror r (s.row r).mirror = some k ∧ (∃ i, i < 8 ∧ (cs.getD i { verifyOk := true, writeOk := true }).writeOk = false)) :=
  ⟨⟨(mi true), false, 0, 0, (by decide +kernel), (by decide +kernel), (by decide +kernel), ([]), 0, (by decide +kernel), (by decide +kernel)⟩,
   ⟨(mi false), false, 0, 0, (by decide +kernel), (by decide +kernel), (by decide +kernel), ([]), (by decide +kernel)⟩,
   ⟨(sx wz wt), 0, 0, 0, 2, 2, 1, 1, 0, 0, 0, false, ({ hr 2 with orig := wz }), (by decide +kernel), (by decide +kernel), (by decide +kernel), (by decide +kernel), false, default, (rp true (some wt)), _, rfl, (by decide +kernel), (by decide +kernel), (by decide +kernel), (by decide +kernel), (by decide +kernel)⟩,
   ⟨(mi true), false, 0, 0, (by decide +kernel), (by decide +kernel), (by decide +kernel), ([⟨true, false⟩]), 0, (by decide +kernel), (by decide +kernel)⟩⟩

theorem witness_RerunsRestoreTheSnapshot_1 :
    (∃ s : State, ∃ q : BitVec 4, ∃ p : Nat, ∃ r : Rerun, p = q.toNat ∧ (s.part p).rerun = some r ∧ ∃ Resumed : State → RunKind → Prop, (Resumed = fun s' kind => (s'.part p).stop = Stop.run ∧ (s'.part p).rerun = none ∧ (s'.part p).runKind = kind ∧ (s'.part p).step = (s.part p).step ∧ s'.reg Reg.intRerunCnt p = (s.reg Reg.intRerunCnt p + 1) % 2 ^ 32 ∧ (∀ (t : Nat), t ∈ s.partTiles p → (s.spin t).sync.stepGo = false → (s'.spin t).pc = (s.spin t).snap.pc ∧ (s'.spin t).turn = (s.spin t).snap.turn ∧ (s'.spin t).occ = (s.spin t).snap.occ ∧ (s'.spin t).hold = [] ∧ (s'.spin t).dirty = [] ∧ (s'.spin t).replays = [] ∧ ∀ (c : Nat), ((s'.spin t).sendCh c).credit = ((s.spin t).sendCh c).depth ∧ ((s'.spin t).recvCh c).heldCnt = 0) ∧ (∀ (u : Nat), ¬u ∈ s.partTiles p → s'.spin u = s.spin u) ∧ s'.slices = s.slices) ∧ r.drained = false ∧ r.standIn = none) ∧
    (∃ s : State, ∃ q : BitVec 4, ∃ p : Nat, ∃ r : Rerun, p = q.toNat ∧ (s.part p).rerun = some r ∧ ∃ Resumed : State → RunKind → Prop, (Resumed = fun s' kind => (s'.part p).stop = Stop.run ∧ (s'.part p).rerun = none ∧ (s'.part p).runKind = kind ∧ (s'.part p).step = (s.part p).step ∧ s'.reg Reg.intRerunCnt p = (s.reg Reg.intRerunCnt p + 1) % 2 ^ 32 ∧ (∀ (t : Nat), t ∈ s.partTiles p → (s.spin t).sync.stepGo = false → (s'.spin t).pc = (s.spin t).snap.pc ∧ (s'.spin t).turn = (s.spin t).snap.turn ∧ (s'.spin t).occ = (s.spin t).snap.occ ∧ (s'.spin t).hold = [] ∧ (s'.spin t).dirty = [] ∧ (s'.spin t).replays = [] ∧ ∀ (c : Nat), ((s'.spin t).sendCh c).credit = ((s.spin t).sendCh c).depth ∧ ((s'.spin t).recvCh c).heldCnt = 0) ∧ (∀ (u : Nat), ¬u ∈ s.partTiles p → s'.spin u = s.spin u) ∧ s'.slices = s.slices) ∧ ∃ t : Nat, r.drained = false ∧ r.standIn = some t) ∧
    (∃ s : State, ∃ q : BitVec 4, ∃ p : Nat, ∃ r : Rerun, p = q.toNat ∧ (s.part p).rerun = some r ∧ ∃ Resumed : State → RunKind → Prop, (Resumed = fun s' kind => (s'.part p).stop = Stop.run ∧ (s'.part p).rerun = none ∧ (s'.part p).runKind = kind ∧ (s'.part p).step = (s.part p).step ∧ s'.reg Reg.intRerunCnt p = (s.reg Reg.intRerunCnt p + 1) % 2 ^ 32 ∧ (∀ (t : Nat), t ∈ s.partTiles p → (s.spin t).sync.stepGo = false → (s'.spin t).pc = (s.spin t).snap.pc ∧ (s'.spin t).turn = (s.spin t).snap.turn ∧ (s'.spin t).occ = (s.spin t).snap.occ ∧ (s'.spin t).hold = [] ∧ (s'.spin t).dirty = [] ∧ (s'.spin t).replays = [] ∧ ∀ (c : Nat), ((s'.spin t).sendCh c).credit = ((s.spin t).sendCh c).depth ∧ ((s'.spin t).recvCh c).heldCnt = 0) ∧ (∀ (u : Nat), ¬u ∈ s.partTiles p → s'.spin u = s.spin u) ∧ s'.slices = s.slices) ∧ ∃ t : Nat, ∃ cs : List CopyCheck, r.drained = true ∧ r.standIn = some t ∧ ((s.row (rowOf t)).mirror = some (t % 32) ∧ (s.row (rowOf t)).ready = true ∨ ∀ (i : Nat), i < 8 → cs.getD i { verifyOk := true, writeOk := true } = { verifyOk := true, writeOk := true } ∧ s.worn (32 * rowOf t + 24) i = false ∧ ((s.warp (arrKey (s.physOf t) i)).valid = none ∨ adigOf (s.warp (arrKey (s.physOf t) i)).image = (s.warp (arrKey (s.physOf t) i)).adig)) ∧ 32 * rowOf t + 24 ≠ s.physOf t) ∧
    (∃ s : State, ∃ q : BitVec 4, ∃ p : Nat, ∃ r : Rerun, p = q.toNat ∧ (s.part p).rerun = some r ∧ ∃ Resumed : State → RunKind → Prop, (Resumed = fun s' kind => (s'.part p).stop = Stop.run ∧ (s'.part p).rerun = none ∧ (s'.part p).runKind = kind ∧ (s'.part p).step = (s.part p).step ∧ s'.reg Reg.intRerunCnt p = (s.reg Reg.intRerunCnt p + 1) % 2 ^ 32 ∧ (∀ (t : Nat), t ∈ s.partTiles p → (s.spin t).sync.stepGo = false → (s'.spin t).pc = (s.spin t).snap.pc ∧ (s'.spin t).turn = (s.spin t).snap.turn ∧ (s'.spin t).occ = (s.spin t).snap.occ ∧ (s'.spin t).hold = [] ∧ (s'.spin t).dirty = [] ∧ (s'.spin t).replays = [] ∧ ∀ (c : Nat), ((s'.spin t).sendCh c).credit = ((s.spin t).sendCh c).depth ∧ ((s'.spin t).recvCh c).heldCnt = 0) ∧ (∀ (u : Nat), ¬u ∈ s.partTiles p → s'.spin u = s.spin u) ∧ s'.slices = s.slices) ∧ ∃ t : Nat, ∃ cs : List CopyCheck, ∃ u : State, r.drained = true ∧ r.standIn = some t ∧ s.prepareStandIn t cs = (false, u) ∧ u.hasSpare (rowOf t) = false) ∧
    (∃ s : State, ∃ q : BitVec 4, ∃ p : Nat, ∃ r : Rerun, p = q.toNat ∧ (s.part p).rerun = some r ∧ ∃ Resumed : State → RunKind → Prop, (Resumed = fun s' kind => (s'.part p).stop = Stop.run ∧ (s'.part p).rerun = none ∧ (s'.part p).runKind = kind ∧ (s'.part p).step = (s.part p).step ∧ s'.reg Reg.intRerunCnt p = (s.reg Reg.intRerunCnt p + 1) % 2 ^ 32 ∧ (∀ (t : Nat), t ∈ s.partTiles p → (s.spin t).sync.stepGo = false → (s'.spin t).pc = (s.spin t).snap.pc ∧ (s'.spin t).turn = (s.spin t).snap.turn ∧ (s'.spin t).occ = (s.spin t).snap.occ ∧ (s'.spin t).hold = [] ∧ (s'.spin t).dirty = [] ∧ (s'.spin t).replays = [] ∧ ∀ (c : Nat), ((s'.spin t).sendCh c).credit = ((s.spin t).sendCh c).depth ∧ ((s'.spin t).recvCh c).heldCnt = 0) ∧ (∀ (u : Nat), ¬u ∈ s.partTiles p → s'.spin u = s.spin u) ∧ s'.slices = s.slices) ∧ ∃ t : Nat, ∃ cs : List CopyCheck, ∃ u : State, r.drained = true ∧ r.standIn = some t ∧ s.prepareStandIn t cs = (false, u) ∧ u.hasSpare (rowOf t) = true) :=
  ⟨⟨(rr ⟨0, false, none, true, false⟩), 0, 0, (⟨0, false, none, true, false⟩), (by decide +kernel), (by decide +kernel), _, rfl, (by decide +kernel), (by decide +kernel)⟩,
   ⟨(rr ⟨0, false, some 0, false, false⟩), 0, 0, (⟨0, false, some 0, false, false⟩), (by decide +kernel), (by decide +kernel), _, rfl, 0, (by decide +kernel), (by decide +kernel)⟩,
   ⟨(rr ⟨0, true, some 0, false, true⟩), 0, 0, (⟨0, true, some 0, false, true⟩), (by decide +kernel), (by decide +kernel), _, rfl, 0, ([]), (by decide +kernel), (by decide +kernel), (by decide +kernel), (by decide +kernel)⟩,
   ⟨(wornAll (rr rx)), 0, 0, rx, (by decide +kernel), (by decide +kernel), _, rfl, 0, ([]), ((State.prepareStandIn (wornAll (rr rx)) 0 []).2), (by decide +kernel), (by decide +kernel), (pair_of (by decide +kernel)), (by decide +kernel)⟩,
   ⟨(recAll (rr rx)), 0, 0, rx, (by decide +kernel), (by decide +kernel), _, rfl, 0, (List.replicate 8 ⟨false, true⟩), ((State.prepareStandIn (recAll (rr rx)) 0 (List.replicate 8 ⟨false, true⟩)).2), (by decide +kernel), (by decide +kernel), (pair_of (by decide +kernel)), (by decide +kernel)⟩⟩

theorem witness_UnitsWithoutASpare_1 :
    (∃ s : State, ∃ u : BareUnit, ∃ n : Nat, ∃ x : BareSt, bareFitted s.variant u = true ∧ n = u.index ∧ x = s.bareUnit n ∧ ∃ Next : State → Prop, (Next = fun s' => (x.margin + x.pend < u.lastStep → s'.bareUnit n = { margin := x.margin, pend := x.pend + 1, overLimit := true, suspect := x.suspect, errs := [] } ∧ s'.integ.suspects = s.integ.suspects) ∧ (u.lastStep ≤ x.margin + x.pend → s'.bareUnit n = { margin := x.margin, pend := x.pend, overLimit := false, suspect := true, errs := [] } ∧ (s.integ.suspects.length < 64 → s'.isSuspect u.kind n 255 = true)) ∧ (∀ (m : Nat), m ≠ n → s'.bareUnit m = s.bareUnit m) ∧ s'.slices = s.slices ∧ s'.flits = s.flits) ∧ x.overLimit = true ∧ x.pend = 0 ∧ s.exceeds u = false) ∧
    (∃ s : State, ∃ u : BareUnit, ∃ n : Nat, ∃ x : BareSt, bareFitted s.variant u = true ∧ n = u.index ∧ x = s.bareUnit n ∧ ∃ Next : State → Prop, (Next = fun s' => (x.margin + x.pend < u.lastStep → s'.bareUnit n = { margin := x.margin, pend := x.pend + 1, overLimit := true, suspect := x.suspect, errs := [] } ∧ s'.integ.suspects = s.integ.suspects) ∧ (u.lastStep ≤ x.margin + x.pend → s'.bareUnit n = { margin := x.margin, pend := x.pend, overLimit := false, suspect := true, errs := [] } ∧ (s.integ.suspects.length < 64 → s'.isSuspect u.kind n 255 = true)) ∧ (∀ (m : Nat), m ≠ n → s'.bareUnit m = s.bareUnit m) ∧ s'.slices = s.slices ∧ s'.flits = s.flits) ∧ u.kind ≠ 9 ∧ x.overLimit = false ∧ x.suspect = false ∧ s.exceeds u = true) ∧
    (∃ s : State, ∃ u : BareUnit, ∃ n : Nat, ∃ x : BareSt, bareFitted s.variant u = true ∧ n = u.index ∧ x = s.bareUnit n ∧ ∃ Next : State → Prop, (Next = fun s' => (x.margin + x.pend < u.lastStep → s'.bareUnit n = { margin := x.margin, pend := x.pend + 1, overLimit := true, suspect := x.suspect, errs := [] } ∧ s'.integ.suspects = s.integ.suspects) ∧ (u.lastStep ≤ x.margin + x.pend → s'.bareUnit n = { margin := x.margin, pend := x.pend, overLimit := false, suspect := true, errs := [] } ∧ (s.integ.suspects.length < 64 → s'.isSuspect u.kind n 255 = true)) ∧ (∀ (m : Nat), m ≠ n → s'.bareUnit m = s.bareUnit m) ∧ s'.slices = s.slices ∧ s'.flits = s.flits) ∧ ∃ k : BitVec 2, ∃ errs : List DWord, u = BareUnit.phy k ∧ x.overLimit = false ∧ x.suspect = false ∧ (errs = List.filter (fun e => decide (s.now < BitVec.toNat e + 2 ^ 20)) x.errs ++ [s.time.cnt]) ∧ errs.length ≤ max 1 (s.fld Reg.intPhyLimit 0 7 0)) ∧
    (∃ s : State, ∃ u : BareUnit, ∃ n : Nat, ∃ x : BareSt, bareFitted s.variant u = true ∧ n = u.index ∧ x = s.bareUnit n ∧ ∃ Next : State → Prop, (Next = fun s' => (x.margin + x.pend < u.lastStep → s'.bareUnit n = { margin := x.margin, pend := x.pend + 1, overLimit := true, suspect := x.suspect, errs := [] } ∧ s'.integ.suspects = s.integ.suspects) ∧ (u.lastStep ≤ x.margin + x.pend → s'.bareUnit n = { margin := x.margin, pend := x.pend, overLimit := false, suspect := true, errs := [] } ∧ (s.integ.suspects.length < 64 → s'.isSuspect u.kind n 255 = true)) ∧ (∀ (m : Nat), m ≠ n → s'.bareUnit m = s.bareUnit m) ∧ s'.slices = s.slices ∧ s'.flits = s.flits) ∧ ∃ k : BitVec 2, ∃ errs : List DWord, u = BareUnit.phy k ∧ x.overLimit = false ∧ x.suspect = false ∧ (errs = List.filter (fun e => decide (s.now < BitVec.toNat e + 2 ^ 20)) x.errs ++ [s.time.cnt]) ∧ max 1 (s.fld Reg.intPhyLimit 0 7 0) < errs.length) ∧
    (∃ s : State, ∃ u : BareUnit, ∃ n : Nat, ∃ x : BareSt, bareFitted s.variant u = true ∧ n = u.index ∧ x = s.bareUnit n ∧ ∃ Next : State → Prop, (Next = fun s' => (x.margin + x.pend < u.lastStep → s'.bareUnit n = { margin := x.margin, pend := x.pend + 1, overLimit := true, suspect := x.suspect, errs := [] } ∧ s'.integ.suspects = s.integ.suspects) ∧ (u.lastStep ≤ x.margin + x.pend → s'.bareUnit n = { margin := x.margin, pend := x.pend, overLimit := false, suspect := true, errs := [] } ∧ (s.integ.suspects.length < 64 → s'.isSuspect u.kind n 255 = true)) ∧ (∀ (m : Nat), m ≠ n → s'.bareUnit m = s.bareUnit m) ∧ s'.slices = s.slices ∧ s'.flits = s.flits) ∧ x.overLimit = true ∧ x.pend = 0 ∧ s.exceeds u = true) :=
  ⟨⟨(bu (.phy 1) ⟨0,0,true,false,[]⟩), ((.phy 1)), (((.phy 1) : BareUnit).index), _, (by decide +kernel), (by decide +kernel), rfl, _, rfl, (by decide +kernel), (by decide +kernel), (by decide +kernel)⟩,
   ⟨(bu (.group 4) ⟨1,0,false,false,List.replicate 255 1⟩), ((.group 4)), (((.group 4) : BareUnit).index), _, (by decide +kernel), (by decide +kernel), rfl, _, rfl, (by decide +kernel), (by decide +kernel), (by decide +kernel), (by decide +kernel)⟩,
   ⟨(bu (.phy 1) ⟨0,0,false,false,[]⟩), _, (((.phy 1) : BareUnit).index), _, (by decide +kernel), (by decide +kernel), rfl, _, rfl, 1, (((⟨0,0,false,false,[]⟩ : BareSt).errs.filter fun e => decide (0 < e.toNat + 2 ^ 20)) ++ [0]), rfl, (by decide +kernel), (by decide +kernel), (by decide +kernel), (by decide +kernel)⟩,
   ⟨(bu (.phy 1) ⟨1,0,false,false,List.replicate 255 1⟩), _, (((.phy 1) : BareUnit).index), _, (by decide +kernel), (by decide +kernel), rfl, _, rfl, 1, (((⟨1,0,false,false,List.replicate 255 1⟩ : BareSt).errs.filter fun e => decide (0 < e.toNat + 2 ^ 20)) ++ [0]), rfl, (by decide +kernel), (by decide +kernel), (by decide +kernel), (by decide +kernel)⟩,
   ⟨(bu (.spine true 3) ⟨0,0,true,false,List.replicate 255 1⟩), (.spine true 3), _, _, (by decide +kernel), rfl, rfl, _, rfl, (by decide +kernel), (by decide +kernel), (by decide +kernel)⟩⟩

end T11

namespace T12
def live : State := { State.reset with ctxs := [(1, { (default : Ctx) with bound := true, qp := 1, sel := [(2, 2), (3, 0)] })] }
def act (c : Nat) : WarpArr := { WarpArr.init with code := c, record := some [1] }
def sv (prog : Bool) (code : Nat) (q : List SvcReq := []) : State := let s := { live with warps := [(2, act code)], tiles := [(0, { PhysTile.init with queue := q })] }
  if prog then { s with parts := [(0, { PartSt.init with prog := some (prog0 [0]) })] } else s
def cr : State := { live with warps := [(0, act 1), (1, act 1), (2, act 1), (16*64+5, act 1)] }
def okc : ArrayCheck := ⟨true, true, 9, 3, [1, 2, 3], 4, 5, 6, 7, [⟨3, 1, 1, 1, 1⟩], true, true⟩
def badc : ArrayCheck := { okc with passesOk := false }
def ss (st : SvcStage) (q : List SvcReq := []) (wr : Option Bytes := none) (code : Nat := 3) (ab : Nat := 0) (v : Variant := .s4i2) : State :=
  let w : WgtSt := { WgtSt.init with gold := [(2, ⟨[1,2,3], true⟩)], models := [(0, { ModelSt.init with id := 9, st := 2, epoch := 3, layers := [⟨3, [⟨[2], []⟩]⟩] })] }
  let a2 : WarpArr := { act code with writing := wr }
  let a8 : WarpArr := { act 0 with writing := wr }
  let pt : PhysTile := { PhysTile.init with stage := st, queue := q, aborts := ab }
  { live with variant := v, warps := [(2, a2), (8, a8)], tiles := [(0, pt)], wgt := w }

theorem witness_ServiceRequests_1 :
    (∃ s : State, ∃ c : BitVec 3, ∃ k : Nat, ∃ op : Nat, ∃ cmd : Instr, CanReach s c.toNat Reg.wrpSvcCmd k ∧ (op, cmd) ∈ [(1, Instr.svcCalibrate c), (2, Instr.svcRewrite c), (3, Instr.svcMarginScan c), (4, Instr.svcCancel c)] ∧ s.noPrograms = false) ∧
    (∃ s : State, ∃ c : BitVec 3, ∃ k : Nat, ∃ op : Nat, ∃ cmd : Instr, CanReach s c.toNat Reg.wrpSvcCmd k ∧ (op, cmd) ∈ [(1, Instr.svcCalibrate c), (2, Instr.svcRewrite c), (3, Instr.svcMarginScan c), (4, Instr.svcCancel c)] ∧ s.noPrograms = true ∧ op ≠ 4 ∧ k % 16 < 8 ∧ (s.tile (k / 16)).spareSuspect = false ∧ (¬(s.warp k).code ∈ [0, 4]) ∧ (op = 2 → s.worn (k / 16) (k % 16) = false) ∧ (s.tile (k / 16)).queue.length < 8 ∧ (((s.tile (k / 16)).queue.any fun r => r.arr == k % 16) = false)) ∧
    (∃ s : State, ∃ c : BitVec 3, ∃ k : Nat, ∃ op : Nat, ∃ cmd : Instr, CanReach s c.toNat Reg.wrpSvcCmd k ∧ (op, cmd) ∈ [(1, Instr.svcCalibrate c), (2, Instr.svcRewrite c), (3, Instr.svcMarginScan c), (4, Instr.svcCancel c)] ∧ ∃ o : Nat, s.noPrograms = true ∧ op = 4 ∧ (s.tile (k / 16)).stage = SvcStage.idle ∧ (s.tile (k / 16)).calLeft = [] ∧ s.cal.scan = [] ∧ (List.find? (fun r => r.arr == k % 16) (s.tile (k / 16)).queue = some { arr := k % 16, op := o })) ∧
    (∃ s : State, ∃ half : Bool, ∃ d : Nat, ∃ h : Nat, ∃ p : Nat, d < 25 ∧ (h = if half = true then 1 else 0) ∧ s.fld Reg.calWarpCfg 0 9 0 ≠ 0 ∧ s.calHalf h = { d := d, idx := none } ∧ p ∈ districtTiles (25 * h + d) ∧ s.canServe p 0 = true) ∧
    (∃ s : State, ∃ keys : List Nat, s.fld Reg.wrpScanCfg 0 0 0 = 1 ∧ s.fld Reg.wrpScanStat 0 0 0 = 0 ∧ (keys = List.flatMap (fun d => List.flatMap (fun p => List.map (arrKey p) (List.range 8)) (districtTiles d)) (List.range 50))) ∧
    (∃ s : State, ∃ phys : BitVec 12, ∃ arr : BitVec 4, physOk phys.toNat = true ∧ arr.toNat ≤ 8 ∧ s.fld Reg.calWarpCfg 0 30 24 ≠ 0 ∧ 4 * s.fld Reg.calWarpCfg 0 30 24 < (signed12 (s.fld (Reg.thmDist + 4 * districtOf phys.toNat) 0 11 0) - signed12 (s.fld Reg.calTc (arrKey phys.toNat arr.toNat) 11 0)).natAbs ∧ s.svcPending phys.toNat arr.toNat = false) :=
  ⟨⟨(sv true 1), 1, 2, 4, (.svcCancel 1), (canReach_of (by decide +kernel)), (by decide +kernel), (by decide +kernel)⟩,
   ⟨(sv false 1), 1, 2, 2, (.svcRewrite 1), (canReach_of (by decide +kernel)), (by decide +kernel), (by decide +kernel), (by decide +kernel), (by decide +kernel), (by decide +kernel), (by decide +kernel), (by decide +kernel), (by decide +kernel), (by decide +kernel)⟩,
   ⟨(sv false 2 [⟨2,3⟩]), 1, 2, 4, (.svcCancel 1), (canReach_of (by decide +kernel)), (by decide +kernel), 3, (by decide +kernel), (by decide +kernel), (by decide +kernel), (by decide +kernel), (by decide +kernel), (by decide +kernel)⟩,
   ⟨cr, false, 0, 0, 0, (by decide +kernel), (by decide +kernel), (by decide +kernel), (by decide +kernel), (by decide +kernel), (by decide +kernel)⟩,
   ⟨(cr.setFld Reg.wrpScanCfg 0 0 0 1), _, (by decide +kernel), (by decide +kernel), rfl⟩,
   ⟨(((sv false 1).setFld Reg.calWarpCfg 0 30 24 5).setFld Reg.thmDist 0 11 0 400), 0, 2, (by decide +kernel), (by decide +kernel), (by decide +kernel), (by decide +kernel), (by decide +kernel)⟩⟩

theorem witness_SpareServices_1 :
    (∃ s : State, ∃ t : BitVec 12, ∃ p : Nat, p = t.toNat ∧ physOk p = true ∧ ∃ r : SvcReq, ∃ rest : List SvcReq, (s.tile p).queue = r :: rest ∧ (s.tile p).stage = SvcStage.idle ∧ (s.tile p).spareSuspect = false ∧ r.arr = 8) ∧
    (∃ s : State, ∃ t : BitVec 12, ∃ p : Nat, p = t.toNat ∧ physOk p = true ∧ ∃ r : SvcReq, ∃ rest : List SvcReq, (s.tile p).queue = r :: rest ∧ (s.tile p).stage = SvcStage.idle ∧ (s.tile p).spareSuspect = false ∧ ∃ u : Nat, r.arr ≠ 8 ∧ s.targetOf p r.arr = some u ∧ s.underBarrier u = false ∧ s.worn p 8 = false ∧ (r.op = 2 → s.worn p r.arr = false) ∧ s.writingAt p = false ∧ ∃ g : Gold, s.stacked = true ∧ s.gold u = some g ∧ g.compared = true ∧ (r.op ≠ 2 ∨ s.goldGood u = true)) ∧
    (∃ s : State, ∃ t : BitVec 12, ∃ p : Nat, p = t.toNat ∧ physOk p = true ∧ ∃ r : SvcReq, ∃ rest : List SvcReq, (s.tile p).queue = r :: rest ∧ (s.tile p).stage = SvcStage.idle ∧ (s.tile p).spareSuspect = false ∧ ∃ u : Nat, r.arr ≠ 8 ∧ s.targetOf p r.arr = some u ∧ s.underBarrier u = false ∧ s.worn p 8 = false ∧ (r.op = 2 → s.worn p r.arr = false) ∧ s.writingAt p = false ∧ ∃ m : Nat, ∃ l : Nat, ∃ h : Nat, ∃ k : Nat, s.stacked = false ∧ s.locate u = some (m, l, h, k) ∧ s.wgt.reqs = []) ∧
    (∃ s : State, ∃ t : BitVec 12, ∃ p : Nat, p = t.toNat ∧ physOk p = true ∧ ∃ a : Nat, ∃ op : Nat, ∃ img : Bytes, ∃ c : ArrayCheck, (s.tile p).stage = SvcStage.loading a op ∧ (s.warp (arrKey p 8)).writing = some img ∧ c.writeOk = true ∧ c.passesOk = true) ∧
    (∃ s : State, ∃ t : BitVec 12, ∃ p : Nat, p = t.toNat ∧ physOk p = true ∧ ∃ a : Nat, ∃ op : Nat, ∃ img : Bytes, ∃ c : ArrayCheck, (s.tile p).stage = SvcStage.loading a op ∧ (s.warp (arrKey p 8)).writing = some img ∧ (¬(c.writeOk = true ∧ c.passesOk = true))) ∧
    (∃ s : State, ∃ t : BitVec 12, ∃ p : Nat, p = t.toNat ∧ physOk p = true ∧ ∃ a : Nat, ∃ op : Nat, (s.tile p).stage = SvcStage.loading a op ∧ (s.warp (arrKey p 8)).writing = none ∧ s.stacked = false) :=
  ⟨⟨(ss .idle [⟨8,1⟩]), 0, 0, (by decide +kernel), (by decide +kernel), (⟨8,1⟩), ([]), (by decide +kernel), (by decide +kernel), (by decide +kernel), (by decide +kernel)⟩,
   ⟨(ss .idle [⟨2,1⟩]), 0, 0, (by decide +kernel), (by decide +kernel), (⟨2,1⟩), ([]), (by decide +kernel), (by decide +kernel), (by decide +kernel), 2, (by decide +kernel), (by decide +kernel), (by decide +kernel), (by decide +kernel), (by decide +kernel), (by decide +kernel), (⟨[1,2,3], true⟩), (by decide +kernel), (by decide +kernel), (by decide +kernel), (by decide +kernel)⟩,
   ⟨(ss .idle [⟨2,1⟩] (v := .s0i1)), 0, 0, (by decide +kernel), (by decide +kernel), (⟨2,1⟩), ([]), (by decide +kernel), (by decide +kernel), (by decide +kernel), 2, (by decide +kernel), (by decide +kernel), (by decide +kernel), (by decide +kernel), (by decide +kernel), (by decide +kernel), 0, 0, 0, 0, (by decide +kernel), (by decide +kernel), (by decide +kernel)⟩,
   ⟨(ss (.loading 2 1) [⟨2,1⟩] (some [1,2])), 0, 0, (by decide +kernel), (by decide +kernel), 2, 1, ([1,2]), okc, (by decide +kernel), (by decide +kernel), (by decide +kernel), (by decide +kernel)⟩,
   ⟨(ss (.loading 2 1) [⟨2,1⟩] (some [1,2])), 0, 0, (by decide +kernel), (by decide +kernel), 2, 1, ([1,2]), badc, (by decide +kernel), (by decide +kernel), (by decide +kernel)⟩,
   ⟨(ss (.loading 2 1) [⟨2,1⟩] (v := .s0i1)), 0, 0, (by decide +kernel), (by decide +kernel), 2, 1, (by decide +kernel), (by decide +kernel), (by decide +kernel)⟩⟩

theorem witness_SpareServices_2 :
    (∃ s : State, ∃ t : BitVec 12, ∃ p : Nat, p = t.toNat ∧ physOk p = true ∧ ∃ a : Nat, ∃ c : ArrayCheck, ∃ k : Nat, (s.tile p).stage = SvcStage.standing a 1 ∧ a < 8 ∧ k = arrKey p a ∧ (s.warp k).code = 3 ∧ c.passesOk = true ∧ (worstResid (s.warp k).zeroCols c.resids).fst ≤ s.fld Reg.calWarpCfg 0 23 16 ∧ (s.warp k).fitOk (fitKept (s.warp k).zeroCols c.fit) = true) ∧
    (∃ s : State, ∃ t : BitVec 12, ∃ p : Nat, p = t.toNat ∧ physOk p = true ∧ ∃ a : Nat, ∃ c : ArrayCheck, ∃ k : Nat, (s.tile p).stage = SvcStage.standing a 2 ∧ a < 8 ∧ k = arrKey p a ∧ (s.warp k).code = 3 ∧ ∃ img : Bytes, c.writeOk = true ∧ c.passesOk = true ∧ (s.warp k).writing = some img) ∧
    (∃ s : State, ∃ t : BitVec 12, ∃ p : Nat, p = t.toNat ∧ physOk p = true ∧ ∃ a : Nat, ∃ c : ArrayCheck, ∃ k : Nat, (s.tile p).stage = SvcStage.standing a 2 ∧ a < 8 ∧ k = arrKey p a ∧ (s.warp k).code = 3 ∧ (¬(c.writeOk = true ∧ c.passesOk = true))) ∧
    (∃ s : State, ∃ t : BitVec 12, ∃ p : Nat, p = t.toNat ∧ physOk p = true ∧ ∃ a : Nat, ∃ c : ArrayCheck, ∃ k : Nat, (s.tile p).stage = SvcStage.standing a 3 ∧ a < 8 ∧ k = arrKey p a ∧ (s.warp k).code = 3) ∧
    (∃ s : State, ∃ t : BitVec 12, ∃ p : Nat, p = t.toNat ∧ physOk p = true ∧ ∃ c : ArrayCheck, ∃ k : Nat, (s.tile p).stage = SvcStage.inPlace ∧ k = arrKey p 8 ∧ c.passesOk = true ∧ (worstResid (s.warp k).zeroCols c.resids).fst ≤ s.fld Reg.calWarpCfg 0 23 16 ∧ (s.warp k).fitOk (fitKept (s.warp k).zeroCols c.fit) = true) ∧
    (∃ s : State, ∃ t : BitVec 12, ∃ p : Nat, p = t.toNat ∧ physOk p = true ∧ ∃ a : Nat, ∃ c : ArrayCheck, ∃ k : Nat, (s.tile p).stage = SvcStage.standing a 1 ∧ a < 8 ∧ k = arrKey p a ∧ (s.warp k).code = 3 ∧ (c.passesOk = false ∨ s.fld Reg.calWarpCfg 0 23 16 < (worstResid (s.warp k).zeroCols c.resids).fst) ∧ s.fld Reg.wrpScanCfg 0 15 8 ≤ c.minMargin) :=
  ⟨⟨(ss (.standing 2 1) [⟨2,1⟩]), 0, 0, (by decide +kernel), (by decide +kernel), 2, okc, 2, (by decide +kernel), (by decide +kernel), (by decide +kernel), (by decide +kernel), (by decide +kernel), (by decide +kernel), (by decide +kernel)⟩,
   ⟨(ss (.standing 2 2) [⟨2,2⟩] (some [1,2])), 0, 0, (by decide +kernel), (by decide +kernel), 2, okc, 2, (by decide +kernel), (by decide +kernel), (by decide +kernel), (by decide +kernel), ([1,2]), (by decide +kernel), (by decide +kernel), (by decide +kernel)⟩,
   ⟨(ss (.standing 2 2) [⟨2,2⟩] (some [1,2])), 0, 0, (by decide +kernel), (by decide +kernel), 2, badc, 2, (by decide +kernel), (by decide +kernel), (by decide +kernel), (by decide +kernel), (by decide +kernel)⟩,
   ⟨(ss (.standing 2 3) [⟨2,3⟩]), 0, 0, (by decide +kernel), (by decide +kernel), 2, okc, 2, (by decide +kernel), (by decide +kernel), (by decide +kernel), (by decide +kernel)⟩,
   ⟨(ss .inPlace), 0, 0, (by decide +kernel), (by decide +kernel), okc, 8, (by decide +kernel), (by decide +kernel), (by decide +kernel), (by decide +kernel), (by decide +kernel)⟩,
   ⟨(ss (.standing 2 1) [⟨2,1⟩]), 0, 0, (by decide +kernel), (by decide +kernel), 2, ({ badc with minMargin := 255 }), 2, (by decide +kernel), (by decide +kernel), (by decide +kernel), (by decide +kernel), (by decide +kernel), (by decide +kernel)⟩⟩

end T12

namespace T13
def live : State := { State.reset with ctxs := [(1, { (default : Ctx) with bound := true, qp := 1, sel := [(2, 2), (3, 0)] })] }
def slot (st : SlotState) (e : Nat) (w : Option SlotWrite := none): WeftSlot := { WeftSlot.init with st := st, entry := some e, rank := 4, up := true, write := w }
def ft : FootTile := ⟨0, true, false, [(1,2)], [(3,4)]⟩
def ad (st refs : Nat) (ready : Bool := false) : Adapter := { Adapter.init with st := st, refs := refs, foot := [ft], ready := ready, due := 2 }
def wa (a b : WeftSlot) (st : Nat := 0) (att : Nat := 0) : State := { live with wefts := [(0, { WeftArr.init with slot0 := a, slot1 := b, st := st, attempt := att })], adapters := [(3, ad 2 1)] }
def qw : SlotWrite := ⟨[(1,2)], true, true, false⟩
def ae (prog : Bool) (st refs : Nat) (ready : Bool := false) (sl : SlotState := .resident) (w : Option SlotWrite := none): State := let s := { wa (slot sl 3 w) (slot .shadow 3) with adapters := [(3, ad st refs ready), (4, ad st refs)] }
  if prog then { s with parts := [(0, { PartSt.init with prog := some (prog0 [0]) })] } else s
def sg (k : Nat) : Staged := ⟨5, 0, 1, (List.range k).map fun i => i, List.replicate k [1,2,3], []⟩
def jb (k : Nat) : Job := { Job.init with op := 4, part := 0, adpt := 0x20007, waiting := true, staged := [(0, sg k)], cnt := 1 }
def jw (k : Nat) (sl : SlotState) : State := let s := { wa (slot sl 3) (slot sl 3) with wgt := { WgtSt.init with jobs := [(2, jb k)] } }
  ((s.setReg Reg.cfgTileOwner 0 16).setFld Reg.wgtJobStat 2 2 0 2).setFld Reg.cfgPartDef 0 2 0 1

theorem witness_WeftArraysOutsidePasses_1 :
    (∃ s : State, ∃ t : BitVec 12, ∃ p : Nat, p = t.toNat ∧ physOk p = true ∧ ∃ slot : Bool, ∃ q : SlotWrite, ((s.weft p).slot slot).write = some q ∧ q.queued = false) ∧
    (∃ s : State, ∃ t : BitVec 12, ∃ p : Nat, p = t.toNat ∧ physOk p = true ∧ ∃ d : Nat, ∃ r : Nat, d < 50 ∧ d = s.cal.weftD ∧ s.fld Reg.wftQualCfg 0 25 16 ≠ 0 ∧ (((districtTiles d).any fun q => (s.weft q).st == 1) = false) ∧ (List.find? (fun r => (s.weft ((districtTiles d).getD r 0)).st == 0) (List.map (fun i => (SMap.get 0 s.cal.weft d + i) % 64) (List.range 64)) = some r) ∧ p = (districtTiles d).getD r 0) ∧
    (∃ s : State, ∃ t : BitVec 12, ∃ p : Nat, p = t.toNat ∧ physOk p = true ∧ ∃ bad0 : Bool, ∃ bad1 : Bool, (s.weft p).slot0.write = none ∧ (s.weft p).slot1.write = none) ∧
    (∃ s : State, ∃ t : BitVec 12, ∃ p : Nat, p = t.toNat ∧ physOk p = true ∧ ∃ slot : Bool, ∃ e : Nat, ((s.weft p).slot slot).st = SlotState.restore ∧ ((s.weft p).slot slot).entry = some e ∧ ∃ f : FootTile, (s.adapter e).st ∈ [2, 3] ∧ ((s.wgt.reqs.any fun r => r.adapter == some e) = false) ∧ (List.find? (fun f => s.physOf f.tile == p) (s.adapter e).foot = some f)) ∧
    (∃ s : State, ∃ t : BitVec 12, ∃ p : Nat, p = t.toNat ∧ physOk p = true ∧ ∃ slot : Bool, ∃ e : Nat, ((s.weft p).slot slot).st = SlotState.restore ∧ ((s.weft p).slot slot).entry = some e ∧ (s.adapter e).st = 4) ∧
    (∃ s : State, ∃ t : BitVec 12, ∃ p : Nat, p = t.toNat ∧ physOk p = true ∧ ∃ margin : Nat, (s.weft p).st = 1 ∧ s.fld Reg.wftQualCfg 0 5 0 + s.fld Reg.wftQualCfg 0 13 8 ≤ margin) :=
  ⟨⟨(wa (slot .resident 3) (slot .shadow 3 (some qw))), 0, 0, (by decide +kernel), (by decide +kernel), true, qw, (by decide +kernel), (by decide +kernel)⟩,
   ⟨(wa (slot .restore 3) (slot .free 3)), 0, 0, (by decide +kernel), (by decide +kernel), 0, 0, (by decide +kernel), (by decide +kernel), (by decide +kernel), (by decide +kernel), (by decide +kernel), (by decide +kernel)⟩,
   ⟨(wa (slot .restore 3) (slot .free 3)), 0, 0, (by decide +kernel), (by decide +kernel), false, true, (by decide +kernel), (by decide +kernel)⟩,
   ⟨(wa (slot .restore 3) (slot .free 3)), 0, 0, (by decide +kernel), (by decide +kernel), false, 3, (by decide +kernel), (by decide +kernel), ft, (by decide +kernel), (by decide +kernel), (by decide +kernel)⟩,
   ⟨({ wa (slot .restore 3) (slot .free 3) with adapters := [(3, ad 4 0)] }), 0, 0, (by decide +kernel), (by decide +kernel), false, 3, (by decide +kernel), (by decide +kernel), (by decide +kernel)⟩,
   ⟨(wa (slot .resident 3) (slot .free 3) 1), 0, 0, (by decide +kernel), (by decide +kernel), 60, (by decide +kernel), (by decide +kernel)⟩⟩

theorem witness_WeftArraysOutsidePasses_2 :
    (∃ s : State, ∃ t : BitVec 12, ∃ p : Nat, p = t.toNat ∧ physOk p = true ∧ ∃ margin : Nat, (s.weft p).st = 1 ∧ margin < s.fld Reg.wftQualCfg 0 5 0 + s.fld Reg.wftQualCfg 0 13 8 ∧ (s.weft p).attempt = 0) ∧
    (∃ s : State, ∃ t : BitVec 12, ∃ p : Nat, p = t.toNat ∧ physOk p = true ∧ ∃ margin : Nat, (s.weft p).st = 1 ∧ margin < s.fld Reg.wftQualCfg 0 5 0 + s.fld Reg.wftQualCfg 0 13 8 ∧ (s.weft p).attempt ≠ 0) :=
  ⟨⟨(wa (slot .resident 3) (slot .free 3) 1), 0, 0, (by decide +kernel), (by decide +kernel), 1, (by decide +kernel), (by decide +kernel), (by decide +kernel)⟩,
   ⟨(wa (slot .resident 3) (slot .free 3) 1 1), 0, 0, (by decide +kernel), (by decide +kernel), 1, (by decide +kernel), (by decide +kernel), (by decide +kernel)⟩⟩

theorem witness_AdapterEntries_1 :
    (∃ s : State, ∃ c : BitVec 3, ∃ w : BitVec 10, ∃ e : Nat, e = w.toNat ∧ CanReach s c.toNat Reg.wftAdptCmd 0 ∧ ∃ op : Nat, ∃ cmd : Instr, (op, cmd) ∈ [(1, Instr.adapterUnload c w), (2, Instr.adapterFreeze c w)] ∧ s.noPrograms = false ∧ (s.adapter e).st ≠ 0) ∧
    (∃ s : State, ∃ c : BitVec 3, ∃ w : BitVec 10, ∃ e : Nat, e = w.toNat ∧ CanReach s c.toNat Reg.wftAdptCmd 0 ∧ s.noPrograms = true ∧ (s.adapter e).st ∈ [2, 4] ∧ (s.adapter e).refs = 0) ∧
    (∃ s : State, ∃ c : BitVec 3, ∃ w : BitVec 10, ∃ e : Nat, e = w.toNat ∧ CanReach s c.toNat Reg.wftAdptCmd 0 ∧ s.noPrograms = true ∧ (s.adapter e).st ∈ [2, 4] ∧ (s.adapter e).refs ≠ 0) ∧
    (∃ s : State, ∃ c : BitVec 3, ∃ w : BitVec 10, ∃ e : Nat, e = w.toNat ∧ CanReach s c.toNat Reg.wftAdptCmd 0 ∧ s.noPrograms = true ∧ (s.adapter e).st = 4) ∧
    (∃ s : State, ∃ b : BitVec 4, ∃ j : Nat, ∃ x : Job, ∃ imgs : List (Nat × Bytes), j = b.toNat ∧ x = s.job j ∧ x.waiting = true ∧ (imgs = List.flatMap (fun e => e.snd.targets.zip e.snd.images) x.staged)) ∧
    (∃ s : State, ∃ b : BitVec 4, ∃ j : Nat, ∃ x : Job, ∃ imgs : List (Nat × Bytes), j = b.toNat ∧ x = s.job j ∧ x.waiting = true ∧ (imgs = List.flatMap (fun e => e.snd.targets.zip e.snd.images) x.staged) ∧ ∃ e : Nat, ((imgs.any fun q => !(s.relOk x.part (q.fst % 4096) && s.ownerOf (s.relTile x.part (q.fst % 4096)) == some x.part)) = false) ∧ ((s.entries fun a => a.st != 0 && a.part == x.part && a.handle == x.adpt % 65536) = []) ∧ x.adpt / 2147483648 % 2 = 0 ∧ (List.find? (fun e => (s.adapter e).st == 0) (List.range 1024) = some e) ∧ (s.stacked = true → imgs.length ≤ s.adptFree) ∧ (∀ (q : Nat × Bytes), q ∈ imgs → (s.weft (s.physOf (s.relTile x.part (q.fst % 4096)))).freeSlots ≠ [])) :=
  ⟨⟨(ae true 2 1), 1, 3, 3, (by decide +kernel), (canReach_of (by decide +kernel)), 1, (.adapterUnload 1 3), (by decide +kernel), (by decide +kernel), (by decide +kernel)⟩,
   ⟨(ae false 2 0), 1, 3, 3, (by decide +kernel), (canReach_of (by decide +kernel)), (by decide +kernel), (by decide +kernel), (by decide +kernel)⟩,
   ⟨(ae false 2 1), 1, 3, 3, (by decide +kernel), (canReach_of (by decide +kernel)), (by decide +kernel), (by decide +kernel), (by decide +kernel)⟩,
   ⟨(ae false 4 1), 1, 3, 3, (by decide +kernel), (canReach_of (by decide +kernel)), (by decide +kernel), (by decide +kernel)⟩,
   ⟨(jw 1 .free), 2, 2, _, (((jb 1).staged.flatMap fun e => e.2.targets.zip e.2.images)), (by decide +kernel), rfl, (by decide +kernel), (by decide +kernel)⟩,
   ⟨(jw 1 .free), 2, 2, _, (((jb 1).staged.flatMap fun e => e.2.targets.zip e.2.images)), (by decide +kernel), rfl, (by decide +kernel), (by decide +kernel), 0, (by decide +kernel), (by decide +kernel), (by decide +kernel), (by decide +kernel), (by decide +kernel), (by decide +kernel)⟩⟩

theorem witness_AdapterEntries_2 :
    (∃ s : State, ∃ b : BitVec 4, ∃ j : Nat, ∃ x : Job, ∃ imgs : List (Nat × Bytes), j = b.toNat ∧ x = s.job j ∧ x.waiting = true ∧ (imgs = List.flatMap (fun e => e.snd.targets.zip e.snd.images) x.staged) ∧ ∃ e : Nat, ((imgs.any fun q => !(s.relOk x.part (q.fst % 4096) && s.ownerOf (s.relTile x.part (q.fst % 4096)) == some x.part)) = false) ∧ ((s.entries fun a => a.st != 0 && a.part == x.part && a.handle == x.adpt % 65536) = []) ∧ x.adpt / 2147483648 % 2 = 0 ∧ (List.find? (fun e => (s.adapter e).st == 0) (List.range 1024) = some e) ∧ (s.stacked = true → imgs.length ≤ s.adptFree) ∧ (∃ q, q ∈ imgs ∧ (s.weft (s.physOf (s.relTile x.part (q.fst % 4096)))).freeSlots = [])) ∧
    (∃ s : State, ∃ w : BitVec 10, ∃ e : Nat, ∃ a : Adapter, e = w.toNat ∧ a = s.adapter e ∧ ∃ Holds : (WeftSlot → Bool) → Prop, (Holds = fun f => ∃ t, t ∈ a.foot ∧ ∃ k, ((s.weft (s.physOf t.tile)).slot k).entry = some e ∧ f ((s.weft (s.physOf t.tile)).slot k) = true) ∧ a.st = 1 ∧ a.ready = false ∧ (¬Holds fun x => x.write.isSome)) ∧
    (∃ s : State, ∃ w : BitVec 10, ∃ e : Nat, ∃ a : Adapter, e = w.toNat ∧ a = s.adapter e ∧ ∃ Holds : (WeftSlot → Bool) → Prop, (Holds = fun f => ∃ t, t ∈ a.foot ∧ ∃ k, ((s.weft (s.physOf t.tile)).slot k).entry = some e ∧ f ((s.weft (s.physOf t.tile)).slot k) = true) ∧ a.st = 1 ∧ a.ready = false) ∧
    (∃ s : State, ∃ w : BitVec 10, ∃ e : Nat, ∃ a : Adapter, e = w.toNat ∧ a = s.adapter e ∧ ∃ Holds : (WeftSlot → Bool) → Prop, (Holds = fun f => ∃ t, t ∈ a.foot ∧ ∃ k, ((s.weft (s.physOf t.tile)).slot k).entry = some e ∧ f ((s.weft (s.physOf t.tile)).slot k) = true) ∧ a.st ∈ [2, 3, 4] ∧ (Holds fun x => x.st == SlotState.restore) ∧ (∀ (x : Session), x ∈ s.serve.sessions → x.adapter ≠ some e)) :=
  ⟨⟨(jw 1 .resident), 2, 2, _, (((jb 1).staged.flatMap fun e => e.2.targets.zip e.2.images)), (by decide +kernel), rfl, (by decide +kernel), (by decide +kernel), 0, (by decide +kernel), (by decide +kernel), (by decide +kernel), (by decide +kernel), (by decide +kernel), (by decide +kernel)⟩,
   ⟨(ae true 1 0 false .loading), 3, 3, _, (by decide +kernel), rfl, _, rfl, (by decide +kernel), (by decide +kernel), (by decide +kernel)⟩,
   ⟨(ae true 1 0 false .loading), 3, 3, _, (by decide +kernel), rfl, _, rfl, (by decide +kernel), (by decide +kernel)⟩,
   ⟨(ae true 2 0 false .restore), 3, 3, _, (by decide +kernel), rfl, _, rfl, (by decide +kernel), (by decide +kernel), (by decide +kernel)⟩⟩

end T13

namespace T14
def live : State := { State.reset with ctxs := [(1, { (default : Ctx) with bound := true, qp := 1, sel := [(2, 2), (3, 0)] })] }
def g (run stat : Nat) (gap stop : Bool) (reg inj : Nat × Nat) : State :=
  let s := { live with cal := { CalSt.init with gauge := { GaugeSt.init with run := run, gap := gap, stop := stop, reg := reg, inj := inj } } }
  let s := s.setReg Reg.gauStatus 0 stat
  let s := (s.setFld Reg.gauRegCfg 0 3 0 2).setFld Reg.gauInjCfg 0 7 0 0x71
  let s := (s.setReg Reg.gauRegEntry 0 0x105).setReg (Reg.gauRegEntry+4) 0 0x203
  (s.setReg Reg.gauInjEntry 0 0x107).setReg (Reg.gauInjEntry+4) 0 0x10C

theorem witness_GaugeConversions_1 :
    (∃ s : State, ∃ c : BitVec 3, CanReach s c.toNat Reg.gauRegCtl 0 ∧ s.fld Reg.gauStatus 0 1 1 = 0) ∧
    (∃ s : State, ∃ src : BitVec 2, ∃ on : Bool, on = (decide (src.toNat ≤ 2) && s.fld Reg.gauInjCfg 0 (4 + src.toNat) (4 + src.toNat) == 1) ∧ on = true ∧ s.fld Reg.gauStatus 0 3 2 = 0) ∧
    (∃ s : State, ∃ code : Int, ∃ bad : Nat, ∃ Result : Nat → Nat → State → Prop, bad = s.fld Reg.gauStatus 0 9 9 ∧ (Result = fun ch inj s' => s'.reg Reg.gauChRes ch = (code % 2 ^ 24).toNat + inj * 2 ^ 24 + bad * 2 ^ 25 + 2 ^ 31 ∧ s'.reg64 Reg.gauChStampLo ch = s.now ∧ s'.reg Reg.gauChCnt ch = (s.reg Reg.gauChCnt ch + 1) % 2 ^ 32 ∧ (∀ (a i : Nat), a < 2 ^ 24 → ¬a ∈ [Reg.gauStatus, Reg.gauRegPassCnt, Reg.pwrDistI] → (Reg.gauChRes ≤ a → a ≤ Reg.gauChCnt → i ≠ ch) → s'.reg a i = s.reg a i) ∧ { variant := s'.variant, pending := s'.pending, freeCtr := s'.freeCtr, out := s'.out, regs := s.regs, live := s'.live, ctxs := s'.ctxs, time := s'.time, dists := s'.dists, spindles := s'.spindles, tiles := s'.tiles, slices := s'.slices, stackMem := s'.stackMem, warps := s'.warps, wefts := s'.wefts, adapters := s'.adapters, parts := s'.parts, integ := s'.integ, events := s'.events, svcDue := s'.svcDue, flits := s'.flits, lanes := s'.lanes, shares := s'.shares, serve := s'.serve, net := s'.net, wgt := s'.wgt, cal := s.cal, power := s'.power, qps := s'.qps, boot := s'.boot } = s) ∧ s.cal.gauge.run = 0) ∧
    (∃ s : State, s.cal.gauge.gap = false) ∧
    (∃ s : State, s.fld Reg.gauRefEn 0 0 0 = 0) ∧
    (∃ s : State, ∃ bandgap : Int, ∃ bufIn : Int, ∃ bufOut : Int, ∃ ground : Int, ∃ half : Int, ∃ cmd : Instr, cmd = Instr.gaugeRefCheck bandgap bufIn bufOut ground half ∧ s.fld Reg.gauStatus 0 0 0 = 1 ∧ ∃ bad : Nat → Prop, (bad = fun k => k = 1 ∧ 17067 * bufIn < 1000 * ↑(20000 * bufOut - 17067 * bufIn).natAbs ∨ k = 2 ∧ (ground < -16 ∨ 16 < ground) ∨ k = 3 ∧ 2 ^ 22 < 2000 * (half - 2 ^ 22).natAbs)) :=
  ⟨⟨(g 0 1 false false (0,0) (0,0)), 1, (canReach_of (by decide +kernel)), (by decide +kernel)⟩,
   ⟨(g 1 3 false true (1,1) (0,0)), 1, _, rfl, (by decide +kernel), (by decide +kernel)⟩,
   ⟨(g 0 1 false false (2,0) (1,1)), 0, _, _, rfl, rfl, (by decide +kernel)⟩,
   ⟨(g 1 3 false true (1,1) (0,0)), (by decide +kernel)⟩,
   ⟨(g 1 3 false true (1,1) (0,0)), (by decide +kernel)⟩,
   ⟨(g 1 3 false true (1,1) (0,0)), 0, 0, 0, 0, 0, _, rfl, (by decide +kernel), _, rfl⟩⟩

theorem witness_GaugeConversions_2 :
    (∃ s : State, ∃ c : BitVec 3, CanReach s c.toNat Reg.gauRegCtl 0 ∧ s.fld Reg.gauStatus 0 1 1 = 1) ∧
    (∃ s : State, ∃ c : BitVec 3, CanReach s c.toNat Reg.gauRegCtl 0 ∧ s.fld Reg.gauStatus 0 1 1 = 1 ∧ s.cal.gauge.run = 0) ∧
    (∃ s : State, ∃ src : BitVec 2, ∃ on : Bool, on = (decide (src.toNat ≤ 2) && s.fld Reg.gauInjCfg 0 (4 + src.toNat) (4 + src.toNat) == 1) ∧ on = false) ∧
    (∃ s : State, ∃ c : BitVec 3, CanReach s c.toNat Reg.gauRegCtl 0 ∧ s.fld Reg.gauStatus 0 1 1 = 1 ∧ s.cal.gauge.run ≠ 0) ∧
    (∃ s : State, ∃ code : Int, ∃ bad : Nat, ∃ Result : Nat → Nat → State → Prop, bad = s.fld Reg.gauStatus 0 9 9 ∧ (Result = fun ch inj s' => s'.reg Reg.gauChRes ch = (code % 2 ^ 24).toNat + inj * 2 ^ 24 + bad * 2 ^ 25 + 2 ^ 31 ∧ s'.reg64 Reg.gauChStampLo ch = s.now ∧ s'.reg Reg.gauChCnt ch = (s.reg Reg.gauChCnt ch + 1) % 2 ^ 32 ∧ (∀ (a i : Nat), a < 2 ^ 24 → ¬a ∈ [Reg.gauStatus, Reg.gauRegPassCnt, Reg.pwrDistI] → (Reg.gauChRes ≤ a → a ≤ Reg.gauChCnt → i ≠ ch) → s'.reg a i = s.reg a i) ∧ { variant := s'.variant, pending := s'.pending, freeCtr := s'.freeCtr, out := s'.out, regs := s.regs, live := s'.live, ctxs := s'.ctxs, time := s'.time, dists := s'.dists, spindles := s'.spindles, tiles := s'.tiles, slices := s'.slices, stackMem := s'.stackMem, warps := s'.warps, wefts := s'.wefts, adapters := s'.adapters, parts := s'.parts, integ := s'.integ, events := s'.events, svcDue := s'.svcDue, flits := s'.flits, lanes := s'.lanes, shares := s'.shares, serve := s'.serve, net := s'.net, wgt := s'.wgt, cal := s.cal, power := s'.power, qps := s'.qps, boot := s'.boot } = s) ∧ ∃ n : Nat, ∃ i : Nat, s.cal.gauge.run = 1 ∧ s.fld Reg.gauStatus 0 0 0 = 1 ∧ s.fld Reg.gauStatus 0 2 2 = 0 ∧ s.cal.gauge.reg = (n, i) ∧ n < 16) ∧
    (∃ s : State, ∃ src : BitVec 2, ∃ on : Bool, on = (decide (src.toNat ≤ 2) && s.fld Reg.gauInjCfg 0 (4 + src.toNat) (4 + src.toNat) == 1) ∧ on = true ∧ s.fld Reg.gauStatus 0 3 2 ≠ 0) :=
  ⟨⟨(g 0 3 true false (2,0) (1,1)), 1, (canReach_of (by decide +kernel)), (by decide +kernel)⟩,
   ⟨(g 0 3 true false (2,0) (1,1)), 1, (canReach_of (by decide +kernel)), (by decide +kernel), (by decide +kernel)⟩,
   ⟨(g 0 3 true false (2,0) (1,1)), 3, _, rfl, (by decide +kernel)⟩,
   ⟨(g 1 3 false true (1,1) (0,0)), 1, (canReach_of (by decide +kernel)), (by decide +kernel), (by decide +kernel)⟩,
   ⟨(g 1 3 false true (1,1) (0,0)), (-5), _, _, rfl, rfl, 1, 1, (by decide +kernel), (by decide +kernel), (by decide +kernel), (by decide +kernel), (by decide +kernel)⟩,
   ⟨(g 2 7 true false (2,0) (1,1)), 2, _, rfl, (by decide +kernel), (by decide +kernel)⟩⟩

theorem witness_GaugeConversions_3 :
    (∃ s : State, ∃ code : Int, ∃ bad : Nat, ∃ Result : Nat → Nat → State → Prop, bad = s.fld Reg.gauStatus 0 9 9 ∧ (Result = fun ch inj s' => s'.reg Reg.gauChRes ch = (code % 2 ^ 24).toNat + inj * 2 ^ 24 + bad * 2 ^ 25 + 2 ^ 31 ∧ s'.reg64 Reg.gauChStampLo ch = s.now ∧ s'.reg Reg.gauChCnt ch = (s.reg Reg.gauChCnt ch + 1) % 2 ^ 32 ∧ (∀ (a i : Nat), a < 2 ^ 24 → ¬a ∈ [Reg.gauStatus, Reg.gauRegPassCnt, Reg.pwrDistI] → (Reg.gauChRes ≤ a → a ≤ Reg.gauChCnt → i ≠ ch) → s'.reg a i = s.reg a i) ∧ { variant := s'.variant, pending := s'.pending, freeCtr := s'.freeCtr, out := s'.out, regs := s.regs, live := s'.live, ctxs := s'.ctxs, time := s'.time, dists := s'.dists, spindles := s'.spindles, tiles := s'.tiles, slices := s'.slices, stackMem := s'.stackMem, warps := s'.warps, wefts := s'.wefts, adapters := s'.adapters, parts := s'.parts, integ := s'.integ, events := s'.events, svcDue := s'.svcDue, flits := s'.flits, lanes := s'.lanes, shares := s'.shares, serve := s'.serve, net := s'.net, wgt := s'.wgt, cal := s.cal, power := s'.power, qps := s'.qps, boot := s'.boot } = s) ∧ ∃ n : Nat, ∃ i : Nat, s.cal.gauge.run = 2 ∧ s.fld Reg.gauStatus 0 0 0 = 1 ∧ s.fld Reg.gauStatus 0 3 2 = 1 ∧ s.cal.gauge.inj = (n, i) ∧ n < 4) ∧
    (∃ s : State, s.cal.gauge.gap = true) ∧
    (∃ s : State, s.fld Reg.gauRefEn 0 0 0 = 1) ∧
    (∃ s : State, ∃ bandgap : Int, ∃ bufIn : Int, ∃ bufOut : Int, ∃ ground : Int, ∃ half : Int, ∃ cmd : Instr, cmd = Instr.gaugeRefCheck bandgap bufIn bufOut ground half ∧ s.fld Reg.gauStatus 0 0 0 = 0) :=
  ⟨⟨(g 2 7 true false (2,0) (1,1)), 0x7FFFFF, _, _, rfl, rfl, 1, 1, (by decide +kernel), (by decide +kernel), (by decide +kernel), (by decide +kernel), (by decide +kernel)⟩,
   ⟨(g 2 7 true false (2,0) (1,1)), (by decide +kernel)⟩,
   ⟨((g 0 2 false false (2,0) (1,1)).setReg Reg.gauRefEn 0 1), (by decide +kernel)⟩,
   ⟨((g 0 2 false false (2,0) (1,1)).setReg Reg.gauRefEn 0 1), 0, 0, 0, 0, 0, _, rfl, (by decide +kernel)⟩⟩

end T14

namespace T15
def live : State := { State.reset with ctxs := [(1, { (default : Ctx) with bound := true, qp := 1, sel := [(2, 2), (3, 0)] })], slices := [(5,6)], stackMem := [(7,8)], spindles := [(0, { Spindle.init with pc := 3 })], wefts := [(0, { WeftArr.init with st := 1 })] }
def pw (st : Nat) : State := (live.setFld Reg.pwrState 0 2 0 st).setFld Reg.gauInjCfg 0 7 0 0x71

theorem witness_PowerTransitions_1 :
    (∃ s : State, ∃ mv : BitVec 16, s.lit = true ∧ mv.toNat < 5000 ∧ s.fld Reg.pwrStatus 0 0 0 = 0) ∧
    (∃ s : State, ∃ Fails : Nat → Nat → State → Prop, (Fails = fun cause n s' => s'.powerState = 0 ∧ s'.power.good = false ∧ s'.power.fault = (s.power.fault || decide (2 ≤ cause) && decide (cause ≤ 4)) ∧ s'.power.held = (decide (2 ≤ cause) && decide (cause ≤ 4)) ∧ s'.slices = [] ∧ s'.stackMem = [] ∧ s'.spindles = [] ∧ s'.boot.fuse = s.boot.fuse ∧ s'.boot.flash = s.boot.flash ∧ s'.integ.suspects = s.integ.suspects ∧ s'.reg Reg.pwrTripCnt = (s.reg Reg.pwrTripCnt + 1) % 2 ^ 32 ∧ ∃ r, r ∈ List.take n s'.events.log ∧ leNat r 0 2 = 49158 ∧ leNat r 8 8 = s.now ∧ List.drop 16 r = padTo 16 (le1 cause)) ∧ ∃ cmd : Instr, ∃ cause : Nat, (cmd, cause) ∈ [(Instr.powerLoss, 1), (Instr.overvoltageTrip, 2), (Instr.inputOvercurrentTrip, 3), (Instr.enableRelease, 5)] ∧ s.lit = true) ∧
    (∃ s : State, ∃ Fails : Nat → Nat → State → Prop, (Fails = fun cause n s' => s'.powerState = 0 ∧ s'.power.good = false ∧ s'.power.fault = (s.power.fault || decide (2 ≤ cause) && decide (cause ≤ 4)) ∧ s'.power.held = (decide (2 ≤ cause) && decide (cause ≤ 4)) ∧ s'.slices = [] ∧ s'.stackMem = [] ∧ s'.spindles = [] ∧ s'.boot.fuse = s.boot.fuse ∧ s'.boot.flash = s.boot.flash ∧ s'.integ.suspects = s.integ.suspects ∧ s'.reg Reg.pwrTripCnt = (s.reg Reg.pwrTripCnt + 1) % 2 ^ 32 ∧ ∃ r, r ∈ List.take n s'.events.log ∧ leNat r 0 2 = 49158 ∧ leNat r 8 8 = s.now ∧ List.drop 16 r = padTo 16 (le1 cause)) ∧ ∃ d : Nat, d < 50 ∧ s.lit = true) ∧
    (∃ s : State, ∃ d : Nat, ∃ ma : BitVec 16, d < 50 ∧ s.lit = true ∧ 100 * s.fld Reg.pwrDistOc d 5 0 < ma.toNat) ∧
    (∃ s : State, ∃ volt : BitVec 24, ∃ cur : BitVec 24, ∃ p : Nat, ∃ one : Nat, ∃ f : Nat, ∃ g : Nat, p = volt.toNat * cur.toNat ∧ one = s.powerLimit * 1000 * 2 ^ 22 ∧ f = s.fld Reg.pwrStatus 0 2 1 ∧ s.lit = true ∧ (g = if f = 0 then if one < p then 1 else 0 else if f = 1 ∧ 105 * one < 100 * p ∧ 9 ≤ s.power.above then 2 else if 100 * p < 95 * one ∧ 99 ≤ s.power.below ∧ ¬(9 ≤ s.power.above ∧ f = 1 ∧ 105 * one < 100 * p) then 0 else f)) ∧
    (∃ s : State, ∃ mv : BitVec 16, (s.lit = false ∨ 5000 ≤ mv.toNat ∨ s.fld Reg.pwrStatus 0 0 0 = 1)) :=
  ⟨⟨(pw 2), 4999, (by decide +kernel), (by decide +kernel), (by decide +kernel)⟩,
   ⟨(pw 2), _, rfl, .powerLoss, 1, (by decide +kernel), (by decide +kernel)⟩,
   ⟨(pw 2), _, rfl, 3, (by decide +kernel), (by decide +kernel)⟩,
   ⟨(pw 2), 3, 4801, (by decide +kernel), (by decide +kernel), (by decide +kernel)⟩,
   ⟨(pw 2), 16777215, 1, _, _, _, 0, rfl, rfl, rfl, (by decide +kernel), (by decide +kernel)⟩,
   ⟨(pw 0), 4999, (by decide +kernel)⟩⟩

theorem witness_PowerTransitions_2 :
    (∃ s : State, ∃ d : Nat, ∃ ma : BitVec 16, 50 ≤ d) ∧
    (∃ s : State, ∃ d : Nat, ∃ ma : BitVec 16, d < 50 ∧ (s.lit = false ∨ ma.toNat ≤ 100 * s.fld Reg.pwrDistOc d 5 0)) ∧
    (∃ s : State, ∃ Fails : Nat → Nat → State → Prop, (Fails = fun cause n s' => s'.powerState = 0 ∧ s'.power.good = false ∧ s'.power.fault = (s.power.fault || decide (2 ≤ cause) && decide (cause ≤ 4)) ∧ s'.power.held = (decide (2 ≤ cause) && decide (cause ≤ 4)) ∧ s'.slices = [] ∧ s'.stackMem = [] ∧ s'.spindles = [] ∧ s'.boot.fuse = s.boot.fuse ∧ s'.boot.flash = s.boot.flash ∧ s'.integ.suspects = s.integ.suspects ∧ s'.reg Reg.pwrTripCnt = (s.reg Reg.pwrTripCnt + 1) % 2 ^ 32 ∧ ∃ r, r ∈ List.take n s'.events.log ∧ leNat r 0 2 = 49158 ∧ leNat r 8 8 = s.now ∧ List.drop 16 r = padTo 16 (le1 cause)) ∧ ∃ cmd : Instr, ∃ cause : Nat, (cmd, cause) ∈ [(Instr.powerLoss, 1), (Instr.overvoltageTrip, 2), (Instr.inputOvercurrentTrip, 3), (Instr.enableRelease, 5)] ∧ s.lit = false ∧ (s.powerState ≠ 7 ∨ cause ≠ 1)) ∧
    (∃ s : State, ∃ Fails : Nat → Nat → State → Prop, (Fails = fun cause n s' => s'.powerState = 0 ∧ s'.power.good = false ∧ s'.power.fault = (s.power.fault || decide (2 ≤ cause) && decide (cause ≤ 4)) ∧ s'.power.held = (decide (2 ≤ cause) && decide (cause ≤ 4)) ∧ s'.slices = [] ∧ s'.stackMem = [] ∧ s'.spindles = [] ∧ s'.boot.fuse = s.boot.fuse ∧ s'.boot.flash = s.boot.flash ∧ s'.integ.suspects = s.integ.suspects ∧ s'.reg Reg.pwrTripCnt = (s.reg Reg.pwrTripCnt + 1) % 2 ^ 32 ∧ ∃ r, r ∈ List.take n s'.events.log ∧ leNat r 0 2 = 49158 ∧ leNat r 8 8 = s.now ∧ List.drop 16 r = padTo 16 (le1 cause)) ∧ ∃ d : Nat, d < 50 ∧ s.lit = false) ∧
    (∃ s : State, ∃ volt : BitVec 24, ∃ cur : BitVec 24, ∃ p : Nat, ∃ one : Nat, ∃ f : Nat, ∃ g : Nat, p = volt.toNat * cur.toNat ∧ one = s.powerLimit * 1000 * 2 ^ 22 ∧ f = s.fld Reg.pwrStatus 0 2 1 ∧ s.lit = false) ∧
    (∃ s : State, ∃ Fails : Nat → Nat → State → Prop, (Fails = fun cause n s' => s'.powerState = 0 ∧ s'.power.good = false ∧ s'.power.fault = (s.power.fault || decide (2 ≤ cause) && decide (cause ≤ 4)) ∧ s'.power.held = (decide (2 ≤ cause) && decide (cause ≤ 4)) ∧ s'.slices = [] ∧ s'.stackMem = [] ∧ s'.spindles = [] ∧ s'.boot.fuse = s.boot.fuse ∧ s'.boot.flash = s.boot.flash ∧ s'.integ.suspects = s.integ.suspects ∧ s'.reg Reg.pwrTripCnt = (s.reg Reg.pwrTripCnt + 1) % 2 ^ 32 ∧ ∃ r, r ∈ List.take n s'.events.log ∧ leNat r 0 2 = 49158 ∧ leNat r 8 8 = s.now ∧ List.drop 16 r = padTo 16 (le1 cause)) ∧ ∃ cmd : Instr, ∃ cause : Nat, (cmd, cause) ∈ [(Instr.powerLoss, 1), (Instr.overvoltageTrip, 2), (Instr.inputOvercurrentTrip, 3), (Instr.enableRelease, 5)] ∧ s.lit = false ∧ s.powerState = 7 ∧ cause = 1) :=
  ⟨⟨((pw 3).setReg Reg.pwrStatus 0 1), 50, 4801, (by decide +kernel)⟩,
   ⟨(pw 0), 49, 65535, (by decide +kernel), (by decide +kernel)⟩,
   ⟨(pw 0), _, rfl, .enableRelease, 5, (by decide +kernel), (by decide +kernel), (by decide +kernel)⟩,
   ⟨(pw 0), _, rfl, 49, (by decide +kernel), (by decide +kernel)⟩,
   ⟨(pw 0), 16777215, 1, _, _, _, 0, rfl, rfl, rfl, (by decide +kernel)⟩,
   ⟨(pw 7), _, rfl, .powerLoss, 1, (by decide +kernel), (by decide +kernel), (by decide +kernel), (by decide +kernel)⟩⟩

theorem witness_PowerTransitions_3 :
    (∃ s : State, ∃ c : BitVec 3, ∃ k : Nat, k = c.toNat ∧ CanWrite s k Reg.pwrCmd 0 ∧ s.powerState = 2 ∧ s.power.shut = 0 ∧ s.serve.sessions = [] ∧ (∀ (e : Nat × Job), e ∈ s.wgt.jobs → s.jobRuns e.fst = false) ∧ (∀ (e : Nat × Adapter), e ∈ s.adapters → e.snd.st = 0) ∧ s.boot.test = none) ∧
    (∃ s : State, ∃ c : BitVec 3, ∃ k : Nat, k = c.toNat ∧ CanWrite s k Reg.pwrCmd 0 ∧ ∃ i : StartIn, ∃ b : State, b = s.coreWrite k Reg.pwrCmd 2 ∧ s.powerState ≠ 1) ∧
    (∃ s : State, ∃ c : BitVec 3, ∃ k : Nat, k = c.toNat ∧ CanWrite s k Reg.pwrCmd 0 ∧ s.powerState ∈ [2, 3, 4]) ∧
    (∃ s : State, ∃ c : BitVec 3, ∃ k : Nat, k = c.toNat ∧ CanWrite s k Reg.pwrCmd 0 ∧ (s.powerState ≠ 2 ∨ s.power.shut ≠ 0 ∨ s.serve.sessions ≠ [] ∨ (∃ e, e ∈ s.wgt.jobs ∧ s.jobRuns e.fst = true) ∨ (∃ e, e ∈ s.adapters ∧ e.snd.st ≠ 0) ∨ s.boot.test.isSome = true)) ∧
    (∃ s : State, ∃ c : BitVec 3, ∃ k : Nat, k = c.toNat ∧ CanWrite s k Reg.pwrCmd 0 ∧ ∃ i : StartIn, ∃ b : State, b = s.coreWrite k Reg.pwrCmd 2 ∧ s.powerState = 1 ∧ ((b.setStep 4).diesUp i).snd = none) ∧
    (∃ s : State, ∃ c : BitVec 3, ∃ k : Nat, k = c.toNat ∧ CanWrite s k Reg.pwrCmd 0 ∧ s.powerState = 1) :=
  ⟨⟨(pw 2), 1, _, rfl, (canWrite_of (by decide +kernel)), (by decide +kernel), (by decide +kernel), (by decide +kernel), (by decide +kernel), (by decide +kernel), (by decide +kernel)⟩,
   ⟨(pw 2), 1, _, rfl, (canWrite_of (by decide +kernel)), default, _, rfl, (by decide +kernel)⟩,
   ⟨(pw 2), 1, _, rfl, (canWrite_of (by decide +kernel)), (by decide +kernel)⟩,
   ⟨(pw 1), 1, _, rfl, (canWrite_of (by decide +kernel)), (by decide +kernel)⟩,
   ⟨(pw 1), 1, _, rfl, (canWrite_of (by decide +kernel)), ({ (default : StartIn) with railsOk := true, linksOk := true, physOk := true }), _, rfl, (by decide +kernel), (by decide +kernel)⟩,
   ⟨(pw 1), 1, _, rfl, (canWrite_of (by decide +kernel)), (by decide +kernel)⟩⟩

theorem witness_PowerTransitions_4 :
    (∃ s : State, ∃ c : BitVec 3, ∃ k : Nat, k = c.toNat ∧ CanWrite s k Reg.pwrCmd 0 ∧ (¬s.powerState ∈ [1, 2, 3, 4])) ∧
    (∃ s : State, s.powerState ∈ [2, 3, 4] ∧ s.power.shut = 0) ∧
    (∃ s : State, s.power.shut ≠ 1) ∧
    (∃ s : State, s.powerState = 1) ∧
    (∃ s : State, (s.lit = false ∨ ¬s.powerState ∈ [0, 1, 2, 3, 4] ∨ s.powerState ∈ [2, 3, 4] ∧ s.power.shut ≠ 0)) ∧
    (∃ s : State, s.power.shut = 1) :=
  ⟨⟨(pw 5), 1, _, rfl, (canWrite_of (by decide +kernel)), (by decide +kernel)⟩,
   ⟨(pw 2), (by decide +kernel), (by decide +kernel)⟩,
   ⟨(pw 2), (by decide +kernel)⟩,
   ⟨(pw 1), (by decide +kernel)⟩,
   ⟨(pw 7), (by decide +kernel)⟩,
   ⟨({ pw 3 with power := { PowerSt.init with shut := 1 }, parts := [(0, { PartSt.init with prog := some (prog0 [0]) })] }), (by decide +kernel)⟩⟩

end T15

namespace T16
def live : State := { State.reset with ctxs := [(1, { (default : Ctx) with bound := true, qp := 1, sel := [(2, 2), (3, 0)] })], slices := [(5,6)], stackMem := [(7,8)], spindles := [(0, { Spindle.init with pc := 3 })], wefts := [(0, { WeftArr.init with st := 1, slot0 := { WeftSlot.init with st := .resident } })] }
def pw (st lc : Nat) : State := (live.setFld Reg.pwrState 0 2 0 st).setFld Reg.cfgLc 0 2 0 lc
def tr (k set cls unit : Nat) (all : Bool) (st lc : Nat) : State := let s := pw st lc; { s with boot := { s.boot with test := some ⟨k, set, cls, unit, all, 77⟩ } }

theorem witness_PowerTransitions_5 :
    ∃ s : State, ∃ c : BitVec 3, ∃ k : Nat, k = c.toNat ∧ CanWrite s k Reg.pwrCmd 0 ∧ ∃ i : StartIn, ∃ b : State, b = s.coreWrite k Reg.pwrCmd 2 ∧ ∃ r : Nat, ∃ detail : Nat, s.powerState = 1 ∧ ((b.setStep 4).diesUp i).snd = some (r, detail) ∧ r ≠ 82 :=
  ⟨(pw 1 2), 1, _, rfl, (canWrite_of (by decide +kernel)), default, _, rfl, 32, 0, (by decide +kernel), (by decide +kernel), (by decide +kernel)⟩

theorem witness_SelfTestRuns_1 :
    (∃ s : State, ∃ c : BitVec 3, ∃ k : Nat, k = c.toNat ∧ ∃ set : BitVec 4, CanWrite s k Reg.bstCmd 0 ∧ 1 ≤ set.toNat ∧ set.toNat ≤ 7 ∧ ∃ free : Bool, (free = ((s.noPrograms && List.all s.wgt.jobs fun e => !s.jobRuns e.fst) && List.all s.adapters fun e => e.snd.st == 0)) ∧ free = true ∧ s.lifeCycle ∈ [1, 3, 4]) ∧
    (∃ s : State, ∃ c : BitVec 3, ∃ k : Nat, k = c.toNat ∧ ∃ cls : Nat, cls = s.fld Reg.bstRawUnit 0 3 0 ∧ CanWrite s k Reg.bstRawCmd 0 ∧ cls = 12 ∧ s.lifeCycle ≠ 4) ∧
    (∃ s : State, ∃ c : BitVec 3, ∃ k : Nat, k = c.toNat ∧ ∃ set : BitVec 4, CanWrite s k Reg.bstCmd 0 ∧ 1 ≤ set.toNat ∧ set.toNat ≤ 7 ∧ ∃ free : Bool, (free = ((s.noPrograms && List.all s.wgt.jobs fun e => !s.jobRuns e.fst) && List.all s.adapters fun e => e.snd.st == 0)) ∧ (free = false ∨ ¬s.lifeCycle ∈ [1, 3, 4])) ∧
    (∃ s : State, ∃ c : BitVec 3, ∃ k : Nat, k = c.toNat ∧ s.ctxLive k = true ∧ s.inFallback = false ∧ (¬s.lifeCycle ∈ [1, 4])) ∧
    (∃ s : State, ∃ c : BitVec 3, ∃ k : Nat, k = c.toNat ∧ ∃ cls : Nat, cls = s.fld Reg.bstRawUnit 0 3 0 ∧ CanWrite s k Reg.bstRawCmd 0 ∧ 1 ≤ cls ∧ cls ≤ 12 ∧ (cls = 12 → s.lifeCycle = 4)) ∧
    (∃ s : State, ∃ classes : List (List Nat), ∃ fails : List (List Nat), ∃ us : Nat, (s.boot.test = none ∨ ∃ t, s.boot.test = some t ∧ t.kind < 3)) :=
  ⟨⟨(pw 2 1), 1, _, rfl, 7, (canWrite_of (by decide +kernel)), (by decide +kernel), (by decide +kernel), _, rfl, (by decide +kernel), (by decide +kernel)⟩,
   ⟨((pw 2 1).setReg Reg.bstRawUnit 0 12), 1, _, rfl, _, rfl, (canWrite_of (by decide +kernel)), (by decide +kernel), (by decide +kernel)⟩,
   ⟨(pw 2 2), 1, _, rfl, 1, (canWrite_of (by decide +kernel)), (by decide +kernel), (by decide +kernel), _, rfl, (by decide +kernel)⟩,
   ⟨(pw 2 2), 1, _, rfl, (by decide +kernel), (by decide +kernel), (by decide +kernel)⟩,
   ⟨((pw 2 4).setReg Reg.bstRawUnit 0 0x1800C), 1, _, rfl, _, rfl, (canWrite_of (by decide +kernel)), (by decide +kernel), (by decide +kernel), (by decide +kernel)⟩,
   ⟨(pw 2 1), ([]), ([]), 5, (by decide +kernel)⟩⟩

theorem witness_SelfTestRuns_2 :
    (∃ s : State, ∃ classes : List (List Nat), ∃ fails : List (List Nat), ∃ us : Nat, ∃ t : TestRun, s.boot.test = some t ∧ t.kind ∈ [3, 4]) ∧
    (∃ s : State, ∃ busy : Bool, (busy = (s.boot.test.isSome || !s.noPrograms || List.any s.wgt.jobs fun e => s.jobRuns e.fst)) ∧ s.power.shut = 2 ∧ busy = false ∧ s.fld Reg.bstCfg 0 0 0 = 1 ∧ s.lifeCycle ∈ [2, 3]) ∧
    (∃ s : State, ∃ busy : Bool, (busy = (s.boot.test.isSome || !s.noPrograms || List.any s.wgt.jobs fun e => s.jobRuns e.fst)) ∧ s.power.shut = 2 ∧ busy = false ∧ (s.fld Reg.bstCfg 0 0 0 = 0 ∨ ¬s.lifeCycle ∈ [2, 3])) ∧
    (∃ s : State, ∃ busy : Bool, (busy = (s.boot.test.isSome || !s.noPrograms || List.any s.wgt.jobs fun e => s.jobRuns e.fst)) ∧ (s.power.shut ≠ 2 ∨ busy = true)) ∧
    (∃ s : State, ∃ classes : List (List Nat), ∃ fails : List (List Nat), ∃ us : Nat, ∃ t : TestRun, s.boot.test = some t ∧ t.kind = 1 ∧ s.powerState = 6) ∧
    (∃ s : State, ∃ classes : List (List Nat), ∃ fails : List (List Nat), ∃ us : Nat, ∃ t : TestRun, s.boot.test = some t ∧ (t.kind ≠ 1 ∨ s.powerState ≠ 6)) :=
  ⟨⟨(tr 3 4 0 0 true 2 1), ([]), ([]), 5, (⟨3, 4, 0, 0, true, 77⟩), (by decide +kernel), (by decide +kernel)⟩,
   ⟨({ pw 3 2 with power := { PowerSt.init with shut := 2 } }), _, rfl, (by decide +kernel), (by decide +kernel), (by decide +kernel), (by decide +kernel)⟩,
   ⟨(({ pw 3 1 with power := { PowerSt.init with shut := 2 } })), _, rfl, (by decide +kernel), (by decide +kernel), (by decide +kernel)⟩,
   ⟨(tr 1 0 0 0 true 6 2), _, rfl, (by decide +kernel)⟩,
   ⟨(tr 1 0 0 0 true 6 2), ([[1]]), ([[5,2,3,0,0,0]]), 5, (⟨1, 0, 0, 0, true, 77⟩), (by decide +kernel), (by decide +kernel), (by decide +kernel)⟩,
   ⟨(tr 3 0 0 0 true 6 2), ([[1]]), ([[5,2,3,0,0,0]]), 5, (⟨3, 0, 0, 0, true, 77⟩), (by decide +kernel), (by decide +kernel)⟩⟩

end T16

namespace T17
def live : State := { State.reset with ctxs := [(1, { (default : Ctx) with bound := true, qp := 1, sel := [(2, 2), (3, 0)] })], slices := [(5,6)], stackMem := [(7,8)], spindles := [(0, { Spindle.init with pc := 3 })], wefts := [(0, { WeftArr.init with st := 1, slot0 := { WeftSlot.init with st := .resident } })] }
def pw (st lc : Nat) : State := (live.setFld Reg.pwrState 0 2 0 st).setFld Reg.cfgLc 0 2 0 lc
def rds (f : Nat → Int) : List Int := (List.range 412).map f
def cs (bind : Nat) (sel : Nat) : State := let s := { live with ctxs := [(1, { (default : Ctx) with bound := true, qp := 1, sel := [(13, sel)], seen := [(0, 3)] })], tiles := [(0, { PhysTile.init with cnt := [(0,5),(15,0x123456789),(7,0xABCDEF012345)] })] }
  let s := s.setReg Reg.cntCtxBind 1 bind
  let s := s.setReg Reg.cfgTileOwner 0 16
  { s with events := { s.events with samples0 := [[1],[2]], samples1 := [[3]] } }

theorem witness_ScansAndCounters_1 :
    (∃ s : State, ∃ rd : List Int, ∃ x : Nat → Int, (x = fun i => rd.getD i 0) ∧ (∀ (i : Nat), -2048 ≤ x i ∧ x i < 2048) ∧ s.powerState ≠ 0 ∧ s.powerState ≠ 7 ∧ (∀ (i : Nat), i ∈ s.sensors → s.sensor i < 460)) ∧
    (∃ s : State, ∃ rd : List Int, ∃ x : Nat → Int, (x = fun i => rd.getD i 0) ∧ (∀ (i : Nat), -2048 ≤ x i ∧ x i < 2048) ∧ (s.powerState = 0 ∨ s.powerState = 7)) ∧
    (∃ s : State, ∃ rd : List Int, ∃ x : Nat → Int, (x = fun i => rd.getD i 0) ∧ (∀ (i : Nat), -2048 ≤ x i ∧ x i < 2048) ∧ ∃ i : Nat, i ∈ s.sensors ∧ s.powerState ≠ 0 ∧ s.powerState ≠ 7 ∧ s.sensorValid i = true ∧ i < 408 ∧ s.fld Reg.thmSensDev i 17 16 < 2 ∧ 460 ≤ s.sensor i ∧ 460 ≤ x i) ∧
    (∃ s : State, ∃ c : BitVec 3, ∃ k : Nat, k = c.toNat ∧ ∃ i : Nat, ∃ t : Nat, ∃ n : Nat, ∃ p : Nat, CanReach s k Reg.cntValLo i ∧ t = i % 4096 ∧ n = i / 2 ^ 16 ∧ p = s.physOf t ∧ s.mayCount k t = true) ∧
    (∃ s : State, ∃ c : BitVec 3, ∃ k : Nat, k = c.toNat ∧ ∃ v : Word, k < 6 ∧ CanWrite s k Reg.cntCtxBind k) ∧
    (∃ s : State, ∃ c : BitVec 3, ∃ k : Nat, k = c.toNat ∧ ∃ half : Bool, ∃ a : Nat, (a = Reg.cntSampNext + if half = true then 32 else 0) ∧ CanReach s k a 0) :=
  ⟨⟨(pw 2 2), (rds fun i => 200 + i % 8), _, rfl, (getD_all (by decide +kernel)), (by decide +kernel), (by decide +kernel), (by decide +kernel)⟩,
   ⟨(pw 0 2), (rds fun i => 200 + i % 8), _, rfl, (getD_all (by decide +kernel)), (by decide +kernel)⟩,
   ⟨((pw 3 2).setReg Reg.thmSens 3 460), (rds fun i => if i = 3 then 460 else 440), _, rfl, (getD_all (by decide +kernel)), 3, (by decide +kernel), (by decide +kernel), (by decide +kernel), (by decide +kernel), (by decide +kernel), (by decide +kernel), (by decide +kernel), (by decide +kernel)⟩,
   ⟨(cs 0 (7*65536)), 1, _, rfl, (7*65536), _, _, _, (canReach_of (by decide +kernel)), rfl, rfl, rfl, (by decide +kernel)⟩,
   ⟨(cs 0 (7*65536)), 1, _, rfl, 0x10, (by decide +kernel), (canWrite_of (by decide +kernel))⟩,
   ⟨(cs 0 (7*65536)), 1, _, rfl, false, _, rfl, (canReach_of (by decide +kernel))⟩⟩

theorem witness_ScansAndCounters_2 :
    (∃ s : State, ∃ c : BitVec 3, ∃ k : Nat, k = c.toNat ∧ ∃ v : Word, k < 6 ∧ CanReach s k Reg.cntCtxBind k ∧ s.quiet Reg.cntCtxBind k = false ∧ BitVec.toNat v % 32 ≠ s.reg Reg.cntCtxBind k % 32) ∧
    (∃ s : State, ∃ c : BitVec 3, ∃ k : Nat, k = c.toNat ∧ ∃ i : Nat, ∃ t : Nat, ∃ n : Nat, ∃ p : Nat, CanReach s k Reg.cntValLo i ∧ t = i % 4096 ∧ n = i / 2 ^ 16 ∧ p = s.physOf t ∧ s.mayCount k t = false) ∧
    (∃ s : State, ∃ c : BitVec 3, ∃ k : Nat, k = c.toNat ∧ ∃ v : Word, 6 ≤ k ∧ CanReach s k Reg.cntCtxBind k) :=
  ⟨⟨(cs 17 (7*65536)), 1, _, rfl, 0x1F, (by decide +kernel), (canReach_of (by decide +kernel)), (by decide +kernel), (by decide +kernel)⟩,
   ⟨(cs 17 (7*65536)), 1, _, rfl, (7*65536), _, _, _, (canReach_of (by decide +kernel)), rfl, rfl, rfl, (by decide +kernel)⟩,
   ⟨({ (cs 17 (7*65536)).setFld Reg.cfgStatus 0 4 4 1 with ctxs := [(6, { (default : Ctx) with sel := [(13, 458752)] })] }), 6, _, rfl, 0x1F, (by decide +kernel), (canReach_of (by decide +kernel))⟩⟩

end T17

namespace T18
def hdr0 (cls body odev ddev part dch : Nat) (fp : Nat) : Bytes := natLe fp 8 ++ [BitVec.ofNat 8 cls, BitVec.ofNat 8 (body-1)] ++ natLe odev 2 ++ natLe ddev 2 ++ [BitVec.ofNat 8 (16*part), 0] ++ [BitVec.ofNat 8 dch] ++ List.replicate 43 0
def mk (h : Bytes) (b : Bytes) : Bytes := h ++ natLe (crc32c (h ++ b)) 4 ++ b
def ln (st : Nat) (f : LinkSt → LinkSt := id) : State :=
  let s := { State.reset with ctxs := [(1, { (default : Ctx) with bound := true, qp := 1, sel := [(7, 2), (2, 0)] })] }
  let s := { s with net := { NetSt.init with links := [(2, f LinkSt.init)] }, time := { s.time with cnt := 100000000000 } }
  let s := s.setFld Reg.sknState 2 2 0 st
  let s := ((s.setReg Reg.cfgFprintLo 0 0x1234).setReg (Reg.cfgFprintLo+4) 0 0x55).setFld Reg.cfgDevice 0 15 0 9
  { s with spindles := [(0, { Spindle.init with part := some 1 })] }
def FP := 0x5500001234
def body1 : Bytes := (List.range 64).map (BitVec.ofNat 8)
def uch (cr : Nat) : UnitCh := { UnitCh.init with unit := 32*2 + 25, sendCh := 3, depth := 8, credit := cr }
def wu (cr q lim : Nat) : State := let s := ln 2; { s.setReg (Reg.sknIngress + 8) 0 lim with serve := { ServSt.init with unitCh := [(5, { uch cr with queue := (List.range q).map fun i => (mkFlit 1 0 5 0 1 0 89 (body1.map (· + BitVec.ofNat 8 i)), none) })] } }
def body2 : Bytes := natLe (1 + 4*16 + 5*512) 4 ++ List.replicate 60 0
def bodyE (t : Nat) : Bytes := [BitVec.ofNat 8 t] ++ (List.range 63).map (BitVec.ofNat 8)
def org : Orig := ⟨2, 7, 1, 3, 4⟩
def mm := mk (hdr0 0 3 7 9 1 3 FP) (body1 ++ body1 ++ body2)

theorem witness_MessagesAtTheLinks_1 :
    (∃ s : State, ∃ l : Nat, ∃ m : Bytes, s.linkFitted l = true ∧ s.linkState l = 2 ∧ msgCrcOk m = true ∧ leNat m 0 8 = s.fprint ∧ leNat m 12 2 = s.device ∧ ∃ p : Nat, byteAt m 8 % 4 = 0 ∧ p = byteAt m 14 / 16 ∧ ∃ k : Nat, s.ingressCh l p (byteAt m 16 % 32) = some k ∧ s.fld (Reg.sknIngress + 8 * p + 4 * dieOfUnit l) 0 16 0 < s.ingressUse p (dieOfUnit l) + byteAt m 9 % 128 + 1) ∧
    (∃ s : State, ∃ l : Nat, ∃ m : Bytes, s.linkFitted l = true ∧ (∀ (e : Freed), e ∈ s.net.freed → e.orig.unit ≠ l ∨ s.returnDue e = false)) ∧
    (∃ s : State, ∃ l : Nat, ∃ m : Bytes, s.linkFitted l = true ∧ s.linkState l = 2 ∧ msgCrcOk m = true ∧ leNat m 0 8 = s.fprint ∧ leNat m 12 2 = s.device ∧ ∃ p : Nat, byteAt m 8 % 4 = 0 ∧ p = byteAt m 14 / 16 ∧ ∃ k : Nat, s.ingressCh l p (byteAt m 16 % 32) = some k ∧ s.ingressUse p (dieOfUnit l) + byteAt m 9 % 128 + 1 ≤ s.fld (Reg.sknIngress + 8 * p + 4 * dieOfUnit l) 0 16 0 ∧ (s.unitSend k).credit = 0) ∧
    (∃ s : State, ∃ l : Nat, ∃ m : Bytes, s.linkFitted l = true ∧ s.linkState l = 2 ∧ msgCrcOk m = true ∧ leNat m 0 8 = s.fprint ∧ leNat m 12 2 = s.device ∧ byteAt m 8 % 4 = 1 ∧ (List.map List.length s.net.transfer).sum + List.length m ≤ 2097152) ∧
    (∃ s : State, ∃ l : Nat, ∃ m : Bytes, s.linkFitted l = true ∧ s.linkState l = 2 ∧ msgCrcOk m = true ∧ leNat m 0 8 = s.fprint ∧ leNat m 12 2 = s.device ∧ byteAt m 8 % 4 = 1 ∧ 2097152 < (List.map List.length s.net.transfer).sum + List.length m) ∧
    (∃ s : State, ∃ l : Nat, ∃ m : Bytes, s.linkFitted l = true ∧ s.linkState l = 2 ∧ msgCrcOk m = true ∧ leNat m 0 8 = s.fprint ∧ leNat m 12 2 = s.device ∧ ∃ w : Nat, ∃ n : Nat, byteAt m 8 % 4 = 3 ∧ w = leNat m 64 4 ∧ n = bits w 20 9 ∧ 0 < n ∧ (∀ (i : Nat), 0 < i → i < 16 → leNat m (64 + 4 * i) 4 = 0) ∧ s.net.waiting = [] ∧ s.descCred l (bits w 3 0) (bits w 8 4) + n < 4096) :=
  ⟨⟨(wu 0 2 4), 2, mm, (by decide +kernel), (by decide +kernel), (by decide +kernel), (by decide +kernel), (by decide +kernel), 1, (by decide +kernel), (by decide +kernel), 5, (by decide +kernel), (by decide +kernel)⟩,
   ⟨(wu 0 2 4), 2, mm, (by decide +kernel), (by decide +kernel)⟩,
   ⟨(wu 0 2 5), 2, mm, (by decide +kernel), (by decide +kernel), (by decide +kernel), (by decide +kernel), (by decide +kernel), 1, (by decide +kernel), (by decide +kernel), 5, (by decide +kernel), (by decide +kernel), (by decide +kernel)⟩,
   ⟨(ln 2), 2, (mk (hdr0 1 3 7 9 1 3 FP) (body1 ++ body1 ++ body2)), (by decide +kernel), (by decide +kernel), (by decide +kernel), (by decide +kernel), (by decide +kernel), (by decide +kernel), (by decide +kernel)⟩,
   ⟨({ ln 2 with net := { (ln 2).net with transfer := [List.replicate 2097000 0] } }), 2, (mk (hdr0 1 3 7 9 1 3 FP) (body1 ++ body1 ++ body2)), (by decide +kernel), (by decide +kernel), (by decide +kernel), (by decide +kernel), (by decide +kernel), (by decide +kernel), (long_of rfl (by decide +kernel))⟩,
   ⟨(ln 2), 2, (mk (hdr0 3 1 7 9 1 3 FP) body2), (by decide +kernel), (by decide +kernel), (by decide +kernel), (by decide +kernel), (by decide +kernel), (leNat body2 0 4), 5, (by decide +kernel), (by decide +kernel), (by decide +kernel), (by decide +kernel), (lt_all (by decide +kernel)), (by decide +kernel), (by decide +kernel)⟩⟩

theorem witness_MessagesAtTheLinks_2 :
    (∃ s : State, ∃ l : Nat, ∃ m : Bytes, s.linkFitted l = true ∧ s.linkState l = 2 ∧ msgCrcOk m = true ∧ leNat m 0 8 = s.fprint ∧ leNat m 12 2 = s.device ∧ byteAt m 8 % 4 = 2 ∧ byteAt m 64 = 1 ∧ List.length m = 128 ∧ SMap.get [] (s.link l).txq 2 = [] ∧ SMap.get 64 (s.link l).credit 2 = 0 ∧ (∀ (c : Nat), c ≠ 2 → SMap.get [] (s.link l).txq c = [])) ∧
    (∃ s : State, ∃ l : Nat, ∃ m : Bytes, s.linkFitted l = true ∧ s.linkState l = 2 ∧ msgCrcOk m = true ∧ leNat m 0 8 = s.fprint ∧ leNat m 12 2 = s.device ∧ byteAt m 8 % 4 = 2 ∧ byteAt m 64 = 2) ∧
    (∃ s : State, ∃ l : Nat, ∃ m : Bytes, s.linkFitted l = true ∧ ∃ o : Orig, ∃ n : Nat, ∃ at_ : DWord, s.net.freed = [{ orig := o, n := n, since := at_ }] ∧ (o.body ≤ 4 * n ∨ BitVec.toNat at_ + 1000 ≤ s.now) ∧ o.unit = l ∧ s.linkState l = 2 ∧ 0 < n ∧ n ≤ 2047 ∧ o.part < 16 ∧ o.chan < 32 ∧ SMap.get [] (s.link l).txq 3 = [] ∧ SMap.get 64 (s.link l).credit 3 = 0 ∧ (∀ (c : Nat), c ≠ 3 → SMap.get [] (s.link l).txq c = [])) :=
  ⟨⟨(ln 2 (fun l => { l with credit := [(2,0)] })), 2, (mk (hdr0 2 1 7 9 1 3 FP) (bodyE 1)), (by decide +kernel), (by decide +kernel), (by decide +kernel), (by decide +kernel), (by decide +kernel), (by decide +kernel), (by decide +kernel), (by decide +kernel), (by decide +kernel), (by decide +kernel), (fun _ _ => rfl)⟩,
   ⟨(ln 2 (fun l => { l with credit := [(2,0)] })), 2, (mk (hdr0 2 1 7 9 1 3 FP) (bodyE 2)), (by decide +kernel), (by decide +kernel), (by decide +kernel), (by decide +kernel), (by decide +kernel), (by decide +kernel), (by decide +kernel)⟩,
   ⟨({ ln 2 with net := { (ln 2 (fun l => { l with credit := [(3,0)] })).net with freed := [⟨org, 2047, 0⟩] } }), 2, (mk (hdr0 2 1 7 9 1 3 FP) (bodyE 2)), (by decide +kernel), org, 2047, 0, (by decide +kernel), (by decide +kernel), (by decide +kernel), (by decide +kernel), (by decide +kernel), (by decide +kernel), (by decide +kernel), (by decide +kernel), (by decide +kernel), (by decide +kernel), (fun _ _ => rfl)⟩⟩

end T18

namespace T19
def ln (st : Nat) (f : LinkSt → LinkSt := id) : State :=
  let s := { State.reset with ctxs := [(1, { (default : Ctx) with bound := true, qp := 1, sel := [(7, 2), (2, 0)] })] }
  let s := { s with net := { NetSt.init with links := [(2, f LinkSt.init)] }, time := { s.time with cnt := 100000000000 } }
  let s := s.setFld Reg.sknState 2 2 0 st
  let s := ((s.setReg Reg.cfgFprintLo 0 0x1234).setReg (Reg.cfgFprintLo+4) 0 0x55).setFld Reg.cfgDevice 0 15 0 9
  { s with spindles := [(0, { Spindle.init with part := some 1 })] }
def leaH (kind nak seq ack cc cr cls : Nat) : Nat := kind + nak*8 + seq*16 + ack*2^16 + cc*2^28 + cr*2^30 + cls*2^36
def fills : Bytes := (List.range 32).flatMap fun _ => fillFlit
def lea (hd : Nat) (b : Bytes) : Bytes := leaBytes hd b
def rt (k : Nat) : List (Nat × Nat × Bytes) := (List.range k).map fun i => (10+i, 0, fills.map (· + BitVec.ofNat 8 i))

theorem witness_LeasArriveInOrder_1 :
    (∃ s : State, ∃ a : BitVec 3, ∃ l : Nat, l = a.toNat ∧ s.linkFitted l = true ∧ ∃ b : Bytes, ∃ cor : Nat, ∃ unc : Nat, (¬s.linkState l ∈ [2, 3])) ∧
    (∃ s : State, ∃ a : BitVec 3, ∃ l : Nat, l = a.toNat ∧ s.linkFitted l = true ∧ ((s.link l).retry = [] ∨ s.ackLate l = false)) ∧
    (∃ s : State, ∃ a : BitVec 3, ∃ l : Nat, l = a.toNat ∧ s.linkFitted l = true ∧ s.linkState l = 2 ∧ ∃ b : Bytes, ∃ hdr : Nat, hdr = leNat b 0 8 ∧ List.length b = 2056 ∧ ∃ cor : Nat, ∃ unc : Nat, (unc ≠ 0 ∨ bits hdr 63 40 ≠ leaCrc hdr (List.drop 8 b)) ∧ (s.link l).skip = false) ∧
    (∃ s : State, ∃ a : BitVec 3, ∃ l : Nat, l = a.toNat ∧ s.linkFitted l = true ∧ s.linkState l = 2 ∧ ∃ b : Bytes, ∃ hdr : Nat, hdr = leNat b 0 8 ∧ List.length b = 2056 ∧ ∃ cor : Nat, ∃ unc : Nat, (unc ≠ 0 ∨ bits hdr 63 40 ≠ leaCrc hdr (List.drop 8 b)) ∧ (s.link l).skip = true) ∧
    (∃ s : State, ∃ a : BitVec 3, ∃ l : Nat, l = a.toNat ∧ s.linkFitted l = true ∧ ∃ ack : BitVec 12, ∃ i : Nat, (List.findIdx? (fun e => e.fst == ack.toNat) (s.link l).retry = some i)) ∧
    (∃ s : State, ∃ a : BitVec 3, ∃ l : Nat, l = a.toNat ∧ s.linkFitted l = true ∧ (s.link l).retry ≠ [] ∧ s.ackLate l = true) :=
  ⟨⟨(ln 1), 2, 2, (by decide +kernel), (by decide +kernel), (lea (leaH 1 0 0 0 1 5 2) fills), 0, 0, (by decide +kernel)⟩,
   ⟨(ln 1), 2, 2, (by decide +kernel), (by decide +kernel), (by decide +kernel)⟩,
   ⟨(ln 2), 2, 2, (by decide +kernel), (by decide +kernel), (by decide +kernel), (lea (leaH 1 0 0 0 1 5 2) fills), _, rfl, (by decide +kernel), 0, 1, (by decide +kernel), (by decide +kernel)⟩,
   ⟨(ln 2 (fun l => { l with skip := true })), 2, 2, (by decide +kernel), (by decide +kernel), (by decide +kernel), (lea (leaH 1 0 0 0 1 5 2) fills), _, rfl, (by decide +kernel), 0, 1, (by decide +kernel), (by decide +kernel)⟩,
   ⟨(ln 2 (fun l => { l with retry := rt 3 })), 2, 2, (by decide +kernel), (by decide +kernel), 10, 0, (by decide +kernel)⟩,
   ⟨(ln 2 (fun l => { l with retry := rt 3, ackAt := some 1000 })), 2, 2, (by decide +kernel), (by decide +kernel), (by decide +kernel), (by decide +kernel)⟩⟩

end T19

namespace T20
def hdr0 (cls body odev ddev part dch : Nat) (fp : Nat) : Bytes := natLe fp 8 ++ [BitVec.ofNat 8 cls, BitVec.ofNat 8 (body-1)] ++ natLe odev 2 ++ natLe ddev 2 ++ [BitVec.ofNat 8 (16*part), 0] ++ [BitVec.ofNat 8 dch] ++ List.replicate 43 0
def mk (h : Bytes) (b : Bytes) : Bytes := h ++ natLe (crc32c (h ++ b)) 4 ++ b
def ln (st : Nat) (f : LinkSt → LinkSt := id) : State :=
  let s := { State.reset with ctxs := [(1, { (default : Ctx) with bound := true, qp := 1, sel := [(7, 2), (2, 0)] })] }
  let s := { s with net := { NetSt.init with links := [(2, f LinkSt.init)] }, time := { s.time with cnt := 100000000000 } }
  let s := s.setFld Reg.sknState 2 2 0 st
  let s := ((s.setReg Reg.cfgFprintLo 0 0x1234).setReg (Reg.cfgFprintLo+4) 0 0x55).setFld Reg.cfgDevice 0 15 0 9
  { s with spindles := [(0, { Spindle.init with part := some 1 })] }
def FP := 0x5500001234
def body1 : Bytes := (List.range 64).map (BitVec.ofNat 8)
def rec (kind wire pd pp mode : Nat) (gs job : Nat) (fp : Nat) : Bytes := [0x53#8, 0x4B#8, 0x54#8, 0x52#8, 1, BitVec.ofNat 8 wire, BitVec.ofNat 8 kind, 0] ++ natLe pp 2 ++ natLe pd 2 ++ [0,0, BitVec.ofNat 8 mode, 0] ++ natLe fp 8 ++ natLe job 2 ++ List.replicate 38 0
def tr (f : LinkSt → LinkSt := id) : State := ((ln 1 f).setReg Reg.sknWire 0 0x301).setReg Reg.sknExpect 2 0x00050007
def rt1 (s : State) : State := s.setFld Reg.sknRetryCfg 0 11 0 0
def lnr (st : Nat) (f : LinkSt → LinkSt := id) : State := rt1 (ln st fun l => f { l with resends := [99999999999] })

theorem witness_LinkStatesAndLanes_1 :
    (∃ s : State, ∃ a : BitVec 3, ∃ l : Nat, l = a.toNat ∧ s.linkFitted l = true ∧ (s.linksRun = false ∨ s.linkState l ≠ 0 ∨ (s.link l).off = true)) ∧
    (∃ s : State, ∃ a : BitVec 3, ∃ l : Nat, l = a.toNat ∧ s.linkFitted l = true ∧ s.overRetries l = false) ∧
    (∃ s : State, ∃ a : BitVec 3, ∃ l : Nat, l = a.toNat ∧ s.linkFitted l = true ∧ s.linkState l = 2) ∧
    (∃ s : State, ∃ a : BitVec 3, ∃ l : Nat, l = a.toNat ∧ s.linkFitted l = true ∧ s.linkState l = 4) ∧
    (∃ s : State, ∃ a : BitVec 3, ∃ l : Nat, l = a.toNat ∧ s.linkFitted l = true ∧ ∃ r : Bytes, ∃ q : Nat, s.linkState l = 1 ∧ s.net.waiting = [] ∧ List.length r = 64 ∧ List.take 4 r = [83#8, 75#8, 84#8, 82#8] ∧ (q = if byteAt r 5 ≠ s.fld Reg.sknWire 0 15 8 then 1 else if byteAt r 14 ≠ s.fld Reg.sknMode 0 0 0 ∨ byteAt r 6 ≠ s.fld Reg.sknMode 0 0 0 then 2 else if s.fld Reg.sknMode 0 0 0 = 0 ∧ s.fld Reg.sknState l 20 20 = 1 ∧ (leNat r 10 2 ≠ s.fld Reg.sknPath l 31 16 ∨ leNat r 8 2 ≠ s.fld Reg.sknPathPort l 2 0 ∨ leNat r 24 2 ≠ s.fld Reg.sknPath l 15 0) then 3 else if s.fld Reg.sknExpect l 29 29 = 0 ∧ (byteAt r 6 ≠ s.fld Reg.sknExpect l 28 28 ∨ leNat r 10 2 ≠ s.fld Reg.sknExpect l 15 0 ∨ leNat r 8 2 ≠ s.fld Reg.sknExpect l 25 16) then if s.fld Reg.sknMode 0 1 1 = 1 then 5 else 2 else if leNat r 16 8 ≠ s.fprint then 4 else 0)) ∧
    (∃ s : State, ∃ a : BitVec 3, ∃ l : Nat, l = a.toNat ∧ s.linkFitted l = true ∧ ∃ roles : List Nat, ∃ j : Nat, ∃ r : Nat, ∃ k : Nat, (s.link l).roles = roles ∧ (List.findIdx? (fun x => x == 4) roles = some j) ∧ s.linkState l = 2 ∧ (s.link l).before = none ∧ k < 5 ∧ roles.length = 5 ∧ r = roles.getD k 6 ∧ r < 4 ∧ ∃ Moved : State → Prop, (Moved = fun s' => (s'.link l).roles = (roles.set j r).set k 5 ∧ (s'.link l).before = some roles ∧ s'.reg Reg.sknRecalCnt l = (s.reg Reg.sknRecalCnt l + 1) % 2 ^ 32 ∧ s'.linkState l = 2) ∧ ∃ n : BitVec 3, n.toNat = k) :=
  ⟨⟨tr, 2, 2, (by decide +kernel), (by decide +kernel), (by decide +kernel)⟩,
   ⟨tr, 2, 2, (by decide +kernel), (by decide +kernel), (by decide +kernel)⟩,
   ⟨(ln 2), 2, 2, (by decide +kernel), (by decide +kernel), (by decide +kernel)⟩,
   ⟨(ln 4), 2, 2, (by decide +kernel), (by decide +kernel), (by decide +kernel)⟩,
   ⟨tr, 2, 2, (by decide +kernel), (by decide +kernel), (rec 0 2 7 5 0 0 5 FP), _, (by decide +kernel), (by decide +kernel), (by decide +kernel), (by decide +kernel), rfl⟩,
   ⟨(ln 2), 2, 2, (by decide +kernel), (by decide +kernel), ([0,1,2,3,4]), 4, 0, 0, (by decide +kernel), (by decide +kernel), (by decide +kernel), (by decide +kernel), (by decide +kernel), (by decide +kernel), (by decide +kernel), (by decide +kernel), _, rfl, 0, (by decide +kernel)⟩⟩

theorem witness_LinkStatesAndLanes_2 :
    (∃ s : State, ∃ a : BitVec 3, ∃ l : Nat, l = a.toNat ∧ s.linkFitted l = true ∧ ∃ roles : List Nat, ∃ j : Nat, ∃ r : Nat, ∃ k : Nat, (s.link l).roles = roles ∧ (List.findIdx? (fun x => x == 4) roles = some j) ∧ s.linkState l = 2 ∧ (s.link l).before = none ∧ k < 5 ∧ roles.length = 5 ∧ r = roles.getD k 6 ∧ r < 4 ∧ ∃ Moved : State → Prop, (Moved = fun s' => (s'.link l).roles = (roles.set j r).set k 5 ∧ (s'.link l).before = some roles ∧ s'.reg Reg.sknRecalCnt l = (s.reg Reg.sknRecalCnt l + 1) % 2 ^ 32 ∧ s'.linkState l = 2) ∧ s.fld Reg.calSknCfg 0 15 0 ≠ 0 ∧ (s.link l).rotate = k ∧ k < 4) ∧
    (∃ s : State, ∃ a : BitVec 3, ∃ l : Nat, l = a.toNat ∧ s.linkFitted l = true ∧ ∃ roles : List Nat, ∃ j : Nat, ∃ r : Nat, ∃ k : Nat, (s.link l).roles = roles ∧ (List.findIdx? (fun x => x == 4) roles = some j) ∧ s.linkState l = 2 ∧ (s.link l).before = none ∧ k < 5 ∧ roles.length = 5 ∧ r = roles.getD k 6 ∧ r < 4 ∧ ∃ Moved : State → Prop, (Moved = fun s' => (s'.link l).roles = (roles.set j r).set k 5 ∧ (s'.link l).before = some roles ∧ s'.reg Reg.sknRecalCnt l = (s.reg Reg.sknRecalCnt l + 1) % 2 ^ 32 ∧ s'.linkState l = 2) ∧ ∃ n : BitVec 3, ∃ w : BitVec 16, ∃ h : BitVec 16, n.toNat = k ∧ s.eyeLow w.toNat h.toNat = true) ∧
    (∃ s : State, ∃ a : BitVec 3, ∃ l : Nat, l = a.toNat ∧ s.linkFitted l = true ∧ ∃ roles : List Nat, ∃ j : Nat, ∃ r : Nat, ∃ k : Nat, (s.link l).roles = roles ∧ (List.findIdx? (fun x => x == 4) roles = some j) ∧ s.linkState l = 2 ∧ (s.link l).before = none ∧ k < 5 ∧ roles.length = 5 ∧ r = roles.getD k 6 ∧ r < 4 ∧ ∃ Moved : State → Prop, (Moved = fun s' => (s'.link l).roles = (roles.set j r).set k 5 ∧ (s'.link l).before = some roles ∧ s'.reg Reg.sknRecalCnt l = (s.reg Reg.sknRecalCnt l + 1) % 2 ^ 32 ∧ s'.linkState l = 2) ∧ ∃ n : BitVec 3, ∃ w : BitVec 16, ∃ h : BitVec 16, n.toNat = k ∧ s.eyeLow w.toNat h.toNat = false) ∧
    (∃ s : State, ∃ a : BitVec 3, ∃ l : Nat, l = a.toNat ∧ s.linkFitted l = true ∧ ∃ roles : List Nat, ∃ k : Nat, ∃ w : BitVec 16, ∃ h : BitVec 16, (s.link l).roles = roles ∧ (List.findIdx? (fun x => x == 5) roles = some k) ∧ s.linkState l = 2 ∧ s.eyeLow w.toNat h.toNat = true ∧ (¬6 ∈ roles)) ∧
    (∃ s : State, ∃ a : BitVec 3, ∃ l : Nat, l = a.toNat ∧ s.linkFitted l = true ∧ ∃ roles : List Nat, ∃ k : Nat, ∃ w : BitVec 16, ∃ h : BitVec 16, (s.link l).roles = roles ∧ (List.findIdx? (fun x => x == 5) roles = some k) ∧ s.linkState l = 2 ∧ s.eyeLow w.toNat h.toNat = false ∧ (¬6 ∈ roles)) ∧
    (∃ s : State, ∃ a : BitVec 3, ∃ l : Nat, l = a.toNat ∧ s.linkFitted l = true ∧ ∃ roles : List Nat, ∃ k : Nat, ∃ w : BitVec 16, ∃ h : BitVec 16, (s.link l).roles = roles ∧ (List.findIdx? (fun x => x == 5) roles = some k) ∧ s.linkState l = 2 ∧ s.eyeLow w.toNat h.toNat = true ∧ 6 ∈ roles) :=
  ⟨⟨(ln 2), 2, 2, (by decide +kernel), (by decide +kernel), ([0,1,2,3,4]), 4, 0, 0, (by decide +kernel), (by decide +kernel), (by decide +kernel), (by decide +kernel), (by decide +kernel), (by decide +kernel), (by decide +kernel), (by decide +kernel), _, rfl, (by decide +kernel), (by decide +kernel), (by decide +kernel)⟩,
   ⟨(ln 2), 2, 2, (by decide +kernel), (by decide +kernel), ([0,1,2,3,4]), 4, 0, 0, (by decide +kernel), (by decide +kernel), (by decide +kernel), (by decide +kernel), (by decide +kernel), (by decide +kernel), (by decide +kernel), (by decide +kernel), _, rfl, 0, 0, 0, (by decide +kernel), (by decide +kernel)⟩,
   ⟨(ln 2), 2, 2, (by decide +kernel), (by decide +kernel), ([0,1,2,3,4]), 4, 3, 3, (by decide +kernel), (by decide +kernel), (by decide +kernel), (by decide +kernel), (by decide +kernel), (by decide +kernel), (by decide +kernel), (by decide +kernel), _, rfl, 3, 65535, 65535, (by decide +kernel), (by decide +kernel)⟩,
   ⟨((ln 2 (fun l => {l with roles := [0,5,2,3,1] })).setReg Reg.calSknCfg 0 0x640A0003), 2, 2, (by decide +kernel), (by decide +kernel), ([0,5,2,3,1]), 1, 0, 0, (by decide +kernel), (by decide +kernel), (by decide +kernel), (by decide +kernel), (by decide +kernel)⟩,
   ⟨((ln 2 (fun l => {l with roles := [0,5,2,3,1] })).setReg Reg.calSknCfg 0 0x640A0003), 2, 2, (by decide +kernel), (by decide +kernel), ([0,5,2,3,1]), 1, 65535, 65535, (by decide +kernel), (by decide +kernel), (by decide +kernel), (by decide +kernel), (by decide +kernel)⟩,
   ⟨((ln 2 (fun l => {l with roles := [6,5,2,3,1] })).setReg Reg.calSknCfg 0 0x640A0003), 2, 2, (by decide +kernel), (by decide +kernel), ([6,5,2,3,1]), 1, 0, 65535, (by decide +kernel), (by decide +kernel), (by decide +kernel), (by decide +kernel), (by decide +kernel)⟩⟩

theorem witness_LinkStatesAndLanes_3 :
    (∃ s : State, ∃ a : BitVec 3, ∃ l : Nat, l = a.toNat ∧ s.linkFitted l = true ∧ s.linksRun = true ∧ s.linkState l = 0 ∧ (s.link l).off = false) ∧
    (∃ s : State, ∃ a : BitVec 3, ∃ l : Nat, l = a.toNat ∧ s.linkFitted l = true ∧ ∃ roles : List Nat, ∃ j : Nat, ∃ r : Nat, ∃ k : Nat, (s.link l).roles = roles ∧ (List.findIdx? (fun x => x == 4) roles = some j) ∧ s.linkState l = 2 ∧ (s.link l).before = none ∧ k < 5 ∧ roles.length = 5 ∧ r = roles.getD k 6 ∧ r < 4 ∧ ∃ Moved : State → Prop, (Moved = fun s' => (s'.link l).roles = (roles.set j r).set k 5 ∧ (s'.link l).before = some roles ∧ s'.reg Reg.sknRecalCnt l = (s.reg Reg.sknRecalCnt l + 1) % 2 ^ 32 ∧ s'.linkState l = 2) ∧ (s.link l).swapAt = none ∧ s.overRetries l = true ∧ s.worstLane l = k) ∧
    (∃ s : State, ∃ a : BitVec 3, ∃ l : Nat, l = a.toNat ∧ s.linkFitted l = true ∧ ∃ t : DWord, (s.link l).swapAt = some t ∧ s.now ≤ BitVec.toNat t + 60000000000 ∧ s.linkState l = 2 ∧ s.overRetries l = true) :=
  ⟨⟨(((ln 0).setFld Reg.cfgStatus 0 4 4 1).setFld Reg.pwrState 0 2 0 3), 2, 2, (by decide +kernel), (by decide +kernel), (by decide +kernel), (by decide +kernel), (by decide +kernel)⟩,
   ⟨(lnr 2), 2, 2, (by decide +kernel), (by decide +kernel), ([0,1,2,3,4]), 4, 0, 0, (by decide +kernel), (by decide +kernel), (by decide +kernel), (by decide +kernel), (by decide +kernel), (by decide +kernel), (by decide +kernel), (by decide +kernel), _, rfl, (by decide +kernel), (by decide +kernel), (by decide +kernel)⟩,
   ⟨(lnr 2 (fun l => {l with swapAt := some 40000000000, retry := [(1,2,[])] })), 2, 2, (by decide +kernel), (by decide +kernel), 40000000000, (by decide +kernel), (by decide +kernel), (by decide +kernel), (by decide +kernel)⟩⟩

end T20

namespace T21
def ln (st : Nat) (f : LinkSt → LinkSt := id) : State :=
  let s := { State.reset with ctxs := [(1, { (default : Ctx) with bound := true, qp := 1, sel := [(7, 2), (2, 0)] })] }
  let s := { s with net := { NetSt.init with links := [(2, f LinkSt.init)] }, time := { s.time with cnt := 100000000000 } }
  let s := s.setFld Reg.sknState 2 2 0 st
  let s := ((s.setReg Reg.cfgFprintLo 0 0x1234).setReg (Reg.cfgFprintLo+4) 0 0x55).setFld Reg.cfgDevice 0 15 0 9
  { s with spindles := [(0, { Spindle.init with part := some 1 })] }
def lc (st : Nat) (f : LinkSt → LinkSt := id) : State := ((ln st f).setReg Reg.sknPathPeer 0 0x50007)
def pth (job dev port : Nat) (s : State) : State := ((s.setFld Reg.sknState 2 20 20 1).setReg Reg.sknPath 2 (job + 65536*dev)).setReg Reg.sknPathPort 2 port
def cm (lock fb : Nat) (qs : SMap Qp) : State := let s := ((lc 2).setFld Reg.cfgStatus 0 4 4 lock).setFld Reg.cfgStatus 0 5 5 fb
  { (s.setReg Reg.cfgHost 0 0x0A000001) with qps := qs }
def q2 (st : Nat) (f : Qp → Qp := id) : Qp := f { Qp.init with st := st, lqpn := 5, rqpn := 7, ip := [1,0,0,0], device := 3, port := 1 }

theorem witness_LinkCommands_1 :
    (∃ s : State, ∃ c : BitVec 3, ∃ l : BitVec 3, ∃ job : BitVec 16, ∃ dev : Nat, ∃ port : Nat, CanWrite s c.toNat Reg.sknPathCmd 0 ∧ dev = s.fld Reg.sknPathPeer 0 15 0 ∧ port = s.fld Reg.sknPathPeer 0 18 16 ∧ ∃ r : Nat, (r = if s.fld Reg.sknMode 0 0 0 = 1 then 6 else if s.linkFitted l.toNat = false then 5 else if s.fld Reg.sknState l.toNat 20 20 = 1 ∧ s.fld Reg.sknPath l.toNat 15 0 ≠ job.toNat then 2 else if s.fld Reg.sknState l.toNat 20 20 = 1 ∧ (s.fld Reg.sknPath l.toNat 31 16 ≠ dev ∨ s.fld Reg.sknPathPort l.toNat 2 0 ≠ port) then 3 else 1)) ∧
    (∃ s : State, ∃ c : BitVec 3, ∃ l : BitVec 3, ∃ job : BitVec 16, ∃ dev : Nat, ∃ port : Nat, CanWrite s c.toNat Reg.sknPathCmd 0 ∧ dev = s.fld Reg.sknPathPeer 0 15 0 ∧ port = s.fld Reg.sknPathPeer 0 18 16 ∧ s.linkFitted l.toNat = true ∧ s.linkInUse l.toNat = false) ∧
    (∃ s : State, ∃ c : BitVec 3, ∃ l : Nat, CanWrite s c.toNat Reg.sknCmd l ∧ l < 8 ∧ s.linkState l = 3) ∧
    (∃ s : State, ∃ c : BitVec 3, ∃ l : Nat, CanWrite s c.toNat Reg.sknCmd l ∧ l < 8) ∧
    (∃ s : State, ∃ c : BitVec 3, ∃ l : Nat, CanWrite s c.toNat Reg.sknCmd l ∧ l < 8 ∧ s.linkState l = 4) ∧
    (∃ s : State, ∃ c : BitVec 3, ∃ n : Nat, ∃ l : Nat, ∃ k : Nat, ∃ j : Nat, ∃ r : Nat, CanWrite s c.toNat Reg.sknLaneCmd n ∧ l = n % 16 ∧ k = n / 16 ∧ s.linkState l = 2 ∧ (s.link l).before = none ∧ (List.findIdx? (fun x => x == 4) (s.link l).roles = some j) ∧ (s.link l).roles.getD k 6 = r ∧ r < 4 ∧ l < 8 ∧ k < 5) :=
  ⟨⟨(lc 2), 1, 2, 5, _, _, (canWrite_of (by decide +kernel)), rfl, rfl, _, rfl⟩,
   ⟨(lc 2), 1, 2, 5, _, _, (canWrite_of (by decide +kernel)), rfl, rfl, (by decide +kernel), (by decide +kernel)⟩,
   ⟨(lc 3), 1, 2, (canWrite_of (by decide +kernel)), (by decide +kernel), (by decide +kernel)⟩,
   ⟨(lc 3), 1, 2, (canWrite_of (by decide +kernel)), (by decide +kernel)⟩,
   ⟨(lc 4), 1, 2, (canWrite_of (by decide +kernel)), (by decide +kernel), (by decide +kernel)⟩,
   ⟨(lc 2), 1, 2, 2, 0, 4, 0, (canWrite_of (by decide +kernel)), (by decide +kernel), (by decide +kernel), (by decide +kernel), (by decide +kernel), (by decide +kernel), (by decide +kernel), (by decide +kernel), (by decide +kernel), (by decide +kernel)⟩⟩

theorem witness_LinkCommands_2 :
    (∃ s : State, ∃ c : BitVec 3, ∃ p : BitVec 4, ∃ d : BitVec 5, ∃ v : Word, ∃ l : Nat, ∃ a : Nat, a = 16 * (32 * p.toNat + d.toNat) ∧ CanWrite s c.toNat (Reg.sknRdescDst + a) l ∧ l < 8 ∧ bits (BitVec.toNat v) 31 31 = 1 ∧ s.net.waiting = [] ∧ s.fld Reg.sknMode 0 0 0 = 0 ∧ s.fld Reg.sknState l 20 20 = 1 ∧ s.fld Reg.sknPath l 15 0 = s.fld (Reg.sknRdescJob + a) l 15 0 ∧ s.fld Reg.sknPath l 31 16 = bits (BitVec.toNat v) 15 0) ∧
    (∃ s : State, ∃ c : BitVec 3, ∃ p : BitVec 4, ∃ d : BitVec 5, ∃ v : Word, ∃ l : Nat, ∃ a : Nat, a = 16 * (32 * p.toNat + d.toNat) ∧ CanWrite s c.toNat (Reg.sknRdescDst + a) l ∧ l < 8 ∧ bits (BitVec.toNat v) 31 31 = 1 ∧ s.net.waiting = [] ∧ s.fld Reg.sknMode 0 0 0 = 0 ∧ s.fld (Reg.sknRdescDst + a) l 31 31 = 0 ∧ (s.fld Reg.sknState l 20 20 = 0 ∨ s.fld Reg.sknPath l 15 0 ≠ s.fld (Reg.sknRdescJob + a) l 15 0 ∨ s.fld Reg.sknPath l 31 16 ≠ bits (BitVec.toNat v) 15 0)) :=
  ⟨⟨(pth 5 7 5 ((lc 2).setReg (Reg.sknRdescJob + 16*33) 2 0xC00005)), 1, 1, 1, 0x85630007, 2, 528, (by decide +kernel), (canWrite_of (by decide +kernel)), (by decide +kernel), (by decide +kernel), (by decide +kernel), (by decide +kernel), (by decide +kernel), (by decide +kernel), (by decide +kernel)⟩,
   ⟨(((lc 2).setReg (Reg.sknRdescJob + 16*33) 2 0xC00006)), 1, 1, 1, 0x85630007, 2, 528, (by decide +kernel), (canWrite_of (by decide +kernel)), (by decide +kernel), (by decide +kernel), (by decide +kernel), (by decide +kernel), (by decide +kernel), (by decide +kernel)⟩⟩

theorem witness_ConnectionsAndQueuePairs_1 :
    (∃ s : State, ∃ port : BitVec 2, ∃ id : DWord, ∃ src : List Word, ∃ mtu : Nat, ∃ rqpn : BitVec 24, ∃ svc : Nat, svc = serviceOf id ∧ (s.answersCm = false ∨ s.portServes port.toNat = false)) ∧
    (∃ s : State, ∃ c : BitVec 3, ∃ v : Word, ∃ k : Nat, ∃ ip : List Word, CanWrite s c.toNat Reg.ethPeerCmd 0 ∧ k = bits (BitVec.toNat v) 8 0 ∧ 262 ≤ k ∧ k < 326 ∧ (s.qp k).st = 0 ∧ BitVec.toNat v = k + bits (BitVec.toNat v) 13 12 * 2 ^ 12 + bits (BitVec.toNat v) 31 16 * 2 ^ 16 ∧ (ip = List.map (fun n => BitVec.ofNat 32 (s.reg (Reg.ethPeerIp + 4 * n))) (List.range 4))) ∧
    (∃ s : State, ∃ slot : BitVec 9, ∃ k : Nat, k = slot.toNat ∧ k < 326 ∧ (s.qp k).st = 1 ∧ ∃ r : BitVec 24, s.net.waiting = []) ∧
    (∃ s : State, ∃ slot : BitVec 9, ∃ k : Nat, k = slot.toNat ∧ k < 326 ∧ (s.qp k).st = 1 ∧ ∃ r : BitVec 24, True) ∧
    (∃ s : State, ∃ slot : BitVec 9, ∃ k : Nat, k = slot.toNat ∧ k < 326 ∧ (s.qp k).st ≠ 0 ∧ ∃ Freed : State → Prop, (Freed = fun s' =>
  s'.qp k = Qp.init ∧
    (∀ (q : Nat), q ≠ k → s'.qp q = s.qp q) ∧
      s'.reg Reg.ethQpState k = 0 ∧
        s'.reg Reg.ethQpRate k = 200000 ∧
          (k < 6 →
            s'.ctx k =
              have __src := Ctx.init;
              { bound := __src.bound, qp := __src.qp, sel := __src.sel, latch := __src.latch, stage := __src.stage, sample := (s.ctx k).sample, seen := (s.ctx k).seen, read := (s.ctx k).read, err := __src.err }))) ∧
    (∃ s : State, ∃ slot : BitVec 9, ∃ k : Nat, k = slot.toNat ∧ k < 326 ∧ (s.qp k).st ≠ 1 ∧ ∃ a : Bool, ∃ r : BitVec 24, True) :=
  ⟨⟨(cm 0 0 []), 1, 0x4C4D0001, ([1,0,0,0]), 4096, 0xABCDEF, _, rfl, (by decide +kernel)⟩,
   ⟨((cm 1 0 []).setReg Reg.ethPeerIp 0 0x55), 1, 0x00072106, 262, _, (canWrite_of (by decide +kernel)), (by decide +kernel), (by decide +kernel), (by decide +kernel), (by decide +kernel), (by decide +kernel), rfl⟩,
   ⟨(cm 1 0 [(262, q2 1)]), 262, 262, (by decide +kernel), (by decide +kernel), (by decide +kernel), 9, (by decide +kernel)⟩,
   ⟨(cm 1 0 [(262, q2 1)]), 262, 262, (by decide +kernel), (by decide +kernel), (by decide +kernel), 9, trivial⟩,
   ⟨(cm 1 0 [(1, q2 2)]), 1, 1, (by decide +kernel), (by decide +kernel), (by decide +kernel), _, rfl⟩,
   ⟨(cm 1 0 [(1, q2 2)]), 1, 1, (by decide +kernel), (by decide +kernel), (by decide +kernel), false, 9, trivial⟩⟩

end T21

namespace T21b
def ln (st : Nat) (f : LinkSt → LinkSt := id) : State :=
  let s := { State.reset with ctxs := [(1, { (default : Ctx) with bound := true, qp := 1, sel := [(7, 2), (2, 0)] })] }
  let s := { s with net := { NetSt.init with links := [(2, f LinkSt.init)] }, time := { s.time with cnt := 100000000000 } }
  let s := s.setFld Reg.sknState 2 2 0 st
  let s := ((s.setReg Reg.cfgFprintLo 0 0x1234).setReg (Reg.cfgFprintLo+4) 0 0x55).setFld Reg.cfgDevice 0 15 0 9
  { s with spindles := [(0, { Spindle.init with part := some 1 })] }
def lc (st : Nat) (f : LinkSt → LinkSt := id) : State := ((ln st f).setReg Reg.sknPathPeer 0 0x50007)
def pth (job dev port : Nat) (s : State) : State := ((s.setFld Reg.sknState 2 20 20 1).setReg Reg.sknPath 2 (job + 65536*dev)).setReg Reg.sknPathPort 2 port
def cm (lock fb : Nat) (qs : SMap Qp) : State := let s := ((lc 2).setFld Reg.cfgStatus 0 4 4 lock).setFld Reg.cfgStatus 0 5 5 fb
  { (s.setReg Reg.cfgHost 0 0x0A000001) with qps := qs }
def q2 (st : Nat) (f : Qp → Qp := id) : Qp := f { Qp.init with st := st, lqpn := 5, rqpn := 7, ip := [1,0,0,0], device := 3, port := 1 }
def cg (f : Qp → Qp := id) : State := cm 1 0 [(100, q2 2 f)]
def qos (v : Nat) : State := (cm 1 0 [(100, q2 2)]).setReg Reg.ethQos 0 v
def prt (up : Nat) : State := (((cm 1 0 []).setReg Reg.ethPortState 1 up).setReg Reg.ethIpv4 1 0x0A000002).setReg (Reg.ethIpv6+8) 1 0x77

theorem witness_LinkCommands_3 :
    ∃ s : State, ∃ c : BitVec 3, ∃ l : BitVec 3, ∃ job : BitVec 16, ∃ dev : Nat, ∃ port : Nat, CanWrite s c.toNat Reg.sknPathCmd 0 ∧ dev = s.fld Reg.sknPathPeer 0 15 0 ∧ port = s.fld Reg.sknPathPeer 0 18 16 ∧ s.linkFitted l.toNat = true ∧ s.linkInUse l.toNat = true :=
  ⟨({ (pth 5 7 5 (lc 2)).setFld (Reg.sknRdescDst + 16*33) 2 31 31 1 with parts := [(1, { PartSt.init with prog := some (prog0 [0]), inStep := true })] }), 1, 2, 5, _, _, (canWrite_of (by decide +kernel)), rfl, rfl, (by decide +kernel), (by decide +kernel)⟩

theorem witness_ConnectionsAndQueuePairs_2 :
    (∃ s : State, ∃ port : BitVec 2, ∃ id : DWord, ∃ src : List Word, ∃ mtu : Nat, ∃ rqpn : BitVec 24, ∃ svc : Nat, svc = serviceOf id ∧ s.answersCm = true ∧ s.portServes port.toNat = true ∧ ∃ k : Nat, svc ≠ 0 ∧ (svc = 1 ∨ s.inFallback = false) ∧ (svc = 2 → s.fld Reg.cfgLc 0 2 0 ≠ 0) ∧ s.freeSlot svc = some k ∧ s.listed svc src = true ∧ mtu = 4096) ∧
    (∃ s : State, ∃ port : BitVec 2, ∃ id : DWord, ∃ src : List Word, ∃ mtu : Nat, ∃ rqpn : BitVec 24, ∃ svc : Nat, svc = serviceOf id ∧ s.answersCm = true ∧ s.portServes port.toNat = true ∧ ∃ r : Nat, (r = if svc = 0 ∨ svc ≠ 1 ∧ s.inFallback = true ∨ svc = 2 ∧ s.fld Reg.cfgLc 0 2 0 = 0 then 3 else if s.freeSlot svc = none then 1 else if s.listed svc src = false then 2 else if mtu ≠ 4096 then 4 else 0) ∧ r ≠ 0) :=
  ⟨⟨(((cm 1 0 []).setFld Reg.ethPortState 1 0 0 1).setReg Reg.ethIpv4 1 7), 1, 0x4C4D0001, ([0x0A000001,0,0,0]), 4096, 0xABCDEF, 1, (by decide +kernel), (by decide +kernel), (by decide +kernel), 0, (by decide +kernel), (by decide +kernel), (by decide +kernel), (by decide +kernel), (by decide +kernel), (by decide +kernel)⟩,
   ⟨(((cm 1 0 []).setFld Reg.ethPortState 1 0 0 1).setReg Reg.ethIpv4 1 7), 1, 0x4C4D0001, ([0x0A000001,0,0,0]), 1024, 0xABCDEF, 1, (by decide +kernel), (by decide +kernel), (by decide +kernel), 4, (by decide +kernel), (by decide +kernel)⟩⟩

theorem witness_CongestionAndPorts_1 :
    (∃ s : State, ∃ slot : BitVec 9, ∃ k : Nat, ∃ port : Nat, k = slot.toNat ∧ k < 326 ∧ (s.qp k).st ≠ 0 ∧ port = (s.qp k).port ∧ s.since (s.qp k).cnp (s.fld Reg.ethCcCfg 0 23 16) = true) ∧
    (∃ s : State, ∃ slot : BitVec 9, ∃ k : Nat, ∃ port : Nat, k = slot.toNat ∧ k < 326 ∧ (s.qp k).st ≠ 0 ∧ port = (s.qp k).port ∧ s.since (s.qp k).cut (s.fld Reg.ethCcCfg 0 23 16) = true ∧ s.fld Reg.ethCcCfg 0 2 0 ≤ 8 ∧ s.fld Reg.ethQpRate k 17 0 ≤ 200000) ∧
    (∃ s : State, ∃ slot : BitVec 9, ∃ k : Nat, ∃ port : Nat, k = slot.toNat ∧ k < 326 ∧ (s.qp k).st ≠ 0 ∧ port = (s.qp k).port ∧ s.since (s.qp k).raise (s.fld Reg.ethCcCfg 0 31 24) = true) ∧
    (∃ s : State, ∃ slot : BitVec 9, ∃ k : Nat, ∃ port : Nat, k = slot.toNat ∧ k < 326 ∧ (s.qp k).st ≠ 0 ∧ port = (s.qp k).port ∧ s.since (s.qp k).cnp (s.fld Reg.ethCcCfg 0 23 16) = false) ∧
    (∃ s : State, ∃ slot : BitVec 9, ∃ k : Nat, ∃ port : Nat, k = slot.toNat ∧ k < 326 ∧ (s.qp k).st ≠ 0 ∧ port = (s.qp k).port ∧ s.since (s.qp k).cut (s.fld Reg.ethCcCfg 0 23 16) = false) ∧
    (∃ s : State, ∃ p : BitVec 2, ∃ above : Bool, s.fld Reg.ethQos 0 16 16 = 1 ∧ s.net.pausing.contains p.toNat ≠ above) :=
  ⟨⟨cg, 100, 100, _, (by decide +kernel), (by decide +kernel), (by decide +kernel), rfl, (by decide +kernel)⟩,
   ⟨cg, 100, 100, _, (by decide +kernel), (by decide +kernel), (by decide +kernel), rfl, (by decide +kernel), (by decide +kernel), (by decide +kernel)⟩,
   ⟨cg, 100, 100, _, (by decide +kernel), (by decide +kernel), (by decide +kernel), rfl, (by decide +kernel)⟩,
   ⟨(cg (fun q => { q with cnp := some 99999999999, cut := some 99999999999 })), 100, 100, _, (by decide +kernel), (by decide +kernel), (by decide +kernel), rfl, (by decide +kernel)⟩,
   ⟨(cg (fun q => { q with cnp := some 99999999999, cut := some 99999999999 })), 100, 100, _, (by decide +kernel), (by decide +kernel), (by decide +kernel), rfl, (by decide +kernel)⟩,
   ⟨(qos 0x310000), 1, true, (by decide +kernel), (by decide +kernel)⟩⟩

theorem witness_CongestionAndPorts_2 :
    (∃ s : State, ∃ p : BitVec 2, ∃ pmd : BitVec 2, ∃ w : Nat, s.portUp p.toNat = false ∧ pmd ≠ 0 ∧ w ≤ 12 ∧ s.portsRun = true ∧ s.inFallback = false ∧ s.fld Reg.pwrState 0 2 0 ≠ 1) ∧
    (∃ s : State, ∃ p : BitVec 2, s.portUp p.toNat = false) ∧
    (∃ s : State, ∃ p : BitVec 2, ∃ above : Bool, (s.fld Reg.ethQos 0 16 16 = 0 ∨ s.net.pausing.contains p.toNat = above)) ∧
    (∃ s : State, ∃ p : BitVec 2, ∃ pmd : BitVec 2, ∃ w : Nat, s.portUp p.toNat = false ∧ (12 < w ∨ s.portsRun = false)) ∧
    (∃ s : State, ∃ p : BitVec 2, s.portUp p.toNat = true) ∧
    (∃ s : State, ∃ p : BitVec 2, ∃ pmd : BitVec 2, ∃ w : Nat, s.portUp p.toNat = false ∧ s.inFallback = true ∧ p ≠ 0) :=
  ⟨⟨(prt 0), 1, 1, 0, (by decide +kernel), (by decide +kernel), (by decide +kernel), (by decide +kernel), (by decide +kernel), (by decide +kernel)⟩,
   ⟨(prt 0), 1, (by decide +kernel)⟩,
   ⟨(prt 1), 1, false, (by decide +kernel)⟩,
   ⟨(prt 0), 1, 0, 15, (by decide +kernel), (by decide +kernel)⟩,
   ⟨(prt 1), 1, (by decide +kernel)⟩,
   ⟨((prt 0).setFld Reg.cfgStatus 0 5 5 1), 1, 1, 0, (by decide +kernel), (by decide +kernel), (by decide +kernel)⟩⟩

theorem witness_CongestionAndPorts_3 :
    ∃ s : State, ∃ slot : BitVec 9, ∃ k : Nat, ∃ port : Nat, k = slot.toNat ∧ k < 326 ∧ (s.qp k).st ≠ 0 ∧ port = (s.qp k).port ∧ s.since (s.qp k).raise (s.fld Reg.ethCcCfg 0 31 24) = false :=
  ⟨(cg (fun q => { q with raise := some 99999999999 })), 100, 100, _, (by decide +kernel), (by decide +kernel), (by decide +kernel), rfl, (by decide +kernel)⟩

end T21b

namespace T22
def rs (m : Bytes) (ss : List Session := []) : State := sv ss id (fun v => { v with reqs := [⟨10, m⟩], ringFree := 8000 })

theorem witness_RequestsActAtTheTick_1 :
    (∃ s : State, ∃ slot : BitVec 9, ∃ m : Bytes, ∃ cmd : Instr, 6 ≤ slot.toNat ∧ slot.toNat < 262 ∧ (s.qp slot.toNat).st = 2 ∧ cmd ∈ [Instr.openReq slot m, Instr.appendReq slot m, Instr.draftReq slot m, Instr.closeReq slot m, Instr.ringCredit slot m] ∧ ((List.map (fun e => e.snd.reqs.length) s.serve.parts).sum < 1024) ∧ reqPart m < 16) ∧
    (∃ s : State, ∃ slot : BitVec 9, ∃ m : Bytes, ∃ cmd : Instr, 6 ≤ slot.toNat ∧ slot.toNat < 262 ∧ (s.qp slot.toNat).st = 2 ∧ cmd ∈ [Instr.openReq slot m, Instr.appendReq slot m, Instr.draftReq slot m, Instr.closeReq slot m, Instr.ringCredit slot m] ∧ (1024 ≤ (List.map (fun e => e.snd.reqs.length) s.serve.parts).sum)) ∧
    (∃ s : State, ∃ b : BitVec 4, ∃ p : Nat, ∃ k : Nat, ∃ m : Bytes, p = b.toNat ∧ s.tickable p = true ∧ (s.servPart p).reqs = [{ slot := k, msg := m }] ∧ reqPart m = p ∧ reqOp m = 5 ∧ s.badRequest m = false ∧ s.serve.sessions = []) ∧
    (∃ s : State, ∃ b : BitVec 4, ∃ p : Nat, ∃ k : Nat, ∃ m : Bytes, p = b.toNat ∧ s.tickable p = true ∧ (s.servPart p).reqs = [{ slot := k, msg := m }] ∧ reqPart m = p ∧ ∃ x : Session, s.serve.sessions = [x] ∧ x.part = p ∧ x.id = reqSession m ∧ x.ending = none ∧ x.adapter = none ∧ x.st ∈ [SessSt.feed, SessSt.gen, SessSt.hold] ∧ s.badRequest m = false ∧ reqOp m = 4) ∧
    (∃ s : State, ∃ b : BitVec 4, ∃ p : Nat, ∃ k : Nat, ∃ m : Bytes, p = b.toNat ∧ s.tickable p = true ∧ (s.servPart p).reqs = [{ slot := k, msg := m }] ∧ reqPart m = p ∧ ∃ x : Session, s.serve.sessions = [x] ∧ x.part = p ∧ x.id = reqSession m ∧ x.ending = none ∧ x.adapter = none ∧ x.st ∈ [SessSt.feed, SessSt.gen, SessSt.hold] ∧ s.badRequest m = false ∧ reqOp m = 3 ∧ x.drafts = none ∧ leNat m 52 4 ≠ x.clen + 1) ∧
    (∃ s : State, ∃ b : BitVec 4, ∃ p : Nat, ∃ k : Nat, ∃ m : Bytes, p = b.toNat ∧ s.tickable p = true ∧ (s.servPart p).reqs = [{ slot := k, msg := m }] ∧ reqPart m = p ∧ ∃ x : Session, s.serve.sessions = [x] ∧ x.part = p ∧ x.id = reqSession m ∧ x.ending = none ∧ x.adapter = none ∧ x.st ∈ [SessSt.feed, SessSt.gen, SessSt.hold] ∧ s.badRequest m = false ∧ reqOp m = 2 ∧ s.inputUse + reqNtok m ≤ s.inputPool ∧ x.st = SessSt.gen ∧ reqFlag m 5 = false ∧ x.drafts = none) :=
  ⟨⟨sv, 10, ((rq 1 0 [])), (.openReq 10 (rq 1 0 [])), (by decide +kernel), (by decide +kernel), (by decide +kernel), (by decide +kernel), (by decide +kernel), (by decide +kernel)⟩,
   ⟨(sv [] id (fun v => { v with reqs := List.replicate 1024 ⟨10, []⟩ })), 10, (rq 4 0 []), (.closeReq 10 (rq 4 0 [])), (by decide +kernel), (by decide +kernel), (by decide +kernel), (by decide +kernel), (by decide +kernel)⟩,
   ⟨(rs (rq 5 0 [] 0 0 0xA1 64) []), 0, 0, 10, (rq 5 0 [] 0 0 0xA1 64), (by decide +kernel), (by decide +kernel), (by decide +kernel), (by decide +kernel), (by decide +kernel), (by decide +kernel), (by decide +kernel)⟩,
   ⟨(rs (rq 4 0 []) [(ses fun x => { x with st := .gen, input := [] })]), 0, 0, 10, (rq 4 0 []), (by decide +kernel), (by decide +kernel), (by decide +kernel), (by decide +kernel), ((ses fun x => { x with st := .gen, input := [] })), rfl, (by decide +kernel), (by decide +kernel), (by decide +kernel), (by decide +kernel), (by decide +kernel), (by decide +kernel), (by decide +kernel)⟩,
   ⟨(rs (rq 3 0 [1,2] 0 7) [(ses fun x => { x with st := .gen, input := [] })]), 0, 0, 10, (rq 3 0 [1,2] 0 7), (by decide +kernel), (by decide +kernel), (by decide +kernel), (by decide +kernel), ((ses fun x => { x with st := .gen, input := [] })), rfl, (by decide +kernel), (by decide +kernel), (by decide +kernel), (by decide +kernel), (by decide +kernel), (by decide +kernel), (by decide +kernel), (by decide +kernel), (by decide +kernel)⟩,
   ⟨(rs (rq 2 0 [1,2]) [(ses fun x => { x with st := .gen, input := [] })]), 0, 0, 10, (rq 2 0 [1,2]), (by decide +kernel), (by decide +kernel), (by decide +kernel), (by decide +kernel), ((ses fun x => { x with st := .gen, input := [] })), rfl, (by decide +kernel), (by decide +kernel), (by decide +kernel), (by decide +kernel), (by decide +kernel), (by decide +kernel), (by decide +kernel), (by decide +kernel), (by decide +kernel), (by decide +kernel), (by decide +kernel)⟩⟩

theorem witness_RequestsActAtTheTick_2 :
    (∃ s : State, ∃ b : BitVec 4, ∃ p : Nat, ∃ k : Nat, ∃ m : Bytes, p = b.toNat ∧ s.tickable p = true ∧ (s.servPart p).reqs = [{ slot := k, msg := m }] ∧ reqPart m = p ∧ ∃ x : Session, s.serve.sessions = [x] ∧ x.part = p ∧ x.id = reqSession m ∧ x.ending = none ∧ x.adapter = none ∧ x.st ∈ [SessSt.feed, SessSt.gen, SessSt.hold] ∧ s.badRequest m = false ∧ reqOp m = 2 ∧ s.inputUse + reqNtok m ≤ s.inputPool ∧ x.st = SessSt.gen ∧ reqFlag m 5 = true) ∧
    (∃ s : State, ∃ b : BitVec 4, ∃ p : Nat, ∃ k : Nat, ∃ m : Bytes, p = b.toNat ∧ s.tickable p = true ∧ (s.servPart p).reqs = [{ slot := k, msg := m }] ∧ reqPart m = p ∧ ∃ x : Session, s.serve.sessions = [x] ∧ x.part = p ∧ x.id = reqSession m ∧ x.ending = none ∧ x.adapter = none ∧ x.st ∈ [SessSt.feed, SessSt.gen, SessSt.hold] ∧ s.badRequest m = false ∧ reqOp m = 2 ∧ s.inputUse + reqNtok m ≤ s.inputPool ∧ x.st = SessSt.hold) ∧
    (∃ s : State, ∃ b : BitVec 4, ∃ p : Nat, ∃ k : Nat, ∃ m : Bytes, p = b.toNat ∧ s.tickable p = true ∧ (s.servPart p).reqs = [{ slot := k, msg := m }] ∧ reqPart m = p ∧ ∃ x : Session, s.serve.sessions = [x] ∧ x.part = p ∧ x.id = reqSession m ∧ x.ending = none ∧ x.adapter = none ∧ x.st ∈ [SessSt.feed, SessSt.gen, SessSt.hold] ∧ s.badRequest m = false ∧ reqOp m = 2 ∧ s.inputPool < s.inputUse + reqNtok m ∧ x.drafts = none) ∧
    (∃ s : State, ∃ b : BitVec 4, ∃ p : Nat, ∃ k : Nat, ∃ m : Bytes, p = b.toNat ∧ s.tickable p = true ∧ (s.servPart p).reqs = [{ slot := k, msg := m }] ∧ reqPart m = p ∧ s.serve.sessions = [] ∧ reqOp m ∈ [2, 3, 4] ∧ s.badRequest m = false) ∧
    (∃ s : State, ∃ b : BitVec 4, ∃ p : Nat, ∃ k : Nat, ∃ m : Bytes, p = b.toNat ∧ s.tickable p = true ∧ (s.servPart p).reqs = [{ slot := k, msg := m }] ∧ reqPart m = p ∧ s.serve.sessions = [] ∧ reqOp m = 1 ∧ s.openStatus m = 0) ∧
    (∃ s : State, ∃ b : BitVec 4, ∃ p : Nat, ∃ k : Nat, ∃ m : Bytes, p = b.toNat ∧ s.tickable p = true ∧ (s.servPart p).reqs = [{ slot := k, msg := m }] ∧ reqPart m = p ∧ s.serve.sessions = [] ∧ reqOp m = 1 ∧ s.openStatus m ≠ 0) :=
  ⟨⟨(rs (rq 2 32 [1,2]) [(ses fun x => { x with st := .gen, input := [] })]), 0, 0, 10, (rq 2 32 [1,2]), (by decide +kernel), (by decide +kernel), (by decide +kernel), (by decide +kernel), ((ses fun x => { x with st := .gen, input := [] })), rfl, (by decide +kernel), (by decide +kernel), (by decide +kernel), (by decide +kernel), (by decide +kernel), (by decide +kernel), (by decide +kernel), (by decide +kernel), (by decide +kernel), (by decide +kernel)⟩,
   ⟨(rs (rq 2 0 [1,2]) [(ses fun x => { x with st := .hold, input := [] })]), 0, 0, 10, (rq 2 0 [1,2]), (by decide +kernel), (by decide +kernel), (by decide +kernel), (by decide +kernel), ((ses fun x => { x with st := .hold, input := [] })), rfl, (by decide +kernel), (by decide +kernel), (by decide +kernel), (by decide +kernel), (by decide +kernel), (by decide +kernel), (by decide +kernel), (by decide +kernel), (by decide +kernel)⟩,
   ⟨(rs (rq 2 0 [1,2]) [(ses fun x => { x with st := .gen, append := List.replicate 1048575 0 })]), 0, 0, 10, (rq 2 0 [1,2]), (by decide +kernel), (by decide +kernel), (by decide +kernel), (by decide +kernel), ((ses fun x => { x with st := .gen, append := List.replicate 1048575 0 })), rfl, (by decide +kernel), (by decide +kernel), (by decide +kernel), (by decide +kernel), (by decide +kernel), (by decide +kernel), (by decide +kernel), (pool_of rfl rfl (by decide +kernel)), (by decide +kernel)⟩,
   ⟨(rs (rq 4 0 []) []), 0, 0, 10, (rq 4 0 []), (by decide +kernel), (by decide +kernel), (by decide +kernel), (by decide +kernel), (by decide +kernel), (by decide +kernel), (by decide +kernel)⟩,
   ⟨(rs (rq 1 0 [1,2]) []), 0, 0, 10, (rq 1 0 [1,2]), (by decide +kernel), (by decide +kernel), (by decide +kernel), (by decide +kernel), (by decide +kernel), (by decide +kernel), (by decide +kernel)⟩,
   ⟨(rs (rq 1 0 [1,2] 1) []), 0, 0, 10, (rq 1 0 [1,2] 1), (by decide +kernel), (by decide +kernel), (by decide +kernel), (by decide +kernel), (by decide +kernel), (by decide +kernel), (by decide +kernel)⟩⟩

end T22

namespace T23
def rs (m : Bytes) (ss : List Session := []) : State := sv ss id (fun v => { v with reqs := [⟨10, m⟩], ringFree := 8000 })
def nr (s : State) : State := { s with wgt := { s.wgt with models := [(2, { ModelSt.init with id := 0x77, st := 1, epoch := 3 })] } }
def pend (lookup reserved : Bool) (flags : Nat) (n : Nat) (f : Session → Session := id) : Session := f (ses fun x => { x with st := .pending, lookup := lookup, reserved := reserved, flags := flags, clen := 0, toks := [], blocks := [], input := (List.range n).map (BitVec.ofNat 32), ctxMax := 40 })
def rcd (fl : Nat) : Bytes := natLe 0 1 ++ natLe fl 1 ++ natLe 0 2 ++ natLe 0x99 4 ++ List.replicate 56 0
def mile (ss : List Session) (r : List ResRec) : State := let s := sv ss (fun q => { q with inStep := true, begun := 3, step := 0x123456789 }) (fun v => { v with batch := [⟨0xA1, 5, 1, false, none, [0x51]⟩], records := r })
  { s with spindles := s.spindles.map fun e => (e.1, { e.2 with sync := ⟨false, true, 0⟩, hold := [] }) }
def ocp : Session := ses fun x => { x with openPages := [(5, some 1), (6, none)], slice := false, blocks := [0, 1], clen := 20, ctxMax := 64 }
def cpy : State := let s := sv [ocp] id (fun v => { v with copies := [(0xA1, 1)] })
  (((List.range 2112).foldl (fun s i => { s with slices := SMap.set 0 s.slices (64*(10+5*33) + i) (BitVec.ofNat 8 (i*7+3)) }) s))

theorem witness_RequestsActAtTheTick_3 :
    ∃ s : State, ∃ b : BitVec 4, ∃ p : Nat, ∃ k : Nat, ∃ m : Bytes, p = b.toNat ∧ s.tickable p = true ∧ (s.servPart p).reqs = [{ slot := k, msg := m }] ∧ reqPart m = p ∧ ∃ x : Session, s.serve.sessions = [x] ∧ x.part = p ∧ x.id = reqSession m ∧ x.ending = none ∧ x.adapter = none ∧ x.st ∈ [SessSt.feed, SessSt.gen, SessSt.hold] ∧ s.badRequest m = false ∧ reqOp m = 3 ∧ x.st = SessSt.gen ∧ s.mayStart p = false ∧ leNat m 52 4 = x.clen + 1 :=
  ⟨(nr (rs (rq 3 0 [1,2] 0 6) [ses])), 0, 0, 10, (rq 3 0 [1,2] 0 6), (by decide +kernel), (by decide +kernel), (by decide +kernel), (by decide +kernel), ses, rfl, (by decide +kernel), (by decide +kernel), (by decide +kernel), (by decide +kernel), (by decide +kernel), (by decide +kernel), (by decide +kernel), (by decide +kernel), (by decide +kernel), (by decide +kernel)⟩

theorem witness_SessionsAreAdmittedOrTimeOut_1 :
    (∃ s : State, ∃ id : Word, ∃ x : Session, s.session id = some x ∧ x.st = SessSt.pending ∧ x.lookup = true ∧ x.reserved = false ∧ x.input.length ≤ x.ctxMax) ∧
    (∃ s : State, ∃ id : Word, ∃ x : Session, s.session id = some x ∧ x.st = SessSt.pending ∧ s.tickable x.part = true) ∧
    (∃ s : State, ∃ id : Word, ∃ x : Session, s.session id = some x ∧ ∃ b : BitVec 4, (List.map Session.id s.serve.sessions).Nodup) ∧
    (∃ s : State, ∃ id : Word, ∃ x : Session, s.session id = some x ∧ x.st = SessSt.pending ∧ x.lookup = false ∧ s.tickable x.part = true ∧ s.modelReady x.part = true ∧ s.cfgSound x.part = true ∧ x.handle = none ∧ x.reserved = true) ∧
    (∃ s : State, ∃ id : Word, ∃ x : Session, s.session id = some x ∧ x.st = SessSt.pending ∧ x.lookup = false ∧ s.tickable x.part = true ∧ s.modelReady x.part = true ∧ s.cfgSound x.part = true ∧ x.handle = none ∧ x.reserved = false ∧ x.slice = true ∧ x.blocks.length ≤ ceilDiv x.ctxMax 16 ∧ ceilDiv x.ctxMax 16 - x.blocks.length ≤ (s.freePages x.part 0 (s.slicePages x.part)).length) ∧
    (∃ s : State, ∃ id : Word, ∃ x : Session, s.session id = some x ∧ x.st = SessSt.pending ∧ x.lookup = false ∧ s.tickable x.part = true ∧ s.modelReady x.part = true ∧ s.cfgSound x.part = true ∧ x.handle = none ∧ x.reserved = false ∧ x.slice = true ∧ x.blocks.length ≤ ceilDiv x.ctxMax 16 ∧ (s.freePages x.part 0 (s.slicePages x.part)).length < ceilDiv x.ctxMax 16 - x.blocks.length ∧ (s.servPart x.part).lru = []) :=
  ⟨⟨(sv [pend true false 0 0]), 0xA1, (pend true false 0 0), (by decide +kernel), (by decide +kernel), (by decide +kernel), (by decide +kernel), (by decide +kernel)⟩,
   ⟨(sv [pend true false 0 0]), 0xA1, (pend true false 0 0), (by decide +kernel), (by decide +kernel), (by decide +kernel)⟩,
   ⟨(sv [pend true false 0 0]), 0xA1, (pend true false 0 0), (by decide +kernel), 0, (by decide +kernel)⟩,
   ⟨(sv [pend false true 0 33]), 0xA1, (pend false true 0 33), (by decide +kernel), (by decide +kernel), (by decide +kernel), (by decide +kernel), (by decide +kernel), (by decide +kernel), (by decide +kernel), (by decide +kernel)⟩,
   ⟨(sv [pend false false 8 33]), 0xA1, (pend false false 8 33), (by decide +kernel), (by decide +kernel), (by decide +kernel), (by decide +kernel), (by decide +kernel), (by decide +kernel), (by decide +kernel), (by decide +kernel), (by decide +kernel), (by decide +kernel), (by decide +kernel)⟩,
   ⟨(sv [pend false false 0 33, ses (fun x => { x with id := 0xA2, blocks := [0,2,4,5,6,7]})]), 0xA1, (pend false false 0 33), (by decide +kernel), (by decide +kernel), (by decide +kernel), (by decide +kernel), (by decide +kernel), (by decide +kernel), (by decide +kernel), (by decide +kernel), (by decide +kernel), (by decide +kernel), (by decide +kernel), (by decide +kernel)⟩⟩

theorem witness_SessionsAreAdmittedOrTimeOut_2 :
    (∃ s : State, ∃ id : Word, ∃ x : Session, s.session id = some x ∧ x.st = SessSt.pending ∧ s.tickable x.part = false ∧ x.ending = none) ∧
    (∃ s : State, ∃ id : Word, ∃ x : Session, s.session id = some x ∧ x.st = SessSt.hold ∧ s.tickable x.part = true ∧ bits (s.liveReg x.part Reg.srvAdmitCfg) 31 16 ≠ 0) :=
  ⟨⟨(sv [pend false false 0 33] (fun q => { q with inStep := true })), 0xA1, (pend false false 0 33), (by decide +kernel), (by decide +kernel), (by decide +kernel), (by decide +kernel)⟩,
   ⟨(sv [ses fun x => { x with st := .hold }]), 0xA1, (ses fun x => { x with st := .hold }), (by decide +kernel), (by decide +kernel), (by decide +kernel), (by decide +kernel)⟩⟩

theorem witness_TicksBoundariesAndMilestones_1 :
    (∃ s : State, ∃ b : BitVec 4, ∃ p : Nat, p = b.toNat ∧ s.tickable p = true) ∧
    (∃ s : State, ∃ b : BitVec 4, ∃ p : Nat, p = b.toNat ∧ s.boundaryReady p = false) ∧
    (∃ s : State, ∃ b : BitVec 4, ∃ p : Nat, p = b.toNat ∧ s.mileReady p = false) ∧
    (∃ s : State, ∃ b : BitVec 4, ∃ p : Nat, p = b.toNat ∧ ∃ x : Session, s.mayStart p = true ∧ (s.servPart p).reqs = [] ∧ s.queueRoom p 1 = true ∧ s.serve.sessions = [x] ∧ x.part = p ∧ x.ending = none ∧ x.adapter = none ∧ x.clen < x.ctxMax ∧ ∃ at_ : Nat, ∃ ts : List Word, x.st = SessSt.gen ∧ x.drafts = some (at_, ts) ∧ ts.length < s.provMax p ∧ x.clen + ts.length < x.ctxMax) ∧
    (∃ s : State, ∃ b : BitVec 4, ∃ p : Nat, p = b.toNat ∧ ∃ x : Session, s.mayStart p = true ∧ (s.servPart p).reqs = [] ∧ s.queueRoom p 1 = true ∧ s.serve.sessions = [x] ∧ x.part = p ∧ x.ending = none ∧ x.adapter = none ∧ x.clen < x.ctxMax ∧ x.st = SessSt.feed ∧ x.input ≠ [] ∧ x.input.length ≤ s.provMax p ∧ x.clen + x.input.length ≤ x.ctxMax) ∧
    (∃ s : State, ∃ b : BitVec 4, ∃ p : Nat, p = b.toNat ∧ s.tickable p = false) :=
  ⟨⟨cpy, 0, 0, (by decide +kernel), (by decide +kernel)⟩,
   ⟨cpy, 0, 0, (by decide +kernel), (by decide +kernel)⟩,
   ⟨cpy, 0, 0, (by decide +kernel), (by decide +kernel)⟩,
   ⟨(sv [ses fun x => { x with drafts := some (6, [7,8,9]) }]), 0, 0, (by decide +kernel), (ses fun x => { x with drafts := some (6, [7,8,9]) }), (by decide +kernel), (by decide +kernel), (by decide +kernel), rfl, (by decide +kernel), (by decide +kernel), (by decide +kernel), (by decide +kernel), 6, ([7,8,9]), (by decide +kernel), (by decide +kernel), (by decide +kernel), (by decide +kernel)⟩,
   ⟨(sv [ses fun x => { x with st := .feed, input := [7,8,9,10] }]), 0, 0, (by decide +kernel), (ses fun x => { x with st := .feed, input := [7,8,9,10] }), (by decide +kernel), (by decide +kernel), (by decide +kernel), rfl, (by decide +kernel), (by decide +kernel), (by decide +kernel), (by decide +kernel), (by decide +kernel), (by decide +kernel), (by decide +kernel), (by decide +kernel)⟩,
   ⟨(mile [ses] [⟨0, false, rcd 0⟩]), 0, 0, (by decide +kernel), (by decide +kernel)⟩⟩

theorem witness_TicksBoundariesAndMilestones_2 :
    (∃ s : State, ∃ b : BitVec 4, ∃ p : Nat, p = b.toNat ∧ s.boundaryReady p = true) ∧
    (∃ s : State, ∃ b : BitVec 4, ∃ p : Nat, p = b.toNat ∧ s.mileReady p = true ∧ (s.part p).step < 2 ^ 64) ∧
    (∃ s : State, ∃ b : BitVec 4, ∃ p : Nat, p = b.toNat ∧ ∃ id : Word, ∃ k : Nat, ∃ x : Session, s.session id = some x ∧ x.part = p ∧ (s.servPart p).copies = [(id, k)]) :=
  ⟨⟨(sv [ses] (fun q => { q with published := true }) (fun v => { v with next := [⟨0xA1, 5, 1, false, none, [0x51]⟩] })), 0, 0, (by decide +kernel), (by decide +kernel)⟩,
   ⟨(mile [ses] [⟨0, false, rcd 0⟩]), 0, 0, (by decide +kernel), (by decide +kernel), (by decide +kernel)⟩,
   ⟨cpy, 0, 0, (by decide +kernel), 0xA1, 1, ocp, (by decide +kernel), (by decide +kernel), (by decide +kernel)⟩⟩

end T23

namespace T24
def W (l : List DWord) : List (DWord × Byte) := l.map fun w => (w, hamCheck w)
def bd (n : Nat) : Bytes := (List.range n).map (BitVec.ofNat 8)
def frW : List (DWord × Byte) := [(0x0000001000000018, 0x25), (0x0706050403020100, 0x11), (0x0f0e0d0c0b0a0908, 0xdd), (0x1716151413121110, 0xd4),
  (0x0000001000000008, 0xac), (0x0706050403020100, 0x11)]
def fr (off free n : Nat) : State := let s := sv [] id (fun v => { v with kept := [(false, lengthWord n 0 1, bd n), (true, lengthWord 8 0 1, bd 8)], ringOff := off, ringFree := free })
  { s with serve := { s.serve with queues := [(0, { HankQ.init with words := frW })] } }
def full (r : Bool) : State := let s := sv [ses] id (fun v => { v with fullRaised := r }); { s with serve := { s.serve with queues := [(0, { HankQ.init with words := List.replicate 8170 (0, 0) })] } }
def hq (q : Nat) (h : HankQ) (st : Option (Nat × Word) := none) : State := let s := sv; { s with serve := { s.serve with queues := [(q, h)] }, ctxs := [(1, { (default : Ctx) with bound := true, qp := 1, sel := [(5, BitVec.ofNat 32 (0x2000 + q))], stage := st })] }

theorem witness_FramesAndHankQueues_1 :
    (∃ s : State, ∃ b : BitVec 4, ∃ p : Nat, p = b.toNat ∧ ∃ rb : Bool, ∃ len : DWord, ∃ body : Bytes, ∃ rest : List (Bool × DWord × Bytes), ∃ q : ServPart, ∃ k : Nat, ∃ key : Word, ∃ base : Nat, ∃ size : Nat, (s.servPart p).kept = (rb, len, body) :: rest ∧ q = s.servPart p ∧ k = s.rdmaSlot p (s.fld Reg.srvRingCfg p 11 8) ∧ key = s.rdmaKey p (s.fld Reg.srvRingCfg p 11 8) ∧ base = s.reg64 Reg.srvRingAddrLo p ∧ size = 2 ^ s.fld Reg.srvRingCfg p 4 0 ∧ (∀ (w : DWord × Byte), w ∈ List.take (1 + List.length body / 8) (s.hank p).words → hamRead w.fst w.snd = HamRead.ok w.fst) ∧ s.rdmaOk p (s.fld Reg.srvRingCfg p 11 8) base size = true ∧ s.admits (s.portPoint k) p [] = true ∧ q.ringOff + List.length body + 8 ≤ size ∧ List.length body + 8 ≤ q.ringFree) ∧
    (∃ s : State, ∃ b : BitVec 4, ∃ p : Nat, p = b.toNat ∧ ∃ rb : Bool, ∃ len : DWord, ∃ body : Bytes, ∃ rest : List (Bool × DWord × Bytes), ∃ q : ServPart, ∃ k : Nat, ∃ key : Word, ∃ base : Nat, ∃ size : Nat, (s.servPart p).kept = (rb, len, body) :: rest ∧ q = s.servPart p ∧ k = s.rdmaSlot p (s.fld Reg.srvRingCfg p 11 8) ∧ key = s.rdmaKey p (s.fld Reg.srvRingCfg p 11 8) ∧ base = s.reg64 Reg.srvRingAddrLo p ∧ size = 2 ^ s.fld Reg.srvRingCfg p 4 0 ∧ (∀ (w : DWord × Byte), w ∈ List.take (1 + List.length body / 8) (s.hank p).words → hamRead w.fst w.snd = HamRead.ok w.fst) ∧ s.rdmaOk p (s.fld Reg.srvRingCfg p 11 8) base size = true ∧ s.admits (s.portPoint k) p [] = true ∧ q.ringFree < List.length body + 8) ∧
    (∃ s : State, ∃ b : BitVec 4, ∃ p : Nat, p = b.toNat ∧ ∃ rb : Bool, ∃ len : DWord, ∃ body : Bytes, ∃ rest : List (Bool × DWord × Bytes), ∃ q : ServPart, ∃ k : Nat, ∃ key : Word, ∃ base : Nat, ∃ size : Nat, (s.servPart p).kept = (rb, len, body) :: rest ∧ q = s.servPart p ∧ k = s.rdmaSlot p (s.fld Reg.srvRingCfg p 11 8) ∧ key = s.rdmaKey p (s.fld Reg.srvRingCfg p 11 8) ∧ base = s.reg64 Reg.srvRingAddrLo p ∧ size = 2 ^ s.fld Reg.srvRingCfg p 4 0 ∧ (∀ (w : DWord × Byte), w ∈ List.take (1 + List.length body / 8) (s.hank p).words → hamRead w.fst w.snd = HamRead.ok w.fst) ∧ s.rdmaOk p (s.fld Reg.srvRingCfg p 11 8) base size = true ∧ s.admits (s.portPoint k) p [] = true ∧ q.ringOff < size ∧ size < q.ringOff + List.length body + 8 ∧ size - q.ringOff + (List.length body + 8) ≤ q.ringFree) ∧
    (∃ s : State, ∃ b : BitVec 4, ∃ p : Nat, p = b.toNat ∧ s.mayStart p = true ∧ (s.compose p).es ≠ [] ∧ s.queueRoom p (s.compose p).es.length = false ∧ (s.servPart p).fullRaised = false) ∧
    (∃ s : State, ∃ b : BitVec 4, ∃ p : Nat, p = b.toNat ∧ s.mayStart p = true ∧ (s.compose p).es ≠ [] ∧ s.queueRoom p (s.compose p).es.length = false ∧ (s.servPart p).fullRaised = true) ∧
    (∃ s : State, ∃ c : BitVec 3, ∃ k : Nat, ∃ q : Nat, k = c.toNat ∧ CanReach s k Reg.srvHankDataLo q ∧ 16 ≤ q ∧ (s.hank q).words = []) :=
  ⟨⟨(fr 0 8192 24), 0, 0, (by decide +kernel), false, (lengthWord 24 0 1), (bd 24), ([(true, lengthWord 8 0 1, bd 8)]), _, _, _, _, _, (by decide +kernel), rfl, rfl, rfl, rfl, rfl, (list_all (by decide +kernel)), (by decide +kernel), (by decide +kernel), (by decide +kernel), (by decide +kernel)⟩,
   ⟨(fr 8160 31 24), 0, 0, (by decide +kernel), false, (lengthWord 24 0 1), (bd 24), ([(true, lengthWord 8 0 1, bd 8)]), _, _, _, _, _, (by decide +kernel), rfl, rfl, rfl, rfl, rfl, (list_all (by decide +kernel)), (by decide +kernel), (by decide +kernel), (by decide +kernel)⟩,
   ⟨(fr 8176 48 24), 0, 0, (by decide +kernel), false, (lengthWord 24 0 1), (bd 24), ([(true, lengthWord 8 0 1, bd 8)]), _, _, _, _, _, (by decide +kernel), rfl, rfl, rfl, rfl, rfl, (list_all (by decide +kernel)), (by decide +kernel), (by decide +kernel), (by decide +kernel), (by decide +kernel), (by decide +kernel)⟩,
   ⟨(full false), 0, 0, (by decide +kernel), (by decide +kernel), (by decide +kernel), (by decide +kernel), (by decide +kernel)⟩,
   ⟨(full true), 0, 0, (by decide +kernel), (by decide +kernel), (by decide +kernel), (by decide +kernel), (by decide +kernel)⟩,
   ⟨(hq 18 HankQ.init), 1, 1, 18, (by decide +kernel), (canReach_of (by decide +kernel)), (by decide +kernel), (by decide +kernel)⟩⟩

theorem witness_FramesAndHankQueues_2 :
    (∃ s : State, ∃ c : BitVec 3, ∃ k : Nat, ∃ q : Nat, k = c.toNat ∧ CanReach s k Reg.srvHankDataLo q ∧ ∃ v : Word, True) ∧
    (∃ s : State, ∃ c : BitVec 3, ∃ k : Nat, ∃ q : Nat, k = c.toNat ∧ CanReach s k Reg.srvHankDataLo q ∧ q < 16) ∧
    (∃ s : State, ∃ c : BitVec 3, ∃ k : Nat, ∃ q : Nat, k = c.toNat ∧ CanReach s k Reg.srvHankDataLo q ∧ ∃ w : DWord, ∃ ck : Byte, ∃ rest : List (DWord × Byte), 16 ≤ q ∧ (s.hank q).words = (w, ck) :: rest ∧ hamRead w ck = HamRead.ok w) ∧
    (∃ s : State, ∃ c : BitVec 3, ∃ k : Nat, ∃ q : Nat, k = c.toNat ∧ CanReach s k Reg.srvHankDataLo q ∧ ∃ w : DWord, ∃ ck : Byte, ∃ rest : List (DWord × Byte), 16 ≤ q ∧ (s.hank q).words = (w, ck) :: rest ∧ hamRead w ck = HamRead.bad) ∧
    (∃ s : State, ∃ c : BitVec 3, ∃ k : Nat, ∃ q : Nat, k = c.toNat ∧ ∃ v : Word, ∃ lo : Word, CanReach s k Reg.srvHankDataHi q ∧ (s.ctx k).stage = some (q, lo) ∧ k < 6 ∧ q = 17 + k ∧ (s.hank q).overrun = false ∧ (s.hank q).words.length < 256 ∧ (s.hank q).discard = 0) ∧
    (∃ s : State, ∃ c : BitVec 3, ∃ k : Nat, ∃ q : Nat, k = c.toNat ∧ ∃ v : Word, ∃ lo : Word, CanReach s k Reg.srvHankDataHi q ∧ (s.ctx k).stage = some (q, lo) ∧ k < 6 ∧ q = 17 + k ∧ (s.hank q).overrun = false ∧ 256 ≤ (s.hank q).words.length) :=
  ⟨⟨(hq 0 HankQ.init), 1, 1, 0, (by decide +kernel), (canReach_of (by decide +kernel)), 5, trivial⟩,
   ⟨(hq 0 HankQ.init), 1, 1, 0, (by decide +kernel), (canReach_of (by decide +kernel)), (by decide +kernel)⟩,
   ⟨(hq 24 { HankQ.init with words := W [0x123456789ABCDEF0, 5] }), 1, 1, 24, (by decide +kernel), (canReach_of (by decide +kernel)), 0x123456789ABCDEF0, (hamCheck 0x123456789ABCDEF0), (W [5]), (by decide +kernel), (by decide +kernel), (by decide +kernel)⟩,
   ⟨(hq 24 { HankQ.init with words := [(0x123456789ABCDEF3, hamCheck 0x123456789ABCDEF0)] }), 1, 1, 24, (by decide +kernel), (canReach_of (by decide +kernel)), 0x123456789ABCDEF3, (hamCheck 0x123456789ABCDEF0), ([]), (by decide +kernel), (by decide +kernel), (by decide +kernel)⟩,
   ⟨(hq 18 HankQ.init (some (18, 9))), 1, 1, 18, (by decide +kernel), 5, 9, (canReach_of (by decide +kernel)), (by decide +kernel), (by decide +kernel), (by decide +kernel), (by decide +kernel), (by decide +kernel), (by decide +kernel)⟩,
   ⟨(hq 18 { HankQ.init with words := List.replicate 256 (0,0) } (some (18, 9))), 1, 1, 18, (by decide +kernel), 5, 9, (canReach_of (by decide +kernel)), (by decide +kernel), (by decide +kernel), (by decide +kernel), (by decide +kernel), (by decide +kernel)⟩⟩

theorem witness_FramesAndHankQueues_3 :
    (∃ s : State, ∃ c : BitVec 3, ∃ k : Nat, ∃ q : Nat, k = c.toNat ∧ ∃ v : Word, ∃ lo : Word, CanReach s k Reg.srvHankDataHi q ∧ (s.ctx k).stage = some (q, lo) ∧ (6 ≤ k ∨ q ≠ 17 + k)) ∧
    (∃ s : State, ∃ b : BitVec 4, ∃ p : Nat, p = b.toNat ∧ ∃ rb : Bool, ∃ len : DWord, ∃ body : Bytes, ∃ rest : List (Bool × DWord × Bytes), (s.servPart p).kept = (rb, len, body) :: rest ∧ (∀ (w : DWord × Byte), w ∈ List.take (1 + List.length body / 8) (s.hank p).words → hamRead w.fst w.snd = HamRead.ok w.fst) ∧ s.admits (s.portPoint (s.rdmaSlot p (s.fld Reg.srvRingCfg p 11 8))) p [] = false) :=
  ⟨⟨(hq 24 { HankQ.init with words := List.replicate 255 (0,0), left := 1, good := false } (some (24, 9))), 1, 1, 24, (by decide +kernel), 5, 9, (canReach_of (by decide +kernel)), (by decide +kernel), (by decide +kernel)⟩,
   ⟨(capd (fr 0 8192 24) 0 4), 0, 0, (by decide +kernel), false, (lengthWord 24 0 1), (bd 24), ([(true, lengthWord 8 0 1, bd 8)]), (by decide +kernel), (list_all (by decide +kernel)), (by decide +kernel)⟩⟩

end T24

namespace T25
def nts (n : Nat) : List NoticeE := (List.range n).map fun i => ⟨BitVec.ofNat 32 (100+i), BitVec.ofNat 32 (200+i), i % 5, 9⟩
def hdrx (cls odev ddev sp dp : Nat) (fp : Nat) (n : Nat) : Bytes := natLe fp 8 ++ [BitVec.ofNat 8 cls, BitVec.ofNat 8 (n-1)] ++ natLe odev 2 ++ natLe ddev 2 ++ [BitVec.ofNat 8 (16*dp+sp), 0] ++ List.replicate 48 0
def mk (b : Bytes) : Bytes := hdrx 1 7 9 5 0 0 ((b.length+63)/64) ++ padTo (64*((b.length+63)/64)) b
def xh (t : Nat) : Bytes := natLe t 1 ++ natLe 0 1 ++ natLe 0 2 ++ natLe 0xA1 4
def offer (at_ blocks mdl : Nat) : Bytes := xh 1 ++ natLe at_ 4 ++ natLe mdl 4 ++ natLe 3 2 ++ natLe 0 2 ++ [0, 64] ++ natLe 1 2 ++ natLe 1 2 ++ natLe 0 2 ++ natLe blocks 4
def im : Session := ses fun x => { x with st := .imp, at_ := 12, clen := 0, toks := [], blocks := [3], ctxMax := 16 }
def ex : Session := ses fun x => { x with st := .exp }
def xf (snd acc : Bool) (blocks : Nat) (got : List Nat) (f : Xfer → Xfer := id) : Xfer := f ⟨0xA1, snd, 7, 5, acc, blocks, 12, got, [], false, 0x51, []⟩
def lk (s : State) (st : Nat := 2) : State := { (s.setFld Reg.sknState 2 2 0 st).setReg Reg.sknCtxLinks 0 4 with net := { NetSt.init with links := [(2, { LinkSt.init with credit := [(1, 1)] })] } }
def xs' (x : Session) (y : List Xfer) (f : PartSt → PartSt := id) : State := let s := lk (sv [x] f); { s with serve := { s.serve with xfers := y } }
def data (i : Nat) (b : Bytes) (ok : Bool) : Bytes := xh 4 ++ natLe i 4 ++ natLe (crc32c (natLe i 4 ++ b) + (if ok then 0 else 1)) 4 ++ b
def sA : State := xs' ex [xf true false 1 []]

theorem witness_FramesAndHankQueues_4 :
    ∃ s : State, ∃ b : BitVec 4, ∃ p : Nat, p = b.toNat ∧ ∃ es : List NoticeE, (s.servPart p).notice = es ∧ es ≠ [] ∧ es.length ≤ 64 ∧ 2 + 2 * es.length + s.stepWords p ≤ s.hankFree p :=
  ⟨(sv [] id (fun v => { v with notice := nts 3 })), 0, 0, (by decide +kernel), (nts 3), (by decide +kernel), (by decide +kernel), (by decide +kernel), (by decide +kernel)⟩

theorem witness_ContextTransfers_1 :
    (∃ s : State, ∃ m : Bytes, ∃ b : Bytes, ∃ id : Word, ∃ x : Session, ∃ type : Nat, b = List.drop 64 m ∧ byteAt m 8 % 4 = 1 ∧ byteAt b 0 = type ∧ id = BitVec.ofNat 32 (leNat b 4 4) ∧ s.session id = some x ∧ type = 1 ∧ s.offerReason b = 0) ∧
    (∃ s : State, ∃ m : Bytes, ∃ b : Bytes, ∃ id : Word, ∃ x : Session, ∃ type : Nat, b = List.drop 64 m ∧ byteAt m 8 % 4 = 1 ∧ byteAt b 0 = type ∧ id = BitVec.ofNat 32 (leNat b 4 4) ∧ s.session id = some x ∧ type = 1) ∧
    (∃ s : State, ∃ m : Bytes, ∃ b : Bytes, ∃ id : Word, ∃ x : Session, ∃ type : Nat, b = List.drop 64 m ∧ byteAt m 8 % 4 = 1 ∧ byteAt b 0 = type ∧ id = BitVec.ofNat 32 (leNat b 4 4) ∧ s.session id = some x ∧ type = 1 ∧ ∃ r : Nat, s.offerReason b = r ∧ r ≠ 0 ∧ x.st = SessSt.imp ∧ s.tickable x.part = true) ∧
    (∃ s : State, ∃ m : Bytes, ∃ b : Bytes, ∃ id : Word, ∃ x : Session, ∃ type : Nat, b = List.drop 64 m ∧ byteAt m 8 % 4 = 1 ∧ byteAt b 0 = type ∧ id = BitVec.ofNat 32 (leNat b 4 4) ∧ s.session id = some x ∧ ∃ y : Xfer, s.xfer id = some y ∧ type = 2 ∧ x.st = SessSt.exp ∧ y.sender = true ∧ y.accepted = false ∧ y.blocks = 1) ∧
    (∃ s : State, ∃ m : Bytes, ∃ b : Bytes, ∃ id : Word, ∃ x : Session, ∃ type : Nat, b = List.drop 64 m ∧ byteAt m 8 % 4 = 1 ∧ byteAt b 0 = type ∧ id = BitVec.ofNat 32 (leNat b 4 4) ∧ s.session id = some x ∧ ∃ y : Xfer, s.xfer id = some y ∧ y.sender = true ∧ y.accepted = false ∧ s.tickable x.part = true) ∧
    (∃ s : State, ∃ m : Bytes, ∃ b : Bytes, ∃ id : Word, ∃ x : Session, ∃ type : Nat, b = List.drop 64 m ∧ byteAt m 8 % 4 = 1 ∧ byteAt b 0 = type ∧ id = BitVec.ofNat 32 (leNat b 4 4) ∧ s.session id = some x ∧ ∃ y : Xfer, s.xfer id = some y ∧ type = 3 ∧ s.tickable x.part = true) :=
  ⟨⟨(xs' im []), (mk (offer 12 1 0x77)), ((mk (offer 12 1 0x77)).drop 64), 0xA1, im, 1, (by decide +kernel), (by decide +kernel), (by decide +kernel), (by decide +kernel), (by decide +kernel), (by decide +kernel), (by decide +kernel)⟩,
   ⟨(xs' im []), (mk (offer 12 1 0x77)), ((mk (offer 12 1 0x77)).drop 64), 0xA1, im, 1, (by decide +kernel), (by decide +kernel), (by decide +kernel), (by decide +kernel), (by decide +kernel), (by decide +kernel)⟩,
   ⟨(xs' im []), (mk (offer 13 1 0x77)), ((mk (offer 13 1 0x77)).drop 64), 0xA1, im, 1, (by decide +kernel), (by decide +kernel), (by decide +kernel), (by decide +kernel), (by decide +kernel), (by decide +kernel), 4, (by decide +kernel), (by decide +kernel), (by decide +kernel), (by decide +kernel)⟩,
   ⟨sA, (mk (xh 2)), ((mk (xh 2)).drop 64), 0xA1, ex, 2, (by decide +kernel), (by decide +kernel), (by decide +kernel), (by decide +kernel), (by decide +kernel), (xf true false 1 []), (by decide +kernel), (by decide +kernel), (by decide +kernel), (by decide +kernel), (by decide +kernel), (by decide +kernel)⟩,
   ⟨sA, (mk (xh 2)), ((mk (xh 2)).drop 64), 0xA1, ex, 2, (by decide +kernel), (by decide +kernel), (by decide +kernel), (by decide +kernel), (by decide +kernel), (xf true false 1 []), (by decide +kernel), (by decide +kernel), (by decide +kernel), (by decide +kernel)⟩,
   ⟨sA, (mk (xh 3)), ((mk (xh 3)).drop 64), 0xA1, ex, 3, (by decide +kernel), (by decide +kernel), (by decide +kernel), (by decide +kernel), (by decide +kernel), (xf true false 1 []), (by decide +kernel), (by decide +kernel), (by decide +kernel)⟩⟩

theorem witness_ContextTransfers_2 :
    (∃ s : State, ∃ m : Bytes, ∃ b : Bytes, ∃ id : Word, ∃ x : Session, ∃ type : Nat, b = List.drop 64 m ∧ byteAt m 8 % 4 = 1 ∧ byteAt b 0 = type ∧ id = BitVec.ofNat 32 (leNat b 4 4) ∧ s.session id = some x ∧ ∃ y : Xfer, s.xfer id = some y ∧ type = 5 ∧ y.sender = false ∧ y.ended = false ∧ y.got.length < y.blocks) ∧
    (∃ s : State, ∃ m : Bytes, ∃ b : Bytes, ∃ id : Word, ∃ x : Session, ∃ type : Nat, b = List.drop 64 m ∧ byteAt m 8 % 4 = 1 ∧ byteAt b 0 = type ∧ id = BitVec.ofNat 32 (leNat b 4 4) ∧ s.session id = some x ∧ ∃ y : Xfer, s.xfer id = some y ∧ type = 5 ∧ y.sender = false ∧ y.ended = false ∧ y.blocks ≤ y.got.length ∧ x.st = SessSt.imp ∧ s.tickable x.part = true) ∧
    (∃ s : State, ∃ m : Bytes, ∃ b : Bytes, ∃ id : Word, ∃ x : Session, ∃ type : Nat, b = List.drop 64 m ∧ byteAt m 8 % 4 = 1 ∧ byteAt b 0 = type ∧ id = BitVec.ofNat 32 (leNat b 4 4) ∧ s.session id = some x ∧ ∃ y : Xfer, s.xfer id = some y ∧ ∃ i : Nat, type = 6 ∧ x.st = SessSt.exp ∧ y.sender = true ∧ y.accepted = true ∧ byteAt b 8 = 1 ∧ i = leNat b 12 4 ∧ i < y.blocks ∧ SMap.get 0 y.resent i < 3) ∧
    (∃ s : State, ∃ m : Bytes, ∃ b : Bytes, ∃ id : Word, ∃ x : Session, ∃ type : Nat, b = List.drop 64 m ∧ byteAt m 8 % 4 = 1 ∧ byteAt b 0 = type ∧ id = BitVec.ofNat 32 (leNat b 4 4) ∧ s.session id = some x ∧ ∃ y : Xfer, s.xfer id = some y ∧ ∃ i : Nat, type = 6 ∧ x.st = SessSt.exp ∧ y.sender = true ∧ y.accepted = true ∧ byteAt b 8 = 1 ∧ i = leNat b 12 4 ∧ i < y.blocks ∧ 3 ≤ SMap.get 0 y.resent i ∧ s.tickable x.part = true) ∧
    (∃ s : State, ∃ m : Bytes, ∃ b : Bytes, ∃ id : Word, ∃ x : Session, ∃ type : Nat, b = List.drop 64 m ∧ byteAt m 8 % 4 = 1 ∧ byteAt b 0 = type ∧ id = BitVec.ofNat 32 (leNat b 4 4) ∧ s.session id = some x ∧ ∃ y : Xfer, s.xfer id = some y ∧ type = 7 ∧ x.st = SessSt.exp ∧ y.sender = true ∧ y.accepted = true ∧ s.tickable x.part = true) ∧
    (∃ s : State, ∃ m : Bytes, ∃ b : Bytes, ∃ id : Word, ∃ x : Session, ∃ type : Nat, b = List.drop 64 m ∧ byteAt m 8 % 4 = 1 ∧ byteAt b 0 = type ∧ id = BitVec.ofNat 32 (leNat b 4 4) ∧ s.session id = some x ∧ ∃ y : Xfer, s.xfer id = some y ∧ type = 7 ∧ x.st = SessSt.exp ∧ y.sender = true ∧ y.accepted = true ∧ s.tickable x.part = false ∧ x.ending = none) :=
  ⟨⟨(xs' im [xf false true 1 []]), (mk (xh 5 ++ natLe 1 4 ++ natLe 0x99 4)), ((mk (xh 5 ++ natLe 1 4 ++ natLe 0x99 4)).drop 64), 0xA1, im, 5, (by decide +kernel), (by decide +kernel), (by decide +kernel), (by decide +kernel), (by decide +kernel), (xf false true 1 []), (by decide +kernel), (by decide +kernel), (by decide +kernel), (by decide +kernel), (by decide +kernel)⟩,
   ⟨(xs' im [xf false true 1 [0]]), (mk (xh 5 ++ natLe 1 4 ++ natLe 0x99 4)), ((mk (xh 5 ++ natLe 1 4 ++ natLe 0x99 4)).drop 64), 0xA1, im, 5, (by decide +kernel), (by decide +kernel), (by decide +kernel), (by decide +kernel), (by decide +kernel), (xf false true 1 [0]), (by decide +kernel), (by decide +kernel), (by decide +kernel), (by decide +kernel), (by decide +kernel), (by decide +kernel), (by decide +kernel)⟩,
   ⟨(xs' ex [xf true true 1 []]), (mk (xh 6 ++ [1,0,0,0] ++ natLe 0 4)), ((mk (xh 6 ++ [1,0,0,0] ++ natLe 0 4)).drop 64), 0xA1, ex, 6, (by decide +kernel), (by decide +kernel), (by decide +kernel), (by decide +kernel), (by decide +kernel), (xf true true 1 []), (by decide +kernel), 0, (by decide +kernel), (by decide +kernel), (by decide +kernel), (by decide +kernel), (by decide +kernel), (by decide +kernel), (by decide +kernel), (by decide +kernel)⟩,
   ⟨(xs' ex [xf true true 1 [] (fun y => { y with resent := [(0,3)] })]), (mk (xh 6 ++ [1,0,0,0] ++ natLe 0 4)), ((mk (xh 6 ++ [1,0,0,0] ++ natLe 0 4)).drop 64), 0xA1, ex, 6, (by decide +kernel), (by decide +kernel), (by decide +kernel), (by decide +kernel), (by decide +kernel), (xf true true 1 [] (fun y => { y with resent := [(0,3)] })), (by decide +kernel), 0, (by decide +kernel), (by decide +kernel), (by decide +kernel), (by decide +kernel), (by decide +kernel), (by decide +kernel), (by decide +kernel), (by decide +kernel), (by decide +kernel)⟩,
   ⟨(xs' ex [xf true true 1 []]), (mk (xh 7)), ((mk (xh 7)).drop 64), 0xA1, ex, 7, (by decide +kernel), (by decide +kernel), (by decide +kernel), (by decide +kernel), (by decide +kernel), (xf true true 1 []), (by decide +kernel), (by decide +kernel), (by decide +kernel), (by decide +kernel), (by decide +kernel), (by decide +kernel)⟩,
   ⟨(xs' ex [xf true true 1 []] (fun q => { q with inStep := true })), (mk (xh 7)), ((mk (xh 7)).drop 64), 0xA1, ex, 7, (by decide +kernel), (by decide +kernel), (by decide +kernel), (by decide +kernel), (by decide +kernel), (xf true true 1 []), (by decide +kernel), (by decide +kernel), (by decide +kernel), (by decide +kernel), (by decide +kernel), (by decide +kernel), (by decide +kernel)⟩⟩

theorem witness_ContextTransfers_3 :
    (∃ s : State, ∃ m : Bytes, ∃ b : Bytes, ∃ id : Word, ∃ x : Session, ∃ type : Nat, b = List.drop 64 m ∧ byteAt m 8 % 4 = 1 ∧ byteAt b 0 = type ∧ id = BitVec.ofNat 32 (leNat b 4 4) ∧ s.session id = some x ∧ ∃ y : Xfer, s.xfer id = some y ∧ ∃ miss : List Nat, ∃ nack : List Nat → Bytes, y.sender = false ∧ y.ended = true ∧ (miss = List.filter (fun i => !y.got.contains i) (List.range y.blocks)) ∧ miss ≠ [] ∧ (nack = fun l => le1 6 ++ le1 y.dpart ++ le2 0 ++ le4 (BitVec.toNat id) ++ le1 l.length ++ natLe 0 3 ++ List.flatMap le4 l) ∧ miss.length ≤ 64) ∧
    (∃ s : State, ∃ m : Bytes, ∃ b : Bytes, ∃ id : Word, ∃ x : Session, ∃ type : Nat, b = List.drop 64 m ∧ byteAt m 8 % 4 = 1 ∧ byteAt b 0 = type ∧ id = BitVec.ofNat 32 (leNat b 4 4) ∧ s.session id = some x ∧ ∃ y : Xfer, s.xfer id = some y ∧ ∃ miss : List Nat, ∃ nack : List Nat → Bytes, y.sender = false ∧ y.ended = true ∧ (miss = List.filter (fun i => !y.got.contains i) (List.range y.blocks)) ∧ miss ≠ [] ∧ (nack = fun l => le1 6 ++ le1 y.dpart ++ le2 0 ++ le4 (BitVec.toNat id) ++ le1 l.length ++ natLe 0 3 ++ List.flatMap le4 l) ∧ 64 < miss.length ∧ miss.length ≤ 128) :=
  ⟨⟨(xs' im [xf false true 3 [1] (fun y => { y with ended := true })]), (mk (xh 9)), ((mk (xh 9)).drop 64), 0xA1, im, 9, (by decide +kernel), (by decide +kernel), (by decide +kernel), (by decide +kernel), (by decide +kernel), (xf false true 3 [1] (fun y => { y with ended := true })), (by decide +kernel), ([0,2]), _, (by decide +kernel), (by decide +kernel), (by decide +kernel), (by decide +kernel), rfl, (by decide +kernel)⟩,
   ⟨(xs' im [xf false true 70 [1] (fun y => { y with ended := true })]), (mk (xh 9)), ((mk (xh 9)).drop 64), 0xA1, im, 9, (by decide +kernel), (by decide +kernel), (by decide +kernel), (by decide +kernel), (by decide +kernel), (xf false true 70 [1] (fun y => { y with ended := true })), (by decide +kernel), (0 :: (List.range 68).map (· + 2)), _, (by decide +kernel), (by decide +kernel), (by decide +kernel), (by decide +kernel), rfl, (by decide +kernel), (by decide +kernel)⟩⟩

end T25

namespace T26
def shd (form enc model epoch layer shard count targets bodyLen rows cols : Nat) : Bytes :=
  [0x53, 0x48, 0x52, 0x44] ++ natLe 0x100 2 ++ natLe form 1 ++ natLe enc 1 ++ natLe model 4 ++ natLe epoch 2 ++ natLe layer 2 ++ natLe shard 2 ++ natLe count 2 ++ natLe targets 2 ++ natLe 0 2 ++ natLe bodyLen 4 ++ natLe 0 4 ++ natLe rows 4 ++ natLe cols 4 ++ [3,0,0,7] ++ List.replicate 148 0
def bodyR (t : Nat) : Bytes := natLe t 4 ++ natLe 0x3F80 2 ++ natLe 0x4000 2 ++ [0x21, 0x43]
def sealS (h b : Bytes) : Bytes := h ++ sha512 (h ++ b) ++ b
def lb : Bytes := [0, 0x20, 0, 0, 0, 0, 0, 0, 0xCA, 1, 0, 0, 0xEE, 0, 0, 0]
def wj (st op cnt : Nat) (j : Job) (models : SMap ModelSt := []) : State :=
  let s := { State.reset with ctxs := [(1, { (default : Ctx) with bound := true, qp := 1, sel := [(6, 0x1002)] })] }
  let s := ((s.setFld Reg.wgtJobStat 2 2 0 st).setReg Reg.wgtJobModel 2 0x77).setFld Reg.wgtJobEpoch 2 15 0 4
  let s := ((s.setFld Reg.wgtJobEpoch 2 28 16 1).setFld Reg.wgtJobListCnt 2 12 0 cnt).setReg Reg.wgtLoadCfg 0 0
  let s := ((s.setReg Reg.wgtJobListLo 2 0x1000).setReg Reg.wgtJobListKey 2 0xEE).setFld Reg.cfgLc 0 2 0 2
  { s with wgt := { WgtSt.init with jobs := if st = 0 then [] else [(2, j)], models := models, conf := [(0x77, 0)] } }
def jx (op : Nat) (cnt : Nat := 1): Job := { Job.init with op := op, model := 0x77, epoch := 4, layers := 1, cnt := cnt, ctx := 1, list := some ((List.range cnt).map fun _ => ⟨0x2000, 458, 0xEE⟩) }
def mres (st : Nat) : ModelSt := { ModelSt.init with id := 0x77, st := st, epoch := 3, layers := [⟨3, [⟨[5], []⟩]⟩] }
def h1 : Bytes := shd 2 0 0x77 4 0 0 1 1 10 2 2
def d1 : Bytes := sealS h1 (bodyR 0x15)
def d2 : Bytes := sealS (shd 1 0 0x77 4 0 0 1 1 10 2 2) (bodyR 0x15)
def d3 : Bytes := sealS h1 (bodyR 0x19)

theorem witness_WeightJobs_1 :
    (∃ s : State, ∃ c : BitVec 3, ∃ j : Nat, ∃ op : Nat, ∃ cmd : Instr, ∃ x : Job, ∃ a : Option Bytes, ∃ u : State, CanWrite s c.toNat Reg.wgtJobCtl j ∧ j < 16 ∧ (op, cmd) ∈ [(1, Instr.jobLoad { ctx := c, list := a }), (2, Instr.jobReplace { ctx := c, list := a }), (3, Instr.jobRestore { ctx := c, list := a }), (4, Instr.jobAdapter { ctx := c, list := a }), (5, Instr.jobUnloadModel c)] ∧ s.jobRuns j = false ∧ (∀ (e : Nat × Job), e ∈ s.wgt.jobs → e.fst ≠ j) ∧ (x =
  have __src := Job.init;
  { op := op, model := s.reg Reg.wgtJobModel j, epoch := s.fld Reg.wgtJobEpoch j 15 0, layers := s.fld Reg.wgtJobEpoch j 28 16, cnt := s.fld Reg.wgtJobListCnt j 12 0, ctx := c.toNat, part := s.fld Reg.wgtJobPart j 3 0, adpt := s.reg Reg.wgtJobAdpt j, staged := __src.staged, refused := __src.refused, writes := __src.writes, written := __src.written, wrote := __src.wrote, failed := __src.failed, waiting := __src.waiting, entry := __src.entry, list := __src.list }) ∧ (u = s.modJob j fun x_1 => x) ∧ ∃ list : OutMsg, list = OutMsg.rdmaRead (u.jobQp j 0) (BitVec.ofNat 64 (s.reg64 Reg.wgtJobListLo j)) (BitVec.ofNat 32 (s.reg Reg.wgtJobListKey j)) (16 * x.cnt) ∧ s.goFault j x = none ∧ op ≠ 5 ∧ (∀ (b : Bytes), a = some b → List.length b ≠ 16 * x.cnt)) ∧
    (∃ s : State, ∃ c : BitVec 3, ∃ j : Nat, ∃ op : Nat, ∃ cmd : Instr, ∃ x : Job, ∃ a : Option Bytes, ∃ u : State, CanWrite s c.toNat Reg.wgtJobCtl j ∧ j < 16 ∧ (op, cmd) ∈ [(1, Instr.jobLoad { ctx := c, list := a }), (2, Instr.jobReplace { ctx := c, list := a }), (3, Instr.jobRestore { ctx := c, list := a }), (4, Instr.jobAdapter { ctx := c, list := a }), (5, Instr.jobUnloadModel c)] ∧ s.jobRuns j = false ∧ (∀ (e : Nat × Job), e ∈ s.wgt.jobs → e.fst ≠ j) ∧ (x =
  have __src := Job.init;
  { op := op, model := s.reg Reg.wgtJobModel j, epoch := s.fld Reg.wgtJobEpoch j 15 0, layers := s.fld Reg.wgtJobEpoch j 28 16, cnt := s.fld Reg.wgtJobListCnt j 12 0, ctx := c.toNat, part := s.fld Reg.wgtJobPart j 3 0, adpt := s.reg Reg.wgtJobAdpt j, staged := __src.staged, refused := __src.refused, writes := __src.writes, written := __src.written, wrote := __src.wrote, failed := __src.failed, waiting := __src.waiting, entry := __src.entry, list := __src.list }) ∧ (u = s.modJob j fun x_1 => x) ∧ ∃ list : OutMsg, list = OutMsg.rdmaRead (u.jobQp j 0) (BitVec.ofNat 64 (s.reg64 Reg.wgtJobListLo j)) (BitVec.ofNat 32 (s.reg Reg.wgtJobListKey j)) (16 * x.cnt) ∧ ∃ b : Bytes, s.goFault j x = none ∧ op ≠ 5 ∧ a = some b ∧ List.length b = 16 * x.cnt) ∧
    (∃ s : State, ∃ c : BitVec 3, ∃ j : Nat, ∃ op : Nat, ∃ cmd : Instr, ∃ x : Job, ∃ a : Option Bytes, ∃ u : State, CanWrite s c.toNat Reg.wgtJobCtl j ∧ j < 16 ∧ (op, cmd) ∈ [(1, Instr.jobLoad { ctx := c, list := a }), (2, Instr.jobReplace { ctx := c, list := a }), (3, Instr.jobRestore { ctx := c, list := a }), (4, Instr.jobAdapter { ctx := c, list := a }), (5, Instr.jobUnloadModel c)] ∧ s.jobRuns j = false ∧ (∀ (e : Nat × Job), e ∈ s.wgt.jobs → e.fst ≠ j) ∧ (x =
  have __src := Job.init;
  { op := op, model := s.reg Reg.wgtJobModel j, epoch := s.fld Reg.wgtJobEpoch j 15 0, layers := s.fld Reg.wgtJobEpoch j 28 16, cnt := s.fld Reg.wgtJobListCnt j 12 0, ctx := c.toNat, part := s.fld Reg.wgtJobPart j 3 0, adpt := s.reg Reg.wgtJobAdpt j, staged := __src.staged, refused := __src.refused, writes := __src.writes, written := __src.written, wrote := __src.wrote, failed := __src.failed, waiting := __src.waiting, entry := __src.entry, list := __src.list }) ∧ (u = s.modJob j fun x_1 => x) ∧ ∃ list : OutMsg, list = OutMsg.rdmaRead (u.jobQp j 0) (BitVec.ofNat 64 (s.reg64 Reg.wgtJobListLo j)) (BitVec.ofNat 32 (s.reg Reg.wgtJobListKey j)) (16 * x.cnt) ∧ ∃ r : Nat, s.goFault j x = some r) ∧
    (∃ s : State, ∃ c : BitVec 3, ∃ j : Nat, ∃ op : Nat, ∃ cmd : Instr, ∃ x : Job, ∃ a : Option Bytes, ∃ u : State, CanWrite s c.toNat Reg.wgtJobCtl j ∧ j < 16 ∧ (op, cmd) ∈ [(1, Instr.jobLoad { ctx := c, list := a }), (2, Instr.jobReplace { ctx := c, list := a }), (3, Instr.jobRestore { ctx := c, list := a }), (4, Instr.jobAdapter { ctx := c, list := a }), (5, Instr.jobUnloadModel c)] ∧ s.jobRuns j = false ∧ (∀ (e : Nat × Job), e ∈ s.wgt.jobs → e.fst ≠ j) ∧ (x =
  have __src := Job.init;
  { op := op, model := s.reg Reg.wgtJobModel j, epoch := s.fld Reg.wgtJobEpoch j 15 0, layers := s.fld Reg.wgtJobEpoch j 28 16, cnt := s.fld Reg.wgtJobListCnt j 12 0, ctx := c.toNat, part := s.fld Reg.wgtJobPart j 3 0, adpt := s.reg Reg.wgtJobAdpt j, staged := __src.staged, refused := __src.refused, writes := __src.writes, written := __src.written, wrote := __src.wrote, failed := __src.failed, waiting := __src.waiting, entry := __src.entry, list := __src.list }) ∧ (u = s.modJob j fun x_1 => x) ∧ ∃ list : OutMsg, list = OutMsg.rdmaRead (u.jobQp j 0) (BitVec.ofNat 64 (s.reg64 Reg.wgtJobListLo j)) (BitVec.ofNat 32 (s.reg Reg.wgtJobListKey j)) (16 * x.cnt) ∧ ∃ m : Nat, s.goFault j x = none ∧ op = 5 ∧ s.modelEntry x.model = some m) ∧
    (∃ s : State, ∃ b : BitVec 4, ∃ j : Nat, ∃ i : Nat, ∃ x : Job, ∃ d : Bytes, ∃ again : Bytes, ∃ h : Shard, j = b.toNat ∧ x = s.job j ∧ h = shardOf d ∧ s.jobState j = 1 ∧ x.list.isSome = true ∧ i < x.cnt ∧ i < 4096 ∧ (∀ (e : Nat × Staged), e ∈ x.staged → e.fst ≠ i) ∧ x.waiting = false ∧ ∃ Fails : Nat → Prop, (Fails = fun r => Runs s (Instr.shardArrived b i { shard := d, again := again }) fun s' => JobEnded s' j r i ∧ (∀ (k : Nat), (∀ (e : Nat × Job), e ∈ s.wgt.jobs → ∀ (t : Nat), t ∈ e.snd.writes → s.targetKey t ≠ k) → s'.warp k = s.warp k) ∧ s'.wgt.gold = s.wgt.gold ∧ ∀ (m : Nat), x.op = 1 → s.modelEntry x.model = some m → (s'.model m).st = 1 ∧ (s'.model m).reason = 9) ∧ x.writes = [] ∧ shardHeadOk d = false) ∧
    (∃ s : State, ∃ b : BitVec 4, ∃ j : Nat, ∃ i : Nat, ∃ x : Job, ∃ d : Bytes, ∃ again : Bytes, ∃ h : Shard, j = b.toNat ∧ x = s.job j ∧ h = shardOf d ∧ s.jobState j = 1 ∧ x.list.isSome = true ∧ i < x.cnt ∧ i < 4096 ∧ (∀ (e : Nat × Staged), e ∈ x.staged → e.fst ≠ i) ∧ x.waiting = false) :=
  ⟨⟨(wj 0 1 1 Job.init), 1, 2, 1, (.jobLoad ⟨1, none⟩), _, none, _, (canWrite_of (by decide +kernel)), (by decide +kernel), (by decide +kernel), (by decide +kernel), (by decide +kernel), rfl, rfl, _, rfl, (by decide +kernel), (by decide +kernel), (opt_all (by decide +kernel))⟩,
   ⟨(wj 0 1 1 Job.init), 1, 2, 1, (.jobLoad ⟨1, some lb⟩), _, (some lb), _, (canWrite_of (by decide +kernel)), (by decide +kernel), (by decide +kernel), (by decide +kernel), (by decide +kernel), rfl, rfl, _, rfl, lb, (by decide +kernel), (by decide +kernel), (by decide +kernel), (by decide +kernel)⟩,
   ⟨(wj 0 1 0 Job.init), 1, 2, 1, (.jobLoad ⟨1, none⟩), _, none, _, (canWrite_of (by decide +kernel)), (by decide +kernel), (by decide +kernel), (by decide +kernel), (by decide +kernel), rfl, rfl, _, rfl, 15, (by decide +kernel)⟩,
   ⟨({ wj 0 1 1 Job.init [(0, mres 2)] with warps := [(5, { WarpArr.init with code := 1, record := some [1] })] }), 1, 2, 5, (.jobUnloadModel 1), _, none, _, (canWrite_of (by decide +kernel)), (by decide +kernel), (by decide +kernel), (by decide +kernel), (by decide +kernel), rfl, rfl, _, rfl, 0, (by decide +kernel), (by decide +kernel), (by decide +kernel)⟩,
   ⟨(wj 1 1 1 (jx 1) [(0, mres 1)]), 2, 2, 0, _, h1, lb, _, (by decide +kernel), rfl, rfl, (by decide +kernel), (by decide +kernel), (by decide +kernel), (by decide +kernel), (by decide +kernel), (by decide +kernel), _, rfl, (by decide +kernel), (by decide +kernel)⟩,
   ⟨(wj 1 1 1 (jx 1) [(0, mres 1)]), 2, 2, 0, _, h1, lb, _, (by decide +kernel), rfl, rfl, (by decide +kernel), (by decide +kernel), (by decide +kernel), (by decide +kernel), (by decide +kernel), (by decide +kernel)⟩⟩

theorem witness_WeightJobs_2 :
    (∃ s : State, ∃ b : BitVec 4, ∃ j : Nat, ∃ i : Nat, ∃ x : Job, ∃ d : Bytes, ∃ again : Bytes, ∃ h : Shard, j = b.toNat ∧ x = s.job j ∧ h = shardOf d ∧ s.jobState j = 1 ∧ x.list.isSome = true ∧ i < x.cnt ∧ i < 4096 ∧ (∀ (e : Nat × Staged), e ∈ x.staged → e.fst ≠ i) ∧ x.waiting = false ∧ ∃ Fails : Nat → Prop, (Fails = fun r => Runs s (Instr.shardArrived b i { shard := d, again := again }) fun s' => JobEnded s' j r i ∧ (∀ (k : Nat), (∀ (e : Nat × Job), e ∈ s.wgt.jobs → ∀ (t : Nat), t ∈ e.snd.writes → s.targetKey t ≠ k) → s'.warp k = s.warp k) ∧ s'.wgt.gold = s.wgt.gold ∧ ∀ (m : Nat), x.op = 1 → s.modelEntry x.model = some m → (s'.model m).st = 1 ∧ (s'.model m).reason = 9) ∧ x.writes = [] ∧ shardHeadOk d = true ∧ s.encRequired x.op = true ∧ h.enc = false) ∧
    (∃ s : State, ∃ b : BitVec 4, ∃ j : Nat, ∃ i : Nat, ∃ x : Job, ∃ d : Bytes, ∃ again : Bytes, ∃ h : Shard, j = b.toNat ∧ x = s.job j ∧ h = shardOf d ∧ s.jobState j = 1 ∧ x.list.isSome = true ∧ i < x.cnt ∧ i < 4096 ∧ (∀ (e : Nat × Staged), e ∈ x.staged → e.fst ≠ i) ∧ x.waiting = false ∧ ∃ Fails : Nat → Prop, (Fails = fun r => Runs s (Instr.shardArrived b i { shard := d, again := again }) fun s' => JobEnded s' j r i ∧ (∀ (k : Nat), (∀ (e : Nat × Job), e ∈ s.wgt.jobs → ∀ (t : Nat), t ∈ e.snd.writes → s.targetKey t ≠ k) → s'.warp k = s.warp k) ∧ s'.wgt.gold = s.wgt.gold ∧ ∀ (m : Nat), x.op = 1 → s.modelEntry x.model = some m → (s'.model m).st = 1 ∧ (s'.model m).reason = 9) ∧ x.writes = [] ∧ ∃ body : Bytes, ∃ imgs : List Bytes, shardHeadOk d = true ∧ (s.encRequired x.op = true → h.enc = true) ∧ shardBody d s.xportPub (s.fld Reg.cfgDevice 0 15 0) = some body ∧ shardDigestOk d body = true ∧ s.shardNamed x h = false) ∧
    (∃ s : State, ∃ b : BitVec 4, ∃ j : Nat, ∃ i : Nat, ∃ x : Job, ∃ d : Bytes, ∃ again : Bytes, ∃ h : Shard, j = b.toNat ∧ x = s.job j ∧ h = shardOf d ∧ s.jobState j = 1 ∧ x.list.isSome = true ∧ i < x.cnt ∧ i < 4096 ∧ (∀ (e : Nat × Staged), e ∈ x.staged → e.fst ≠ i) ∧ x.waiting = false ∧ ∃ Fails : Nat → Prop, (Fails = fun r => Runs s (Instr.shardArrived b i { shard := d, again := again }) fun s' => JobEnded s' j r i ∧ (∀ (k : Nat), (∀ (e : Nat × Job), e ∈ s.wgt.jobs → ∀ (t : Nat), t ∈ e.snd.writes → s.targetKey t ≠ k) → s'.warp k = s.warp k) ∧ s'.wgt.gold = s.wgt.gold ∧ ∀ (m : Nat), x.op = 1 → s.modelEntry x.model = some m → (s'.model m).st = 1 ∧ (s'.model m).reason = 9) ∧ x.writes = [] ∧ ∃ body : Bytes, ∃ imgs : List Bytes, shardHeadOk d = true ∧ (s.encRequired x.op = true → h.enc = true) ∧ shardBody d s.xportPub (s.fld Reg.cfgDevice 0 15 0) = some body ∧ shardDigestOk d body = true ∧ s.shardNamed x h = true ∧ s.shardEpochOk x h = false) ∧
    (∃ s : State, ∃ b : BitVec 4, ∃ j : Nat, ∃ i : Nat, ∃ x : Job, ∃ d : Bytes, ∃ again : Bytes, ∃ h : Shard, j = b.toNat ∧ x = s.job j ∧ h = shardOf d ∧ s.jobState j = 1 ∧ x.list.isSome = true ∧ i < x.cnt ∧ i < 4096 ∧ (∀ (e : Nat × Staged), e ∈ x.staged → e.fst ≠ i) ∧ x.waiting = false ∧ ∃ Fails : Nat → Prop, (Fails = fun r => Runs s (Instr.shardArrived b i { shard := d, again := again }) fun s' => JobEnded s' j r i ∧ (∀ (k : Nat), (∀ (e : Nat × Job), e ∈ s.wgt.jobs → ∀ (t : Nat), t ∈ e.snd.writes → s.targetKey t ≠ k) → s'.warp k = s.warp k) ∧ s'.wgt.gold = s.wgt.gold ∧ ∀ (m : Nat), x.op = 1 → s.modelEntry x.model = some m → (s'.model m).st = 1 ∧ (s'.model m).reason = 9) ∧ x.writes = [] ∧ ∃ body : Bytes, ∃ imgs : List Bytes, shardHeadOk d = true ∧ (s.encRequired x.op = true → h.enc = true) ∧ shardBody d s.xportPub (s.fld Reg.cfgDevice 0 15 0) = some body ∧ shardDigestOk d body = true ∧ s.shardNamed x h = true ∧ s.shardEpochOk x h = true ∧ shardImages h body = none) ∧
    (∃ s : State, ∃ b : BitVec 4, ∃ j : Nat, ∃ i : Nat, ∃ x : Job, ∃ d : Bytes, ∃ again : Bytes, ∃ h : Shard, j = b.toNat ∧ x = s.job j ∧ h = shardOf d ∧ s.jobState j = 1 ∧ x.list.isSome = true ∧ i < x.cnt ∧ i < 4096 ∧ (∀ (e : Nat × Staged), e ∈ x.staged → e.fst ≠ i) ∧ x.waiting = false ∧ ∃ Fails : Nat → Prop, (Fails = fun r => Runs s (Instr.shardArrived b i { shard := d, again := again }) fun s' => JobEnded s' j r i ∧ (∀ (k : Nat), (∀ (e : Nat × Job), e ∈ s.wgt.jobs → ∀ (t : Nat), t ∈ e.snd.writes → s.targetKey t ≠ k) → s'.warp k = s.warp k) ∧ s'.wgt.gold = s.wgt.gold ∧ ∀ (m : Nat), x.op = 1 → s.modelEntry x.model = some m → (s'.model m).st = 1 ∧ (s'.model m).reason = 9) ∧ x.writes = [] ∧ ∃ body : Bytes, ∃ imgs : List Bytes, shardHeadOk d = true ∧ (s.encRequired x.op = true → h.enc = true) ∧ shardBody d s.xportPub (s.fld Reg.cfgDevice 0 15 0) = some body ∧ shardDigestOk d body = true ∧ s.shardNamed x h = true ∧ s.shardEpochOk x h = true ∧ shardImages h body = some imgs ∧ s.shardTargetsOk j x h (List.map (shardTarget body) (List.range h.targets)) = false) ∧
    (∃ s : State, ∃ b : BitVec 4, ∃ j : Nat, ∃ i : Nat, ∃ x : Job, ∃ d : Bytes, ∃ again : Bytes, ∃ h : Shard, j = b.toNat ∧ x = s.job j ∧ h = shardOf d ∧ s.jobState j = 1 ∧ x.list.isSome = true ∧ i < x.cnt ∧ i < 4096 ∧ (∀ (e : Nat × Staged), e ∈ x.staged → e.fst ≠ i) ∧ x.waiting = false ∧ ∃ Fails : Nat → Prop, (Fails = fun r => Runs s (Instr.shardArrived b i { shard := d, again := again }) fun s' => JobEnded s' j r i ∧ (∀ (k : Nat), (∀ (e : Nat × Job), e ∈ s.wgt.jobs → ∀ (t : Nat), t ∈ e.snd.writes → s.targetKey t ≠ k) → s'.warp k = s.warp k) ∧ s'.wgt.gold = s.wgt.gold ∧ ∀ (m : Nat), x.op = 1 → s.modelEntry x.model = some m → (s'.model m).st = 1 ∧ (s'.model m).reason = 9) ∧ x.writes = [] ∧ ∃ body : Bytes, ∃ imgs : List Bytes, shardHeadOk d = true ∧ (s.encRequired x.op = true → h.enc = true) ∧ shardBody d s.xportPub (s.fld Reg.cfgDevice 0 15 0) = some body ∧ shardDigestOk d body = true ∧ s.shardNamed x h = true ∧ s.shardEpochOk x h = true ∧ shardImages h body = some imgs ∧ s.shardTargetsOk j x h (List.map (shardTarget body) (List.range h.targets)) = true ∧ List.length x.staged + 1 < x.cnt ∧ imgs.length ≤ s.goldFree) :=
  ⟨⟨((wj 1 1 1 (jx 1) [(0, mres 1)]).setReg Reg.wgtLoadCfg 0 2), 2, 2, 0, _, d1, lb, _, (by decide +kernel), rfl, rfl, (by decide +kernel), (by decide +kernel), (by decide +kernel), (by decide +kernel), (by decide +kernel), (by decide +kernel), _, rfl, (by decide +kernel), (by decide +kernel), (by decide +kernel), (by decide +kernel)⟩,
   ⟨(wj 1 1 1 { jx 1 with model := 0x78 } [(0, { mres 1 with id := 0x78 })]), 2, 2, 0, _, d1, lb, _, (by decide +kernel), rfl, rfl, (by decide +kernel), (by decide +kernel), (by decide +kernel), (by decide +kernel), (by decide +kernel), (by decide +kernel), _, rfl, (by decide +kernel), (bodyR 0x15), ((shardImages (shardOf (d1)) (bodyR 0x15)).getD []), (by decide +kernel), (by decide +kernel), (by decide +kernel), (by decide +kernel), (by decide +kernel)⟩,
   ⟨(wj 1 1 1 { jx 1 with epoch := 5 } [(0, mres 1)]), 2, 2, 0, _, d1, lb, _, (by decide +kernel), rfl, rfl, (by decide +kernel), (by decide +kernel), (by decide +kernel), (by decide +kernel), (by decide +kernel), (by decide +kernel), _, rfl, (by decide +kernel), (bodyR 0x15), ((shardImages (shardOf (d1)) (bodyR 0x15)).getD []), (by decide +kernel), (by decide +kernel), (by decide +kernel), (by decide +kernel), (by decide +kernel), (by decide +kernel)⟩,
   ⟨(wj 1 1 1 (jx 1) [(0, mres 1)]), 2, 2, 0, _, d2, lb, _, (by decide +kernel), rfl, rfl, (by decide +kernel), (by decide +kernel), (by decide +kernel), (by decide +kernel), (by decide +kernel), (by decide +kernel), _, rfl, (by decide +kernel), (bodyR 0x15), ((shardImages (shardOf (d2)) (bodyR 0x15)).getD []), (by decide +kernel), (by decide +kernel), (by decide +kernel), (by decide +kernel), (by decide +kernel), (by decide +kernel), (by decide +kernel)⟩,
   ⟨(wj 1 1 1 (jx 1) [(0, mres 1)]), 2, 2, 0, _, d3, lb, _, (by decide +kernel), rfl, rfl, (by decide +kernel), (by decide +kernel), (by decide +kernel), (by decide +kernel), (by decide +kernel), (by decide +kernel), _, rfl, (by decide +kernel), (bodyR 0x19), ((shardImages (shardOf d3) (bodyR 0x19)).getD []), (by decide +kernel), (by decide +kernel), (by decide +kernel), (by decide +kernel), (by decide +kernel), (by decide +kernel), (some_getD (by decide +kernel)), (by decide +kernel)⟩,
   ⟨((wj 1 1 2 (jx 1 2) [(0, mres 1)]).setReg Reg.cfgTileOwner 1 16), 2, 2, 0, _, d1, lb, _, (by decide +kernel), rfl, rfl, (by decide +kernel), (by decide +kernel), (by decide +kernel), (by decide +kernel), (by decide +kernel), (by decide +kernel), _, rfl, (by decide +kernel), (bodyR 0x15), ((shardImages (shardOf d1) (bodyR 0x15)).getD []), (by decide +kernel), (by decide +kernel), (by decide +kernel), (by decide +kernel), (by decide +kernel), (by decide +kernel), (some_getD (by decide +kernel)), (by decide +kernel), (by decide +kernel), (by decide +kernel)⟩⟩

end T26

namespace T27
def wj (st op cnt : Nat) (j : Job) (models : SMap ModelSt := []) : State :=
  let s := { State.reset with ctxs := [(1, { (default : Ctx) with bound := true, qp := 1, sel := [(6, 0x1002)] })] }
  let s := ((s.setFld Reg.wgtJobStat 2 2 0 st).setReg Reg.wgtJobModel 2 0x77).setFld Reg.wgtJobEpoch 2 15 0 4
  let s := ((s.setFld Reg.wgtJobEpoch 2 28 16 1).setFld Reg.wgtJobListCnt 2 12 0 cnt).setReg Reg.wgtLoadCfg 0 0
  let s := (s.setReg Reg.wgtJobListLo 2 0x1000).setReg Reg.wgtJobListKey 2 0xEE
  { s with wgt := { WgtSt.init with jobs := if st = 0 then [] else [(2, j)], models := models, conf := [(0x77, 0)] } }
def jx (op : Nat) (cnt : Nat := 1): Job := { Job.init with op := op, model := 0x77, epoch := 4, layers := 1, cnt := cnt, ctx := 1 }
def mres (st : Nat) : ModelSt := { ModelSt.init with id := 0x77, st := st, epoch := 3, layers := [⟨3, [⟨[5], []⟩]⟩] }
def stg (layer : Nat) (ts : List Nat) : Staged := ⟨layer, 0, 1, ts, ts.map fun t => [BitVec.ofNat 8 t, 7, 7], [1,2]⟩
def jw (op : Nat) (f : Job → Job := id) : Job := f { jx op with staged := [(0, stg 0 [0x15])] }
def ww (st op : Nat) (j : Job) (ms : Nat) (f : State → State := id) : State := f { wj st op 1 j [(0, mres ms)] with spindles := [] }
def fl : List ResidRec := [⟨0x77, 3, [⟨3, [⟨[5], []⟩]⟩], none⟩]
def wf' (intent : Option Nat) (ep : Nat) (s : State) : State := { s with wgt := { s.wgt with flash := [⟨0x77, ep, [⟨3, [⟨[5], []⟩]⟩], intent⟩] } }
def brr (b : Option (Nat × Nat)) (s : State) : State := { s.setFld Reg.wgtBarrier 0 31 16 1 with wgt := { s.wgt with barrier := b } }
def wrw (k : Nat) (w : Option Bytes) (c : Nat) (s : State) : State := { s with warps := [(k, { WarpArr.init with writing := w, code := c, k := 3, record := some [1,2] })] }
def KK := (ww 1 1 (jw 1) 1).targetKey 0x15
def sss (fl : Nat) (s : State) : State := { s with serve := { s.serve with sessions := [ses fun x => { x with flags := fl }] } }
def gs (img : Bytes) (cells : Bool) : State :=
  let a : WarpArr := { WarpArr.init with code := 1, k := 2 }
  let s := ww 0 1 Job.init 2
  let s := { s with warps := [(KK, { a with record := some (epochRecord 0x77 3 0 0 0 (adigOf (if cells then a.image else [9])) 0) })] }
  { s with wgt := { s.wgt with models := [(0, { mres 2 with layers := [⟨3, [⟨[0x15], []⟩]⟩] })], gold := [(0x15, ⟨img, false⟩)] } }

theorem witness_WeightWritesAndTheBarrier_1 :
    (∃ s : State, ∃ b : BitVec 4, ∃ j : Nat, ∃ x : Job, j = b.toNat ∧ x = s.job j ∧ ∃ y : BitVec 12, ∃ l : Nat, ∃ ts : List Nat, l = y.toNat ∧ x.op = 1 ∧ (s.jobState j = 1 ∨ s.jobState j = 3) ∧ x.layerWhole l = true ∧ (¬l ∈ x.written) ∧ (∀ (t : Nat), t ∈ x.layerTargets l → s.svcPending (s.targetKey t / 16) (s.targetKey t % 16) = false ∧ (s.tile (s.targetKey t / 16)).stage = SvcStage.idle) ∧ (ts = List.filter (fun t => !s.recordMatches x t) (x.layerTargets l)) ∧ ts ≠ []) ∧
    (∃ s : State, ∃ b : BitVec 4, ∃ j : Nat, ∃ x : Job, j = b.toNat ∧ x = s.job j ∧ ∃ y : BitVec 12, ∃ l : Nat, ∃ ts : List Nat, l = y.toNat ∧ x.op = 1 ∧ (s.jobState j = 1 ∨ s.jobState j = 3) ∧ x.layerWhole l = true ∧ (¬l ∈ x.written) ∧ (∀ (t : Nat), t ∈ x.layerTargets l → s.svcPending (s.targetKey t / 16) (s.targetKey t % 16) = false ∧ (s.tile (s.targetKey t / 16)).stage = SvcStage.idle) ∧ (ts = List.filter (fun t => !s.recordMatches x t) (x.layerTargets l)) ∧ ∃ m : Nat, s.jobState j = 3 ∧ ts = [] ∧ x.writes = [] ∧ x.layers = 1 ∧ l = 0 ∧ s.modelEntry x.model = some m) ∧
    (∃ s : State, ∃ b : BitVec 4, ∃ j : Nat, ∃ x : Job, j = b.toNat ∧ x = s.job j ∧ ∃ m : Nat, m < 8 ∧ x.op = 2 ∧ s.jobState j = 1 ∧ List.length x.staged = x.cnt ∧ s.wgt.barrier = none ∧ s.modelEntry x.model = some m ∧ (s.model m).st = 2) ∧
    (∃ s : State, ∃ b : BitVec 4, ∃ j : Nat, ∃ x : Job, j = b.toNat ∧ x = s.job j ∧ ∃ m : Nat, m < 8 ∧ x.op = 2 ∧ s.jobState j = 1 ∧ List.length x.staged = x.cnt ∧ s.wgt.barrier = none ∧ s.modelEntry x.model = some m ∧ (s.model m).st ≠ 2) ∧
    (∃ s : State, ∃ b : BitVec 4, ∃ j : Nat, ∃ x : Job, j = b.toNat ∧ x = s.job j ∧ x.op = 2 ∧ s.jobState j = 2 ∧ ∃ t : Nat, ∃ img : Bytes, (∀ (p : Nat), p < 16 → s.drained p = true) ∧ List.flatMap x.layerTargets x.named = [t] ∧ (s.tile (s.targetKey t / 16)).stage = SvcStage.idle ∧ (∀ (n : Nat), n < 9 → (s.warp (arrKey (s.targetKey t / 16) n)).writing = none) ∧ (∀ (e : Nat × Job), e ∈ s.wgt.jobs → e.fst ≠ j → ∀ (u : Nat), u ∈ e.snd.writes → s.targetKey u / 16 ≠ s.targetKey t / 16) ∧ (Option.map (fun q => q.snd.snd) (x.image t) = some img)) ∧
    (∃ s : State, ∃ b : BitVec 4, ∃ j : Nat, ∃ x : Job, j = b.toNat ∧ x = s.job j ∧ x.op = 2 ∧ s.jobState j = 2 ∧ (∃ p, p < 16 ∧ s.drained p = false ∧ ∃ g, (s.part p).prog = some g ∧ g.model = x.model)) :=
  ⟨⟨(ww 3 1 (jw 1) 1), 2, 2, _, (by decide +kernel), rfl, 0, 0, ([0x15]), (by decide +kernel), (by decide +kernel), (by decide +kernel), (by decide +kernel), (by decide +kernel), (by decide +kernel), (by decide +kernel), (by decide +kernel)⟩,
   ⟨((let s := ww 3 1 (jw 1) 1; { s with warps := [(KK, { WarpArr.init with code := 1, cells := [], record := s.recordFor (jw 1) 0x15 })] })), 2, 2, _, (by decide +kernel), rfl, 0, 0, ([]), (by decide +kernel), (by decide +kernel), (by decide +kernel), (by decide +kernel), (by decide +kernel), (by decide +kernel), (by decide +kernel), 0, (by decide +kernel), (by decide +kernel), (by decide +kernel), (by decide +kernel), (by decide +kernel), (by decide +kernel)⟩,
   ⟨(wf' none 3 (ww 1 2 (jw 2) 2)), 2, 2, _, (by decide +kernel), rfl, 0, (by decide +kernel), (by decide +kernel), (by decide +kernel), (by decide +kernel), (by decide +kernel), (by decide +kernel), (by decide +kernel)⟩,
   ⟨(wf' none 3 (ww 1 2 (jw 2) 3)), 2, 2, _, (by decide +kernel), rfl, 0, (by decide +kernel), (by decide +kernel), (by decide +kernel), (by decide +kernel), (by decide +kernel), (by decide +kernel), (by decide +kernel)⟩,
   ⟨((brr (some (2,0)) (ww 2 2 (jw 2) 3))), 2, 2, _, (by decide +kernel), rfl, (by decide +kernel), (by decide +kernel), 0x15, ([0x15,7,7]), (by decide +kernel), (by decide +kernel), (by decide +kernel), (by decide +kernel), (by decide +kernel), (by decide +kernel)⟩,
   ⟨((let s := brr (some (2,0)) (ww 2 2 (jw 2) 3); { s with parts := [(1, { PartSt.init with inStep := true, prog := some { prog0 [0] with model := 0x77 } })] })), 2, 2, _, (by decide +kernel), rfl, (by decide +kernel), (by decide +kernel), (by decide +kernel)⟩⟩

theorem witness_WeightWritesAndTheBarrier_2 :
    (∃ s : State, ∃ b : BitVec 4, ∃ j : Nat, ∃ x : Job, j = b.toNat ∧ x = s.job j ∧ ∃ m : Nat, x.op = 2 ∧ s.jobState j = 3 ∧ x.failed = false ∧ x.writes = [] ∧ s.modelEntry x.model = some m) ∧
    (∃ s : State, ∃ b : BitVec 4, ∃ j : Nat, ∃ x : Job, j = b.toNat ∧ x = s.job j ∧ ∃ m : Nat, s.wgt.barrier = some (j, m) ∧ s.jobState j = 3 ∧ x.failed = false ∧ s.committed x = true) ∧
    (∃ s : State, ∃ b : BitVec 4, ∃ j : Nat, ∃ x : Job, j = b.toNat ∧ x = s.job j ∧ ∃ m : Nat, s.wgt.barrier = some (j, m) ∧ s.jobState j = 3 ∧ x.failed = true ∧ (List.map Session.id s.serve.sessions).Nodup) ∧
    (∃ s : State, ∃ y : BitVec 12, ∃ i : BitVec 4, ∃ c : ArrayCheck, ∃ p : Nat, ∃ k : Nat, ∃ j : Nat, ∃ t : Nat, ∃ x : Job, ∃ img : Bytes, p = y.toNat ∧ physOk p = true ∧ i.toNat < 8 ∧ k = arrKey p i.toNat ∧ (s.warp k).writing = some img ∧ s.targetKey t = k ∧ x = s.job j ∧ x.writes = [t] ∧ (List.findSome? (fun e => Option.map (fun u => (e.fst, u)) (List.find? (fun u => s.targetKey u == k) e.snd.writes)) s.wgt.jobs = some (j, t)) ∧ (∀ (e : Nat × Job), e ∈ s.wgt.jobs → e.fst ≠ j → ∀ (u : Nat), u ∈ e.snd.writes → s.targetKey u / 16 ≠ p) ∧ c.writeOk = true ∧ (((s.tile p).queue.any fun q => q.arr == i.toNat) = false) ∧ x.op = 2) ∧
    (∃ s : State, ∃ y : BitVec 12, ∃ i : BitVec 4, ∃ c : ArrayCheck, ∃ p : Nat, ∃ k : Nat, ∃ j : Nat, ∃ t : Nat, ∃ x : Job, ∃ img : Bytes, p = y.toNat ∧ physOk p = true ∧ i.toNat < 8 ∧ k = arrKey p i.toNat ∧ (s.warp k).writing = some img ∧ s.targetKey t = k ∧ x = s.job j ∧ x.writes = [t] ∧ (List.findSome? (fun e => Option.map (fun u => (e.fst, u)) (List.find? (fun u => s.targetKey u == k) e.snd.writes)) s.wgt.jobs = some (j, t)) ∧ (∀ (e : Nat × Job), e ∈ s.wgt.jobs → e.fst ≠ j → ∀ (u : Nat), u ∈ e.snd.writes → s.targetKey u / 16 ≠ p) ∧ c.writeOk = false ∧ x.op = 2) ∧
    (∃ s : State, ∃ y : BitVec 12, ∃ i : BitVec 4, ∃ c : ArrayCheck, ∃ p : Nat, ∃ k : Nat, ∃ j : Nat, ∃ t : Nat, ∃ x : Job, ∃ img : Bytes, p = y.toNat ∧ physOk p = true ∧ i.toNat < 8 ∧ k = arrKey p i.toNat ∧ (s.warp k).writing = some img ∧ s.targetKey t = k ∧ x = s.job j ∧ x.writes = [t] ∧ (List.findSome? (fun e => Option.map (fun u => (e.fst, u)) (List.find? (fun u => s.targetKey u == k) e.snd.writes)) s.wgt.jobs = some (j, t)) ∧ (∀ (e : Nat × Job), e ∈ s.wgt.jobs → e.fst ≠ j → ∀ (u : Nat), u ∈ e.snd.writes → s.targetKey u / 16 ≠ p) ∧ c.writeOk = false ∧ x.op = 1 ∧ j < 16 ∧ x.indexOf t < 4096) :=
  ⟨⟨(wf' (some 4) 3 (brr (some (2,0)) (ww 3 2 (jw 2) 3))), 2, 2, _, (by decide +kernel), rfl, 0, (by decide +kernel), (by decide +kernel), (by decide +kernel), (by decide +kernel), (by decide +kernel)⟩,
   ⟨(sss 0 (wf' none 4 (brr (some (2,0)) (ww 3 2 (jw 2) 3)))), 2, 2, _, (by decide +kernel), rfl, 0, (by decide +kernel), (by decide +kernel), (by decide +kernel), (by decide +kernel)⟩,
   ⟨(sss 1 (wf' none 4 (brr (some (2,0)) (ww 3 2 (jw 2 (fun j => { j with failed := true })) 3)))), 2, 2, _, (by decide +kernel), rfl, 0, (by decide +kernel), (by decide +kernel), (by decide +kernel), (by decide +kernel)⟩,
   ⟨(wrw KK (some [0x15,7,7]) 1 (brr (some (2,0)) (ww 3 2 (jw 2 fun j => { j with writes := [0x15] }) 3))), 1, 5, ({ (default : ArrayCheck) with writeOk := true }), 1, KK, 2, 0x15, _, ([0x15,7,7]), (by decide +kernel), (by decide +kernel), (by decide +kernel), (by decide +kernel), (by decide +kernel), (by decide +kernel), rfl, (by decide +kernel), (by decide +kernel), (by decide +kernel), (by decide +kernel), (by decide +kernel), (by decide +kernel)⟩,
   ⟨(wrw KK (some [0x15,7,7]) 1 (brr (some (2,0)) (ww 3 2 (jw 2 fun j => { j with writes := [0x15] }) 3))), 1, 5, ({ (default : ArrayCheck) with writeOk := false }), 1, KK, 2, 0x15, _, ([0x15,7,7]), (by decide +kernel), (by decide +kernel), (by decide +kernel), (by decide +kernel), (by decide +kernel), (by decide +kernel), rfl, (by decide +kernel), (by decide +kernel), (by decide +kernel), (by decide +kernel), (by decide +kernel)⟩,
   ⟨(wrw KK (some [0x15,7,7]) 1 ((ww 3 1 (jw 1 fun j => { j with writes := [0x15] }) 1))), 1, 5, ({ (default : ArrayCheck) with writeOk := false }), 1, KK, 2, 0x15, _, ([0x15,7,7]), (by decide +kernel), (by decide +kernel), (by decide +kernel), (by decide +kernel), (by decide +kernel), (by decide +kernel), rfl, (by decide +kernel), (by decide +kernel), (by decide +kernel), (by decide +kernel), (by decide +kernel), (by decide +kernel), (by decide +kernel)⟩⟩

theorem witness_WeightWritesAndTheBarrier_3 :
    (∃ s : State, ∃ w : BitVec 16, ∃ r : ShardReq, (List.find? (fun r => r.id == w.toNat && !r.lost && r.adapter.isNone) s.wgt.reqs = some r) ∧ (∀ (q : ShardReq), q ∈ s.wgt.reqs → q.id = w.toNat → q = r) ∧ (List.map Session.id s.serve.sessions).Nodup) ∧
    (∃ s : State, ∃ y : BitVec 12, ∃ i : BitVec 4, ∃ v : Bool, ∃ p : Nat, ∃ t : Nat, ∃ g : Gold, ∃ m : Nat, ∃ l : Nat, ∃ h : Nat, ∃ o : Nat, p = y.toNat ∧ physOk p = true ∧ i.toNat < 8 ∧ s.targetOf p i.toNat = some t ∧ s.gold t = some g ∧ s.locate t = some (m, l, h, o) ∧ s.stacked = true ∧ g.compared = false ∧ s.goldGood t = true) :=
  ⟨⟨(sss 0 (let s := ww 0 1 Job.init 2; { s with wgt := { s.wgt with reqs := [⟨9, 0x77, 3, 0, 0, none, false, []⟩, ⟨8, 0x77, 3, 0, 0, none, false, []⟩] } })), 9, (⟨9, 0x77, 3, 0, 0, none, false, []⟩), (by decide +kernel), (by decide +kernel), (by decide +kernel)⟩,
   ⟨(gs [9] false), 1, 5, true, 1, 0x15, (⟨[9], false⟩), 0, 0, 0, 0, (by decide +kernel), (by decide +kernel), (by decide +kernel), (by decide +kernel), (by decide +kernel), (by decide +kernel), (by decide +kernel), (by decide +kernel), (by decide +kernel)⟩⟩

end T27

namespace T28
def putAt (b : Bytes) (o : Nat) (x : Bytes) : Bytes := b.take o ++ x ++ b.drop (o + x.length)
def img (rel restart grant : Nat) (ws : List DWord) (ps : List Nat) (step : Nat := 0xA1) (lead : Nat := 128) : Bytes :=
  let ro := 128 + 16; let po := ro + 256; let wo := po + 8 * ps.length; let tot := wo + 8 * ws.length + 64
  let b := List.replicate (tot - 64) (0#8)
  let b := putAt b 0 [0x53#8, 0x50#8, 0x4E#8, 0x49#8, 0, 1]
  let b := putAt b 6 (natLe step 2); let b := putAt b 16 (natLe 0x1122334455 8); let b := putAt b 24 (natLe 0x77 4)
  let b := putAt b 28 (natLe 1 2); let b := putAt b 30 (natLe lead 2); let b := putAt b 32 (natLe tot 4); let b := putAt b 36 (natLe 100 4)
  let b := putAt b 40 (natLe 128 4); let b := putAt b 44 (natLe ro 4); let b := putAt b 52 (natLe ro 4)
  let b := putAt b 56 (natLe po 4); let b := putAt b 64 (natLe po 4); let b := putAt b 68 (natLe ps.length 4)
  let b := putAt b 128 (natLe rel 2 ++ natLe ws.length 2 ++ natLe restart 2 ++ natLe grant 2 ++ natLe wo 4)
  let b := putAt b po (ps.flatMap fun p => natLe p 8)
  let b := putAt b wo (ws.flatMap fun w => natLe w.toNat 8)
  b ++ sha512 (digestBytes (b ++ List.replicate 64 0))
def cmdm (op part len pid v : Nat) (pad : Nat := 0): Bytes := natLe op 1 ++ natLe part 1 ++ natLe 0x55 2 ++ natLe len 4 ++ natLe 0x1000 8 ++ natLe 0xBEEF 4 ++ natLe 77 6 ++ natLe pid 2 ++ natLe pad 4 ++ natLe v 8 ++ natLe 0 24
def mail (b : Bytes) (c : Nat) (s : State) : State :=
  let w := (lengthWord 64 (byteAt b 1 % 16) 4 :: wordsOf b)
  let q : HankQ := { (default : HankQ) with words := w.map fun w => (w, hamCheck w) }
  { s with serve := { s.serve with complete := [c], queues := SMap.set HankQ.init s.serve.queues (17+c) q } }
def lp : State :=
  let s := (State.reset.setReg Reg.cfgTileOwner 0 16).setReg Reg.cfgPartSlice 0 (4096 * 65536 % 2^32)
  let s := (s.setFld Reg.cfgPartDef 0 2 0 1).setFld Reg.cfgStepping 0 15 0 0xA1
  let s := (s.setReg Reg.cfgPartStackLines 0 2000).setReg Reg.pwrDistAlloc 0 4000
  { s with ctxs := [(1, { (default : Ctx) with bound := true, qp := 1})] }
def I1 := img 0 0 100 [encXset 1 5, encXset 2 6] [1 * 2^12 + 3 * 2^24 + 2^28 + 0x21 * 2^32]
def I2 := img 0 0 100 [encXset 1 5, encXset 2 6] [] 0xA2
def lpl (I : Bytes) (d : Nat := 0) : State := { lp with serve := { lp.serve with loading := some (2, cmdm 0x10 0 (I.length + d) 0 0) } }
def gP : Prog := { prog0 [0] with sites := [⟨0, 1, 3, 0x21⟩] }
def lpq : State := lp.modPart 0 fun p => { p with prog := some gP }

theorem witness_LoaderCommands_1 :
    (∃ s : State, ∃ c : Nat, ∃ p : Nat, ∃ b : Bytes, s.serve.loading = none ∧ s.nextCommand = some (c, b) ∧ c < 6 ∧ p = byteAt b 1 ∧ p < 16 ∧ byteAt b 0 = 16 ∧ s.quiescent p = true ∧ s.fld Reg.bstStatus 0 0 0 = 0) ∧
    (∃ s : State, ∃ c : Nat, ∃ p : Nat, ∃ b : Bytes, s.serve.loading = none ∧ s.nextCommand = some (c, b) ∧ c < 6 ∧ p = byteAt b 1 ∧ p < 16 ∧ s.quiescent p = false ∧ ∃ op : Nat, ∃ cmd : Instr, (op, cmd) ∈ [(16, Instr.load), (17, Instr.patch), (18, Instr.unload)] ∧ byteAt b 0 = op) ∧
    (∃ s : State, ∃ c : Nat, ∃ p : Nat, ∃ b : Bytes, s.serve.loading = none ∧ s.nextCommand = some (c, b) ∧ c < 6 ∧ p = byteAt b 1 ∧ p < 16 ∧ ∃ g : Prog, byteAt b 0 = 17 ∧ s.quiescent p = true ∧ (s.part p).prog = some g ∧ ∃ x : PatchSite, ∃ t : List Nat, ∃ v : Nat, (List.filter (fun x => x.id == leNat b 26 2) g.sites = [x]) ∧ 3 ≤ x.type ∧ List.map Prod.fst g.tiles = t ∧ t[x.tile]? = some v) ∧
    (∃ s : State, ∃ c : Nat, ∃ p : Nat, ∃ b : Bytes, s.serve.loading = none ∧ s.nextCommand = some (c, b) ∧ c < 6 ∧ p = byteAt b 1 ∧ p < 16 ∧ ∃ g : Prog, byteAt b 0 = 17 ∧ s.quiescent p = true ∧ (s.part p).prog = some g ∧ (∀ (x : PatchSite), x ∈ g.sites → x.id ≠ leNat b 26 2)) ∧
    (∃ s : State, ∃ c : Nat, ∃ p : Nat, ∃ b : Bytes, s.serve.loading = none ∧ s.nextCommand = some (c, b) ∧ c < 6 ∧ p = byteAt b 1 ∧ p < 16 ∧ byteAt b 0 = 18 ∧ s.quiescent p = true) ∧
    (∃ s : State, ∃ c : Nat, ∃ p : Nat, ∃ cmd : Bytes, s.serve.loading = some (c, cmd) ∧ c < 6 ∧ p = byteAt cmd 1 ∧ p < 16) :=
  ⟨⟨(mail (cmdm 0x10 0 500 0 0) 2 lp), 2, 0, (cmdm 0x10 0 500 0 0), (by decide +kernel), (by decide +kernel), (by decide +kernel), (by decide +kernel), (by decide +kernel), (by decide +kernel), (by decide +kernel), (by decide +kernel)⟩,
   ⟨((mail (cmdm 0x11 0 500 0x21 7) 2 lpq).modPart 0 fun p => {p with inStep := true}), 2, 0, (cmdm 0x11 0 500 0x21 7), (by decide +kernel), (by decide +kernel), (by decide +kernel), (by decide +kernel), (by decide +kernel), (by decide +kernel), 17, Sys2Proof.Instr.patch, (by decide +kernel), (by decide +kernel)⟩,
   ⟨((mail (cmdm 0x11 0 500 0x21 7) 2 lpq)), 2, 0, (cmdm 0x11 0 500 0x21 7), (by decide +kernel), (by decide +kernel), (by decide +kernel), (by decide +kernel), (by decide +kernel), gP, (by decide +kernel), (by decide +kernel), (by decide +kernel), (⟨0, 1, 3, 0x21⟩), ([0]), 0, (by decide +kernel), (by decide +kernel), (by decide +kernel), (by decide +kernel)⟩,
   ⟨((mail (cmdm 0x11 0 500 0x23 7) 2 lpq)), 2, 0, (cmdm 0x11 0 500 0x23 7), (by decide +kernel), (by decide +kernel), (by decide +kernel), (by decide +kernel), (by decide +kernel), gP, (by decide +kernel), (by decide +kernel), (by decide +kernel), (by decide +kernel)⟩,
   ⟨((mail (cmdm 0x12 0 500 0x23 7) 2 lpq)), 2, 0, (cmdm 0x12 0 500 0x23 7), (by decide +kernel), (by decide +kernel), (by decide +kernel), (by decide +kernel), (by decide +kernel), (by decide +kernel), (by decide +kernel)⟩,
   ⟨(lpl I1), 2, 0, (cmdm 0x10 0 I1.length 0 0), (by decide +kernel), (by decide +kernel), (by decide +kernel), (by decide +kernel)⟩⟩

theorem witness_LoaderCommands_2 :
    (∃ s : State, ∃ c : Nat, ∃ p : Nat, ∃ cmd : Bytes, s.serve.loading = some (c, cmd) ∧ c < 6 ∧ p = byteAt cmd 1 ∧ p < 16 ∧ ∃ image : Bytes, List.length image = leNat cmd 4 4 ∧ s.quiescent p = true ∧ s.imageFault p (List.length image) image = none) ∧
    (∃ s : State, ∃ c : Nat, ∃ p : Nat, ∃ cmd : Bytes, s.serve.loading = some (c, cmd) ∧ c < 6 ∧ p = byteAt cmd 1 ∧ p < 16 ∧ ∃ image : Bytes, List.length image = leNat cmd 4 4 ∧ s.quiescent p = true ∧ ∃ f : LoadFail, s.imageFault p (List.length image) image = some f) ∧
    (∃ s : State, ∃ ctx : BitVec 3, ∃ c : Nat, ∃ n : Nat, ∃ w : DWord, c = ctx.toNat ∧ c < 6 ∧ s.serve.loading = none ∧ s.frontLength c = some w ∧ commandWord w = false ∧ (n = if s.frontBad c = true then 8 else lengthWords 17 w)) :=
  ⟨⟨(lpl I1), 2, 0, (cmdm 0x10 0 I1.length 0 0), (by decide +kernel), (by decide +kernel), (by decide +kernel), (by decide +kernel), I1, (by decide +kernel), (by decide +kernel), (by decide +kernel)⟩,
   ⟨(lpl I2), 2, 0, (cmdm 0x10 0 I2.length 0 0), (by decide +kernel), (by decide +kernel), (by decide +kernel), (by decide +kernel), I2, (by decide +kernel), (by decide +kernel), (⟨4, 0xFFFF, 0, []⟩), (by decide +kernel)⟩,
   ⟨({ (mail (cmdm 0x12 0 500 0x23 7) 2 lp) with serve := { lp.serve with complete := [2], queues := SMap.set HankQ.init [] 19 { (default : HankQ) with words := (lengthWord 16 0 4 :: wordsOf (List.replicate 64 0)).map fun w => (w, hamCheck w) } } }), 2, 2, 2, (lengthWord 16 0 4), (by decide +kernel), (by decide +kernel), (by decide +kernel), (by decide +kernel), (by decide +kernel), (by decide +kernel)⟩⟩

end T28

namespace T29
def img1 (fw : Bool) (svn : Nat) (step : Nat := 0xA1) (good : Bool := true): Bytes :=
  let p : Bytes := natLe 0x1234567 8
  (if fw then [0x4C, 0x46, 0x57, 0x49] else [0x4C, 0x42, 0x4F, 0x54]) ++ natLe 0x0100 2 ++ natLe svn 2 ++ natLe step 2 ++ natLe 1 2 ++ natLe 8 4 ++ natLe 0 48 ++ (if good then sha512 p else List.replicate 64 0) ++ p ++ natLe 0 64
def sec (t i : Nat) (v : Bytes) : Bytes := natLe t 2 ++ natLe i 2 ++ natLe v.length 4 ++ v ++ List.replicate (pad8 v.length - v.length) 0
def cfg1 (seq : Nat) (serial : Nat := 0) (hr : Nat := 8) (good : Bool := true): Bytes :=
  let body := sec 1 0 (natLe serial 8 ++ natLe 5 2 ++ natLe 0 6) ++ sec 3 0 (natLe 0x0A000001 4 ++ natLe 0 12) ++
    sec 9 0 ((List.replicate 50 (natLe 20000 4)).flatten ++ natLe hr 2 ++ natLe 500 2 ++ natLe 0 4)
  let n := 64 + body.length + 128
  let c := [0x4C#8, 0x43#8, 0x46#8, 0x47#8] ++ natLe 0x0100 2 ++ natLe 0 2 ++ natLe n 4 ++ natLe seq 4 ++ natLe 3 2 ++ natLe 0 46 ++ body
  c ++ (if good then sha512 c else List.replicate 64 0) ++ List.replicate 64 1
def rds : List Int := List.replicate 412 120
def si : StartIn := { flashOk := true, mfgEquip := false, railsOk := true, linksOk := true, physOk := true, memtestFail := none, coresOk := true, thermal := false, startExcl := [], readings := rds, sampleBad := [], ms := 4000 }
def fl (b fw a : Bytes) (cB : Bytes := []) (cnt : Nat := 0) : FlashSt := { State.reset.boot.flash with boot := b, fw := fw, copyA := a, copyB := cB, startCnt := cnt }
def st0 (f : FlashSt) (base : Nat := 1) : State := { State.reset with boot := { BootSt.init with fuse := { State.reset.boot.fuse with base := base, bootMin := 1 }, flash := f } }
def F := fl (img1 false 3) (img1 true 3) (cfg1 7) (cfg1 6)

theorem witness_StartsAndFailedStarts_1 :
    (∃ s : State, ∃ b : State, ∃ i : StartIn, ∃ cmd : Instr, ∃ f : FlashSt, ∃ n : Nat, f = s.boot.flash ∧ n = min 255 (f.startCnt + 1) ∧ (cmd = Instr.powerGood i ∧ s.darkNow = true ∧ s.power.held = false ∧ b = s.off.setPin pinFault false ∨ cmd = Instr.startRetryReset i ∧ s.boot.restart = 1 ∧ b = s.off ∨ cmd = Instr.delayedRestart i ∧ s.boot.restart = 2 ∧ b = s.off.setPin pinFault false) ∧ ∃ Fails : Nat → Nat → Nat → Prop, (Fails = fun reason step detail => Runs s cmd fun s' => s'.boot.flash.reason = reason ∧ s'.boot.flash.step = step ∧ s'.boot.flash.detail = detail ∧ s'.boot.flash.startCnt = n ∧ s'.boot.flash.inProgress = false ∧ s'.boot.waits = none ∧ (n < 3 → s'.boot.restart = 1 ∧ s'.powerState = 0) ∧ (3 ≤ n → s'.boot.restart = 0 ∧ s'.powerState = 5 ∧ s'.inFallback = true)) ∧ i.flashOk = false) ∧
    (∃ s : State, ∃ k : Nat, k = s.boot.flash.startCnt ∧ ∃ cmd : Instr, ∃ reason : Nat, (cmd = Instr.startTimeout ∧ s.boot.waits.isSome = true ∧ reason = 80 ∨ cmd = Instr.fwStartTimeout ∧ s.boot.waits = some 6 ∧ reason = 66)) ∧
    (∃ s : State, ∃ k : Nat, k = s.boot.flash.startCnt ∧ (¬s.powerState ∈ [2, 3, 4])) ∧
    (∃ s : State, ∃ k : Nat, k = s.boot.flash.startCnt ∧ s.boot.waits ≠ some 6) ∧
    (∃ s : State, ∃ k : Nat, k = s.boot.flash.startCnt ∧ s.boot.waits = none) :=
  ⟨⟨(st0 F), ((st0 F).off.setPin pinFault false), ({ si with flashOk := false}), (.powerGood { si with flashOk := false}), _, 1, rfl, (by decide +kernel), (by decide +kernel), _, rfl, (by decide +kernel)⟩,
   ⟨({st0 F with boot := {(st0 F).boot with waits := some 6}}), 0, (by decide +kernel), .startTimeout, 0x50, (by decide +kernel)⟩,
   ⟨(st0 F), 0, (by decide +kernel), (by decide +kernel)⟩,
   ⟨(st0 F), 0, (by decide +kernel), (by decide +kernel)⟩,
   ⟨(st0 F), 0, (by decide +kernel), (by decide +kernel)⟩⟩

end T29

namespace T30
def img1 (fw : Bool) (svn : Nat) (step : Nat := 0xA1) (good : Bool := true): Bytes :=
  let p : Bytes := natLe 0x1234567 8
  (if fw then [0x4C, 0x46, 0x57, 0x49] else [0x4C, 0x42, 0x4F, 0x54]) ++ natLe 0x0100 2 ++ natLe svn 2 ++ natLe step 2 ++ natLe 1 2 ++ natLe 8 4 ++ natLe 0 48 ++ (if good then sha512 p else List.replicate 64 0) ++ p ++ natLe 0 64
def sec (t i : Nat) (v : Bytes) : Bytes := natLe t 2 ++ natLe i 2 ++ natLe v.length 4 ++ v ++ List.replicate (pad8 v.length - v.length) 0
def cfg1 (seq : Nat) (serial : Nat := 0) (hr : Nat := 8) (good : Bool := true): Bytes :=
  let body := sec 1 0 (natLe serial 8 ++ natLe 5 2 ++ natLe 0 6) ++ sec 3 0 (natLe 0x0A000001 4 ++ natLe 0 12) ++
    sec 9 0 ((List.replicate 50 (natLe 20000 4)).flatten ++ natLe hr 2 ++ natLe 500 2 ++ natLe 0 4)
  let n := 64 + body.length + 128
  let c := [0x4C#8, 0x43#8, 0x46#8, 0x47#8] ++ natLe 0x0100 2 ++ natLe 0 2 ++ natLe n 4 ++ natLe seq 4 ++ natLe 3 2 ++ natLe 0 46 ++ body
  c ++ (if good then sha512 c else List.replicate 64 0) ++ List.replicate 64 1
def fl (b fw a : Bytes) (cB : Bytes := []) (cnt : Nat := 0) : FlashSt := { State.reset.boot.flash with boot := b, fw := fw, copyA := a, copyB := cB, startCnt := cnt }
def st0 (f : FlashSt) (base : Nat := 1) : State := { State.reset with boot := { BootSt.init with fuse := { State.reset.boot.fuse with base := base, bootMin := 1 }, flash := f } }
def F := fl (img1 false 3) (img1 true 3) (cfg1 7) (cfg1 6)
def cl (fb : Bool) (f : FlashSt := F) (base : Nat := 1) : State :=
  let s := { st0 f base with ctxs := [(1, { (default : Ctx) with bound := true, qp := 1 })] }
  let s := (s.setReg Reg.cfgCmdAddrLo 0 0x1000).setReg Reg.cfgCmdKey 0 0xBEEF
  let s := { s with events := { s.events with running := true, budget := 5 } }
  if fb then (s.setFld Reg.cfgStatus 0 5 5 1) else s
def len (n : Nat) (s : State) : State := s.setReg Reg.cfgCmdLen 0 n
def tok (kind : Nat) (serial : Nat := 0) : Bytes := [0x4C#8, 0x4C#8, 0x43#8, 0x54#8] ++ natLe kind 1 ++ natLe 0 1 ++ natLe 0 1 ++ natLe 0 1 ++ natLe serial 8 ++ natLe 0 112
def pushW (op : Nat) (body : Bytes) (fbk : Nat := 0) : Bytes := [0x4C#8, 0x50#8, 0x53#8, 0x48#8] ++ natLe 0x0100 2 ++ natLe (4 - op) 1 ++ natLe fbk 1 ++ natLe 0 8 ++ natLe body.length 4 ++ natLe 0 44 ++ body
def run (op : Nat) (b : Bytes) (s : State) : State := (s.setReg Reg.cfgCmdResult 0 (128 + op * 256)).setReg Reg.cfgCmdLen 0 b.length
def fq (op idx : Nat) : Bytes := [0x4C#8, 0x46#8, 0x42#8, 0x51#8] ++ natLe op 1 ++ natLe 0 1 ++ natLe idx 2 ++ natLe 0xABCDEF 8
def logd (s : State) : State := { s with events := { s.events with log := (List.range 40).map fun i => natLe i 32 } }

theorem witness_ConfigurationCommands_1 :
    (∃ s : State, ∃ c : BitVec 3, s.ctxLive c.toNat = true ∧ s.cfgRuns = none ∧ s.boot.life ≠ 5 ∧ ∃ Done : State → Nat → Nat → Prop, (Done = fun s' op r => Ends s' c.toNat 0 ∧ s'.reg Reg.cfgCmdResult = r + op * 2 ^ 8) ∧ ∃ op : Nat, ∃ cmd : Instr, (op, cmd) ∈ [(1, Instr.stageConfig c), (2, Instr.stageFirmware c), (3, Instr.stageBoot c)] ∧ s.reg Reg.cfgCmdLen ≤ 33554432 + 192) ∧
    (∃ s : State, ∃ c : BitVec 3, s.ctxLive c.toNat = true ∧ s.cfgRuns = none ∧ s.boot.life ≠ 5 ∧ ∃ Done : State → Nat → Nat → Prop, (Done = fun s' op r => Ends s' c.toNat 0 ∧ s'.reg Reg.cfgCmdResult = r + op * 2 ^ 8) ∧ ∃ t : Option Bytes, s.inFallback = false ∧ t = none) ∧
    (∃ s : State, ∃ c : BitVec 3, s.ctxLive c.toNat = true ∧ s.cfgRuns = none ∧ s.boot.life ≠ 5 ∧ ∃ Done : State → Nat → Nat → Prop, (Done = fun s' op r => Ends s' c.toNat 0 ∧ s'.reg Reg.cfgCmdResult = r + op * 2 ^ 8)) ∧
    (∃ s : State, ∃ c : BitVec 3, s.ctxLive c.toNat = true ∧ s.cfgRuns = none ∧ s.boot.life ≠ 5 ∧ ∃ Done : State → Nat → Nat → Prop, (Done = fun s' op r => Ends s' c.toNat 0 ∧ s'.reg Reg.cfgCmdResult = r + op * 2 ^ 8) ∧ s.inFallback = false ∧ s.fld Reg.cfgStatus 0 7 7 = 0) ∧
    (∃ s : State, ∃ c : BitVec 3, s.ctxLive c.toNat = true ∧ s.cfgRuns = none ∧ s.boot.life ≠ 5 ∧ ∃ Done : State → Nat → Nat → Prop, (Done = fun s' op r => Ends s' c.toNat 0 ∧ s'.reg Reg.cfgCmdResult = r + op * 2 ^ 8) ∧ s.inFallback = false) ∧
    (∃ s : State, ∃ c : BitVec 3, s.ctxLive c.toNat = true ∧ s.cfgRuns = none ∧ s.boot.life ≠ 5 ∧ ∃ Done : State → Nat → Nat → Prop, (Done = fun s' op r => Ends s' c.toNat 0 ∧ s'.reg Reg.cfgCmdResult = r + op * 2 ^ 8) ∧ ∃ op : Nat, ∃ cmd : Instr, (op, cmd) ∈ [(1, Instr.stageConfig c), (2, Instr.stageFirmware c), (3, Instr.stageBoot c)] ∧ 33554432 + 192 < s.reg Reg.cfgCmdLen) :=
  ⟨⟨(len 1000 (cl true)), 1, (by decide +kernel), (by decide +kernel), (by decide +kernel), _, rfl, 1, (Sys2Proof.Instr.stageConfig 0x1#3), (by decide +kernel), (by decide +kernel)⟩,
   ⟨(len 1000 (cl false)), 1, (by decide +kernel), (by decide +kernel), (by decide +kernel), _, rfl, none, (by decide +kernel), (by decide +kernel)⟩,
   ⟨(len 1000 (cl true)), 1, (by decide +kernel), (by decide +kernel), (by decide +kernel), _, rfl⟩,
   ⟨(len 1000 (cl false)), 1, (by decide +kernel), (by decide +kernel), (by decide +kernel), _, rfl, (by decide +kernel), (by decide +kernel)⟩,
   ⟨(len 1000 (cl false)), 1, (by decide +kernel), (by decide +kernel), (by decide +kernel), _, rfl, (by decide +kernel)⟩,
   ⟨(len 33554625 (cl false)), 1, (by decide +kernel), (by decide +kernel), (by decide +kernel), _, rfl, 1, (Sys2Proof.Instr.stageConfig 0x1#3), (by decide +kernel), (by decide +kernel)⟩⟩

theorem witness_ConfigurationCommands_2 :
    (∃ s : State, ∃ c : BitVec 3, s.ctxLive c.toNat = true ∧ s.cfgRuns = none ∧ s.boot.life ≠ 5 ∧ ∃ Done : State → Nat → Nat → Prop, (Done = fun s' op r => Ends s' c.toNat 0 ∧ s'.reg Reg.cfgCmdResult = r + op * 2 ^ 8) ∧ ∃ t : Option Bytes, s.inFallback = false ∧ ∃ b : Bytes, ∃ r : Nat, t = some b ∧ s.tokenResult b = r ∧ r ≠ 1) ∧
    (∃ s : State, ∃ c : BitVec 3, s.ctxLive c.toNat = true ∧ s.cfgRuns = none ∧ s.boot.life ≠ 5 ∧ ∃ Done : State → Nat → Nat → Prop, (Done = fun s' op r => Ends s' c.toNat 0 ∧ s'.reg Reg.cfgCmdResult = r + op * 2 ^ 8) ∧ s.inFallback = false ∧ s.fld Reg.cfgStatus 0 7 7 = 1) ∧
    (∃ s : State, ∃ c : BitVec 3, s.ctxLive c.toNat = true ∧ s.cfgRuns = none ∧ s.boot.life ≠ 5 ∧ ∃ Done : State → Nat → Nat → Prop, (Done = fun s' op r => Ends s' c.toNat 0 ∧ s'.reg Reg.cfgCmdResult = r + op * 2 ^ 8) ∧ s.inFallback = true) ∧
    (∃ s : State, ∃ c : BitVec 3, s.ctxLive c.toNat = true ∧ s.cfgRuns = none ∧ s.boot.life ≠ 5 ∧ ∃ Done : State → Nat → Nat → Prop, (Done = fun s' op r => Ends s' c.toNat 0 ∧ s'.reg Reg.cfgCmdResult = r + op * 2 ^ 8) ∧ ∃ left : Bytes, s.inFallback = true ∧ (left = if cfgSeq s.boot.flash.copyA < cfgSeq s.boot.flash.copyB then s.boot.flash.copyA else s.boot.flash.copyB) ∧ cfgFault s.boot.fuse s.boot.life s.boot.flash.seqMin left ≠ none) ∧
    (∃ s : State, ∃ push : Bytes, ∃ ok : Bool, ∃ op : Nat, ∃ r : Nat, ∃ body : Bytes, s.cfgRuns = some op ∧ 1 ≤ op ∧ op ≤ 3 ∧ s.pushResult op push = (r, body) ∧ r ≠ 1 ∧ r < 128) ∧
    (∃ s : State, ∃ push : Bytes, ∃ ok : Bool, s.cfgRuns = none) :=
  ⟨⟨((cl false).setFld Reg.cfgStatus 0 7 7 1), 1, (by decide +kernel), (by decide +kernel), (by decide +kernel), _, rfl, (some (tok 1 9)), (by decide +kernel), (tok 1 9), 7, (by decide +kernel), (by decide +kernel), (by decide +kernel)⟩,
   ⟨((cl false).setFld Reg.cfgStatus 0 7 7 1), 1, (by decide +kernel), (by decide +kernel), (by decide +kernel), _, rfl, (by decide +kernel), (by decide +kernel)⟩,
   ⟨(len 1000 (cl true)), 1, (by decide +kernel), (by decide +kernel), (by decide +kernel), _, rfl, (by decide +kernel)⟩,
   ⟨(len 1000 (cl true (fl [] [] (cfg1 7) []))), 1, (by decide +kernel), (by decide +kernel), (by decide +kernel), _, rfl, _, (by decide +kernel), rfl, (by decide +kernel)⟩,
   ⟨(run 1 (pushW 1 (cfg1 9)) (cl true)), (pushW 1 (cfg1 9)), true, 1, 12, ([]), (by decide +kernel), (by decide +kernel), (by decide +kernel), (by decide +kernel), (by decide +kernel), (by decide +kernel)⟩,
   ⟨(cl false), (pushW 2 (cfg1 9)), true, (by decide +kernel)⟩⟩

theorem witness_ConfigurationCommands_3 :
    (∃ s : State, ∃ req : Bytes, ∃ n : Nat, (n = if s.boot.udpSec = s.now / 1000000000 then s.boot.udpCnt else 0) ∧ ∃ op : Nat, ∃ cmd : Instr, (op, cmd) ∈ [(1, Instr.fallbackStatus req), (2, Instr.fallbackLog req)] ∧ s.inFallback = true ∧ n < 100 ∧ List.length req = 16 ∧ List.take 4 req = [76#8, 70#8, 66#8, 81#8] ∧ byteAt req 4 = op) ∧
    (∃ s : State, ∃ req : Bytes, ∃ n : Nat, (n = if s.boot.udpSec = s.now / 1000000000 then s.boot.udpCnt else 0) ∧ ∃ op : Nat, ∃ cmd : Instr, (op, cmd) ∈ [(1, Instr.fallbackStatus req), (2, Instr.fallbackLog req)] ∧ (s.inFallback = false ∨ 100 ≤ n ∨ List.length req ≠ 16 ∨ byteAt req 4 ≠ op)) :=
  ⟨⟨(logd (cl true)), (fq 2 1), 0, (by decide +kernel), 2, (Sys2Proof.Instr.fallbackLog
  [0x4c#8,
   0x46#8,
   0x42#8,
   0x51#8,
   0x02#8,
   0x00#8,
   0x01#8,
   0x00#8,
   0xef#8,
   0xcd#8,
   0xab#8,
   0x00#8,
   0x00#8,
   0x00#8,
   0x00#8,
   0x00#8]), (by decide +kernel), (by decide +kernel), (by decide +kernel), (by decide +kernel), (by decide +kernel), (by decide +kernel)⟩,
   ⟨(logd (cl false)), (fq 2 0), 0, (by decide +kernel), 2, (Sys2Proof.Instr.fallbackLog
  [0x4c#8,
   0x46#8,
   0x42#8,
   0x51#8,
   0x02#8,
   0x00#8,
   0x00#8,
   0x00#8,
   0xef#8,
   0xcd#8,
   0xab#8,
   0x00#8,
   0x00#8,
   0x00#8,
   0x00#8,
   0x00#8]), (by decide +kernel), (by decide +kernel)⟩⟩

end T30

def vecState (op : Nat) (f : VecF) (v : SMap VReg) : State := base [encVec op f] fun sp => { sp with v := v }

theorem witness_VectorHelpersAndReductions_1 (op : Nat) (h : op ∈ [5, 6, 7, 8, 9]) :
    ∃ (s : State) (t : BitVec 12) (p : Nat) (f : VecF) (n tag : Nat), n = f.cnt.toNat + 1 ∧ tag = tyTag f.ty.toNat ∧
      f.vd.toNat + n ≤ 32 ∧ f.va.toNat + n ≤ 32 ∧ Tagged s t.toNat f.va.toNat n tag ∧ ReadyAt s t.toNat p (encVec op f) := by
  simp only [List.mem_cons, List.not_mem_nil, or_false] at h
  obtain rfl | rfl | rfl | rfl | rfl := h
  · exact ⟨vecState 5 vf1 V6, 0, 0, vf1, 2, 6, by decide, by decide, by decide, by decide, tagged_of (by decide +kernel), ready_of (by decide +kernel)⟩
  · exact ⟨vecState 6 vf1 V6, 0, 0, vf1, 2, 6, by decide, by decide, by decide, by decide, tagged_of (by decide +kernel), ready_of (by decide +kernel)⟩
  · exact ⟨vecState 7 vf V5, 0, 0, vf, 2, 5, by decide, by decide, by decide, by decide, tagged_of (by decide +kernel), ready_of (by decide +kernel)⟩
  · exact ⟨vecState 8 vf1 V6, 0, 0, vf1, 2, 6, by decide, by decide, by decide, by decide, tagged_of (by decide +kernel), ready_of (by decide +kernel)⟩
  · exact ⟨vecState 9 vf V5, 0, 0, vf, 2, 5, by decide, by decide, by decide, by decide, tagged_of (by decide +kernel), ready_of (by decide +kernel)⟩

theorem witness_VectorMoves_1 (op : Nat) (h : op ∈ [11, 12, 13, 14]) :
    ∃ (s : State) (t : BitVec 12) (p : Nat) (f : VecF) (n line k : Nat), n = f.cnt.toNat + 1 ∧ line = (s.spin t.toNat).lop f.lop ∧
      k = ldLines f.ty.toNat ∧ ReadyAt s t.toNat p (encVec op f) ∧ f.vd.toNat + n ≤ 32 ∧ f.va.toNat + n ≤ 32 ∧ LinesOk s p line (k * n) ∧
      Tagged s t.toNat f.va.toNat n (tyTag f.ty.toNat) := by
  simp only [List.mem_cons, List.not_mem_nil, or_false] at h
  obtain rfl | rfl | rfl | rfl := h
  · exact ⟨vecState 11 vf1 V6, 0, 0, vf1, 2, 4, 8, by decide, by decide +kernel, by decide, ready_of (by decide +kernel), by decide, by decide,
      linesOk_of (by decide +kernel), tagged_of (by decide +kernel)⟩
  · exact ⟨vecState 12 vf1 V6, 0, 0, vf1, 2, 4, 8, by decide, by decide +kernel, by decide, ready_of (by decide +kernel), by decide, by decide,
      linesOk_of (by decide +kernel), tagged_of (by decide +kernel)⟩
  · exact ⟨vecState 13 vf1 V6, 0, 0, vf1, 2, 4, 8, by decide, by decide +kernel, by decide, ready_of (by decide +kernel), by decide, by decide,
      linesOk_of (by decide +kernel), tagged_of (by decide +kernel)⟩
  · exact ⟨vecState 14 vf1 V6, 0, 0, vf1, 2, 4, 8, by decide, by decide +kernel, by decide, ready_of (by decide +kernel), by decide, by decide,
      linesOk_of (by decide +kernel), tagged_of (by decide +kernel)⟩

theorem witness_VectorOperandFaults_1 :
    (∃ (s : State) (t : BitVec 12) (p : Nat) (f : VecF) (n : Nat), n = f.cnt.toNat + 1 ∧ ReadyAt s t.toNat p (encVec 1 f) ∧
      (s.part p).runKind ≠ .standIn ∧ 32 < f.vd.toNat + n) ∧
    (∃ (s : State) (t : BitVec 12) (p : Nat) (f : VecF) (n : Nat), n = f.cnt.toNat + 1 ∧ ReadyAt s t.toNat p (encVec 1 f) ∧
      (s.part p).runKind ≠ .standIn ∧ f.vd.toNat + n ≤ 32 ∧ f.va.toNat + n ≤ 32 ∧ f.vb.toNat + n ≤ 32 ∧
      ((s.spin t.toNat).vr f.va.toNat).tag ≠ tyTag f.ty.toNat) :=
  ⟨⟨vecState 1 { vf1 with vd := 31 } V6, 0, 0, { vf1 with vd := 31 }, 2, by decide, ready_of (by decide +kernel), by decide +kernel, by decide⟩,
   ⟨vecState 1 vf1 V5, 0, 0, vf1, 2, by decide, ready_of (by decide +kernel), by decide +kernel, by decide, by decide, by decide, by decide +kernel⟩⟩

/-- The premises about one step: the bare reset state takes a clock edge of the second, and ends in a next state. -/
theorem witness_EveryStepKeepsMemoryFormFusesAndVariant_1 :
    ∃ s s' : State, s.memOk ∧ Sys2Proof.Machine.step s = .next s' :=
  ⟨State.reset, _, ⟨by decide +kernel, by decide +kernel⟩, rfl⟩
theorem witness_AStepRunsTheFrontCommand_1 : ∃ s : State, s.pending = [] := ⟨State.reset, rfl⟩
theorem witness_ResetIsOff_1 : ∃ a hi lo v : Nat, (a, hi, lo, v) ∈ [(Reg.thmWarn, 7, 0, 100), (Reg.bstCfg, 0, 0, 1), (Reg.pwrShdnCfg, 15, 0, 2000), (Reg.gauStatus, 31, 0, 0)] :=
  ⟨_, _, _, _, List.mem_cons_self ..⟩

theorem witness_SelectsReadsAndRdmaAccesses_0 : ∃ (s : State) (c : BitVec 3) (k : Nat) (addr : Word) (a : Nat), k = c.toNat ∧ s.ctxLive k = true ∧
    a = addr.toNat ∧ regAddr a = true ∧ (s.inFallback = false ∨ a < 0x100000) ∧ a ≠ Reg.srvHankDataLo ∧ a ≠ Reg.cntValLo :=
  ⟨sv, 1, 1, 0x580004, 0x580004, by decide, by decide +kernel, by decide, by decide +kernel, by decide +kernel, by decide, by decide⟩
theorem witness_SessionsAreAdmittedOrTimeOut_0 : ∃ (s : State) (id : Word) (x : Session), s.session id = some x ∧ x.st = .hold ∧
    s.tickable x.part = true ∧ bits (s.liveReg x.part Reg.srvAdmitCfg) 31 16 = 0 :=
  ⟨((sv [ses fun x => { x with st := .hold }]).setReg Reg.srvAdmitCfg 0 0).applyLive 0 Reg.srvAdmitCfg, 0xA1, ses fun x => { x with st := .hold }, by decide +kernel,
    by decide +kernel, by decide +kernel, by decide +kernel⟩

namespace T5
theorem witness_ContextWrites_0 : ∃ (s : State) (t : BitVec 12) (p : Nat) (f : XferF) (n off line : Nat) (g : Region),
    ReadyAt s t.toNat p (encXfer 4 f) ∧ n = f.n.toNat + 1 ∧ off = (f.off.toNat + (s.spin t.toNat).xr f.xo.toNat) % 2 ^ 32 ∧
    line = (s.spin t.toNat).lop f.lop ∧ g = s.region p f.region.toNat ∧ LinesOk s p line n ∧ s.regionOk p g = true ∧ off + n ≤ g.bound ∧
    g.kind = 2 :=
  ⟨xh, 0, 0, xf2, 3, 4, 4, ⟨2, 1, 64, 0x1000⟩, ready_of (by decide +kernel), by decide,
    by decide +kernel, by decide +kernel, by decide +kernel, linesOk_of (by decide +kernel), by decide +kernel, by decide, by decide⟩
end T5

namespace T20
def um (dst : Nat) (fp : Nat) : Bytes := mk (hdr0 0 1 7 dst 1 3 fp) body1
theorem witness_MessagesAtTheLinks_0 :
    (∃ (s : State) (l : Nat) (m : Bytes) (cmd : Instr), s.linkFitted l = true ∧
      cmd ∈ [Instr.messageIngress l m, .returnReceive l m, .echo l m, .echoReply l m] ∧ s.linkState l ∈ [0, 1, 4]) ∧
    (∃ (s : State) (l : Nat) (m : Bytes), s.linkFitted l = true ∧ s.linkState l = 2 ∧ msgCrcOk m = false) ∧
    (∃ (s : State) (l : Nat) (m : Bytes), s.linkFitted l = true ∧ s.linkState l = 2 ∧ msgCrcOk m = true ∧ byteAt m 8 % 4 ≠ 2 ∧
      leNat m 0 8 ≠ s.fprint ∧ (s.link l).fpAt = none) ∧
    (∃ (s : State) (l : Nat) (m : Bytes), s.linkFitted l = true ∧ s.linkState l = 2 ∧ msgCrcOk m = true ∧
      (byteAt m 8 % 4 = 2 ∨ leNat m 0 8 = s.fprint) ∧ leNat m 12 2 ≠ s.device) ∧
    (∃ (s : State) (l : Nat) (m : Bytes) (p : Nat), s.linkFitted l = true ∧ s.linkState l = 2 ∧ msgCrcOk m = true ∧ leNat m 0 8 = s.fprint ∧
      leNat m 12 2 = s.device ∧ byteAt m 8 % 4 = 0 ∧ p = byteAt m 14 / 16 ∧ s.ingressCh l p (byteAt m 16 % 32) = none) :=
  ⟨⟨ln 4, 2, um 9 FP, .echo 2 (um 9 FP), by decide +kernel, by decide +kernel, by decide +kernel⟩,
   ⟨ln 2, 2, hdr0 0 1 7 9 1 3 FP, by decide +kernel, by decide +kernel, by decide +kernel⟩,
   ⟨ln 2, 2, um 9 5, by decide +kernel, by decide +kernel, by decide +kernel, by decide +kernel, by decide +kernel, by decide +kernel⟩,
   ⟨ln 2, 2, um 8 FP, by decide +kernel, by decide +kernel, by decide +kernel, by decide +kernel, by decide +kernel⟩,
   ⟨ln 2, 2, um 9 FP, 1, by decide +kernel, by decide +kernel, by decide +kernel, by decide +kernel, by decide +kernel, by decide +kernel,
     by decide +kernel, by decide +kernel⟩⟩
theorem witness_LinkStatesAndLanes_0 : ∃ (s : State) (a : BitVec 3) (l : Nat) (t : DWord), l = a.toNat ∧ s.linkFitted l = true ∧
    (s.link l).swapAt = some t ∧ s.now ≤ t.toNat + 60000000000 ∧ s.linkState l = 2 :=
  ⟨ln 2 fun l => { l with swapAt := some 99000000000 }, 2, 2, 99000000000, by decide, by decide +kernel, by decide +kernel, by decide +kernel,
    by decide +kernel⟩
end T20

namespace T6
theorem witness_WarpPasses_0 : ∃ (s : State) (t : BitVec 12) (arr : BitVec 4) (r : RunPass) (post : List RunPass), tileOk t.toNat = true ∧
    (s.spin t.toNat).passes = r :: post ∧ r.arr = arr.toNat ∧ meetAny [(r.vd, 4)] (s.spin t.toNat).recvRegs = true :=
  ⟨base [] fun s => { s with passes := [⟨2, 2, false, 4, []⟩], recvs := [⟨⟨0, 0, 0, 0⟩, 1, 0, 6, 2, .regs 5 2 false []⟩] }, 0, 2, ⟨2, 2, false, 4, []⟩, [], by decide, by decide +kernel,
    by decide, by decide +kernel⟩
end T6

theorem witness_PowerTransitions_0 : ∃ s : State, s.powerState = 0 ∧ s.lit = true :=
  ⟨{ State.reset with boot := { State.reset.boot with restart := 1 } }, by decide +kernel, by decide +kernel⟩

namespace T11
/-- For converters that read 0 on every column: their deviations are a free value of Config. -/
theorem base_zero (hb : ∀ a b c d e l n, Config.warpBase a b c d e l n = 0) (s : State) (key band gs : Nat) (xs : List Int) :
    s.warpBase key band gs xs = fun _ _ => 0 := by
  funext f n; exact hb ..
/-- A pass of three operands on a blank array, and its results: zeros. -/
def pass0 : WarpOut := warpRun WarpArr.init default (fun _ _ => 0) 0 12 0 3 0 [1, 2, 3]
theorem tail_blank (j : Nat) : tailResult WarpArr.init 0 0 3 j 0 = 0 := by
  have h : WarpArr.init.col j = WarpArr.init.col 0 := rfl
  have h' : SMap.get 0 WarpArr.init.colScale j = 0 := rfl
  simp only [tailResult, h, h']
  decide +kernel
theorem codes_blank (e : Bool) (p : Nat) (pl : Plane) : (runPlane WarpArr.init default (fun _ => 0) 12 e p pl).codes = List.replicate 512 0 := by
  have hk : (if pl.narrow = true then WarpArr.init.ko else WarpArr.init.k) = 0 := by split <;> rfl
  have hc (j : Nat) : colSum WarpArr.init.cells pl.drive j = 0 := rfl
  have hu (i : Nat) : (0 : Int) + oneCode ((default : WarpAnalog).data.getD i 0) + upsetAt default i = 0 := rfl
  have hv : convert 0 0 0 (-32) 31 = (0, false) := by decide
  simp only [runPlane, hk, hc, hu, hv, List.map_const', List.length_range, List.map_replicate]
theorem zip_zero {α β : Type} {f : α → β → Int} : ∀ {l : List α} {m : List β}, (∀ x y, y ∈ m → f x y = 0) → (List.zipWith f l m).sum = 0
  | [], _, _ => by simp
  | _ :: _, [], _ => by simp
  | x :: l, y :: m, h => by
    simp only [List.zipWith_cons_cons, List.sum_cons, h x y List.mem_cons_self, zip_zero (l := l) fun a b hb => h a b (List.mem_cons_of_mem _ hb)]
    rfl
theorem pass0_results : pass0.results = wz := by
  have ha (j : Nat) : (List.zipWith (fun (pl : Plane) (o : PlaneOut) => pl.wt * o.codes.getD j 0 *
      2 ^ ((if pl.narrow = true then WarpArr.init.ko else WarpArr.init.k) - WarpArr.init.k)) (planesOf 0 [1, 2, 3])
      ((planesOf 0 [1, 2, 3]).mapIdx fun p pl => runPlane WarpArr.init default (fun _ => 0) 12 true p pl)).sum = 0 := by
    refine zip_zero fun pl o ho => ?_
    obtain ⟨i, hi, rfl⟩ := List.mem_mapIdx.1 ho
    rw [codes_blank]
    have : (List.replicate 512 (0 : Int)).getD j 0 = 0 := by
      rw [List.getD_eq_getElem?_getD, List.getElem?_replicate]; split <;> rfl
    rw [this, Int.mul_zero, Int.zero_mul]
  have hf : passForm (outlierRows [1, 2, 3]) 0 = 0 := by decide
  have h0 : (0 % 2 == 0) = true := rfl
  have h1 : ¬ (0 : Nat) = 1 := by decide
  simp only [pass0, warpRun, hf, h0, h1, if_false, ha, tail_blank, List.map_const', List.length_range, wz]
def hr0 (o : List Word) : HoldRec := { hr 2 with orig := o }
theorem again_pass0 (hb : ∀ a b c d e l n, Config.warpBase a b c d e l n = 0) {s : State} {p t phys idx key0 epoch band0 : Nat} (o : List Word)
    (h : s.warps = []) (hd : (s.dist (districtOf phys)).band = 0 ∧ max 1 (bits (s.liveReg p Reg.wrpCsumTol) 7 0) = 12 ∧
      s.reg Reg.wrpPassCnt (arrKey phys idx) = 0) :
    (s.warpAgain p t phys idx (hr0 o) default key0 0 epoch band0).1.results = wz ∧
      (s.warpAgain p t phys idx (hr0 o) default key0 0 epoch band0).1.bad = !pass0.bad.isEmpty := by
  have hw : s.warp (arrKey phys idx) = WarpArr.init := by unfold State.warp; rw [h]; rfl
  rw [← pass0_results]
  simp only [State.warpAgain, base_zero hb, hw, hd.1, hd.2.1, hd.2.2]
  simp only [hr0, hr, pass0, and_self]
theorem run_pass0 (hb : ∀ a b c d e l n, Config.warpBase a b c d e l n = 0) {s : State} {p t : Nat} (o : List Word) (h : s.warps = [])
    (hd : (s.dist (districtOf (s.physOf t))).band = 0 ∧ max 1 (bits (s.liveReg p Reg.wrpCsumTol) 7 0) = 12 ∧
      s.reg Reg.wrpPassCnt (arrKey (s.physOf t) (s.servingIdx (s.physOf t) 2)) = 0) :
    (s.runAgain p t (hr0 o) default default).1.results = wz ∧ (s.runAgain p t (hr0 o) default default).1.bad = !pass0.bad.isEmpty :=
  again_pass0 hb o h hd
def sx0 (o sh : List Word) : State := { sx o sh with warps := [] }
def sh0 (o : List Word) : State := { sh o with warps := [] }
theorem witness_ShadowRunsAndMirrors_0 (hb : ∀ a b c d e l n, Config.warpBase a b c d e l n = 0) :
    ∃ (s : State) (t : BitVec 12) (tn p arr key k ko cap epoch band : Nat) (dense : Bool) (h : HoldRec) (a : WarpAnalog) (e : Nat × Nat × Nat)
      (r : Again), tn = t.toNat ∧ tileOk tn = true ∧ (s.spin tn).part = some p ∧ h.kind = .warp arr key k ko cap epoch band dense ∧
      ((s.part p).shadowDue.find? fun e => e.1 == tn) = some e ∧ ((s.spin tn).hold.find? fun h => h.addr == e.2.1 && h.occ == e.2.2) = some h ∧
      (s.row (rowOf tn)).ready = true ∧ (s.row (rowOf tn)).mirror = some (tn % 32) ∧ (s.row (rowOf tn)).standIn = none ∧
      r = (s.warpAgain p tn (32 * rowOf tn + 24) arr h a key cap epoch band).1 ∧ s.agrees p h false h.orig r.results = true :=
  ⟨sh0 wz, 0, 0, 0, 2, 2, 1, 1, 0, 0, 0, false, hr0 wz, default, (0, 4, 2), _, by decide, by decide, by decide +kernel, rfl,
    by decide +kernel, by decide +kernel, by decide +kernel, by decide +kernel, by decide +kernel, rfl, by rw [(again_pass0 hb wz rfl (by decide +kernel)).1]; decide +kernel⟩
theorem witness_ShadowRunsAndMirrors_00 (hb : ∀ a b c d e l n, Config.warpBase a b c d e l n = 0) :
    ∃ (s : State) (t : BitVec 12) (tn p arr key k ko cap epoch band : Nat) (dense : Bool) (h : HoldRec) (a : WarpAnalog) (e : Nat × Nat × Nat)
      (r : Again), tn = t.toNat ∧ tileOk tn = true ∧ (s.spin tn).part = some p ∧ h.kind = .warp arr key k ko cap epoch band dense ∧
      ((s.part p).shadowDue.find? fun e => e.1 == tn) = some e ∧ ((s.spin tn).hold.find? fun h => h.addr == e.2.1 && h.occ == e.2.2) = some h ∧
      (s.row (rowOf tn)).ready = true ∧ (s.row (rowOf tn)).mirror = some (tn % 32) ∧ (s.row (rowOf tn)).standIn = none ∧
      r = (s.warpAgain p tn (32 * rowOf tn + 24) arr h a key cap epoch band).1 ∧ s.agrees p h false h.orig r.results = false :=
  ⟨sh0 wt, 0, 0, 0, 2, 2, 1, 1, 0, 0, 0, false, hr0 wt, default, (0, 4, 2), _, by decide, by decide, by decide +kernel, rfl,
    by decide +kernel, by decide +kernel, by decide +kernel, by decide +kernel, by decide +kernel, rfl, by rw [(again_pass0 hb wt rfl (by decide +kernel)).1]; decide +kernel⟩
theorem witness_ShadowRunsAndMirrors_000 (hb : ∀ a b c d e l n, Config.warpBase a b c d e l n = 0) :
    ∃ (s : State) (t : BitVec 12) (tn p arr key k ko cap epoch band : Nat) (dense : Bool) (h : HoldRec) (a : WarpAnalog) (x : ReplayP)
      (r : Again), tn = t.toNat ∧ tileOk tn = true ∧ (s.spin tn).part = some p ∧ h.kind = .warp arr key k ko cap epoch band dense ∧
      r = (s.runAgain p tn h a default).1 ∧ ((s.spin tn).replays.find? fun x => x.running && x.shadow.isSome) = some x ∧
      (s.spin tn).heldOf x = some h ∧ (s.part p).reruns < 2 ∧ r.bad = false ∧ s.agrees p h false (x.shadow.getD []) r.results = true :=
  ⟨sx0 wt wz, 0, 0, 0, 2, 2, 1, 1, 0, 0, 0, false, hr0 wt, default, rp true (some wz), _, by decide, by decide, by decide +kernel, rfl,
    rfl, by decide +kernel, by decide +kernel, by decide +kernel, by rw [(run_pass0 hb wt rfl (by decide +kernel)).2]; decide +kernel,
    by rw [(run_pass0 hb wt rfl (by decide +kernel)).1]; decide +kernel⟩
theorem witness_ShadowRunsAndMirrors_0000 (hb : ∀ a b c d e l n, Config.warpBase a b c d e l n = 0) :
    ∃ (s : State) (t : BitVec 12) (tn p arr key k ko cap epoch band : Nat) (dense : Bool) (h : HoldRec) (a : WarpAnalog) (x : ReplayP)
      (r : Again), tn = t.toNat ∧ tileOk tn = true ∧ (s.spin tn).part = some p ∧ h.kind = .warp arr key k ko cap epoch band dense ∧
      r = (s.runAgain p tn h a default).1 ∧ ((s.spin tn).replays.find? fun x => x.running && x.shadow.isSome) = some x ∧
      (s.spin tn).heldOf x = some h ∧ (s.part p).reruns < 2 ∧ r.bad = false ∧ s.agrees p h false (x.shadow.getD []) r.results = false ∧
      s.agrees p h true h.orig r.results = true :=
  ⟨sx0 wz wt, 0, 0, 0, 2, 2, 1, 1, 0, 0, 0, false, hr0 wz, default, rp true (some wt), _, by decide, by decide, by decide +kernel, rfl,
    rfl, by decide +kernel, by decide +kernel, by decide +kernel, by rw [(run_pass0 hb wz rfl (by decide +kernel)).2]; decide +kernel,
    by rw [(run_pass0 hb wz rfl (by decide +kernel)).1]; decide +kernel,
    by rw [(run_pass0 hb wz rfl (by decide +kernel)).1]; decide +kernel⟩
end T11

namespace T19
/-- crc24 with the running value evaluated byte by byte. -/
def strictCrc : Bytes → Nat → Nat
  | [], c => c
  | b :: bs, 0 => strictCrc bs (crcByte 24 0x864CFB 0 b.toNat)
  | b :: bs, n + 1 => strictCrc bs (crcByte 24 0x864CFB (n + 1) b.toNat)
theorem crc24_strict (bs : Bytes) : crc24 bs = strictCrc bs 0xFFFFFF := by
  have (c : Nat) : bs.foldl (fun c b => crcByte 24 0x864CFB c b.toNat) c = strictCrc bs c := by
    induction bs generalizing c with
    | nil => cases c <;> rfl
    | cons b bs ih => cases c <;> exact ih _
  exact this _
/-- A lea of fill flits with its CRC written out. -/
def leaLit (h c : Nat) : Bytes := natLe (h + c * 2 ^ 40) 8 ++ fills
theorem witness_LeasArriveInOrder_0 :
    (∃ (s : State) (a : BitVec 3) (l : Nat) (b : Bytes) (hdr : Nat), l = a.toNat ∧ s.linkFitted l = true ∧ s.linkState l = 2 ∧ hdr = leNat b 0 8 ∧
      b.length = 2056 ∧ bits hdr 63 40 = leaCrc hdr (b.drop 8) ∧ bits hdr 3 3 = 0 ∧ (∀ c, SMap.get [] (s.link l).txq c = []) ∧
      (∀ e ∈ (s.link l).retry, e.1 ≠ bits hdr 27 16) ∧ bits hdr 1 0 = 1 ∧ bits hdr 15 4 = ((s.link l).rxLast + 1) % 4096 ∧
      SMap.get [] (s.link l).rx (bits hdr 37 36) = [] ∧ ∀ i, i < 32 → byteAt (b.drop (8 + 64 * i)) 8 = 0xFF ∧ byteAt (b.drop (8 + 64 * i)) 9 = 0xFF) ∧
    (∃ (s : State) (a : BitVec 3) (l : Nat) (b : Bytes) (hdr : Nat), l = a.toNat ∧ s.linkFitted l = true ∧ s.linkState l = 2 ∧ hdr = leNat b 0 8 ∧
      b.length = 2056 ∧ bits hdr 63 40 = leaCrc hdr (b.drop 8) ∧ bits hdr 3 3 = 0 ∧ (∀ c, SMap.get [] (s.link l).txq c = []) ∧
      (∀ e ∈ (s.link l).retry, e.1 ≠ bits hdr 27 16) ∧ bits hdr 1 0 = 1 ∧ bits hdr 15 4 ≠ ((s.link l).rxLast + 1) % 4096) :=
  ⟨⟨ln 2, 2, 2, leaLit (leaH 1 0 0 0 1 5 2) 2183042, _, by decide, by decide +kernel, by decide +kernel, rfl, by decide +kernel,
     by unfold leaCrc; rw [crc24_strict]; decide +kernel, by decide +kernel, fun _ => rfl, by decide +kernel, by decide +kernel, by decide +kernel,
     by decide +kernel, by decide +kernel⟩,
   ⟨ln 2, 2, 2, leaLit (leaH 1 0 3 0 1 5 2) 15142516, _, by decide, by decide +kernel, by decide +kernel, rfl, by decide +kernel,
     by unfold leaCrc; rw [crc24_strict]; decide +kernel, by decide +kernel, fun _ => rfl, by decide +kernel, by decide +kernel, by decide +kernel⟩⟩
end T19

namespace T25
/-- An XFER_DATA whose block is 48 bytes: the checks read no more. -/
def bit : Bytes := (List.range 48).map fun i => BitVec.ofNat 8 (i * 5 + 1)
theorem witness_ContextTransfers_0 :
    (∃ (s : State) (m b : Bytes) (id : Word) (x : Session) (y : Xfer) (i : Nat) (blk : Bytes), b = m.drop 64 ∧ byteAt m 8 % 4 = 1 ∧ byteAt b 0 = 4 ∧
      id = BitVec.ofNat 32 (leNat b 4 4) ∧ s.session id = some x ∧ s.xfer id = some y ∧ i = leNat b 8 4 ∧ blk = (b.drop 16).take 4096 ∧
      x.st = .imp ∧ y.sender = false ∧ i < y.blocks ∧ i ∉ y.got ∧ leNat b 12 4 = crc32c (le4 i ++ blk) ∧ y.ended = false) ∧
    (∃ (s : State) (m b : Bytes) (id : Word) (x : Session) (y : Xfer) (i : Nat) (blk : Bytes), b = m.drop 64 ∧ byteAt m 8 % 4 = 1 ∧ byteAt b 0 = 4 ∧
      id = BitVec.ofNat 32 (leNat b 4 4) ∧ s.session id = some x ∧ s.xfer id = some y ∧ i = leNat b 8 4 ∧ blk = (b.drop 16).take 4096 ∧
      x.st = .imp ∧ y.sender = false ∧ i < y.blocks ∧ i ∉ y.got ∧ leNat b 12 4 ≠ crc32c (le4 i ++ blk)) :=
  ⟨⟨xs' im [xf false true 1 []], mk (data 0 bit true), (mk (data 0 bit true)).drop 64, 0xA1, im, xf false true 1 [], 0, bit, by decide +kernel,
     by decide +kernel, by decide +kernel, by decide +kernel, by decide +kernel, by decide +kernel, by decide +kernel, by decide +kernel,
     by decide +kernel, by decide +kernel, by decide +kernel, by decide +kernel, by decide +kernel, by decide +kernel⟩,
   ⟨xs' im [xf false true 1 []], mk (data 0 bit false), (mk (data 0 bit false)).drop 64, 0xA1, im, xf false true 1 [], 0, bit, by decide +kernel,
     by decide +kernel, by decide +kernel, by decide +kernel, by decide +kernel, by decide +kernel, by decide +kernel, by decide +kernel,
     by decide +kernel, by decide +kernel, by decide +kernel, by decide +kernel, by decide +kernel⟩⟩
end T25

namespace T26
/-- An encrypted shard: a good header, and a body that the tag check of the opaque cipher decides. -/
def hb : Bytes := shd 2 1 0x77 4 0 0 1 1 10 2 2 ++ List.replicate 202 0
theorem shardBody_none {b pub : Bytes} {d : Nat} (h : (shardOf b).enc = true) (hg : ∀ k n a c, Config.aesGcmOpen k n a c = none) :
    shardBody b pub d = none := by simp [shardBody, h, hg]
/-- For a cipher whose tag checks fail: the cipher is a free constant of Config (its value is not the model's to choose). A list READ of 16
bytes, of another length, and the third refusal. -/
theorem witness_WeightJobs_0 (hg : ∀ k n a c, Config.aesGcmOpen k n a c = none) (r : Nat) (again : Bytes)
    (hr : r = 1 ∧ again = lb ∨ r = 1 ∧ again = [] ∨ r = 2 ∧ again = lb) :
    ∃ (s : State) (b : BitVec 4) (j i : Nat) (x : Job) (d : Bytes), j = b.toNat ∧ x = s.job j ∧
    s.jobState j = 1 ∧ x.list.isSome = true ∧ i < x.cnt ∧ i < 4096 ∧ (∀ e ∈ x.staged, e.1 ≠ i) ∧ x.waiting = false ∧ shardHeadOk d = true ∧
    (s.encRequired x.op = true → (shardOf d).enc = true) ∧ shardBody d s.xportPub (s.fld Reg.cfgDevice 0 15 0) = none ∧
    SMap.get 0 x.refused i = r := by
  have hs : r = 1 ∨ r = 2 := by omega
  obtain rfl | rfl := hs
  · exact ⟨wj 1 1 1 { jx 1 with refused := [(0, 1)] } [(0, mres 1)], 2, 2, 0, { jx 1 with refused := [(0, 1)] }, hb, by decide, by decide +kernel,
      by decide +kernel, by decide, by decide, by decide, by decide, by decide, by decide +kernel, by decide +kernel, shardBody_none (by decide +kernel) hg, by decide⟩
  · exact ⟨wj 1 1 1 { jx 1 with refused := [(0, 2)] } [(0, mres 1)], 2, 2, 0, { jx 1 with refused := [(0, 2)] }, hb, by decide, by decide +kernel,
      by decide +kernel, by decide, by decide, by decide, by decide, by decide, by decide +kernel, by decide +kernel, shardBody_none (by decide +kernel) hg, by decide⟩
/-- A golden area without a free image slot. -/
theorem witness_WeightJobs_00 : ∃ (s : State) (b : BitVec 4) (j i : Nat) (x : Job) (d : Bytes) (h : Shard) (body : Bytes) (imgs : List Bytes),
    j = b.toNat ∧ x = s.job j ∧ h = shardOf d ∧ s.jobState j = 1 ∧ x.list.isSome = true ∧ i < x.cnt ∧ i < 4096 ∧ (∀ e ∈ x.staged, e.1 ≠ i) ∧
    x.waiting = false ∧ x.writes = [] ∧ shardHeadOk d = true ∧ (s.encRequired x.op = true → h.enc = true) ∧
    shardBody d s.xportPub (s.fld Reg.cfgDevice 0 15 0) = some body ∧ shardDigestOk d body = true ∧ s.shardNamed x h = true ∧
    s.shardEpochOk x h = true ∧ shardImages h body = some imgs ∧ s.shardTargetsOk j x h ((List.range h.targets).map (shardTarget body)) = true ∧
    x.staged.length + 1 < x.cnt ∧ x.op ≠ 4 ∧ x.model ≠ 0 ∧ s.goldFree < imgs.length :=
  ⟨((wj 1 1 2 (jx 1 2) [(0, mres 1)]).setReg Reg.cfgTileOwner 1 16).setReg Reg.wgtGoldSlots 0 0, 2, 2, 0, _, d1, _, bodyR 0x15,
    (shardImages (shardOf d1) (bodyR 0x15)).getD [], by decide, rfl, rfl, by decide +kernel, by decide +kernel, by decide +kernel, by decide,
    by decide +kernel, by decide +kernel, by decide +kernel, by decide +kernel, by decide +kernel, by decide +kernel, by decide +kernel,
    by decide +kernel, by decide +kernel, some_getD (by decide +kernel), by decide +kernel, by decide +kernel, by decide +kernel, by decide +kernel,
    by decide +kernel⟩
end T26

namespace T27
/-- Intact cells and a golden image that is not theirs, for a SHA-512 that tells the two images apart. -/
theorem witness_WeightWritesAndTheBarrier_0 (k : Bytes) (hk : adigOf (((gs [9] true).warp KK).image) = k)
    (ha : ((gs [9] true).warp KK).adig = k) (hn : adigOf [9] ≠ k) :
    ∃ (s : State) (y : BitVec 12) (i : BitVec 4) (p t : Nat) (g : Gold) (m l h o : Nat), p = y.toNat ∧ physOk p = true ∧ i.toNat < 8 ∧
      s.targetOf p i.toNat = some t ∧ s.gold t = some g ∧ s.locate t = some (m, l, h, o) ∧ s.stacked = true ∧ g.compared = false ∧
      s.goldGood t = false ∧ s.cellsGood t = true := by
  refine ⟨gs [9] true, 1, 5, 1, 0x15, ⟨[9], false⟩, 0, 0, 0, 0, by decide, by decide +kernel, by decide, by decide +kernel, by decide +kernel,
    by decide +kernel, by decide +kernel, rfl, ?_, ?_⟩
  · have hg : (gs [9] true).gold 0x15 = some ⟨[9], false⟩ := by decide +kernel
    have hq : (gs [9] true).targetKey 0x15 = KK := by decide +kernel
    simp only [State.goldGood, hg, State.adigAt, hq, ha, beq_eq_false_iff_ne]; exact hn
  · have hq : (gs [9] true).targetKey 0x15 = KK := by decide +kernel
    simp only [State.cellsGood, hq, ha, hk, beq_self_eq_true]
end T27

namespace T29
/-- The command of a start and what it leaves before step 2. -/
def Begins (s b : State) (i : StartIn) (cmd : Instr) : Prop :=
  (cmd = .powerGood i ∧ s.darkNow = true ∧ s.power.held = false ∧ b = s.off.setPin pinFault false) ∨
    (cmd = .startRetryReset i ∧ s.boot.restart = 1 ∧ b = s.off) ∨ (cmd = .delayedRestart i ∧ s.boot.restart = 2 ∧ b = s.off.setPin pinFault false)
/-- Steps 3 to 6 of a start from the state that step 2 left. -/
def steps (i : StartIn) (b : State) : State × StartFail :=
  let read (k : Nat) (f : State → State × StartFail) (t : State) : State × StartFail :=
    if i.flashFail = k then (t.setFld Reg.cfgStatus 0 3 0 k, some (0x03, 0)) else f (t.setFld Reg.cfgStatus 0 3 0 k)
  andThen (read 3 (fun t => t.stepConfig i) ((b.setPin pinGood true).stepRom i).1) fun t =>
    andThen (read 4 (fun t => t.stepDies i) t) fun t => andThen (read 5 State.stepProtect t) (read 6 State.stepFirmware)
/-- The signatures verify: the verifier is a free constant of Config. -/
def Verifies : Prop := ∀ k m g, Config.ed25519Verify k m g = true
def offB (f : FlashSt) (base : Nat := 1) : State := (st0 f base).off.setPin pinFault false
theorem witness_StartsAndFailedStarts_0 (hv : Verifies) :
    (∃ (s b : State) (i : StartIn) (cmd : Instr) (n k : Nat), n = min 255 (s.boot.flash.startCnt + 1) ∧ Begins s b i cmd ∧ i.flashOk = true ∧
      signedFault s.boot.fuse false s.boot.flash.boot = some k) ∧
    (∃ (s b : State) (i : StartIn) (cmd : Instr) (n : Nat), n = min 255 (s.boot.flash.startCnt + 1) ∧ Begins s b i cmd ∧ i.flashOk = true ∧
      signedFault s.boot.fuse false s.boot.flash.boot = none ∧ 3 < n) ∧
    (∃ (s b : State) (i : StartIn) (cmd : Instr) (n : Nat), n = min 255 (s.boot.flash.startCnt + 1) ∧ Begins s b i cmd ∧ i.flashOk = true ∧
      signedFault s.boot.fuse false s.boot.flash.boot = none ∧ n ≤ 3 ∧ i.flashFail = 3 ∧ (steps i b).2 = some (3, 0)) ∧
    (∃ (s b : State) (i : StartIn) (cmd : Instr) (n : Nat), n = min 255 (s.boot.flash.startCnt + 1) ∧ Begins s b i cmd ∧ i.flashOk = true ∧
      signedFault s.boot.fuse false s.boot.flash.boot = none ∧ n ≤ 3 ∧ i.flashFail ≠ 3 ∧ lifeOk s.boot.fuse i.mfgEquip = false) ∧
    (∃ (s b : State) (i : StartIn) (cmd : Instr) (n r : Nat) (f : FlashSt), f = s.boot.flash ∧ n = min 255 (f.startCnt + 1) ∧ Begins s b i cmd ∧
      i.flashOk = true ∧ signedFault s.boot.fuse false f.boot = none ∧ n ≤ 3 ∧ i.flashFail ≠ 3 ∧ lifeOk s.boot.fuse i.mfgEquip = true ∧
      chooseCopy f.copyA f.copyB (cfgFault s.boot.fuse s.boot.life f.seqMin f.copyA) (cfgFault s.boot.fuse s.boot.life f.seqMin f.copyB) = .inr r) := by
  have hv' : ∀ k m g, Config.ed25519Verify k m g = true := hv
  refine ⟨⟨st0 (fl (img1 false 0) (img1 true 3) (cfg1 7)), offB (fl (img1 false 0) (img1 true 3) (cfg1 7)), si, .powerGood si, 1, 5, by decide +kernel,
      .inl ⟨rfl, by decide +kernel, by decide +kernel, rfl⟩, rfl, ?_⟩,
    ⟨st0 (fl (img1 false 3) (img1 true 3) (cfg1 7) [] 4), offB (fl (img1 false 3) (img1 true 3) (cfg1 7) [] 4), si, .powerGood si, 5, by decide +kernel,
      .inl ⟨rfl, by decide +kernel, by decide +kernel, rfl⟩, rfl, ?_, by decide⟩,
    ⟨st0 F, offB F, { si with flashFail := 3 }, .powerGood { si with flashFail := 3 }, 1, by decide +kernel,
      .inl ⟨rfl, by decide +kernel, by decide +kernel, rfl⟩, rfl, ?_, by decide, rfl, by decide +kernel⟩,
    ⟨st0 F 0, offB F 0, si, .powerGood si, 1, by decide +kernel, .inl ⟨rfl, by decide +kernel, by decide +kernel, rfl⟩, rfl, ?_, by decide, by decide,
      by decide +kernel⟩,
    ⟨st0 (fl (img1 false 3) (img1 true 3) [] [] 2), offB (fl (img1 false 3) (img1 true 3) [] [] 2), si, .powerGood si, 3, 16, _, rfl, by decide +kernel,
      .inl ⟨rfl, by decide +kernel, by decide +kernel, rfl⟩, rfl, ?_, by decide, by decide, by decide +kernel, by decide +kernel⟩⟩ <;>
  unfold signedFault <;> simp only [hv', Bool.true_eq_false, if_false] <;> decide +kernel
/-- The starts that pass steps 3 to 6 (the free nonce keeps the kernel from evaluating those steps): the cores do not answer, step 7's
read fails, READY. -/
theorem witness_StartsAndFailedStarts_00 (hv : Verifies) (i : StartIn) (hi : i = si ∨ i = { si with coresOk := false } ∨ i = { si with flashFail := 7 })
    (hr : (steps i (offB F)).2 = none) (hm : ((steps i (offB F)).1.testMemory i).2 = none) :
    ∃ (s b : State) (cmd : Instr) (n : Nat), n = min 255 (s.boot.flash.startCnt + 1) ∧ Begins s b i cmd ∧ i.flashOk = true ∧
      signedFault s.boot.fuse false s.boot.flash.boot = none ∧ n ≤ 3 ∧ (steps i b).2 = none ∧ ((steps i b).1.testMemory i).2 = none ∧ i.ms ≤ 10000 := by
  have hv' : ∀ k m g, Config.ed25519Verify k m g = true := hv
  have h : i.flashOk = true ∧ i.ms ≤ 10000 := by obtain rfl | rfl | rfl := hi <;> decide
  refine ⟨st0 F, offB F, .powerGood i, 1, by decide +kernel, .inl ⟨rfl, by decide +kernel, by decide +kernel, rfl⟩, h.1, ?_, by decide, hr, hm, h.2⟩
  unfold signedFault; simp only [hv', Bool.true_eq_false, if_false]; decide +kernel
/-- A start in which a sensor stands at the shutdown level fails in step 4, when step 3 passes. -/
theorem steps_thermal {i : StartIn} {b : State} (hf : i.flashFail = 0) (ht : i.thermal = true) (hl : i.railsOk = true)
    (h3 : (State.stepConfig (((b.setPin pinGood true).stepRom i).1.setFld Reg.cfgStatus 0 3 0 3) i).2 = none) : (steps i b).2 = some (0x52, 0) := by
  simp [steps, hf, andThen, h3, State.stepDies, State.diesUp, need, ht, hl]
/-- A start that ends at the shutdown level. -/
theorem witness_StartsAndFailedStarts_000 (hv : Verifies) :
    ∃ (s b : State) (i : StartIn) (cmd : Instr) (n detail : Nat), n = min 255 (s.boot.flash.startCnt + 1) ∧ Begins s b i cmd ∧ i.flashOk = true ∧
      signedFault s.boot.fuse false s.boot.flash.boot = none ∧ n ≤ 3 ∧ (steps i b).2 = some (0x52, detail) := by
  have hv' : ∀ k m g, Config.ed25519Verify k m g = true := hv
  have h3 : (State.stepConfig ((((offB F).setPin pinGood true).stepRom { si with thermal := true }).1.setFld Reg.cfgStatus 0 3 0 3)
      { si with thermal := true }).2 = none := by
    unfold State.stepConfig State.stepRom signedFault cfgFault cfgSigner cfgSigned
    simp only [hv', Bool.true_eq_false, if_false]
    decide +kernel
  refine ⟨st0 F, offB F, { si with thermal := true }, .powerGood { si with thermal := true }, 1, 0, by decide +kernel,
    .inl ⟨rfl, by decide +kernel, by decide +kernel, rfl⟩, rfl, ?_, by decide, ?_⟩
  · unfold signedFault; simp only [hv', Bool.true_eq_false, if_false]; decide +kernel
  · exact steps_thermal rfl rfl rfl h3
theorem witness_StartsAndFailedStarts_0000 : ∃ (s : State) (k : Nat), k = s.boot.flash.startCnt ∧ s.powerState ∈ [2, 3, 4] ∧ s.boot.flash.inProgress = true :=
  ⟨{ (State.reset.setFld Reg.pwrState 0 2 0 2) with boot := { State.reset.boot with flash := { State.reset.boot.flash with startCnt := 1, inProgress := true } } }, 1,
    by decide +kernel, by decide +kernel, rfl⟩
end T29

namespace T30
theorem witness_ConfigurationCommands_0 (hv : ∀ k m g, Config.ed25519Verify k m g = true) :
    (∃ (s : State) (c : BitVec 3) (b : Bytes), s.ctxLive c.toNat = true ∧ s.cfgRuns = none ∧ s.boot.life ≠ 5 ∧ s.inFallback = false ∧
      s.tokenResult b = 1) ∧
    (∃ (s : State) (c : BitVec 3) (left : Bytes), s.ctxLive c.toNat = true ∧ s.cfgRuns = none ∧ s.boot.life ≠ 5 ∧ s.inFallback = true ∧
      left = (if cfgSeq s.boot.flash.copyA < cfgSeq s.boot.flash.copyB then s.boot.flash.copyA else s.boot.flash.copyB) ∧
      cfgFault s.boot.fuse s.boot.life s.boot.flash.seqMin left = none) ∧
    (∃ (s : State) (push : Bytes) (op : Nat) (body : Bytes), s.cfgRuns = some op ∧ 1 ≤ op ∧ op ≤ 3 ∧ s.pushResult op push = (1, body)) := by
  refine ⟨⟨cl false, 1, tok 1, by decide +kernel, by decide +kernel, by decide +kernel, by decide +kernel, ?_⟩,
    ⟨cl true, 1, cfg1 6, by decide +kernel, by decide +kernel, by decide +kernel, by decide +kernel, by decide +kernel, ?_⟩,
    ⟨run 3 (pushW 3 (img1 false 9)) (cl false), pushW 3 (img1 false 9), 3, img1 false 9, by decide +kernel, by decide, by decide, ?_⟩⟩
  · unfold State.tokenResult tokenSigned; simp only [hv]; decide +kernel
  · unfold cfgFault cfgSigner cfgSigned; simp only [hv]; decide +kernel
  · unfold State.pushResult signedResult signedFault; simp only [hv, Bool.true_eq_false, if_false]; decide +kernel
end T30
/-! ### Ill-formed commands: one term for each check of WellFormed, which the check refuses -/

theorem test_wf_tile_slot_24 : ([.weftFlip 24, .vecFma 0xFFF vf, .warpPassEnd 0x7FF 0, .ctxLanding 0x3F8, .replayStart ⟨31, false⟩].map WellFormed).all (! ·) = true := by
  decide
theorem test_wf_tile_slot_23 : WellFormed (.weftFlip 23) = true := by decide
theorem test_wf_position_25 : ([.spareLoadStart 25, .weftScrubRead 0x819 false false, .calRetemp 26 0, .goldenCompare 31 0 true].map WellFormed).all (! ·) = true := by
  decide
theorem test_wf_position_24 : WellFormed (.spareLoadStart 24) = true := by decide
theorem test_wf_array_index : ([.calRetemp 0 9, .goldenCompare 0 8 true].map WellFormed).all (! ·) = true := by decide
theorem test_wf_slot_326 : ([.cePacket 326, .qpTeardown 511, .openReq 326 [], .rdmaRegisterAccess 326 0 false 0 0 []].map WellFormed).all (! ·) = true := by
  decide
theorem test_wf_slot_325 : WellFormed (.cePacket 325) = true := by decide
theorem test_wf_rdma_write_length : WellFormed (.rdmaRegisterAccess 0 0 true 0 4 [1, 2, 3]) = false := by decide
theorem test_wf_flit_payload : ([.flitDeliver ⟨0, []⟩, .creditReturn ⟨0, [1]⟩, .ixcForeignDrop ⟨0, []⟩].map WellFormed).all (! ·) = true := by decide
theorem test_wf_flit_destination : WellFormed (.flitDeliver ⟨24 * 16, List.replicate 64 0⟩) = false := by decide
theorem test_wf_switch : ([.hopCrcMismatch 0x2080, .hopCrcMismatch 0x3020, .hopCrcMismatch 0].map WellFormed).all (! ·) = true := by decide
theorem test_wf_district_50 : ([.districtWindowBoundary 50, .weftRecalPeriodic 50, .railTrip 50, .railOvercurrent 50 0].map WellFormed).all (! ·) = true := by
  decide
theorem test_wf_half_district_25 : WellFormed (.calRoundPeriodic false 25) = false := by decide
theorem test_wf_mailbox_context_6 : WellFormed (.mailboxBadMessage 6) = false := by decide
theorem test_wf_link_9 : ([.messageIngress 9 [], .returnReceive 9 [], .returnSend 9, .echo 9 [], .echoReply 9 []].map WellFormed).all (! ·) = true := by decide
theorem test_wf_lane_5 : ([.laneSwap 0 5, .eyeMeasure 0 7 0 0].map WellFormed).all (! ·) = true := by decide
theorem test_wf_address_words : ([.cmReq 0 0 [] 0 0, .neighborSolicitation 0 [1], .icmpEcho 0 false [1, 2, 3] []].map WellFormed).all (! ·) = true := by decide
theorem test_wf_scan_readings : WellFormed (.thermalScan [20, 21]) = false := by decide

/-! ### Values that the manual works out -/

/-- 07_tile_instructions.md, the example after R256: WARP.PASSA on array 1, A4 operand at line 5, V0, layer tag 17. -/
theorem test_word_warp_passa : encWarp 1 ⟨1, ⟨0, 5⟩, false, 0, 0, 0, 17⟩ = 0x0110005000220000 := by decide +kernel
theorem test_spells_warp_passa :
    spindleWord (.warpPassa 3 ⟨1, ⟨0, 5⟩, false, 0, 0, 0, 17⟩ ⟨[], [], [], []⟩) = some (3, 0x0110005000220000) := by decide +kernel
/-- 05_number_formats.md, the E4M3 example: 0.3125 is 0x2A, and with block scale code 130 it widens to 2.5. -/
theorem test_e4m3_code : fE4M3.encode (.fin false 5 (-4)) = 0x2A := by decide +kernel
theorem test_e4m3_widens : toFP32 (scaledValue 3 130 0x2A) = 0x40200000 := by decide +kernel
/-- 05_number_formats.md, the three-way reduction: 2.5 + 3.5 - 2.0 is 4.0. -/
theorem test_reduction : fpAdd (fpAdd (toFP32 (scaledValue 3 130 0x2A)) (toFP32 (scaledValue 3 127 0x46))) (toFP32 (scaledValue 3 129 0xB0)) = 0x40800000 := by
  decide +kernel
/-- 10_weights.md, the example after R383: 1010 0011, 010, 111100, 00 and 1000 are the weights 0 0 0 0 0 +1 -8 0 +2. -/
theorem test_packed_stream : (unpackStream 9 9 (streamBits [0xC5, 0x7A, 0x08])).map Prod.fst = some [0, 0, 0, 0, 0, 1, 8, 0, 2] := by decide +kernel

end Sys2Proof.Tests
end

section
/-! The register store as an access sees it (R9-R14, R535): reading after writing, what recording an outcome leaves, and how a write of
one word ends. -/

namespace Sys2Proof.Machine

/-! ## Reading registers after writing -/

/-- A register of the window keeps its value when another register, or the same one under another number, is written. -/
theorem State.reg_setReg_other (s : State) {a i b j : Nat} (v : Nat) (ha : a < 2 ^ 24) (hb : b < 2 ^ 24) (h : b = a → j ≠ i) :
    (s.setReg a i v).reg b j = s.reg b j := by
  refine State.reg_setReg_ne s v ?_
  unfold regKey
  omega

/-- The same for another address, whatever the numbers. -/
theorem State.reg_setReg_addr (s : State) {a i b j : Nat} (v : Nat) (ha : a < 2 ^ 24) (hb : b < 2 ^ 24) (h : b ≠ a) :
    (s.setReg a i v).reg b j = s.reg b j :=
  s.reg_setReg_other v ha hb fun e => absurd e h

theorem State.reg_of_regs_eq {s t : State} (h : t.regs = s.regs) (a i : Nat) : t.reg a i = s.reg a i := by
  unfold State.reg
  rw [h]

@[simp] theorem State.reg_modCtx (s : State) (c : Nat) (f : Ctx → Ctx) (a i : Nat) : (s.modCtx c f).reg a i = s.reg a i := rfl
@[simp] theorem State.reg_completed (s : State) (c : Nat) (e : Bool) (a i : Nat) : (s.completed c e).reg a i = s.reg a i := rfl

/-! ## Recording an outcome (R535) -/

theorem State.record_ok (s : State) (c a : Nat) : s.record c a 0 = s.setReg Reg.cfgWstat c 0 := rfl
theorem State.record_rejection (s : State) (c a : Nat) {o : Nat} (ho : o ≠ 0) :
    s.record c a o = ((s.setReg Reg.cfgWstat c o).setReg Reg.cfgWaddr c a).bump Reg.cfgWrejCnt c :=
  if_neg ho

/-- WSTAT holds the outcome after it is recorded. -/
theorem State.record_ends (s : State) (c a : Nat) {o : Nat} (ho : o ≤ 7) : Ends (s.record c a o) c o := by
  have self : (s.setReg Reg.cfgWstat c o).reg Reg.cfgWstat c = o := by
    rw [State.reg_setReg_self]
    omega
  unfold Ends
  by_cases h0 : o = 0
  · subst h0
    exact self
  · rw [State.record_rejection s c a h0, State.bump, State.reg_setReg_addr _ _ (by decide) (by decide) (by decide),
      State.reg_setReg_addr _ _ (by decide) (by decide) (by decide), self]

/-- Recording an outcome changes no register but the context's WSTAT, WADDR and WREJ_CNT. -/
theorem State.reg_record_other (s : State) (c a o : Nat) {b i : Nat} (hb : b < 2 ^ 24)
    (h : b ∈ [Reg.cfgWstat, Reg.cfgWaddr, Reg.cfgWrejCnt] → i ≠ c) : (s.record c a o).reg b i = s.reg b i := by
  have hstat : (s.setReg Reg.cfgWstat c o).reg b i = s.reg b i :=
    State.reg_setReg_other _ _ (by decide) hb fun e => h (by simp [e])
  by_cases h0 : o = 0
  · subst h0
    exact hstat
  · rw [State.record_rejection s c a h0, State.bump, State.reg_setReg_other _ _ (by decide) hb fun e => h (by simp [e]),
      State.reg_setReg_other _ _ (by decide) hb fun e => h (by simp [e]), hstat]

/-- A rejection leaves the address in WADDR. -/
theorem State.record_waddr (s : State) (c : Nat) {a o : Nat} (ha : a < 2 ^ 24) (ho : o ≠ 0) :
    (s.record c a o).reg Reg.cfgWaddr c = a := by
  rw [State.record_rejection s c a ho, State.bump, State.reg_setReg_addr _ _ (by decide) (by decide) (by decide),
    State.reg_setReg_self]
  omega
/-- A rejection is counted in WREJ_CNT. -/
theorem State.record_wrejCnt (s : State) (c a : Nat) {o : Nat} (ho : o ≠ 0) :
    (s.record c a o).reg Reg.cfgWrejCnt c = (s.reg Reg.cfgWrejCnt c + 1) % 2 ^ 32 := by
  rw [State.record_rejection s c a ho, State.bump, State.reg_setReg_self,
    State.reg_setReg_addr _ _ (by decide) (by decide) (by decide), State.reg_setReg_addr _ _ (by decide) (by decide) (by decide)]

/-- Recording an outcome leaves everything but the register store. -/
theorem State.record_beside_regs (s : State) (c a o : Nat) (r : SMap Word) :
    { s.record c a o with regs := r } = { s with regs := r } := by
  by_cases h0 : o = 0
  · subst h0
    rfl
  · rw [State.record_rejection s c a h0]
    rfl

/-! ## How a write of one word ends (R535) -/

/-- The outcomes of a write to a register that exists: neither NO_SEL nor the ones that no register gives. -/
theorem State.fieldOutcome_mem (s : State) (d : RegDesc) (a i v : Nat) : s.fieldOutcome d a i v ∈ [0, 1, 2, 3, 5] := by
  unfold State.fieldOutcome
  dsimp only
  repeat' split
  all_goals decide

/-- A write whose fields are writable, quiescent and in range is accepted. -/
theorem State.fieldOutcome_ok {s : State} {d : RegDesc} {a i v : Nat} (hne : d.fields ≠ [])
    (hcls : ∀ f ∈ d.fields, f.cls ≠ .ro ∧ f.cls ≠ .boot) (hquiet : s.quiet a i = true)
    (hfit : ∀ f ∈ d.fields, fieldFits f (fieldValue f v) = true) (hword : s.wordFits a i v = true) : s.fieldOutcome d a i v = 0 := by
  have hro : (d.fields.all fun f => f.cls == .ro) = false := by
    obtain ⟨f, hf⟩ := List.exists_mem_of_ne_nil _ hne
    simpa using ⟨f, hf, (hcls f hf).1⟩
  have hboot : ((d.fields.filter fun f => fieldChanges f (s.shadow a i) v).any fun f => f.cls == .boot) = false := by
    simpa using fun f hf _ => (hcls f hf).2
  have hrange : ((d.fields.filter fun f => fieldChanges f (s.shadow a i) v).any fun f => !fieldFits f (fieldValue f v)) = false := by
    simpa using fun f hf _ => hfit f hf
  simp [State.fieldOutcome, hro, hboot, hrange, hquiet, hword]

/-- Only a rejected range of a Skein descriptor is noted beside the outcome. -/
theorem State.noteReject_of_ne (s : State) (a i v : Nat) {o : Nat} (ho : o ≠ 3) : s.noteReject a i v o = s :=
  if_neg fun h => ho h.1

/-- How a write of one word ends: its outcome, and the state it leaves. The constructors are R535's outcomes in their order. -/
inductive WriteEnd (s : State) (c a v : Nat) : Nat → State → Prop
  | fallback (hf : s.inFallback = true ∧ 0x100000 ≤ a) : WriteEnd s c a v 6 (s.record c a 6)
  | select (hf : ¬(s.inFallback = true ∧ 0x100000 ≤ a)) (ho : a % 0x100000 = 0) :
      WriteEnd s c a v 0 ((s.selectWrite c (a / 0x100000) v).record c a 0)
  | reserved (hf : ¬(s.inFallback = true ∧ 0x100000 ≤ a)) (ho : a % 0x100000 ≠ 0)
      (hr : (regDesc? a).isNone = true ∨ s.rawShut a = true) : WriteEnd s c a v 7 (s.record c a 7)
  | unselected (hf : ¬(s.inFallback = true ∧ 0x100000 ≤ a)) (hr : ¬((regDesc? a).isNone = true ∨ s.rawShut a = true))
      (hs : 0x80000 ≤ a % 0x100000 ∧ s.selected c (a / 0x100000) = none) : WriteEnd s c a v 4 (s.record c a 4)
  | rejected (i o : Nat) (hf : ¬(s.inFallback = true ∧ 0x100000 ≤ a)) (hr : ¬((regDesc? a).isNone = true ∨ s.rawShut a = true))
      (ho : o ∈ [1, 2, 3, 5]) : WriteEnd s c a v o ((s.noteReject a i v o).record c a o)
  | accepted (u : State) (hf : ¬(s.inFallback = true ∧ 0x100000 ≤ a)) (hr : ¬((regDesc? a).isNone = true ∨ s.rawShut a = true)) :
      WriteEnd s c a v 0 (u.record c a 0)

theorem State.writeWord_ends (s : State) (c a v : Nat) : ∃ o, WriteEnd s c a v o (s.writeWord c a v) := by
  have hblk : a / 0x100000 ≠ 0 ↔ 0x100000 ≤ a := by omega
  unfold State.writeWord
  simp only [hblk]
  split
  case isTrue hf => exact ⟨6, .fallback hf⟩
  case isFalse hf =>
  split
  case isTrue ho => exact ⟨0, .select hf ho⟩
  case isFalse ho =>
  split
  case h_1 hd => exact ⟨7, .reserved hf ho (.inl (by simp [hd]))⟩
  case h_2 d hd =>
  split
  case isTrue hr => exact ⟨7, .reserved hf ho (.inr hr)⟩
  case isFalse hraw =>
  have hr : ¬((regDesc? a).isNone = true ∨ s.rawShut a = true) := by simp [hd, hraw]
  split
  case isTrue => exact ⟨0, .accepted s hf hr⟩
  case isFalse =>
  split
  case isTrue hs => exact ⟨4, .unselected hf hr ⟨hs.1, Option.isNone_iff_eq_none.mp hs.2⟩⟩
  case isFalse =>
  split
  case h_1 =>
    split
    · exact ⟨5, by simpa [State.noteReject_of_ne] using WriteEnd.rejected (c := c) (v := v) 0 5 hf hr (by decide)⟩
    · exact ⟨0, .accepted s hf hr⟩
  case h_2 i _ =>
    split
    · exact ⟨0, .accepted _ hf hr⟩
    case isFalse h0 =>
      have hm := s.fieldOutcome_mem d a i v
      exact ⟨_, .rejected i _ hf hr (by simpa [h0] using hm)⟩

theorem WriteEnd.ends {s t : State} {c a v o : Nat} (h : WriteEnd s c a v o t) : o ≤ 7 ∧ Ends t c o := by
  have ho : o ≤ 7 := by
    cases h with
    | rejected i o hf hr ho =>
      simp only [List.mem_cons, List.not_mem_nil, or_false] at ho
      omega
    | _ => decide
  refine ⟨ho, ?_⟩
  cases h with
  | _ => exact State.record_ends _ _ _ ho

/-- FALLBACK ends exactly the writes in fallback outside CFG. -/
theorem WriteEnd.fallback_iff {s t : State} {c a v o : Nat} (h : WriteEnd s c a v o t) :
    o = 6 ↔ s.inFallback = true ∧ 0x100000 ≤ a := by
  cases h with
  | fallback hf => exact iff_of_true rfl hf
  | rejected i o hf hr ho => exact iff_of_false (by rintro rfl; simp at ho) hf
  | _ => exact iff_of_false (by decide) (by assumption)

/-- RESERVED ends exactly the writes to an address without a register, or to one that is shut. -/
theorem WriteEnd.reserved_iff {s t : State} {c a v o : Nat} (h : WriteEnd s c a v o t) :
    o = 7 ↔ ¬(s.inFallback = true ∧ 0x100000 ≤ a) ∧ a % 0x100000 ≠ 0 ∧ ((regDesc? a).isNone = true ∨ s.rawShut a = true) := by
  cases h with
  | fallback hf => exact iff_of_false (by decide) fun h => h.1 hf
  | select hf ho => exact iff_of_false (by decide) fun h => h.2.1 ho
  | reserved hf ho hr => exact iff_of_true rfl ⟨hf, ho, hr⟩
  | rejected i o hf hr ho => exact iff_of_false (by rintro rfl; simp at ho) fun h => hr h.2.2
  | unselected hf hr => exact iff_of_false (by decide) fun h => hr h.2.2
  | accepted u hf hr => exact iff_of_false (by decide) fun h => hr h.2.2

/-- NO_SEL ends only writes to a channel register of a block in which nothing is selected. -/
theorem WriteEnd.of_unselected {s t : State} {c a v o : Nat} (h : WriteEnd s c a v o t) (h4 : o = 4) :
    0x80000 ≤ a % 0x100000 ∧ s.selected c (a / 0x100000) = none := by
  cases h with
  | unselected hf hr hs => exact hs
  | rejected i o hf hr ho =>
    subst h4
    simp at ho
  | _ => exact absurd h4 (by decide)

/-- Every rejection leaves a state of one form. -/
theorem WriteEnd.of_rejected {s t : State} {c a v o : Nat} (h : WriteEnd s c a v o t) (h0 : o ≠ 0) :
    ∃ i w, t = (s.noteReject a i w o).record c a o := by
  cases h with
  | rejected i o => exact ⟨i, v, rfl⟩
  | select => exact absurd rfl h0
  | accepted => exact absurd rfl h0
  | _ => exact ⟨0, 0, rfl⟩

/-- A write that reaches its register, and whose fields take the value, has the effect of `accept`. -/
theorem State.writeWord_accepted {s : State} {c a i v : Nat} {d : RegDesc} (h : CanReach s c a i) (ho : a % 0x100000 ≠ 0)
    (hd : regDesc? a = some d) (hbind : a ≠ Reg.cntCtxBind) (hok : s.fieldOutcome d a i v = 0) :
    s.writeWord c a v = (s.accept d c a i v).record c a 0 := by
  have hraw : s.rawShut a = false := by
    have hp := h.place
    cases hr : s.rawShut a with
    | false => rfl
    | true => simp [State.place, hr] at hp
  have hsel : ¬(0x80000 ≤ a % 0x100000 ∧ s.selected c (a / 0x100000) = none) := by
    rintro ⟨h1, h2⟩
    rcases h.chosen with h3 | h3
    · omega
    · simp [h2] at h3
  simp [State.writeWord, h.up, ho, hd, hraw, hbind, hsel, h.place, hok]

/-- A live context's write at an address of the window. -/
theorem State.coreWrite_window {s : State} {c a : Nat} (v : Nat) (hl : s.ctxLive c = true) (ha : regAddr a = true) :
    s.coreWrite c a v = (s.writeWord c a v).completed c false := by
  simp [State.coreWrite, hl, ha]
/-- A live context's read at an address of the window. -/
theorem State.coreRead_window {s : State} {c a : Nat} (hl : s.ctxLive c = true) (ha : regAddr a = true) :
    s.coreRead c a = (((s.readWord c a).2.modCtx c fun x => { x with read := [BitVec.ofNat 32 (s.readWord c a).1] }).completed c false) := by
  simp [State.coreRead, hl, ha]

theorem regAddr_iff {a : Nat} : regAddr a = true ↔ a < 2 ^ 24 ∧ a % 4 = 0 := by
  simp [regAddr]

end Sys2Proof.Machine
end

section
/-! R535: the outcomes of a register write (obligation O20). -/

namespace Sys2Proof.Machine

/-- What a rejected write leaves: its address and count, the flag that a rejected Skein descriptor sets (R489), and nothing else. -/
theorem State.rejected_leaves (s : State) {c a o : Nat} (i v : Nat) (ha : a < 2 ^ 24) (ho : o ≠ 0) :
    ((s.noteReject a i v o).record c a o).reg Reg.cfgWaddr c = a ∧
    ((s.noteReject a i v o).record c a o).reg Reg.cfgWrejCnt c = (s.reg Reg.cfgWrejCnt c + 1) % 2 ^ 32 ∧
    { ((s.noteReject a i v o).record c a o).completed c false with regs := s.regs } = s.completed c false ∧
    ∀ b j, b < 2 ^ 24 → (b ∈ [Reg.cfgWstat, Reg.cfgWaddr, Reg.cfgWrejCnt] → j ≠ c) → (o = 3 → b ≠ Reg.sknStatus) →
      ((s.noteReject a i v o).record c a o).reg b j = s.reg b j := by
  have hnote : ∀ b j, b < 2 ^ 24 → (o = 3 → b ≠ Reg.sknStatus) → (s.noteReject a i v o).reg b j = s.reg b j := by
    intro b j hb h3
    unfold State.noteReject
    split
    case isTrue h => exact State.reg_setReg_other _ _ (by decide) hb fun e => absurd e (h3 h.1)
    case isFalse => rfl
  have hbeside : ∀ r, { s.noteReject a i v o with regs := r } = { s with regs := r } := by
    intro r
    unfold State.noteReject
    split <;> rfl
  refine ⟨State.record_waddr _ c ha ho, ?_, ?_, fun b j hb hw h3 => ?_⟩
  · rw [State.record_wrejCnt _ c a ho, hnote _ _ (by decide) (fun _ => by decide)]
  · have h := (State.record_beside_regs (s.noteReject a i v o) c a o s.regs).trans (hbeside s.regs)
    exact congrArg (fun t => t.completed c false) h
  · rw [State.reg_record_other _ c a o hb hw, hnote b j hb h3]

/-- An address in INT, THM or CAL is no address of another block. -/
theorem ne_of_plain_block {a b : Nat} (ha : a / 0x100000 ∈ [4, 10, 11]) (hb : b / 0x100000 ∉ [4, 10, 11]) : a ≠ b :=
  fun e => hb (e ▸ ha)

/-- The registers of INT, THM and CAL take their fields and have no further effect than their LIVE copies. -/
theorem State.accept_of_plain_block (s : State) (d : RegDesc) {c a : Nat} (v : Nat) (hblk : a / 0x100000 ∈ [4, 10, 11]) :
    s.accept d c a 0 v = (s.setReg a 0 (writtenWord d (s.reg a) v)).liveAtOnce a := by
  have hjob : a ≠ Reg.wgtJobCtl := ne_of_plain_block hblk (by decide)
  have hstored : unstored a = false := by
    refine Bool.eq_false_iff.mpr fun h => ?_
    have hm : ∀ b ∈ [Reg.trnTodCtl, Reg.srvHankStat, Reg.srvHankDataLo, Reg.srvHankDataHi, Reg.gauRegCtl, Reg.cntSampNext,
        Reg.cntSampNext + 32, Reg.bstRawCmd, Reg.cntMode], b / 0x100000 ∉ [4, 10, 11] := by decide
    exact hm a (List.contains_iff_mem.mp h) hblk
  simp only [List.mem_cons, List.not_mem_nil, or_false] at hblk
  unfold State.accept State.writeEffect
  rcases hblk with hb | hb | hb <;> simp [hb, hjob, hstored]

theorem State.liveAtOnce_beside_live (s : State) (a : Nat) (l : SMap Word) : { s.liveAtOnce a with live := l } = { s with live := l } := by
  have fold : ∀ (ds : List Nat) (t : State), { ds.foldl (fun t d => t.applyLive d a) t with live := l } = { t with live := l } := by
    intro ds
    induction ds with
    | nil => exact fun _ => rfl
    | cons d ds ih => exact fun t => ih (t.applyLive d a)
  unfold State.liveAtOnce
  split
  · exact fold _ s
  · rfl
@[simp] theorem State.reg_liveAtOnce (s : State) (a b i : Nat) : (s.liveAtOnce a).reg b i = s.reg b i :=
  State.reg_of_regs_eq (congrArg State.regs (s.liveAtOnce_beside_live a [])) b i

/-- No rule over more than one field stands in INT, THM or CAL. -/
theorem State.wordFits_of_plain_block (s : State) {a : Nat} (i v : Nat) (hblk : a / 0x100000 ∈ [4, 10, 11]) : s.wordFits a i v = true := by
  have h : a / 0x100000 = 4 ∨ a / 0x100000 = 10 ∨ a / 0x100000 = 11 := by simpa using hblk
  have hhome : ¬(Reg.srvCtxHome ≤ a ∧ a < Reg.srvCtxHome + 16384) := by unfold Reg.srvCtxHome; omega
  have hraw : a ≠ Reg.bstRawUnit := ne_of_plain_block hblk (by decide)
  have hgau : ¬(Reg.gauRegEntry ≤ a ∧ a < Reg.gauInjEntry + 16) := by unfold Reg.gauRegEntry Reg.gauInjEntry; omega
  have htod : a ≠ Reg.trnTodCtl := ne_of_plain_block hblk (by decide)
  have hstack : a ≠ Reg.srvCtxStack := ne_of_plain_block hblk (by decide)
  have hskn : ¬(Reg.sknRdescDst ≤ a ∧ a < Reg.sknRdescDst + 8192 ∧ a % 16 = 0) := by unfold Reg.sknRdescDst; omega
  simp only [State.wordFits, if_neg hhome, if_neg hraw, if_neg hgau, if_neg htod, if_neg hstack, if_neg hskn]

/-- A context reaches a global register that exists, is not shut, and is not kept per context. -/
theorem State.canReach_global {s : State} {c a : Nat} (hl : s.ctxLive c = true) (hup : s.inFallback = false)
    (hd : (regDesc? a).isSome = true) (hraw : s.rawShut a = false) (hper : perContext a = false) (ho : a % 0x100000 < 0x80000) :
    CanReach s c a 0 where
  live := hl
  up := hup
  place := by simp [State.place, Option.isSome_iff_ne_none.mp hd, hraw, hper, ho]
  chosen := .inl ho

/-- A write to a global register of INT, THM or CAL that takes its fields. -/
theorem State.writeWord_plain_block {s : State} {c a v : Nat} {d : RegDesc} (hl : s.ctxLive c = true) (hup : s.inFallback = false)
    (hblk : a / 0x100000 ∈ [4, 10, 11]) (h0 : 0 < a % 0x100000) (hoff : a % 0x100000 < 0x80000) (hd : regDesc? a = some d)
    (hok : s.fieldOutcome d a 0 v = 0) :
    s.writeWord c a v = ((s.setReg a 0 (writtenWord d (s.reg a) v)).liveAtOnce a).record c a 0 := by
  have elsewhere : ∀ b : Nat, b / 0x100000 ∉ [4, 10, 11] → a ≠ b := fun _ => ne_of_plain_block hblk
  have hraw : s.rawShut a = false := by
    simp [State.rawShut, elsewhere Reg.bstRawUnit (by decide), elsewhere Reg.bstRawCmd (by decide)]
  have hper : perContext a = false := by
    simp [perContext, elsewhere Reg.cfgWstat (by decide), elsewhere Reg.cfgWaddr (by decide), elsewhere Reg.cfgWrejCnt (by decide),
      elsewhere Reg.cntCtxBind (by decide)]
  rw [State.writeWord_accepted (State.canReach_global hl hup (by simp [hd]) hraw hper hoff) (by omega) hd
    (elsewhere _ (by decide)) hok, State.accept_of_plain_block s d v hblk]

/-- What such a write leaves: the register's word, the outcome, and everything else but the LIVE copies. -/
theorem State.plain_write_leaves (s : State) {a : Nat} (c w : Nat) (ha : a < 2 ^ 24) (hne : a ≠ Reg.cfgWstat) :
    (((s.setReg a 0 w).liveAtOnce a).record c a 0).reg a = w % 2 ^ 32 ∧
    { (((s.setReg a 0 w).liveAtOnce a).record c a 0).completed c false with regs := s.regs, live := s.live } = s.completed c false ∧
    ∀ b i, b < 2 ^ 24 → (b = a → i ≠ 0) → (b = Reg.cfgWstat → i ≠ c) → (((s.setReg a 0 w).liveAtOnce a).record c a 0).reg b i = s.reg b i := by
  refine ⟨?_, ?_, fun b i hb h1 h2 => ?_⟩
  · rw [State.record_ok, State.reg_setReg_addr _ _ (by decide) ha hne, State.reg_liveAtOnce, State.reg_setReg_self]
  · have h := congrArg (fun t : State => { t with regs := s.regs }) ((s.setReg a 0 w).liveAtOnce_beside_live a s.live)
    exact congrArg (fun t => t.completed c false) h
  · rw [State.record_ok, State.reg_setReg_other _ _ (by decide) hb h2, State.reg_liveAtOnce, State.reg_setReg_other _ _ ha hb h1]

/-- Settles O20: every end of a write by its constructor of `WriteEnd`; an accepted one in INT, THM and CAL by its fields. -/
theorem registerWriteOutcomes : Obligations.RegisterWriteOutcomes := by
  unfold Obligations.RegisterWriteOutcomes
  rintro s c addr v a rfl
  refine ⟨fun hl => ⟨_, rfl, ?_⟩, fun hl ha => ⟨_, rfl, ?_⟩, fun hl ha => ⟨_, rfl, ?_⟩,
    fun d hl hup ha hblk h0 hoff hd hne hcls hfit hquiet => ⟨_, rfl, ?_⟩⟩
  · simp [State.coreWrite, hl]
  · simp [State.coreWrite, hl, ha]
  · rw [State.coreWrite_window _ hl ha]
    have ha24 := (regAddr_iff.mp ha).1
    obtain ⟨o, h⟩ := s.writeWord_ends (cn c) addr.toNat v.toNat
    refine ⟨o, h.ends.1, h.ends.2, h.fallback_iff, h.reserved_iff, h.of_unselected, fun h0 => ?_⟩
    obtain ⟨i, w, hw⟩ := h.of_rejected h0
    rw [hw]
    exact s.rejected_leaves i w ha24 h0
  · rw [State.coreWrite_window _ hl ha]
    have hok := State.fieldOutcome_ok hne hcls hquiet hfit (s.wordFits_of_plain_block 0 v.toNat hblk)
    rw [State.writeWord_plain_block hl hup hblk h0 hoff hd hok]
    exact ⟨State.record_ends _ _ _ (by decide), s.plain_write_leaves (cn c) _ (regAddr_iff.mp ha).1 (ne_of_plain_block hblk (by decide))⟩

end Sys2Proof.Machine
end

section
/-! Selects, reads and RDMA accesses of the register window (R10-R13, R20, R459, R460, R519; obligation O21). -/

namespace Sys2Proof.Machine

/-! ## What a read of one word answers (R12, R13, R20, R519) -/

section
variable {s : State} {c a : Nat}

theorem State.not_fallback_block {blk : Nat} (hup : s.inFallback = false ∨ blk = 0) : ¬(s.inFallback = true ∧ blk ≠ 0) := by
  rintro ⟨h1, h2⟩
  rcases hup with h | h
  · simp [h] at h1
  · exact h2 h

theorem State.readWord_fallback (hf : s.inFallback = true) (hb : a / 0x100000 ≠ 0) : s.readWord c a = (0, s) := by
  simp [State.readWord, hf, hb]

variable (hup : s.inFallback = false ∨ a / 0x100000 = 0)
include hup

theorem State.readWord_select (ho : a % 0x100000 = 0) : s.readWord c a = (s.selWord c (a / 0x100000), s) := by
  simp only [State.readWord, if_neg (State.not_fallback_block hup), if_pos ho]

variable (ho : a % 0x100000 ≠ 0)
include ho

theorem State.readWord_reserved (hp : s.place c a = none) : s.readWord c a = (0, s) := by
  simp only [State.readWord, if_neg (State.not_fallback_block hup), if_neg ho, hp]

theorem State.readWord_high {i : Nat} (hp : s.place c a = some i) (hh : isHigh a = true) :
    s.readWord c a = ((SMap.get (0 : Word) (s.ctx c).latch (a / 0x100000)).toNat, s) := by
  simp only [State.readWord, if_neg (State.not_fallback_block hup), if_neg ho, hp, hh, if_true]

theorem State.readWord_plain {i : Nat} (hp : s.place c a = some i) (hh : isHigh a = false) (hl : isLow a = false) :
    s.readWord c a = (s.word c a i, s) := by
  simp only [State.readWord, if_neg (State.not_fallback_block hup), if_neg ho, hp, hh, hl, Bool.false_eq_true, if_false]

/-- A _LO word without a side effect: the high word goes to the latch of the context and block. -/
theorem State.readWord_low {i : Nat} (hp : s.place c a = some i) (hh : isHigh a = false) (hl : isLow a = true)
    (hq : a ≠ Reg.srvHankDataLo) (hv : a ≠ Reg.cntValLo) :
    s.readWord c a = (s.word c a i, s.modCtx c fun x =>
      { x with latch := SMap.set 0 x.latch (a / 0x100000) (BitVec.ofNat 32 (s.word c (a + 4) i)) }) := by
  simp only [State.readWord, if_neg (State.not_fallback_block hup), if_neg ho, hp, hh, hl, State.readEffect, if_neg hq, if_neg hv, if_true]
  rfl

end

/-- A live context's read that changes nothing but what the context has read. -/
theorem State.coreRead_pure {s : State} {c a w : Nat} (hl : s.ctxLive c = true) (ha : regAddr a = true) (h : s.readWord c a = (w, s)) :
    s.coreRead c a = (s.modCtx c fun x => { x with read := [BitVec.ofNat 32 w] }).completed c false := by
  rw [State.coreRead_window hl ha, h]

/-! ## Select registers (R20) -/

theorem regAddr_select (blk : BitVec 4) : regAddr (0x100000 * blk.toNat) = true :=
  regAddr_iff.mpr ⟨by omega, by omega⟩

theorem State.writeWord_select {s : State} {c blk v : Nat} (hup : s.inFallback = false ∨ blk = 0) :
    s.writeWord c (0x100000 * blk) v = (s.selectWrite c blk v).record c (0x100000 * blk) 0 := by
  have hb : 0x100000 * blk / 0x100000 = blk := by omega
  have ho : 0x100000 * blk % 0x100000 = 0 := by omega
  simp only [State.writeWord, hb, ho, if_neg (State.not_fallback_block hup), if_true]

theorem State.writeWord_fallback {s : State} {c a v : Nat} (hf : s.inFallback = true) (hb : a / 0x100000 ≠ 0) :
    s.writeWord c a v = s.record c a 6 := by
  simp only [State.writeWord, if_pos (And.intro hf hb)]

/-! ## RDMA accesses (R459, R460) -/

theorem byteAt_drop (bs : Bytes) (d i : Nat) : byteAt (bs.drop d) i = byteAt bs (d + i) := by
  simp [byteAt]
theorem leNat_drop (bs : Bytes) (d i n : Nat) : leNat (bs.drop d) i n = leNat bs (d + i) n := by
  induction n generalizing i with
  | zero => rfl
  | succ n ih => simp only [leNat, byteAt_drop, ih, Nat.add_assoc]
theorem leNat_lt (bs : Bytes) (i n : Nat) : leNat bs i n < 256 ^ n := by
  induction n generalizing i with
  | zero => exact Nat.one_pos
  | succ n ih =>
    have hb : byteAt bs i < 256 := (bs.getD i 0).isLt
    have := ih (i + 1)
    simp only [leNat, Nat.pow_succ]
    omega

/-- Writing whole words in ascending order is the fold of the single writes. -/
theorem State.writeWords_eq_foldl (c n a : Nat) (bs : Bytes) (s : State) :
    State.writeWords c n a bs s = (List.range n).foldl (fun u i => u.writeWord c (a + 4 * i) (leNat bs (4 * i) 4)) s := by
  induction n generalizing a bs s with
  | zero => rfl
  | succ n ih =>
    rw [State.writeWords, ih, List.range_succ_eq_map, List.foldl_cons, List.foldl_map]
    simp only [leNat_drop, Nat.mul_zero, Nat.add_zero, Nat.succ_eq_add_one, Nat.mul_add, Nat.mul_one, Nat.add_assoc, Nat.add_comm 4]

theorem State.readWords_length (c n a : Nat) (s : State) : (State.readWords c n a s).1.length = n := by
  induction n generalizing a s with
  | zero => rfl
  | succ n ih => exact congrArg Nat.succ (ih _ _)

/-- The answer to an RDMA read of `n` words: the context keeps what it read, and a read response leaves (R460). -/
def State.rdmaRead (s : State) (k n a : Nat) : State :=
  ((State.readWords k n a s).2.modCtx k fun x => { x with read := (State.readWords k n a s).1 }).send
    (.readResp k ((State.readWords k n a s).1.flatMap fun w => natLe w.toNat 4))

section
variable {s : State} {slot : BitVec 9} {key : Word} {addr : DWord} {data : Bytes}
  (hslot : slotOk slot.toNat = true) (hst : (s.qp slot.toNat).st = 2)
include hslot hst

/-- An access on a connected queue pair: refused, written or read. -/
theorem exec_rdma_connected (write : Bool) (len : Nat) : exec (.rdmaRegisterAccess slot key write addr len data) s = .next
    (if 6 ≤ slot.toNat ∨ key ≠ (s.qp slot.toNat).key ∨ addr.toNat % 4 ≠ 0 ∨ len % 4 ≠ 0 ∨ 2 ^ 24 < addr.toNat + len ∨
      write = true ∧ data.length ≠ len then s.send (.nak slot.toNat)
    else if write then State.writeWords slot.toNat (len / 4) addr.toNat data s
    else s.rdmaRead slot.toNat (len / 4) addr.toNat) :=
  (if_pos hslot).trans (congrArg Host.Outcome.next (if_neg fun h => h hst))

variable {n : Nat} (hk : slot.toNat < 6) (hkey : key = (s.qp slot.toNat).key) (ha : addr.toNat % 4 = 0) (hlen : addr.toNat + 4 * n ≤ 2 ^ 24)
include hk hkey ha hlen

/-- Whole words of the window under the queue pair's key, with their data where they are written, are not refused. -/
theorem exec_rdma_words {write : Bool} (hd : write = true → data.length = 4 * n) :
    exec (.rdmaRegisterAccess slot key write addr (4 * n) data) s =
      .next (if write then State.writeWords slot.toNat n addr.toNat data s else s.rdmaRead slot.toNat n addr.toNat) := by
  rw [exec_rdma_connected hslot hst, if_neg, Nat.mul_div_cancel_left n (by decide)]
  rintro (h | h | h | h | h | h)
  · omega
  · exact h hkey
  · exact h ha
  · omega
  · omega
  · exact h.2 (hd h.1)

end

/-- Settles O21: selects and reads by the law of their case; RDMA accesses as the fold of single accesses. -/
theorem selectsReadsAndRdmaAccesses : Obligations.SelectsReadsAndRdmaAccesses := by
  unfold Obligations.SelectsReadsAndRdmaAccesses
  refine ⟨?_, ?_⟩
  · rintro s c k rfl hl
    refine ⟨fun blk v idx hup hidx => ?_, fun blk v hf hb => ⟨_, rfl, ?_⟩, ?_, ?_, fun addr ha => ?_⟩
    · refine congrArg Host.Outcome.next ?_
      have hup' : s.inFallback = false ∨ blk.toNat = 0 := hup.imp_right fun h => by rw [h]; rfl
      rw [State.coreWrite_window _ hl (regAddr_select blk), State.writeWord_select hup', State.record_ok]
      simp only [State.selectWrite, hidx, ← BitVec.toNat_inj]
      rfl
    · have hblk : 0x100000 * blk.toNat / 0x100000 ≠ 0 := by
        have : blk.toNat ≠ 0 := fun h => hb (BitVec.eq_of_toNat_eq h)
        omega
      rw [State.coreWrite_window _ hl (regAddr_select blk), State.writeWord_fallback hf hblk]
      exact ⟨State.record_ends _ _ _ (by decide), congrArg (fun t : State => t.completed (cn c) false) (s.record_beside_regs _ _ _ _)⟩
    · rintro addr a w rfl ha h
      have hblk : addr.toNat / 0x100000 = 0 ↔ addr.toNat < 0x100000 := by omega
      refine congrArg Host.Outcome.next ?_
      rw [← hblk] at h
      rcases h with ⟨hf, hb, rfl⟩ | ⟨hup, ho, rfl⟩ | ⟨hup, ho, hp, rfl⟩ | ⟨hup, ho, i, hp, hh, hlo, rfl⟩ | ⟨hup, ho, hp, hh, rfl⟩
      · exact State.coreRead_pure hl ha (State.readWord_fallback hf (by omega))
      · exact State.coreRead_pure hl ha (State.readWord_select hup ho)
      · exact State.coreRead_pure hl ha (State.readWord_reserved hup ho hp)
      · exact State.coreRead_pure hl ha (State.readWord_plain hup ho hp hh hlo)
      · obtain ⟨i, hi⟩ := Option.isSome_iff_exists.mp hp
        have h := State.coreRead_pure hl ha (State.readWord_high hup ho hi hh)
        rwa [BitVec.ofNat_toNat, BitVec.setWidth_eq] at h
    · rintro addr a i rfl ha hup ho hp hh hlo hq hv
      refine congrArg Host.Outcome.next ?_
      rw [State.coreRead_window hl ha, State.readWord_low (hup.imp_right fun h => by omega) ho hp hh hlo hq hv]
    · refine congrArg Host.Outcome.next ?_
      simp [State.coreRead, hl, ha]
  · rintro s slot key addr n k a data rfl rfl hslot hst
    refine ⟨fun hk hkey ha hlen => ⟨fun hd => ?_, ?_, ?_⟩, fun write len h => ?_⟩
    · rw [exec_rdma_words hslot hst hk hkey ha hlen fun _ => hd, if_pos rfl, State.writeWords_eq_foldl]
    · rintro hd rfl hl c v u rfl rfl hu
      have hword : u = s.writeWord slot.toNat addr.toNat (leNat data 0 4) :=
        (Host.Outcome.next.inj ((exec_rdma_words hslot hst hk hkey ha hlen fun _ => hd).symm.trans hu)).symm
      have hc : (BitVec.ofNat 3 slot.toNat).toNat = slot.toNat := by rw [BitVec.toNat_ofNat]; omega
      have haddr : (BitVec.ofNat 32 addr.toNat).toNat = addr.toNat := by rw [BitVec.toNat_ofNat]; omega
      have hdata : (BitVec.ofNat 32 (leNat data 0 4)).toNat = leNat data 0 4 := by
        rw [BitVec.toNat_ofNat]
        exact Nat.mod_eq_of_lt (leNat_lt data 0 4)
      refine congrArg Host.Outcome.next ?_
      rw [cn, hc, haddr, hdata, State.coreWrite_window _ hl (regAddr_iff.mpr ⟨by omega, ha⟩), hword]
    · refine ⟨_, _, State.readWords_length _ _ _ _, exec_rdma_words hslot hst hk hkey ha hlen (by simp), ?_⟩
      rintro rfl
      exact ⟨rfl, rfl⟩
    · rw [exec_rdma_connected hslot hst, if_pos h]

end Sys2Proof.Machine
end

section
/-! Queue pairs and connections (R17, R457-R464, R500; obligation O45): what opening, showing and freeing a slot changes, and what its
commands send and raise. -/

namespace Sys2Proof.Machine

/-! ## What sending and raising leave (R463, R593-R597) -/

/-- One message sent from a state whose links, output and port for it are those of `s`. -/
theorem sent_send {s u : State} {m : OutMsg} (ho : u.out = s.out) (hn : u.net = s.net) (hp : u.roceport m = s.roceport m) :
    Sent s (u.send m) [m] := by
  simp only [Sent, List.foldl_cons, List.foldl_nil, State.send, hp, hn, ho]
  split
  · split <;> exact ⟨rfl, rfl⟩
  · exact ⟨rfl, rfl⟩

@[simp] theorem State.reg_send (s : State) (m : OutMsg) (a i : Nat) : (s.send m).reg a i = s.reg a i :=
  State.reg_of_regs_eq (s.send_regs m) a i
@[simp] theorem State.fld_send (s : State) (m : OutMsg) (a i hi lo : Nat) : (s.send m).fld a i hi lo = s.fld a i hi lo :=
  congrArg (bits · hi lo) (s.reg_send m a i)
@[simp] theorem State.qp_send (s : State) (m : OutMsg) (k : Nat) : (s.send m).qp k = s.qp k := by
  unfold State.qp
  rw [State.send_qps]
@[simp] theorem State.ctx_send (s : State) (m : OutMsg) (k : Nat) : (s.send m).ctx k = s.ctx k := by
  unfold State.ctx
  rw [State.send_ctxs]

/-- `Raised` speaks of the event machinery and the stamp alone. -/
theorem Raised.of_eq {s u s' u' : State} {c : Nat} {d : Bytes} (h : Raised u u' c d) (h0 : u.events = s.events)
    (h1 : s'.events = u'.events) (h2 : s'.time = u'.time) : Raised s s' c d := by
  unfold Raised at h ⊢
  rw [← h0, h1, h2]
  exact h

/-- An event of the module as a whole is raised with its own SEQ and stamp. -/
theorem State.raise_raised (s : State) (code : Nat) (d : Bytes) (src : Nat) (hc : code < 65536) : Raised s (s.raise code d src) code d :=
  raiseIn_raised 0 code src d hc
/-- Raising an event of the module changes the event machinery, the CNT registers and the event queue alone. -/
theorem State.raise_onlyEvents (s : State) (code : Nat) (d : Bytes) (src : Nat) : OnlyEvents [] s (s.raise code d src) :=
  OnlyEvents.refl.raiseIn 0 code src d
@[simp] theorem State.raise_qps (s : State) (code : Nat) (d : Bytes) (src : Nat) : (s.raise code d src).qps = s.qps :=
  (congrArg State.qps (s.raise_onlyEvents code d src).rest :)
@[simp] theorem State.raise_ctxs (s : State) (code : Nat) (d : Bytes) (src : Nat) : (s.raise code d src).ctxs = s.ctxs :=
  (congrArg State.ctxs (s.raise_onlyEvents code d src).rest :)
@[simp] theorem State.raise_out (s : State) (code : Nat) (d : Bytes) (src : Nat) : (s.raise code d src).out = s.out :=
  (congrArg State.out (s.raise_onlyEvents code d src).rest :)
@[simp] theorem State.raise_net (s : State) (code : Nat) (d : Bytes) (src : Nat) : (s.raise code d src).net = s.net :=
  (congrArg State.net (s.raise_onlyEvents code d src).rest :)
theorem State.reg_raise (s : State) (code : Nat) (d : Bytes) (src : Nat) {a : Nat} (i : Nat) (ha : a < 2 ^ 24)
    (hc : a / 2 ^ 20 ≠ Reg.cntStatus / 2 ^ 20) : (s.raise code d src).reg a i = s.reg a i :=
  (s.raise_onlyEvents code d src).regs a i ha hc List.not_mem_nil

/-! ## Showing, opening and freeing a slot -/

@[simp] theorem State.showQp_qps (s : State) (k : Nat) : (s.showQp k).qps = s.qps := rfl
@[simp] theorem State.showQp_ctxs (s : State) (k : Nat) : (s.showQp k).ctxs = s.ctxs := rfl
@[simp] theorem State.showQp_out (s : State) (k : Nat) : (s.showQp k).out = s.out := rfl
@[simp] theorem State.showQp_net (s : State) (k : Nat) : (s.showQp k).net = s.net := rfl
@[simp] theorem State.showQp_events (s : State) (k : Nat) : (s.showQp k).events = s.events := rfl
@[simp] theorem State.showQp_time (s : State) (k : Nat) : (s.showQp k).time = s.time := rfl
@[simp] theorem State.qp_showQp (s : State) (k q : Nat) : (s.showQp k).qp q = s.qp q := rfl
theorem State.reg_showQp_other (s : State) (k : Nat) {a : Nat} (i : Nat) (ha : a < 2 ^ 24)
    (h : a ∉ [Reg.ethQpState, Reg.ethQpLqpn, Reg.ethQpRqpn]) : (s.showQp k).reg a i = s.reg a i := by
  simp only [List.mem_cons, List.not_mem_nil, or_false, not_or] at h
  obtain ⟨h1, h2, h3⟩ := h
  unfold State.showQp
  rw [State.reg_setReg_addr _ _ (by decide) ha h3, State.reg_setReg_addr _ _ (by decide) ha h2, State.reg_setReg_addr _ _ (by decide) ha h1]

/-- STATE of ETH_QP_STATE shows the slot's state. -/
theorem State.fld_showQp_st (s : State) (k : Nat) (h : (s.qp k).st < 8) : (s.showQp k).fld Reg.ethQpState k 2 0 = (s.qp k).st := by
  unfold State.fld State.showQp bits
  rw [State.reg_setReg_addr _ _ (by decide) (by decide) (by decide), State.reg_setReg_addr _ _ (by decide) (by decide) (by decide),
    State.reg_setReg_self]
  split <;> omega
/-- A free slot shows 0. -/
theorem State.reg_showQp_free (s : State) (k : Nat) (h : (s.qp k).st = 0) : (s.showQp k).reg Reg.ethQpState k = 0 := by
  unfold State.showQp
  rw [State.reg_setReg_addr _ _ (by decide) (by decide) (by decide), State.reg_setReg_addr _ _ (by decide) (by decide) (by decide),
    State.reg_setReg_self, if_pos h, Nat.zero_mod]

/-- Opening a slot draws free values, writes the slot and its registers, and binds a MANAGEMENT slot's context. -/
theorem State.openQp_eq (s : State) (k p r : Nat) (src : List Word) : ∃ (n : Nat) (x : Qp),
    (x.st = 2 ∧ x.rqpn = r ∧ x.ip = src ∧ x.port = p ∧ x.lqpn < 2 ^ 24) ∧
    s.openQp k p src r = if k < 6 then ((({ s with freeCtr := n }).modQp k fun _ => x).showQp k).modCtx k fun c => { c with bound := true, qp := k }
      else (({ s with freeCtr := n }).modQp k fun _ => x).showQp k :=
  ⟨_, _, ⟨rfl, rfl, rfl, rfl, Nat.mod_lt _ (by decide)⟩, rfl⟩
@[simp] theorem State.openQp_out (s : State) (k p r : Nat) (src : List Word) : (s.openQp k p src r).out = s.out := by
  obtain ⟨n, x, -, e⟩ := s.openQp_eq k p r src
  rw [e]
  split <;> rfl
@[simp] theorem State.openQp_net (s : State) (k p r : Nat) (src : List Word) : (s.openQp k p src r).net = s.net := by
  obtain ⟨n, x, -, e⟩ := s.openQp_eq k p r src
  rw [e]
  split <;> rfl

/-- What opening a slot leaves: a connected queue pair of the peer that asked, shown in the slot's registers, and in a MANAGEMENT slot a
bound context. -/
theorem State.openQp_opens (s : State) (k p r : Nat) (src : List Word) :
    ((s.openQp k p src r).qp k).st = 2 ∧ ((s.openQp k p src r).qp k).rqpn = r ∧ ((s.openQp k p src r).qp k).ip = src ∧
    ((s.openQp k p src r).qp k).port = p ∧ ((s.openQp k p src r).qp k).lqpn < 2 ^ 24 ∧
    (∀ q, q ≠ k → (s.openQp k p src r).qp q = s.qp q) ∧ (s.openQp k p src r).fld Reg.ethQpState k 2 0 = 2 ∧
    (k < 6 → ((s.openQp k p src r).ctx k).bound = true ∧ ∀ j, j ≠ k → (s.openQp k p src r).ctx j = s.ctx j) := by
  obtain ⟨n, x, ⟨hst, hr, hip, hp, hl⟩, e⟩ := s.openQp_eq k p r src
  generalize hu : ({ s with freeCtr := n }).modQp k (fun _ => x) = u at e
  have hself : u.qp k = x := by rw [← hu]; exact State.qp_modQp_self _ _ _
  have hother : ∀ q, q ≠ k → u.qp q = s.qp q := fun q hq => by rw [← hu]; exact State.qp_modQp_ne _ _ hq
  have hctx : u.ctxs = s.ctxs := by rw [← hu]; rfl
  have hfld : (u.showQp k).fld Reg.ethQpState k 2 0 = 2 := by rw [State.fld_showQp_st u k (by rw [hself]; omega), hself, hst]
  have hqp : ∀ q, (s.openQp k p src r).qp q = u.qp q := fun q => by rw [e]; split <;> rfl
  refine ⟨by rw [hqp, hself, hst], by rw [hqp, hself, hr], by rw [hqp, hself, hip], by rw [hqp, hself, hp], by rwa [hqp, hself],
    fun q hq => (hqp q).trans (hother q hq), ?_, fun hk => ?_⟩
  · rw [e]
    split <;> exact hfld
  · rw [e, if_pos hk]
    refine ⟨by rw [State.ctx_modCtx_self], fun j hj => ?_⟩
    rw [State.ctx_modCtx_ne _ _ hj]
    exact congrArg (SMap.get Ctx.init · j) hctx

/-- The slot's part of freeing it: the queue pair, its registers and its rate. -/
def State.clearQp (s : State) (k : Nat) : State := ((s.modQp k fun _ => Qp.init).showQp k).setReg Reg.ethQpRate k 200000

theorem State.freeQp_eq (s : State) (k : Nat) : s.freeQp k = if k < 6 then (s.clearQp k).resetCtx k else s.clearQp k := rfl

@[simp] theorem State.clearQp_ctxs (s : State) (k : Nat) : (s.clearQp k).ctxs = s.ctxs := by
  simp [State.clearQp]
@[simp] theorem State.clearQp_out (s : State) (k : Nat) : (s.clearQp k).out = s.out := by
  simp [State.clearQp]
@[simp] theorem State.clearQp_net (s : State) (k : Nat) : (s.clearQp k).net = s.net := by
  simp [State.clearQp]
@[simp] theorem State.clearQp_events (s : State) (k : Nat) : (s.clearQp k).events = s.events := by
  simp [State.clearQp]
@[simp] theorem State.clearQp_time (s : State) (k : Nat) : (s.clearQp k).time = s.time := by
  simp [State.clearQp]
@[simp] theorem State.ctx_clearQp (s : State) (k c : Nat) : (s.clearQp k).ctx c = s.ctx c := by
  unfold State.ctx
  rw [State.clearQp_ctxs]
@[simp] theorem State.resetCtx_qps (s : State) (c : Nat) : (s.resetCtx c).qps = s.qps := rfl
@[simp] theorem State.resetCtx_out (s : State) (c : Nat) : (s.resetCtx c).out = s.out := rfl
@[simp] theorem State.resetCtx_net (s : State) (c : Nat) : (s.resetCtx c).net = s.net := rfl
@[simp] theorem State.resetCtx_events (s : State) (c : Nat) : (s.resetCtx c).events = s.events := rfl
@[simp] theorem State.resetCtx_time (s : State) (c : Nat) : (s.resetCtx c).time = s.time := rfl
theorem State.ctx_resetCtx_self (s : State) (c : Nat) :
    (s.resetCtx c).ctx c = { Ctx.init with sample := (s.ctx c).sample, seen := (s.ctx c).seen, read := (s.ctx c).read } :=
  State.ctx_modCtx_self s c fun x => { Ctx.init with sample := x.sample, seen := x.seen, read := x.read }
theorem State.reg_resetCtx (s : State) (c : Nat) {a : Nat} (i : Nat) (ha : a < 2 ^ 24) (hc : a ≠ Reg.cntCtxBind) :
    (s.resetCtx c).reg a i = s.reg a i :=
  State.reg_setReg_addr _ _ (by decide) ha hc

@[simp] theorem State.freeQp_out (s : State) (k : Nat) : (s.freeQp k).out = s.out := by
  rw [State.freeQp_eq]
  split <;> simp
@[simp] theorem State.freeQp_net (s : State) (k : Nat) : (s.freeQp k).net = s.net := by
  rw [State.freeQp_eq]
  split <;> simp
@[simp] theorem State.freeQp_events (s : State) (k : Nat) : (s.freeQp k).events = s.events := by
  rw [State.freeQp_eq]
  split <;> simp
@[simp] theorem State.freeQp_time (s : State) (k : Nat) : (s.freeQp k).time = s.time := by
  rw [State.freeQp_eq]
  split <;> simp
theorem State.qp_freeQp (s : State) (k q : Nat) : (s.freeQp k).qp q = (s.modQp k fun _ => Qp.init).qp q := by
  unfold State.qp
  rw [State.freeQp_eq]
  split <;> rfl
/-- Freeing a slot writes its own registers, and ends the counter binding of a context. -/
theorem State.reg_freeQp (s : State) (k : Nat) {a : Nat} (i : Nat) (ha : a < 2 ^ 24) (hc : a ≠ Reg.cntCtxBind) :
    (s.freeQp k).reg a i = (s.clearQp k).reg a i := by
  rw [State.freeQp_eq]
  split
  · exact State.reg_resetCtx _ k i ha hc
  · rfl
theorem State.reg_freeQp_other (s : State) (k : Nat) {a : Nat} (i : Nat) (ha : a < 2 ^ 24)
    (h : a ∉ [Reg.ethQpState, Reg.ethQpLqpn, Reg.ethQpRqpn]) (hr : a ≠ Reg.ethQpRate) (hc : a ≠ Reg.cntCtxBind) :
    (s.freeQp k).reg a i = s.reg a i := by
  rw [State.reg_freeQp s k i ha hc, State.clearQp, State.reg_setReg_addr _ _ (by decide) ha hr, State.reg_showQp_other _ k i ha h]
  rfl
theorem State.ctx_freeQp_self (s : State) {k : Nat} (hk : k < 6) :
    (s.freeQp k).ctx k = { Ctx.init with sample := (s.ctx k).sample, seen := (s.ctx k).seen, read := (s.ctx k).read } := by
  rw [State.freeQp_eq, if_pos hk]
  rw [State.ctx_resetCtx_self, State.ctx_clearQp]

/-- Slot `k` of `s` is free in `s'`, every other slot is as it was, and a MANAGEMENT slot's context is reset (R17, R464). -/
def QpFreed (s : State) (k : Nat) (s' : State) : Prop :=
  s'.qp k = Qp.init ∧ (∀ q, q ≠ k → s'.qp q = s.qp q) ∧ s'.reg Reg.ethQpState k = 0 ∧ s'.reg Reg.ethQpRate k = 200000 ∧
    (k < 6 → s'.ctx k = { Ctx.init with sample := (s.ctx k).sample, seen := (s.ctx k).seen, read := (s.ctx k).read })

/-- Freeing the slot in a state whose queue pairs and contexts are those of `s`. -/
theorem qpFreed_freeQp {s u : State} (k : Nat) (hq : u.qps = s.qps) (hc : u.ctxs = s.ctxs) : QpFreed s k (u.freeQp k) := by
  have hctx : u.ctx k = s.ctx k := congrArg (SMap.get Ctx.init · k) hc
  have hself : (u.modQp k fun _ => Qp.init).qp k = Qp.init := State.qp_modQp_self _ _ _
  refine ⟨by rw [State.qp_freeQp, hself], fun q hne => ?_, ?_, ?_, fun hk => ?_⟩
  · rw [State.qp_freeQp, State.qp_modQp_ne _ _ hne]
    exact congrArg (SMap.get Qp.init · q) hq
  · rw [State.reg_freeQp _ _ _ (by decide) (by decide), State.clearQp, State.reg_setReg_addr _ _ (by decide) (by decide) (by decide),
      State.reg_showQp_free _ _ (by rw [hself]; rfl)]
  · rw [State.reg_freeQp _ _ _ (by decide) (by decide), State.clearQp, State.reg_setReg_self, Nat.mod_eq_of_lt (by decide)]
  · rw [State.ctx_freeQp_self u hk, hctx]

/-- The queue pair's event that R464 raises before the slot is freed. -/
def State.qpEvent (s : State) (k : Nat) : State :=
  (s.setBit Reg.ethStatus 0 1).raise 0x8012 (le2 (0x2000 + k) ++ le2 k ++ le1 (slotService k)) 2

theorem State.qpError_eq (s : State) {k : Nat} (h : (s.qp k).st ≠ 0) : s.qpError k = (s.qpEvent k).freeQp k := if_neg h

/-- A queue pair in ERROR: its slot is free, its event is raised. -/
theorem qpError_frees {s u : State} {k : Nat} (h : (s.qp k).st ≠ 0) (hq : u.qps = s.qps) (hc : u.ctxs = s.ctxs) (he : u.events = s.events) :
    QpFreed s k (u.qpError k) ∧ Raised s (u.qpError k) 0x8012 (le2 (0x2000 + k) ++ le2 k ++ le1 (slotService k)) := by
  have hqk : u.qp k = s.qp k := congrArg (SMap.get Qp.init · k) hq
  rw [State.qpError_eq u (by rw [hqk]; exact h)]
  refine ⟨qpFreed_freeQp k ((State.raise_qps _ _ _ _).trans hq) ((State.raise_ctxs _ _ _ _).trans hc), ?_⟩
  exact ((u.setBit Reg.ethStatus 0 1).raise_raised _ _ _ (by decide)).of_eq he (State.freeQp_events _ k) (State.freeQp_time _ k)

theorem State.qpError_out (s : State) {k : Nat} (h : (s.qp k).st ≠ 0) : (s.qpError k).out = s.out := by
  rw [State.qpError_eq s h, State.freeQp_out]
  exact State.raise_out _ _ _ _
theorem State.qpError_net (s : State) {k : Nat} (h : (s.qp k).st ≠ 0) : (s.qpError k).net = s.net := by
  rw [State.qpError_eq s h, State.freeQp_net]
  exact State.raise_net _ _ _ _
theorem State.reg_qpError_retryCnt (s : State) {k : Nat} (h : (s.qp k).st ≠ 0) (i : Nat) :
    (s.qpError k).reg Reg.ethQpRetryCnt i = s.reg Reg.ethQpRetryCnt i := by
  rw [State.qpError_eq s h, State.reg_freeQp_other _ _ _ (by decide) (by decide) (by decide) (by decide), State.qpEvent,
    State.reg_raise _ _ _ _ _ (by decide) (by decide)]
  exact State.reg_setReg_addr _ _ (by decide) (by decide) (by decide)

end Sys2Proof.Machine
end

section
/-! The commands of connections and queue pairs (R17, R457-R464, R500): obligation O45. -/

namespace Sys2Proof.Machine

/-! ## The answer to a REQ (R459) -/

/-- The reason of a refusal, by the conditions of R459 in their order. -/
theorem State.refusal_eq (s : State) (svc : Nat) (src : List Word) (mtu : Nat) : s.refusal svc src mtu =
    if svc = 0 ∨ svc ≠ 1 ∧ s.inFallback = true ∨ svc = 2 ∧ s.fld Reg.cfgLc 0 2 0 = 0 then 3 else if s.freeSlot svc = none then 1 else
      if s.listed svc src = false then 2 else if mtu ≠ 4096 then 4 else 0 := by
  simp only [State.refusal, State.inFallback, beq_iff_eq, Option.isNone_iff_eq_none]

/-- The refusal of a REQ on port `p` with reason `r` (R459). -/
def State.refuseReq (s : State) (p r : Nat) : State :=
  (((s.bump Reg.ethRefuseCnt).setBit Reg.ethStatus 0 3).raise 0x8013 (le2 (0x1000 + p) ++ le1 r) 2).send (.cmRej p 28 (le1 r))

section
variable {s : State} {port : BitVec 2} {id : DWord} {src : List Word} {mtu : Nat} {rqpn : BitVec 24}

theorem exec_cmReq_silent (h : s.answersCm = false ∨ s.portServes port.toNat = false) : exec (.cmReq port id src mtu rqpn) s = .next s :=
  congrArg Host.Outcome.next (if_pos h)

variable (ha : s.answersCm = true) (hp : s.portServes port.toNat = true)
include ha hp

/-- An accepted REQ opens its slot and is answered with REP. -/
theorem exec_cmReq_accepted {k : Nat} (h0 : s.refusal (serviceOf id) src mtu = 0) (hk : s.freeSlot (serviceOf id) = some k) :
    exec (.cmReq port id src mtu rqpn) s = .next ((s.openQp k port.toNat src rqpn.toNat).send (.cmRep port.toNat k
      ((s.openQp k port.toNat src rqpn.toNat).qp k).lqpn
      (if k < 6 then natLe ((s.openQp k port.toNat src rqpn.toNat).qp k).key.toNat 4 else []))) := by
  show execCmReq port id src mtu rqpn s = _
  simp [execCmReq, ha, hp, h0, hk]

/-- A refused REQ is counted, raises its event and is answered with REJ. -/
theorem exec_cmReq_refused {r : Nat} (hr : s.refusal (serviceOf id) src mtu = r) (h0 : r ≠ 0) :
    exec (.cmReq port id src mtu rqpn) s = .next (s.refuseReq port.toNat r) := by
  show execCmReq port id src mtu rqpn s = _
  unfold execCmReq
  dsimp only
  rw [hr, if_neg (by simp [ha, hp])]
  split
  · exact absurd rfl h0
  · rfl

end

/-- What a refusal leaves. -/
theorem State.refuseReq_leaves (s : State) (p r : Nat) : (s.refuseReq p r).qps = s.qps ∧ (s.refuseReq p r).ctxs = s.ctxs ∧
    Sent s (s.refuseReq p r) [.cmRej p 28 (le1 r)] ∧
    (s.refuseReq p r).reg Reg.ethRefuseCnt = (s.reg Reg.ethRefuseCnt + 1) % 2 ^ 32 ∧
    Raised s (s.refuseReq p r) 0x8013 (le2 (0x1000 + p) ++ le1 r) := by
  unfold State.refuseReq
  refine ⟨?_, ?_, sent_send ?_ ?_ rfl, ?_, ?_⟩
  · rw [State.send_qps, State.raise_qps]
    rfl
  · rw [State.send_ctxs, State.raise_ctxs]
    rfl
  · rw [State.raise_out]
    rfl
  · rw [State.raise_net]
    rfl
  · rw [State.reg_send, State.reg_raise _ _ _ _ _ (by decide) (by decide), State.setBit, State.setFld,
      State.reg_setReg_addr _ _ (by decide) (by decide) (by decide), State.bump, State.reg_setReg_self]
  · exact (((s.bump Reg.ethRefuseCnt).setBit Reg.ethStatus 0 3).raise_raised _ _ _ (by decide)).of_eq rfl (State.send_events _ _)
      (State.send_time _ _)

/-! ## The module's own REQ (R500) -/

/-- ETH_PEER_CMD as its table gives it: the slot, the port, the peer's device. -/
def ethPeerCmdDesc : RegDesc :=
  ⟨0x20, [], [⟨8, 0, .held, 0, .within 262 325⟩, ⟨13, 12, .held, 0, .any⟩, ⟨31, 16, .held, 0, .any⟩]⟩

theorem regDesc_ethPeerCmd : regDesc? Reg.ethPeerCmd = some ethPeerCmdDesc := rfl

/-- Its one range rule: the slot is a PEER slot. -/
theorem ethPeerCmd_fits {v : Nat} (h1 : 262 ≤ bits v 8 0) (h2 : bits v 8 0 < 326) :
    ∀ f ∈ ethPeerCmdDesc.fields, fieldFits f (fieldValue f v) = true := by
  intro f hf
  simp only [ethPeerCmdDesc, List.mem_cons, List.not_mem_nil, or_false] at hf
  rcases hf with rfl | rfl | rfl
  · exact decide_eq_true ⟨h1, Nat.le_of_lt_succ h2⟩
  · rfl
  · rfl

/-- The queue pair of a REQ that the module sends: CONNECTING, towards the peer that the command names. -/
def askingQp (v : Nat) (ip : List Word) : Qp := { Qp.init with st := 1, ip := ip, device := bits v 31 16, port := bits v 13 12 }

/-- A PEER slot that is free goes to CONNECTING and its REQ leaves. -/
theorem State.peerConnect_free {s : State} {v k : Nat} {ip : List Word} (hk : k = bits v 8 0) (h1 : 262 ≤ k) (h2 : k < 326)
    (hst : (s.qp k).st = 0) (hip : ip = (List.range 4).map fun n => BitVec.ofNat 32 (s.reg (Reg.ethPeerIp + 4 * n))) :
    s.peerConnect v = ((s.modQp k fun _ => askingQp v ip).showQp k).send (.cmReq k (bits v 13 12) (bits v 31 16) ip) := by
  subst hk hip
  exact if_pos ⟨h1, h2, hst⟩

/-- ETH_PEER_IP is no part of ETH_PEER_CMD. -/
theorem State.peerIp_setReg_peerCmd (s : State) (w : Nat) :
    ((List.range 4).map fun n => BitVec.ofNat 32 ((s.setReg Reg.ethPeerCmd 0 w).reg (Reg.ethPeerIp + 4 * n))) =
      (List.range 4).map fun n => BitVec.ofNat 32 (s.reg (Reg.ethPeerIp + 4 * n)) := by
  refine List.map_congr_left fun n hn => ?_
  rw [List.mem_range] at hn
  rw [State.reg_setReg_addr _ _ (by decide) (by unfold Reg.ethPeerIp; omega) (by unfold Reg.ethPeerIp Reg.ethPeerCmd; omega)]

/-- A write of ETH_PEER_CMD that names a PEER slot stores its fields and asks the peer. -/
theorem State.writeWord_ethPeerCmd {s : State} {c v : Nat} (h : CanWrite s c Reg.ethPeerCmd 0) (h1 : 262 ≤ bits v 8 0)
    (h2 : bits v 8 0 < 326) : ∃ w, s.writeWord c Reg.ethPeerCmd v = ((s.setReg Reg.ethPeerCmd 0 w).peerConnect v).record c Reg.ethPeerCmd 0 := by
  have hok : s.fieldOutcome ethPeerCmdDesc Reg.ethPeerCmd 0 v = 0 :=
    State.fieldOutcome_ok (by decide) (by decide) h.quiet (ethPeerCmd_fits h1 h2) rfl
  refine ⟨writtenWord ethPeerCmdDesc (s.reg Reg.ethPeerCmd) v,
    (State.writeWord_accepted h.toCanReach (by decide) regDesc_ethPeerCmd (by decide) hok).trans ?_⟩
  simp only [State.accept, h.quiet]
  rfl

/-- `Sent` speaks of what leaves alone. -/
theorem Sent.of_eq {s s' u : State} {ms : List OutMsg} (h : Sent s u ms) (ho : s'.out = u.out) (hn : s'.net = u.net) : Sent s s' ms :=
  ⟨ho.trans h.1, hn.trans h.2⟩

/-- What PEER_CONNECT of a free PEER slot leaves. -/
theorem peerConnect_leaves {s : State} {c : BitVec 3} {v : Word} {k : Nat} {ip : List Word} (h : CanWrite s c.toNat Reg.ethPeerCmd 0)
    (hk : k = bits v.toNat 8 0) (h1 : 262 ≤ k) (h2 : k < 326) (hst : (s.qp k).st = 0)
    (hip : ip = (List.range 4).map fun n => BitVec.ofNat 32 (s.reg (Reg.ethPeerIp + 4 * n))) : Runs s (.peerConnect c v) fun s' =>
      Ends s' c.toNat 0 ∧ (s'.qp k).st = 1 ∧ (s'.qp k).device = bits v.toNat 31 16 ∧ (s'.qp k).ip = ip ∧
      Sent s s' [.cmReq k (bits v.toNat 13 12) (bits v.toNat 31 16) ip] := by
  refine ⟨_, rfl, ?_⟩
  obtain ⟨w, hw⟩ := State.writeWord_ethPeerCmd (v := v.toNat) h (hk ▸ h1) (hk ▸ h2)
  rw [State.coreWrite_window _ h.live (by decide), hw,
    State.peerConnect_free (s := s.setReg Reg.ethPeerCmd 0 w) hk h1 h2 hst (hip.trans (s.peerIp_setReg_peerCmd w).symm)]
  generalize hu : ((s.setReg Reg.ethPeerCmd 0 w).modQp k fun _ => askingQp v.toNat ip).showQp k = u
  have hqp : ∀ m, (u.send m).qp k = askingQp v.toNat ip := fun m => by
    rw [State.qp_send, ← hu, State.qp_showQp, State.qp_modQp_self]
  have hsent : Sent s (u.send (.cmReq k (bits v.toNat 13 12) (bits v.toNat 31 16) ip))
      [.cmReq k (bits v.toNat 13 12) (bits v.toNat 31 16) ip] := sent_send (by rw [← hu]; rfl) (by rw [← hu]; rfl) rfl
  exact ⟨State.record_ends _ _ _ (by decide), congrArg Qp.st (hqp _), congrArg Qp.device (hqp _), congrArg Qp.ip (hqp _),
    hsent.of_eq rfl rfl⟩

/-! ## The peer's answer and the end of a queue pair (R17, R457, R461, R464) -/

theorem State.pumpEgress_of_none_waiting {s : State} (h : s.net.waiting = []) : s.pumpEgress = s := by
  simp [State.pumpEgress, h, State.pumpMsgs]

section
variable {s : State} {slot : BitVec 9} (hk : slot.toNat < 326)
include hk

theorem exec_cmRep_unasked (hst : (s.qp slot.toNat).st ≠ 1) (a : Bool) (r : BitVec 24) : exec (.cmRep slot a r) s = .next s :=
  (if_pos (decide_eq_true hk)).trans (congrArg Host.Outcome.next (if_pos hst))
theorem exec_cmRep_refused (hst : (s.qp slot.toNat).st = 1) (r : BitVec 24) :
    exec (.cmRep slot false r) s = .next (s.freeQp slot.toNat) :=
  (if_pos (decide_eq_true hk)).trans (congrArg Host.Outcome.next (if_neg fun h => h hst))
/-- The peer accepts: the slot is connected, and messages that wait for it may go. -/
theorem exec_cmRep_accepted (hst : (s.qp slot.toNat).st = 1) (r : BitVec 24) : exec (.cmRep slot true r) s =
    .next (((s.fresh.2.modQp slot.toNat fun q =>
      { q with st := 2, rqpn := r.toNat, lqpn := (Config.freeWord s.fresh.1).toNat % 2 ^ 24 }).showQp slot.toNat).pumpEgress) :=
  (if_pos (decide_eq_true hk)).trans (congrArg Host.Outcome.next (if_neg fun h => h hst))

/-- A row of a queue pair that is in use. -/
theorem qpRow_used (f : State → Nat → State) (hst : (s.qp slot.toNat).st ≠ 0) : qpRow slot f s = .next (f s slot.toNat) :=
  (if_pos (decide_eq_true hk)).trans (congrArg Host.Outcome.next (if_neg hst))
theorem exec_qpTeardown_used (hst : (s.qp slot.toNat).st ≠ 0) : exec (.qpTeardown slot) s = .next (s.freeQp slot.toNat) :=
  qpRow_used hk (fun s k => s.freeQp k) hst
theorem exec_localAckTimeout_used (hst : (s.qp slot.toNat).st ≠ 0) : exec (.localAckTimeout slot) s =
    .next ((s.bump Reg.ethQpRetryCnt slot.toNat (s.fld Reg.ethRcCfg 0 7 5)).qpError slot.toNat) :=
  qpRow_used hk (fun s k => (s.bump Reg.ethQpRetryCnt k (s.fld Reg.ethRcCfg 0 7 5)).qpError k) hst
theorem exec_invalidRequest_used (hst : (s.qp slot.toNat).st ≠ 0) : exec (.invalidRequest slot) s =
    .next ((s.send (.nak slot.toNat)).qpError slot.toNat) :=
  qpRow_used hk (fun s k => (s.send (.nak k)).qpError k) hst

end

/-- The retries of a queue pair are exhausted: they are counted, and it enters ERROR. -/
theorem retries_exhausted {s : State} {k : Nat} (n : Nat) (h : (s.qp k).st ≠ 0) : QpFreed s k ((s.bump Reg.ethQpRetryCnt k n).qpError k) ∧
    ((s.bump Reg.ethQpRetryCnt k n).qpError k).reg Reg.ethQpRetryCnt k = (s.reg Reg.ethQpRetryCnt k + n) % 2 ^ 32 ∧
    Raised s ((s.bump Reg.ethQpRetryCnt k n).qpError k) 0x8012 (le2 (0x2000 + k) ++ le2 k ++ le1 (slotService k)) := by
  obtain ⟨hfreed, hraised⟩ := qpError_frees (u := s.bump Reg.ethQpRetryCnt k n) h rfl rfl rfl
  refine ⟨hfreed, ?_, hraised⟩
  rw [State.reg_qpError_retryCnt (s.bump Reg.ethQpRetryCnt k n) h, State.bump, State.reg_setReg_self]

/-- An invalid request is answered with a NAK, and its queue pair enters ERROR. -/
theorem invalid_request_ends {s : State} {k : Nat} (h : (s.qp k).st ≠ 0) : QpFreed s k ((s.send (.nak k)).qpError k) ∧
    Sent s ((s.send (.nak k)).qpError k) [.nak k] ∧
    Raised s ((s.send (.nak k)).qpError k) 0x8012 (le2 (0x2000 + k) ++ le2 k ++ le1 (slotService k)) := by
  obtain ⟨hfreed, hraised⟩ := qpError_frees h (s.send_qps (.nak k)) (s.send_ctxs _) (s.send_events _)
  have hst : ((s.send (.nak k)).qp k).st ≠ 0 := by rwa [State.qp_send]
  exact ⟨hfreed, (sent_send rfl rfl rfl).of_eq (State.qpError_out _ hst) (State.qpError_net _ hst), hraised⟩

/-- Settles O45: each command by the law of its answer, a queue pair's end by `qpFreed_freeQp`. -/
theorem connectionsAndQueuePairs : Obligations.ConnectionsAndQueuePairs := by
  unfold Obligations.ConnectionsAndQueuePairs
  refine ⟨?_, ?_, ?_⟩
  · rintro s port id src mtu rqpn svc rfl
    refine ⟨fun h => ⟨s, exec_cmReq_silent h, rfl⟩, fun ha hp => ⟨fun k hs hf hb hk hl hm => ?_, fun r hr h0 => ?_⟩⟩
    · have hfall : ¬(serviceOf id ≠ 1 ∧ s.inFallback = true) := by
        rintro ⟨h1, h2⟩
        rcases hf with h | h
        · exact h1 h
        · simp [h] at h2
      have hblank : ¬(serviceOf id = 2 ∧ s.fld Reg.cfgLc 0 2 0 = 0) := fun h => hb h.1 h.2
      have h0 : s.refusal (serviceOf id) src mtu = 0 := by
        rw [State.refusal_eq, if_neg (not_or.mpr ⟨hs, not_or.mpr ⟨hfall, hblank⟩⟩), hk, hl, hm]
        rfl
      refine ⟨_, exec_cmReq_accepted ha hp h0 hk, ?_⟩
      obtain ⟨hst, hr, hip, hport, hlqpn, hother, hfld, hctx⟩ := s.openQp_opens k port.toNat rqpn.toNat src
      simp only [State.qp_send, State.ctx_send, State.fld_send]
      exact ⟨hst, hr, hip, hport, hlqpn, hother, hfld, hctx, sent_send (State.openQp_out _ _ _ _ _) (State.openQp_net _ _ _ _ _) rfl⟩
    · exact ⟨_, exec_cmReq_refused ha hp ((s.refusal_eq _ _ _).trans hr.symm) h0, s.refuseReq_leaves _ _⟩
  · exact fun s c v k ip h hk h1 h2 hst _ hip => peerConnect_leaves h hk h1 h2 hst hip
  · rintro s slot k rfl hk
    refine ⟨fun hst => ⟨fun r hw => ?_, fun r => ?_⟩, fun hst a r => ⟨s, exec_cmRep_unasked hk hst a r, rfl⟩, ?_⟩
    · refine ⟨_, exec_cmRep_accepted hk hst r, ?_⟩
      have hwait : ∀ f, ((s.fresh.2.modQp slot.toNat f).showQp slot.toNat).net.waiting = [] := fun _ => hw
      rw [State.pumpEgress_of_none_waiting (hwait _)]
      have hself : ∀ f, ((s.fresh.2.modQp slot.toNat f).showQp slot.toNat).qp slot.toNat = f (s.qp slot.toNat) := fun f => by
        rw [State.qp_showQp, State.qp_modQp_self]
        rfl
      have hother : ∀ f q, q ≠ slot.toNat → ((s.fresh.2.modQp slot.toNat f).showQp slot.toNat).qp q = s.qp q := fun f q hq => by
        rw [State.qp_showQp, State.qp_modQp_ne _ _ hq]
        rfl
      exact ⟨by rw [hself], by rw [hself], by rw [hself], hother _⟩
    · obtain ⟨hself, hother, -⟩ := qpFreed_freeQp (s := s) (u := s) slot.toNat rfl rfl
      exact ⟨_, exec_cmRep_refused hk hst r, by rw [hself]; rfl, hother⟩
    · rintro hst Freed rfl
      exact ⟨⟨_, exec_qpTeardown_used hk hst, qpFreed_freeQp _ rfl rfl, State.freeQp_events _ _⟩,
        ⟨_, exec_localAckTimeout_used hk hst, retries_exhausted _ hst⟩, ⟨_, exec_invalidRequest_used hk hst, invalid_request_ends hst⟩⟩

end Sys2Proof.Machine
end
